-- ==== Sys2Proof/Word.lean ====
section
/-! DEFINITION. The word types of the block and their plainest arithmetic. -/

namespace Sys2Proof

/-- One byte. -/
abbrev Byte := BitVec 8

/-- One register of the window (R449): 32 bits. -/
abbrev Word := BitVec 32

/-- A 64-bit value: a virtual instruction word (R197), a stamp, a pair of registers (R454). -/
abbrev DWord := BitVec 64

/-- The field `[hi:lo]` of a word, as a number. -/
def fieldOf {w : Nat} (v : BitVec w) (hi lo : Nat) : Nat :=
  (v.toNat >>> lo) % 2 ^ (hi + 1 - lo)

/-- One bit of a word. -/
def bitOf {w : Nat} (v : BitVec w) (i : Nat) : Bool := v.getLsbD i

/-- `v` with its field `[hi:lo]` replaced by the low bits of `x`. -/
def setField {w : Nat} (v : BitVec w) (hi lo x : Nat) : BitVec w :=
  let m : BitVec w := BitVec.ofNat w ((2 ^ (hi + 1 - lo) - 1) <<< lo)
  (v &&& ~~~m) ||| (BitVec.ofNat w (x <<< lo) &&& m)

/-- `v` with bit `i` set to `b`. -/
def setBit {w : Nat} (v : BitVec w) (i : Nat) (b : Bool) : BitVec w :=
  setField v i i b.toNat

/-- A word from a number, modulo `2^32`. -/
def word (n : Nat) : Word := BitVec.ofNat 32 n

/-- The two's complement reading of the low `w` bits of a number. -/
def signed (w n : Nat) : Int := (BitVec.ofNat w n).toInt

/-- The low word of a 64-bit number. -/
def loWord (n : Nat) : Word := BitVec.ofNat 32 n

/-- The high word of a 64-bit number. -/
def hiWord (n : Nat) : Word := BitVec.ofNat 32 (n / 2 ^ 32)

/-- A counter that saturates at `2^32 - 1` (R486). -/
def satAdd (v : Word) (n : Nat) : Word := word (min (v.toNat + n) (2 ^ 32 - 1))

end Sys2Proof
end

