-- ==== Sys2Proof/Syntax.lean ====
section
/-! DEFINITION. The commands of the block: one constructor per row of the table of operations and events, with
the operands a row needs. An operand that is not a register value tells what the row's occasion brings from outside
the block (what a checker finds, what a response carries, what a gauge shows). -/

namespace Sys2Proof

/-- The three register parties (R449, R454). -/
inductive Party where
  | host | crew | pilot
  deriving DecidableEq, Repr

/-- What the block's own checkers find while a step runs (R45, R46, R122, R229).
A row or beat number counts from 0 within the instruction. -/
inductive Upset where
  /-- every check passes -/
  | none
  /-- residue mismatch at a row (MXE, with the DETAIL of R80) or a beat (VXE) -/
  | residue (at_ : Nat) (detail : Fin 3)
  /-- mismatch of the MXE's spill side path (DETAIL 0) or correction (DETAIL 1) at a row -/
  | side (at_ : Nat) (detail : Fin 2)
  /-- lane parity mismatch at a beat of the VXE -/
  | parity (at_ : Nat)
  /-- a double-bit error in the berth word read at this address (0 WB, 1 AB, 2 PB) -/
  | berthUe (berth addr : Nat)
  /-- a single-bit error in the berth word read at this address -/
  | berthCe (berth addr : Nat)
  /-- a double-bit error in this chart-memory word -/
  | chartUe (word : Nat)
  /-- a single-bit error in this chart-memory word -/
  | chartCe (word : Nat)
  deriving DecidableEq, Repr

/-- A core at a step, with what its checkers find in the words that the step reads. -/
structure AtCore where
  core : Nat
  up : Upset
  deriving DecidableEq, Repr

/-- A context's barrier unit or a queue's Dispatcher at a step: `ue` is an error of its own hardware that the step finds
(R359). -/
structure AtUnit where
  index : Nat
  ue : Bool
  deriving DecidableEq, Repr

/-- What a SEC-DED check finds in one word. -/
inductive Ecc where
  | clean | single | double
  deriving DecidableEq, Repr

/-- What the Basin's checks find on an access or a scrub (R134). -/
inductive BasinEcc where
  | clean | single | dataDouble
  /-- a double-bit error in the tag or state entry of this way of the set looked up -/
  | tagDouble (way : Nat)
  deriving DecidableEq, Repr

/-- The response a memory quay gives (R432). -/
inductive QuayResp where
  | okay | slverr | decerr | poison
  deriving DecidableEq, Repr

/-- The logical host-quay manager requests of R427, with the Pilot's ledger record in flight; `crew` is a request of a Crew
core for this physical address of device memory, which the block switch judges and no rule times (R335). -/
inductive HqReq where
  | ring (q : Nat) | record (q : Nat) | pilotImage | bootParams | crewImage | wharfImage (r : Nat) | ledger | crew (pa : Nat)
  deriving DecidableEq, Repr

/-- The part of the Channel a flit arrives at, in the order of PART (R257). -/
inductive ChPart where
  | router | borderLock | memoryPort | regionSwitch | blockSwitchLock
  deriving DecidableEq, Repr

/-- The synthesizers of R380. -/
inductive Synth where
  | region (r : Nat) | tide | control
  deriving DecidableEq, Repr

/-- A word with a double-bit error met in zeroing (R343): of a berth, or of chart memory. -/
inductive ZeroBad where
  | berth (berth addr : Nat) | chart (word : Nat)
  deriving DecidableEq, Repr

/-- What a bring-up meets outside the control of the Pilot (R342, R343): one bit or entry per part. -/
structure BringUpFindings where
  /-- the tide counter passes its own check -/
  tideOk : Bool
  /-- bit r: region r's synthesizer locks and its island reports power -/
  regionOk : BitVec 16
  /-- bit r: region r's gauges pass their self-test -/
  gaugeOk : BitVec 16
  /-- bit r: region r shows MARGIN at or above MARGIN_TARGET at Spring T3 and VREQ_MAX (R390) -/
  marginOk : BitVec 16
  /-- bit r: VREQ_ACK of region r is returned within 1 ms -/
  ackOk : BitVec 16
  /-- the host-bus read of the Crew primary image fails; the same for the golden image -/
  crewReadErr : Bool
  goldenReadErr : Bool
  /-- cores whose Wharf frames fail their readback -/
  wharfBad : List Nat
  /-- cores with a double-bit error met in zeroing -/
  coreBad : List (Nat × ZeroBad)
  /-- Basin ways that fail in zeroing, as region and way; true for a tag failure -/
  wayBad : List (Nat × Nat × Bool)
  /-- the stream pushed over the slipway for the Wharf step, when WHARF_SLIP is set -/
  slipStream : List Byte
  deriving DecidableEq, Repr

/-- What one instrument of the 1687 network reads (R484). -/
inductive Instrument where
  | berth (core berth word : Nat) | chart (core word : Nat) | basin (region set way word : Nat)
  | register (offset : Nat)
  deriving DecidableEq, Repr

/-- The port of a test access with the instruction in its register: the IEEE 1500 wrapper or the IEEE 1149.1 TAP (R487,
R488). -/
inductive TestPort where
  | wrapper (wir : BitVec 8) | tap (ir : BitVec 4)
  deriving DecidableEq, Repr

/-- A test access: the port, the 80 bits shifted in, and the instrument that the network is to reach (R484). -/
structure TestAccess where
  port : TestPort
  shift : BitVec 80
  what : Instrument
  deriving DecidableEq, Repr

/-- One constructor per row of spec/opcode_table.json, in the table's order. -/
inductive Instr where
  -- sequencer entries (R201 to R204)
  | sqLd (core : AtCore)
  | sqInc (core : AtCore)
  | sqDec (core : AtCore)
  | sqAddi (core : AtCore)
  | sqCmp (core : AtCore)
  | sqSkip (core : AtCore)
  | sqLoop (core : AtCore)
  -- matrix engine (R64 to R81)
  | mxMm (core : Nat) (up : Upset)
  | mxMmMasked (core : Nat) (up : Upset)
  | mxSetdim (core : Nat) (up : Upset)
  | mxRetire (core : Nat)
  | mxInject (party : Party) (core : Nat) (value : Word)
  | capInject (party : Party) (value : Word)
  -- vector engine (R84 to R110)
  | vxAdd (core : Nat) (up : Upset)
  | vxMul (core : Nat) (up : Upset)
  | vxFma (core : Nat) (up : Upset)
  | vxMin (core : Nat) (up : Upset)
  | vxMax (core : Nat) (up : Upset)
  | vxCmp (core : Nat) (up : Upset)
  | vxSel (core : Nat) (up : Upset)
  | vxCvt (core : Nat) (up : Upset)
  | vxQuant (core : Nat) (up : Upset)
  | vxRed (core : Nat) (up : Upset)
  | vxCompress (core : Nat) (up : Upset)
  | vxExpand (core : Nat) (up : Upset)
  | vxMset (core : Nat) (up : Upset)
  | vxMlogic (core : Nat) (up : Upset)
  | vxWharf (core : Nat) (up : Upset)
  | vxSent (core : Nat) (up : Upset)
  | vxRetire (core : Nat)
  | wharfResultGroup (core : Nat) (valid : Bool) (words : List Word) (parityOk : Bool)
  -- streams (R137 to R160)
  | ldStream (core : Nat) (up : Upset)
  | ldGather (core : Nat) (up : Upset)
  | stStream (core : Nat) (up : Upset)
  | stScatter (core : Nat) (up : Upset)
  | stHalo (core : Nat) (up : Upset)
  | stPost (core : Nat) (up : Upset)
  | streamSlotFree (core : Nat) (store : Bool) (up : Upset)
  | chunkWaitMet (core : Nat) (store : Bool) (slot : Nat)
  | lineRequest (core : Nat) (store : Bool) (slot : Nat) (up : Upset)
  | indexWordRead (core : AtCore) (store : Bool) (slot : Nat)
  | lineDeposit (core : AtCore)
  | chunkComplete (core : Nat) (store : Bool) (slot : Nat)
  | haloDelivery (core : AtCore) (src : Nat)
  | postWriteArrival (core : AtCore) (src : Nat)
  -- sync, bollards, fences (R211, R230 to R249)
  | syWait (core : AtCore)
  | syAdd (core : AtCore)
  | sySub (core : AtCore)
  | sySignal (core : AtCore)
  | syFence (core : AtCore)
  | syArrive (core : AtCore)
  | retirementBoundOp (core : Nat)
  | signalArrival (core : Nat) (src : Nat) (neighbour : Bool)
  | fenceProbe (core : Nat) (src : Nat)
  | fenceComplete (core : Nat)
  | barrierRelease (ctx : AtUnit)
  | blockBollardUpdate
  | bolWrite (party : Party) (core b : Nat) (value : Word)
  | bbolValue (party : Party) (ctx : Nat) (value : Word)
  | bbolAdd (party : Party) (ctx : Nat) (value : Word)
  | bbolSub (party : Party) (ctx : Nat) (value : Word)
  | brkArm (party : Party) (core : Nat) (value : Word)
  -- chart memory, berths, Basin (R116 to R136, R227 to R229, R472)
  | chartDataHi (party : Party) (core : Nat) (value : Word)
  | chartDataLoRead (party : Party) (core : AtCore)
  | chartScrub (core word : Nat) (found : Ecc)
  | berthScrub (core berth addr : Nat) (found : Ecc)
  | segmentReady (core : Nat)
  | segmentPowerDown (core : Nat)
  | bankModeWrite (party : Party) (core : Nat) (value : Word)
  | basinRequest (region : Nat) (found : BasinEcc)
  | basinFillComplete (region : Nat)
  | basinScrub (region set way : Nat) (found : BasinEcc)
  | wayUseChange (region : Nat)
  | brangePin (party : Party) (region : Nat)
  | brangeUnpin (party : Party) (region : Nat)
  | brangeEvict (party : Party) (region : Nat)
  | rangeDone (region : Nat)
  -- Channel (R253 to R261)
  | flitArrival (region : Nat) (part : ChPart) (vc gr gc src : Nat) (dataFlit : Bool) (found : Ecc)
  | quayShareFrame (quay : Nat) (scDemand : List (Nat × Nat)) (bkDemand : Nat)
  -- tide and commit (R162, R190 to R195, R285, R383)
  | tideStep (region : Nat) (sample : Nat) (parityOk : Bool)
  | commitArm (party : Party) (page : Nat)
  | commitCancel (party : Party) (page : Nat)
  | commitApply (stamp : Nat)
  | planeSwitch (core : Nat)
  | frequencyRise (region : Nat)
  -- tide hold and resume (R156, R157, R173, R174)
  | holdReq (party : Party) (ctx : Nat)
  | holdArrival (core : Nat)
  | resumeTide (party : Party) (ctx : Nat) (hi : Word)
  | resume (ctx : Nat)
  | tlbInval (party : Party) (ctx : Nat)
  -- contexts (R301, R327, R371)
  | openCtx (party : Party) (ctx : Nat)
  | start (party : Party) (ctx : Nat)
  | destroy (party : Party) (ctx : Nat)
  | teardownComplete (ctx : Nat)
  | ctxReplay (party : Party) (ctx : Nat)
  -- queues and items (R305 to R312)
  | bind (party : Party) (q : Nat)
  | unbind (party : Party) (q : Nat)
  | reset (party : Party) (q : Nat)
  | flush (party : Party) (q : Nat)
  | doorbell (party : Party) (q : Nat) (value : Word)
  | itemFetch (q : AtUnit)
  | itemComplete (q : Nat)
  -- commands of items (R313); each names the queue whose next command it is
  | cmdEnd (q : Nat)
  | cmdLaunch (q : Nat)
  | cmdCopy (q : Nat)
  | cmdFill (q : Nat)
  | copyComplete (q : Nat)
  | cmdSignal (q : Nat)
  | cmdWait (q : Nat)
  | cmdIf (q : Nat)
  | cmdLoop (q : Nat)
  | condPoll (q : Nat)
  | cmdCall (q : Nat)
  | cmdFence (q : Nat)
  | cmdTimestamp (q : Nat)
  | cmdEnqueue (q : Nat)
  | enqueueDeposit (q : Nat)
  | cmdRegister (q : Nat)
  | cmdRelease (q : Nat)
  -- launches (R315, R319, R322)
  | crewLead (ctx : Nat)
  | legBase (ctx : Nat)
  | legEnd (ctx : Nat)
  | queueTimeout (q : Nat)
  -- memory quays and host quay (R427 to R434, R448)
  | quayResponse (quay id : Nat) (resp : QuayResp) (latency : Nat)
  | quayLate (quay id latency : Nat)
  | quayLatMaxRead (party : Party) (quay : Nat)
  | hqReadResponse (req : HqReq) (latency : Nat) (err : Bool)
  | hqAresetN
  -- reset and boot (R338 to R346, R439)
  | resetAssert
  | resetRelease (slipMode : BitVec 2) (selfTestOk : Bool)
  | go (party : Party)
  | slipTransfer (bytes : List Byte) (overrun : Bool)
  | pilotImageComplete (readErr : Bool)
  | bootParamAddrHi (party : Party) (value : Word)
  | bringUp (env : BringUpFindings)
  | ledgerRecord
  | crewTrap
  | crewHang
  -- live updates (R349 to R353)
  | stage (party : Party) (value : Word)
  | updateChecked (readErr : Bool)
  | activate (party : Party) (value : Word)
  | updateActivation (accepted : Bool)
  | confirm (party : Party) (value : Word)
  | revert (party : Party) (value : Word)
  | abort (party : Party) (value : Word)
  | updWindowExpiry
  -- Wharf loads (R290 to R296)
  | wloadGo (party : Party) (region : Nat) (value : Word)
  | wharfRecord (region : Nat) (readbackBad : List Nat)
  | wloadDone (region : Nat)
  -- pairing and recovery (R361 to R369)
  | coreFaultDetach (ctx : Nat)
  | pairGateMatch (ctx : Nat) (mindex path : Nat)
  | rebuild (ctx : Nat)
  | configMirrorCheck (region : Nat) (upset : Option (Nat × Word))
  -- the Pilot's heartbeat (R373)
  | pilotHeartbeat
  | pilotLost
  -- clocks, voltage, gauges (R380 to R390, R443)
  | synthLockLoss (which : Synth)
  | vreqAck (region : Nat)
  | vreqTimeout (region : Nat)
  | gaugeReading (region : Nat) (margins : List (BitVec 16)) (hits : Nat)
  -- convoys (R399 to R420)
  | muster (party : Party) (rate : Int)
  | musterDecide
  | tideForwardStep
  | leave (party : Party)
  | hersilFlitRx (port : Nat) (flit : List Byte)
  | nak (port : Nat) (expected : BitVec 16)
  | replayTimeout (port : Nat)
  | jettyRetry (port : Nat)
  | keepalive (port : Nat)
  | jettyDark (port : Nat)
  | restart (party : Party) (port : Nat) (value : Word)
  | detourFenceEnd (member : Nat)
  | bollardWindowAdd
  | tideSync
  | tideSkew (lagTenths : Int)
  -- capture and test (R479 to R489)
  | captureArm (party : Party) (value : Word)
  | captureCancel (party : Party) (value : Word)
  | captureFreeze
  | captureRelease (party : Party) (value : Word)
  | captureReleased
  | instrumentAccess (what : TestAccess)
  | testEnRise
  -- the register window (R358, R454, R456, R475)
  | flogRead (party : Party) (value : Word)
  | flogE0Read (party : Party)
  | loRead (party : Party) (offset : Nat)
  | hiWrite (party : Party) (offset : Nat) (value : Word)
  | winData (party : Party) (core : AtCore) (write : Option Word)
  | registerWrite (party : Party) (offset : Nat) (value : Word)
  -- rows added at the table's end
  | lossOfPower
  | vreqAckFall (region : Nat)
  | linkUp (port : Nat)
  | idleForAck (port : Nat)
  | restartExpiry (port : Nat)
  | lowerVreq (region : Nat)
  | lifelineToggle
  | pilotTrap
  | pilotSramUe
  deriving DecidableEq, Repr

end Sys2Proof
end

