-- ==== Sys2Proof/Decode.lean ====
section
/-! DEFINITION. The words of the table. No row of the table of operations and events gives bits: a command reaches the
block as an event or an access from outside, never as a word that the block decodes. The encodings that the manual does
give (bundle words and descriptors) are data of State, read by the engines. -/

namespace Sys2Proof

/-- The command that a word of the table spells: none, since no row has bits. -/
def decodeTableWord (_nbits _w : Nat) : Option Instr := none

end Sys2Proof
end

