-- ==== Sys2Proof/Config.lean ====
section
/-! DEFINITION. What one build and one piece of silicon fix: the build parameters (R4, R5), and the values the manual
leaves open, which are constants without a body. -/

namespace Sys2Proof

/-- The independent build parameters of R4. -/
structure Build where
  gridRows : Nat
  gridCols : Nat
  regionRows : Nat
  regionCols : Nat
  spares : Nat
  wbKib : Nat
  abKib : Nat
  pbKib : Nat
  wharfCells : Nat
  basinMib : Nat
  quays : Nat
  jetties : Nat
  deriving DecidableEq, Repr

namespace Build

/-- The reference build JX-1024 (R4). -/
def jx1024 : Build :=
  { gridRows := 4, gridCols := 4, regionRows := 8, regionCols := 8, spares := 2, wbKib := 384, abKib := 192,
    pbKib := 128, wharfCells := 2048, basinMib := 4, quays := 16, jetties := 12 }

/-- Every parameter takes one of its legal values (R4). -/
def legal (b : Build) : Bool :=
  decide (1 ≤ b.gridRows ∧ b.gridRows ≤ 4 ∧ 1 ≤ b.gridCols ∧ b.gridCols ≤ 4
    ∧ 4 ≤ b.regionRows ∧ b.regionRows ≤ 8 ∧ 4 ≤ b.regionCols ∧ b.regionCols ≤ 8 ∧ b.spares ≤ 4
    ∧ 128 ≤ b.wbKib ∧ b.wbKib ≤ 512 ∧ b.wbKib % 64 = 0
    ∧ 64 ≤ b.abKib ∧ b.abKib ≤ 256 ∧ b.abKib % 32 = 0
    ∧ 64 ≤ b.pbKib ∧ b.pbKib ≤ 256 ∧ b.pbKib % 32 = 0
    ∧ 512 ≤ b.wharfCells ∧ b.wharfCells ≤ 8192 ∧ b.wharfCells % 512 = 0
    ∧ b.jetties ≤ 16)
  && [1, 2, 4, 8].contains b.basinMib && [4, 8, 12, 16].contains b.quays

/-- REGIONS (R4). -/
def regions (b : Build) : Nat := b.gridRows * b.gridCols
/-- A, the active cores of a region (R5). -/
def active (b : Build) : Nat := b.regionRows * b.regionCols
/-- S, the core index stride (R5). -/
def stride (b : Build) : Nat := b.active + b.spares
/-- The physical cores of the block (R5). -/
def physCores (b : Build) : Nat := b.regions * b.stride
/-- The region of physical core k (R8). -/
def regionOf (b : Build) (k : Nat) : Nat := k / b.stride
/-- The local index of physical core k (R8). -/
def localOf (b : Build) (k : Nat) : Nat := k % b.stride
/-- Core k sits at a spare position (R8). -/
def isSpare (b : Build) (k : Nat) : Bool := b.active ≤ b.localOf k
/-- The bytes of berth 0 WB, 1 AB, 2 PB (R111); a berth number above 2 names none. -/
def berthBytes (b : Build) (berth : Nat) : Nat :=
  match berth with
  | 0 => b.wbKib * 1024
  | 1 => b.abKib * 1024
  | 2 => b.pbKib * 1024
  | _ => 0
/-- The banks of a berth (R111). -/
def banks (berth : Nat) : Nat := if berth = 0 then 32 else 16
/-- Basin sets of a region (R123). -/
def basinSets (b : Build) : Nat := b.basinMib * 512
/-- Wharf bays of a slice (R271). -/
def bays (b : Build) : Nat := b.wharfCells / 16
/-- log2 of BASIN_MIB as BUILD_1 codes it (R464). -/
def basinLog2 (b : Build) : Nat := Nat.log2 b.basinMib
/-- BUILD_0 (R464). -/
def build0 (b : Build) : Word :=
  word (b.jetties <<< 27 ||| b.quays <<< 22 ||| b.spares <<< 19 ||| b.regionCols <<< 15 ||| b.regionRows <<< 11
    ||| (b.gridCols - 1) <<< 2 ||| (b.gridRows - 1))
/-- BUILD_1 (R464). -/
def build1 (b : Build) : Word :=
  word ((b.wharfCells / 512) <<< 17 ||| b.basinLog2 <<< 15 ||| (b.pbKib / 32) <<< 11 ||| (b.abKib / 32) <<< 7
    ||| (b.wbKib / 64) <<< 3)
/-- A core's global position, row then column (R251). -/
def globalPos (b : Build) (k : Nat) : Nat × Nat :=
  let r := b.regionOf k
  let l := b.localOf k
  let rc := if l < b.active then (l / b.regionCols, l % b.regionCols) else (b.regionRows - 1, l - b.active)
  ((r / b.gridCols) * b.regionRows + rc.1, (r % b.gridCols) * b.regionCols + rc.2)
/-- The active core at a global position, if the grid holds one (R251). -/
def coreAt (b : Build) (gr gc : Nat) : Option Nat :=
  if gr < b.gridRows * b.regionRows ∧ gc < b.gridCols * b.regionCols then
    some (((gr / b.regionRows) * b.gridCols + gc / b.regionCols) * b.stride
      + (gr % b.regionRows) * b.regionCols + gc % b.regionCols)
  else none

end Build

/-- What a chart-memory word holds for the engines: an entry of a section, 8 bytes of a table of a section, or something
else (R226). Sections count in the order in which the core's chart memory holds them. -/
inductive ChartPlace where
  | other
  /-- the entry of engine `engine` of a bundle -/
  | slot (sect bundle engine : Nat)
  /-- the 8 bytes at byte offset 8 * w of a table -/
  | table (sect w : Nat)
  deriving DecidableEq, Repr, Inhabited

/-- What one Channel packet between two blocks asks or answers (R397, R398), by the sender's request number. -/
inductive RemotePacket where
  | write (id off : Nat) (data : List (BitVec 8))
  | read (id off len : Nat)
  | done (id : Nat)
  | answer (id : Nat) (data : List (BitVec 8))
  | refusal (id : Nat)
  deriving DecidableEq, Repr, Inhabited

namespace Config

/-- FREE VALUE (log 6). The sign and payload bits of a NaN that an operation makes: R18 and R39 fix that the result
is a NaN and no more. A function of the operands' bits. -/
opaque nanPayload : BitVec 32 → BitVec 32 → BitVec 32 → BitVec 32

/-- FREE VALUE (log 7). The 8 check bits of a SEC-DED word (R111, R122): the code is not given. -/
opaque checkBits : BitVec 64 → BitVec 8

/-- FREE VALUE (log 8). What a byte reads as in the generation-th undefined filling of a scratch memory: a berth after
a change of BANK_MODE (R116), chart memory after a translation (R226). -/
opaque fillByte : Nat → Nat → BitVec 8

/-- FREE VALUE (log 5). What the words of a chart memory hold, by the number of its translation: the layout is native
and not documented (R3, R226). -/
opaque chartPlace : Nat → Nat → ChartPlace

/-- FREE VALUE (log 5). The slot word or table bytes that a native word stands for (R3, R226). -/
opaque nativeWord : BitVec 64 → BitVec 64

/-- FREE VALUE (log 9). LEDGER_SECRET, fixed in the boot ROM and readable by nothing else (R344). -/
opaque ledgerSecret : BitVec 384

/-- FREE VALUE (log 19). The E8M0 code, before it is taken modulo 255, of an MX32 group whose elements are all zero:
R31 and R33 state no exponent for it. By format code. -/
opaque mxZeroExponent : Nat → Nat

/-- FREE VALUE (log 20). How the address and data of a write are laid out for STATE_DIGEST: R362 fixes the CRC and what
enters it, and not the bytes. -/
opaque digestBytes : Nat → List (BitVec 8) → List (BitVec 8)

/-- FREE VALUE (log 21). The slots of a packet, payload and routing header, and the packet that one or two slots carry;
none while the second is awaited. R253 and R400 do not lay out a Channel packet. -/
opaque slotsOf : RemotePacket → List (List (BitVec 8) × BitVec 24)
opaque packetOf : List (List (BitVec 8) × BitVec 24) → Option RemotePacket

/-- FREE VALUE (log 22). The tier cap that the body of a TIDE_SYNC carries, 0 for none: R415 sends it and R410 gives it no
place. -/
opaque syncCap : List (BitVec 8) → Nat

/-- FREE VALUE (log 22). The bytes by which a TIDE_SYNC body carries a tier cap. -/
opaque capBytes : Nat → List (BitVec 8)

/-- FREE VALUE (log 23). The link delay of R410 that a member has measured by a time, in 0.1 ns. -/
opaque linkDelay : Nat → Nat

/-- FREE VALUE (log 69). What the routing of a Wharf slice brings to the six inputs of a cell, to the CE and SR inputs of a
bay, and what a cell has where its control word selects an output that its mode does not form: the meaning of the switch box
is not part of the manual (R276). By instant, core, and cell or bay. -/
opaque wharfInputs : Nat → Nat → Nat → BitVec 6
opaque wharfBay : Nat → Nat → Nat → BitVec 2
opaque wharfOpen : Nat → Nat → Nat → BitVec 4

/-- FREE VALUE (log 17). The n-th value that the manual leaves open and that no operand determines. -/
opaque freeWord : Nat → BitVec 32

end Config

end Sys2Proof
end

