-- ==== Sys2Proof/Machine/Sparse.lean ====
section
/-! DEFINITION. The two containers of the state: a table of parts by index, and a byte memory in one canonical form
(addresses strictly rising, no entry equal to what an unlisted address reads as). -/

namespace Sys2Proof.Machine

/-- A table of parts by index. -/
abbrev Tab (α : Type) := List (Nat × α)

/-- The part at index `k`, or `d` when the table lists none. -/
def Tab.get {α : Type} (d : α) : Tab α → Nat → α
  | [], _ => d
  | (j, v) :: t, k => if j = k then v else Tab.get d t k

/-- The table with `v` at index `k`. -/
def Tab.put {α : Type} : Tab α → Nat → α → Tab α
  | [], k, v => [(k, v)]
  | (j, w) :: t, k, v => if j = k then (k, v) :: t else (j, w) :: Tab.put t k v

/-- The table without index `k`. -/
def Tab.del {α : Type} (t : Tab α) (k : Nat) : Tab α := t.filter fun e => e.1 ≠ k

/-- A byte memory: the listed bytes. -/
abbrev Mem := List (Nat × Byte)

/-- The byte at an address; `d` says what an unlisted address reads as. -/
def Mem.get (d : Nat → Byte) : Mem → Nat → Byte
  | [], a => d a
  | (j, v) :: t, a => if j = a then v else if a < j then d a else Mem.get d t a

/-- The memory with one byte written; writing what an unlisted address reads as lists nothing. -/
def Mem.put (d : Nat → Byte) : Mem → Nat → Byte → Mem
  | [], a, v => if v = d a then [] else [(a, v)]
  | (j, w) :: t, a, v =>
    if a < j then (if v = d a then (j, w) :: t else (a, v) :: (j, w) :: t)
    else if a = j then (if v = d a then t else (a, v) :: t)
    else (j, w) :: Mem.put d t a v

/-- The canonical form. -/
def Mem.wf (d : Nat → Byte) : Mem → Bool
  | [] => true
  | [(a, v)] => v != d a
  | (a, v) :: (b, w) :: t => (v != d a) && decide (a < b) && Mem.wf d ((b, w) :: t)

/-- What an unlisted byte of host or device memory reads as (log 10). -/
def zeroFill (_ : Nat) : Byte := 0

/-- `n` bytes from address `a`. -/
def Mem.bytes (d : Nat → Byte) (m : Mem) (a : Nat) : Nat → List Byte
  | 0 => []
  | n + 1 => Mem.get d m a :: Mem.bytes d m (a + 1) n

/-- The memory with the bytes of `l` written from address `a` upward. -/
def Mem.putBytes (d : Nat → Byte) (m : Mem) (a : Nat) : List Byte → Mem
  | [] => m
  | v :: l => Mem.putBytes d (Mem.put d m a v) (a + 1) l

/-- A memory inside the block whose content can become undefined as a whole: `gen = 0` reads unlisted bytes as zero
(R117), any other `gen` as the free bytes of that filling (log 8). -/
structure Scratch where
  gen : Nat := 0
  cells : Mem := []
  deriving DecidableEq, Repr

/-- What an unlisted byte of a scratch memory reads as. -/
def Scratch.fill (s : Scratch) (a : Nat) : Byte := if s.gen = 0 then 0 else Config.fillByte s.gen a

/-- One byte of a scratch memory. -/
def Scratch.get (s : Scratch) (a : Nat) : Byte := Mem.get s.fill s.cells a

/-- One byte written. -/
def Scratch.put (s : Scratch) (a : Nat) (v : Byte) : Scratch := { s with cells := Mem.put s.fill s.cells a v }

/-- `n` bytes from `a`. -/
def Scratch.bytes (s : Scratch) (a : Nat) : Nat → List Byte
  | 0 => []
  | n + 1 => s.get a :: s.bytes (a + 1) n

/-- The bytes of `l` written from `a` upward. -/
def Scratch.putBytes (s : Scratch) (a : Nat) : List Byte → Scratch
  | [] => s
  | v :: l => (s.put a v).putBytes (a + 1) l

/-- The canonical form of a scratch memory. -/
def Scratch.wf (s : Scratch) : Bool := Mem.wf s.fill s.cells

/-- Little-endian bytes as a number (R19). -/
def leNat : List Byte → Nat
  | [] => 0
  | b :: l => b.toNat + 256 * leNat l

/-- A number as `n` little-endian bytes. -/
def leBytes : Nat → Nat → List Byte
  | 0, _ => []
  | n + 1, v => BitVec.ofNat 8 v :: leBytes n (v / 256)

/-- Big-endian bytes as a number. -/
def beNat (l : List Byte) : Nat := l.foldl (fun a b => a * 256 + b.toNat) 0

/-- A number as `n` big-endian bytes. -/
def beBytes (n v : Nat) : List Byte := (leBytes n v).reverse

/-- The little-endian number in bytes `[a, a + n)` of an image. -/
def fieldAt (l : List Byte) (a n : Nat) : Nat := leNat ((l.drop a).take n)

/-- The image with bytes from `a` replaced by `v`. -/
def patchAt (l : List Byte) (a : Nat) (v : List Byte) : List Byte :=
  l.take a ++ v ++ l.drop (a + v.length)

/-- A word of 8 bytes. -/
def dwordAt (l : List Byte) (a : Nat) : DWord := BitVec.ofNat 64 (fieldAt l a 8)

/-- Every byte of `[a, a + n)` is zero. -/
def zeroAt (l : List Byte) (a n : Nat) : Bool := ((l.drop a).take n).all fun b => b == 0

end Sys2Proof.Machine
end

