-- ==== Sys2Proof/Machine/Flags.lean ====
section
/-! DEFINITION. The numeric flag word of the MXE and the VXE (R51). -/

namespace Sys2Proof.Machine

/-- Bit 0: an invalid operation, a NaN-to-integer conversion or a reserved TERN byte. -/
def flagInvalid : Word := 1

/-- Bit 1: a result saturated or overflowed its format. -/
def flagOverflow : Word := 2

/-- Bit 2: a non-zero inexact result was below the smallest normal. -/
def flagUnderflow : Word := 4

/-- Bit 3: a result was rounded. -/
def flagInexact : Word := 8

/-- Bit 4: an active operand element, or a starting value, was NaN or infinite. -/
def flagNanInput : Word := 16

/-- Bit 5: an INT32 accumulation saturated. -/
def flagSat : Word := 32

/-- Bit 6: a spill candidate beyond the eighth was clamped. -/
def flagSpillClamp : Word := 64

/-- Bit 7: a spill value saturated. -/
def flagSpillSat : Word := 128

/-- Bit 8: a NaN E8M0 or an invalid UE4M3 scale was used. -/
def flagScaleInvalid : Word := 256

end Sys2Proof.Machine
end

