-- ==== Sys2Proof/Machine/Numerics.lean ====
section
/-! DEFINITION. Narrow numbers: format codes, decoding, rounding and the arithmetic of single elements (R18 to R40).
Every finite value is an exact rational; a rounding names its format and its mode. -/

namespace Sys2Proof.Machine

/-- The format codes of R18. -/
inductive Fmt where
  | int8 | e4m3 | e5m2 | int4 | e2m1 | int2 | tern | bf16 | fp16 | fp32
  deriving DecidableEq, Repr

/-- The format a code names; codes 0xA to 0xF are reserved (R18). -/
def Fmt.ofCode : Nat → Option Fmt
  | 0 => some .int8 | 1 => some .e4m3 | 2 => some .e5m2 | 3 => some .int4 | 4 => some .e2m1
  | 5 => some .int2 | 6 => some .tern | 7 => some .bf16 | 8 => some .fp16 | 9 => some .fp32
  | _ => none

/-- Bits of one element; TERN is packed by groups (R20) and has no whole width. -/
def Fmt.bits : Fmt → Nat
  | .int8 | .e4m3 | .e5m2 => 8
  | .int4 | .e2m1 => 4
  | .int2 => 2
  | .tern => 1
  | .bf16 | .fp16 => 16
  | .fp32 => 32

/-- The integer formats (R27). -/
def Fmt.isInt : Fmt → Bool
  | .int8 | .int4 | .int2 | .tern => true
  | _ => false

/-- The bytes that hold `n` elements of a row (R19, R20). -/
def Fmt.rowBytes (f : Fmt) (n : Nat) : Nat :=
  match f with
  | .tern => (n / 128) * 26 + (n % 128 + 4) / 5
  | _ => (n * f.bits + 7) / 8

/-- `2 ^ e` for any integer exponent. -/
def pow2 : Int → Rat
  | .ofNat n => ((2 ^ n : Nat) : Rat)
  | .negSucc n => mkRat 1 (2 ^ (n + 1))

/-- The integer `e` with `2^e <= x < 2^(e+1)`, for positive `x`. -/
def floorLog2 (x : Rat) : Int :=
  let k : Int := (Nat.log2 x.num.natAbs : Int) - (Nat.log2 x.den : Int)
  if pow2 k ≤ x then k else k - 1

/-- The least integer `e` with `x <= 2^e`, for positive `x`. -/
def ceilLog2 (x : Rat) : Int :=
  let k := floorLog2 x
  if pow2 k = x then k else k + 1

/-- A value of a format: finite with its sign (so that the zeros are two), infinite, or NaN. -/
inductive Val where
  | fin (neg : Bool) (mag : Rat)
  | inf (neg : Bool)
  | nan
  deriving DecidableEq, Repr

/-- The finite value as a rational; infinities and NaN read as 0 and are treated before this is asked. -/
def Val.toRat : Val → Rat
  | .fin neg m => if neg then -m else m
  | _ => 0

/-- A finite value from a rational; zero takes the sign `neg`. -/
def Val.ofRat (neg : Bool) (x : Rat) : Val :=
  if x = 0 then .fin neg 0 else if x < 0 then .fin true (-x) else .fin false x

def Val.isFinite : Val → Bool
  | .fin _ _ => true
  | _ => false

/-- The sign a value shows. -/
def Val.sign : Val → Bool
  | .fin n _ => n
  | .inf n => n
  | .nan => false

/-- The shape of a binary floating format (R18). -/
structure FloatShape where
  expBits : Nat
  manBits : Nat
  bias : Int
  maxFinite : Rat
  hasInf : Bool
  hasNan : Bool
  deriving DecidableEq, Repr

/-- The shapes of R18. -/
def Fmt.shape : Fmt → Option FloatShape
  | .e4m3 => some ⟨4, 3, 7, 448, false, true⟩
  | .e5m2 => some ⟨5, 2, 15, 57344, true, true⟩
  | .e2m1 => some ⟨2, 1, 1, 6, false, false⟩
  | .bf16 => some ⟨8, 7, 127, pow2 128 - pow2 120, true, true⟩
  | .fp16 => some ⟨5, 10, 15, 65504, true, true⟩
  | .fp32 => some ⟨8, 23, 127, pow2 128 - pow2 104, true, true⟩
  | _ => none

/-- The value of a floating code (R18). -/
def decodeFloat (f : Fmt) (sh : FloatShape) (code : Nat) : Val :=
  let m := code % 2 ^ sh.manBits
  let e := (code / 2 ^ sh.manBits) % 2 ^ sh.expBits
  let neg := code / 2 ^ (sh.manBits + sh.expBits) % 2 = 1
  let top := e = 2 ^ sh.expBits - 1
  let isNan := match f with
    | .e4m3 => decide (top ∧ m = 7)
    | .e2m1 => false
    | _ => decide (top ∧ m ≠ 0)
  if isNan then .nan
  else if sh.hasInf ∧ top ∧ m = 0 then .inf neg
  else if e = 0 then .fin neg ((m : Rat) * pow2 (1 - sh.bias - sh.manBits))
  else .fin neg (((2 ^ sh.manBits + m : Nat) : Rat) * pow2 ((e : Int) - sh.bias - sh.manBits))

/-- The value of an element code; `unsignedCode` reads an integer code as unsigned (R21 ZP). A TERN code is the trit
plus 1. -/
def decodeVal (f : Fmt) (unsignedCode : Bool) (code : Nat) : Val :=
  match f.shape with
  | some sh => decodeFloat f sh code
  | none =>
    match f with
    | .tern => Val.ofRat false (((code : Int) - 1 : Int) : Rat)
    | _ =>
      if unsignedCode then Val.ofRat false (code : Rat)
      else Val.ofRat false ((signed f.bits code : Int) : Rat)

/-- A NaN of a format; the payload is a free value of the operands (log 6). -/
def nanCode (f : Fmt) (a b c : Word) : Nat :=
  let p := (Config.nanPayload a b c).toNat
  let s := p / 2 ^ 31
  match f with
  | .fp32 => s * 2 ^ 31 + 0x7FC00000 + p % 2 ^ 22
  | .bf16 => s * 2 ^ 15 + 0x7FC0 + p % 2 ^ 6
  | .fp16 => s * 2 ^ 15 + 0x7E00 + p % 2 ^ 9
  | .e5m2 => s * 2 ^ 7 + 0x7E + p % 2
  | .e4m3 => s * 2 ^ 7 + 0x7F
  | _ => 0

/-- The rounding of an operation: to nearest, ties to even, or stochastic with the 16-bit draw of R40. -/
inductive Round where
  | nearest
  | stochastic (r : Nat)
  deriving DecidableEq, Repr

/-- A rational rounded to an integer under R39 or R40; the second part says that it was inexact. -/
def roundInt (md : Round) (x : Rat) : Int × Bool :=
  let n := x.floor
  let f := x - (n : Rat)
  let up := match md with
    | .nearest => decide (f > 1 / 2) || (decide (f = 1 / 2) && decide (n % 2 = 1))
    | .stochastic r => decide ((r : Int) < (f * 65536).floor)
  (if up then n + 1 else n, f ≠ 0)

/-- A finite value rounded to a floating shape: its rounded value, inexact, and above the largest finite. -/
def roundFloat (sh : FloatShape) (md : Round) (x : Rat) : Rat × Bool × Bool :=
  if x = 0 then (0, false, false)
  else
    let e := max (floorLog2 (if x < 0 then -x else x)) (1 - sh.bias)
    let u := pow2 (e - sh.manBits)
    let (n, inexact) := roundInt md (x / u)
    let y := (n : Rat) * u
    (y, inexact, decide ((if y < 0 then -y else y) > sh.maxFinite))

/-- The code of a value that a floating format holds exactly. -/
def encodeFloat (sh : FloatShape) (v : Val) : Nat :=
  match v with
  | .fin neg m =>
    let s := neg.toNat * 2 ^ (sh.expBits + sh.manBits)
    if m = 0 then s
    else
      let e := max (floorLog2 m) (1 - sh.bias)
      let n := (m / pow2 (e - sh.manBits)).floor.toNat
      if n < 2 ^ sh.manBits then s + n
      else s + (e + sh.bias).toNat * 2 ^ sh.manBits + (n - 2 ^ sh.manBits)
  | .inf neg => neg.toNat * 2 ^ (sh.expBits + sh.manBits) + (2 ^ sh.expBits - 1) * 2 ^ sh.manBits
  | .nan => (2 ^ sh.expBits - 1) * 2 ^ sh.manBits + 2 ^ (sh.manBits - 1)

/-- The largest and smallest integer of an integer format (R18). -/
def Fmt.intMax : Fmt → Int
  | .int8 => 127 | .int4 => 7 | .int2 => 1 | _ => 1
def Fmt.intMin : Fmt → Int
  | .int8 => -128 | .int4 => -8 | .int2 => -2 | _ => -1

/-- The formats a conversion to which saturates (R39). -/
def Fmt.saturates : Fmt → Bool
  | .bf16 | .fp16 | .fp32 => false
  | _ => true

/-- The code of an integer in an integer format; a TERN code is the trit plus 1. -/
def intCode (f : Fmt) (n : Int) : Nat :=
  match f with
  | .tern => (n + 1).toNat
  | _ => (BitVec.ofInt f.bits n).toNat

/-- An operation's result: the element code and the flags it raises. -/
abbrev Coded := Nat × Word

/-- The flags of a rounded result `y` (R39). -/
def resultFlags (sh : FloatShape) (y : Rat) (inexact : Bool) : Word :=
  if inexact then
    flagInexact ||| (if y ≠ 0 ∧ (if y < 0 then -y else y) < pow2 (1 - sh.bias) then flagUnderflow else 0)
  else 0

/-- Conversion of a value to a format under R39 and R40; `src` carries the operand bits a NaN result depends on. -/
def convertTo (f : Fmt) (md : Round) (v : Val) (src : Word) : Coded :=
  match f.shape with
  | some sh =>
    match v with
    | .nan => if sh.hasNan then (nanCode f src 0 0, 0) else (0, flagInvalid)
    | .inf neg =>
      if f.saturates then (encodeFloat sh (.fin neg sh.maxFinite), flagOverflow) else (encodeFloat sh (.inf neg), 0)
    | .fin neg m =>
      let x := if neg then -m else m
      let (y, inx, ovf) := roundFloat sh md x
      if ovf then
        (encodeFloat sh (if f.saturates then .fin neg sh.maxFinite else .inf neg), flagOverflow ||| flagInexact)
      else (encodeFloat sh (Val.ofRat neg y), resultFlags sh y inx)
  | none =>
    match v with
    | .nan => (intCode f 0, flagInvalid)
    | .inf neg => (intCode f (if neg then f.intMin else f.intMax), flagOverflow)
    | .fin neg m =>
      let (n, inexact) := roundInt md (if neg then -m else m)
      if n > f.intMax then (intCode f f.intMax, flagOverflow ||| flagInexact)
      else if n < f.intMin then (intCode f f.intMin, flagOverflow ||| flagInexact)
      else (intCode f n, if inexact then flagInexact else 0)

/-- The 32-bit pattern of a value in FP32, rounded to nearest. -/
def toFp32 (v : Val) (src : Word) : Word × Word :=
  let c := convertTo .fp32 .nearest v src
  (word c.1, c.2)

/-- The value of an FP32 pattern. -/
def fp32Val (w : Word) : Val := decodeVal .fp32 false w.toNat

/-- The value of an FP32 pattern as a rational. -/
def fp32Rat (w : Word) : Rat := (fp32Val w).toRat

/-- An active operand element that is NaN or infinite sets NAN_INPUT (R51, R93). -/
def nanIn (v : Val) : Word := if v.isFinite then 0 else flagNanInput

/-- A sum of two values before rounding: the IEEE 754 cases. `none` is an invalid operation. -/
def addVal (a b : Val) : Option Val :=
  match a, b with
  | .nan, _ => some .nan
  | _, .nan => some .nan
  | .inf x, .inf y => if x = y then some (.inf x) else none
  | .inf x, _ => some (.inf x)
  | _, .inf y => some (.inf y)
  | .fin x m, .fin y n =>
    let r := (if x then -m else m) + (if y then -n else n)
    some (Val.ofRat (x && y) r)

/-- A product before rounding. -/
def mulVal (a b : Val) : Option Val :=
  match a, b with
  | .nan, _ => some .nan
  | _, .nan => some .nan
  | .inf x, .inf y => some (.inf (x != y))
  | .inf x, .fin y n => if n = 0 then none else some (.inf (x != y))
  | .fin x m, .inf y => if m = 0 then none else some (.inf (x != y))
  | .fin x m, .fin y n => some (.fin (x != y) (m * n))

/-- Rounds the outcome of `addVal` or `mulVal` into the lane format; `none` is NaN with INVALID. -/
def finish (f : Fmt) (md : Round) (r : Option Val) (a b c : Word) : Coded :=
  match r with
  | none => (nanCode f a b c, flagInvalid)
  | some .nan => (nanCode f a b c, 0)
  | some v => convertTo f md v a

/-- `a + b` in a floating lane format. -/
def fAdd (f : Fmt) (md : Round) (a b : Nat) : Coded :=
  let x := decodeVal f false a
  let y := decodeVal f false b
  let r := finish f md (addVal x y) (word a) (word b) 0
  (r.1, r.2 ||| nanIn x ||| nanIn y)

/-- `a * b` in a floating lane format. -/
def fMul (f : Fmt) (md : Round) (a b : Nat) : Coded :=
  let x := decodeVal f false a
  let y := decodeVal f false b
  let r := finish f md (mulVal x y) (word a) (word b) 0
  (r.1, r.2 ||| nanIn x ||| nanIn y)

/-- `a * b + c` rounded once (R92). -/
def fFma (f : Fmt) (md : Round) (a b c : Nat) : Coded :=
  let x := decodeVal f false a
  let y := decodeVal f false b
  let z := decodeVal f false c
  let p := match mulVal x y with
    | none => none
    | some v => addVal v z
  let r := finish f md p (word a) (word b) (word c)
  (r.1, r.2 ||| nanIn x ||| nanIn y ||| nanIn z)

/-- `a < b` as vx.min and vx.max order values: -0 lies below +0 (R93). -/
def orderedLt (x y : Val) : Bool :=
  match x, y with
  | .nan, _ => false
  | _, .nan => false
  | .inf n, .inf m => n && !m
  | .inf n, _ => n
  | _, .inf m => !m
  | .fin n a, .fin m b =>
    let p := if n then -a else a
    let q := if m then -b else b
    decide (p < q) || (decide (p = q) && n && !m)

/-- vx.min and vx.max on floating lanes (R93). -/
def fMinMax (f : Fmt) (wantMax : Bool) (a b : Nat) : Coded :=
  let x := decodeVal f false a
  let y := decodeVal f false b
  let fl := nanIn x ||| nanIn y
  if x = .nan ∨ y = .nan then (nanCode f (word a) (word b) 0, fl)
  else if orderedLt x y then (if wantMax then b else a, fl) else (if wantMax then a else b, fl)

/-- The predicates of vx.cmp (R92), in opcode order. -/
inductive Pred where
  | eq | ne | lt | le | gt | ge | un
  deriving DecidableEq, Repr

/-- IEEE order of two values, -0 equal to +0; `none` when one is NaN. -/
def cmpVal (x y : Val) : Option Ordering :=
  match x, y with
  | .nan, _ => none
  | _, .nan => none
  | .inf n, .inf m => some (if n = m then .eq else if n then .lt else .gt)
  | .inf n, _ => some (if n then .lt else .gt)
  | _, .inf m => some (if m then .gt else .lt)
  | .fin n a, .fin m b =>
    let p := if n then -a else a
    let q := if m then -b else b
    some (if p < q then .lt else if p = q then .eq else .gt)

/-- A predicate's outcome (R93): NaN gives 0 for all but ne and un. -/
def Pred.holds (p : Pred) (o : Option Ordering) : Bool :=
  match p, o with
  | .un, none => true
  | .ne, none => true
  | _, none => false
  | .eq, some o => o = .eq
  | .ne, some o => o ≠ .eq
  | .lt, some o => o = .lt
  | .le, some o => o ≠ .gt
  | .gt, some o => o = .gt
  | .ge, some o => o ≠ .lt
  | .un, some _ => false

/-- INT8 addition saturates and sets OVERFLOW (R84). -/
def i8Add (a b : Nat) : Coded :=
  let r := signed 8 a + signed 8 b
  if r > 127 then (127, flagOverflow) else if r < -128 then (128, flagOverflow)
  else ((BitVec.ofInt 8 r).toNat, 0)

/-- An E8M0 scale; 0xFF is NaN (`none`). -/
def e8m0 (b : Byte) : Option Rat := if b = 0xFF then none else some (pow2 ((b.toNat : Int) - 127))

/-- A UE4M3 scale; 0x7F and any byte with bit 7 set are invalid (`none`). -/
def ue4m3 (b : Byte) : Option Rat :=
  if b.toNat ≥ 0x7F then none else some (decodeVal .e4m3 false b.toNat).toRat

/-- The smallest UE4M3 code whose value is at least `x`, at most 448 (R30). -/
def ue4m3AtLeast (x : Rat) : Nat :=
  match (List.range 0x7F).find? fun c => decide ((decodeVal .e4m3 false c).toRat ≥ x) with
  | some c => c
  | none => 0x7E

/-- The five trits of a TERN byte, as codes 0 to 2; a reserved byte decodes as zeros (R20). -/
def ternCode (b : Byte) (i : Nat) : Nat × Bool :=
  if b.toNat ≥ 243 then (1, true) else (b.toNat / 3 ^ i % 3, false)

/-- A trit put into a TERN byte as a code 0 to 2; a reserved byte holds zeros (R20). -/
def ternPut (b : Byte) (i c : Nat) : Byte :=
  let v := if b.toNat ≥ 243 then 121 else b.toNat
  BitVec.ofNat 8 (v - v / 3 ^ i % 3 * 3 ^ i + c % 3 * 3 ^ i)

/-- One FP32 addition that saturates at the largest finite value (R28), as the MXE accumulates (R27) and the FP32
counters add (R52). `none` for the addend is a NaN group sum (R29). -/
def accFp32 (acc : Word) (x : Option Rat) : Word × Word :=
  match fp32Val acc, x with
  | .fin neg m, some r =>
    let sum := (if neg then -m else m) + r
    let sh : FloatShape := ⟨8, 23, 127, pow2 128 - pow2 104, true, true⟩
    let (y, inx, ovf) := roundFloat sh .nearest sum
    if ovf then
      (word (encodeFloat sh (.fin (decide (sum < 0)) sh.maxFinite)), flagOverflow ||| flagInexact)
    else
      (word (encodeFloat sh (Val.ofRat (decide (sum < 0)) y)), if inx then flagInexact else 0)
  | .inf _, _ => (word (nanCode .fp32 acc 0 0), flagNanInput)
  | _, _ => (word (nanCode .fp32 acc 0 0), 0)

/-- INT32 accumulation with saturation (R28). -/
def accInt32 (acc : Word) (x : Int) : Word × Word :=
  let r := acc.toInt + x
  if r > 2 ^ 31 - 1 then (0x7FFFFFFF, flagSat) else if r < -(2 ^ 31) then (0x80000000, flagSat)
  else (BitVec.ofInt 32 r, 0)

/-- The seed of a lane's generator (R40). -/
def srSeed (ctxSeed stamp k lane : Nat) : Nat :=
  let h := (ctxSeed ^^^ (stamp % 2 ^ 32) ^^^ (stamp / 2 ^ 32) ^^^ (k * 2 ^ 16) ^^^ lane) % 2 ^ 32
  let h := (h * 0x85EBCA6B) % 2 ^ 32
  let h := h ^^^ (h / 2 ^ 13)
  let h := (h * 0xC2B2AE35) % 2 ^ 32
  let h := h ^^^ (h / 2 ^ 16)
  if h = 0 then 1 else h

/-- One advance of a lane's generator (R40). -/
def srNext (h : Nat) : Nat :=
  let h := h ^^^ (h * 2 ^ 13 % 2 ^ 32)
  let h := h ^^^ (h / 2 ^ 17)
  h ^^^ (h * 2 ^ 5 % 2 ^ 32)

/-- The generator after `n` advances. -/
def srIter : Nat → Nat → Nat
  | 0, h => h
  | n + 1, h => srIter n (srNext h)

/-- The draw `r` of R40 for the lane's `n`-th rounded element, counted from 1. -/
def srDraw (ctxSeed stamp k lane n : Nat) : Nat := srIter n (srSeed ctxSeed stamp k lane) / 2 ^ 16

/-- An integer root: the largest `r` with `r * r <= n`, by `fuel` halvings of an interval. -/
def isqrt (n : Nat) : Nat := Nat.sqrt n

/-- The square root of a non-negative rational rounded once to FP32, nearest, ties to even (R34), as a rational.
With `s` bits of the exact root taken, a sticky bit decides the rounding. -/
def sqrtFp32 (x : Rat) : Rat :=
  if x ≤ 0 then 0
  else
    let k : Nat := 400
    let n := (x * pow2 (2 * k)).floor.toNat
    let r := isqrt n
    let exact := decide ((r : Rat) * (r : Rat) = x * pow2 (2 * k))
    let y : Rat := ((2 * r + (if exact then 0 else 1) : Nat) : Rat) * pow2 (-(k : Int) - 1)
    let sh : FloatShape := ⟨8, 23, 127, pow2 128 - pow2 104, true, true⟩
    (roundFloat sh .nearest y).1

end Sys2Proof.Machine
end

