-- ==== Sys2Proof/Machine/Forms.lean ====
section
/-! DEFINITION. The forms in which the engines hold an operand or an instruction: numeric descriptors (R21), the operand
and quantise descriptors of the vector engine (R88, R97), its slot (R209), and an instruction resolved at its issue (R89,
R101). They are parts of State: an instruction in a pipe keeps them. -/

namespace Sys2Proof.Machine

/-- A numeric descriptor (R21). -/
structure Nd where
  zp : Bool
  spill : Bool
  scale : Nat
  fmt : Nat
  deriving DecidableEq, Repr

/-- A VX slot (R208, R209). -/
structure VOp where
  op : Nat
  cls : Nat
  dst : Nat
  sa : Nat
  sb : Nat
  sc : Nat
  n : Nat
  mask : Nat
  rnd : Bool
  fw : Bool
  octr : Nat
  deriving DecidableEq, Repr

/-- An operand descriptor (R88). -/
structure VDesc where
  kind : Nat
  berth : Nat
  accInt : Bool
  nd : Nd
  addr : Nat
  estride : Nat
  step : Int
  aux : Nat
  pitch : Nat
  reserved : Bool
  deriving DecidableEq, Repr

/-- A quantise descriptor (R97). -/
structure QDesc where
  rowsum : Bool
  k : Nat
  ratio : Word
  pitch : Nat
  aux : Nat
  fine : Nat
  spill : Nat
  qscale : Word
  zero : Nat
  reserved : Bool
  deriving DecidableEq, Repr

/-- An operand after resolution: a register, or a descriptor with its effective addresses (R89). -/
inductive Opnd where
  | reg (i : Nat)
  | mem (d : VDesc) (ea aux : Int)
  deriving DecidableEq, Repr

/-- A range of the issue check: DETAIL, berth space, first byte, length, aligned. -/
abbrev VRange := Nat × Nat × Int × Nat × Bool

/-- What a sentinel samples (R49, R106): the bytes of its MX descriptor, its batch, the row and column, the address of
the row of the BF16 copy with its element stride and berth space, the address of y, and whether its tile is sampled
(R48). -/
structure SentOp where
  raw : List Byte
  batch : Nat
  row : Nat
  col : Nat
  copy : Nat
  stride : Nat
  space : Nat
  y : Nat
  on : Bool
  deriving DecidableEq, Repr

/-- What an instruction does, resolved at its issue (R89, R101). -/
structure VPlan where
  v : VOp
  d : Option Opnd := none
  a : Option Opnd := none
  b : Option Opnd := none
  c : Option Opnd := none
  q : Option QDesc := none
  sent : Option SentOp := none
  /-- offset of the berth operands in STEP units (R89), and the length that `vx.mset` sets (R92) -/
  off : Int := 0
  setLen : Int := 0
  ranges : List VRange := []
  /-- byte ranges it reads and writes as (space, first byte, length) -/
  srcs : List (Nat × Nat × Nat) := []
  dests : List (Nat × Nat × Nat) := []
  deriving DecidableEq, Repr

end Sys2Proof.Machine
end

