-- ==== Sys2Proof/Machine/State.lean ====
section
/-! DEFINITION. The state of the block as plain data, why a step may stop, and the state after reset. Register words
of the window live in one table by window address (R449, R450); what is no register has a field of its own. -/

namespace Sys2Proof.Machine

/-- Why a command stops the run. -/
inductive Fault where
  /-- A command that is not an access of the register window names a core, region, context, queue, quay, port or part
  the build does not hold (log 3). Raised by every meaning with an index operand. Safe: no part can do it. -/
  | absentPart
  deriving DecidableEq, Repr

/-- Why a command has no meaning. -/
inductive Refusal where
  /-- Raised by Dispatch for a row without a meaning yet; no meaning answers with it. Safe. -/
  | notModelled (mnemonic : String)
  deriving DecidableEq, Repr

/-- The clocks. -/
structure Clk where
  /-- ticks of 1.6 ns since power-up, the model's measure of the manual's times (log 1) -/
  time : Nat := 0
  /-- the tide count (R161) -/
  tide : Nat := 0
  running : Bool := false
  /-- quarters of a tick, 0.4 ns each, that have passed since the last tick (log 1) -/
  quarter : Nat := 0
  /-- region cycles of each region since its clock started, and the part of the next, in 250ths (R169, R381) -/
  rc : Tab Nat := []
  phase : Tab Nat := []
  deriving DecidableEq, Repr

/-- A bundle of a stream: its header and its slots by engine 0 SQ, 1 MX, 2 VX, 3 LD, 4 ST, 5 SY (R197). -/
structure Bundle where
  delta : Nat
  tag : Nat
  line : Nat
  brk : Bool
  chain : Bool
  slots : Tab DWord
  deriving DecidableEq, Repr

/-- One instance of a bundle: its number and the passes of the loops around it, innermost first. -/
structure Inst where
  bundle : Nat
  passes : List Nat
  deriving DecidableEq, Repr

/-- A loop body being traversed (R204). -/
structure Frame where
  first : Nat
  stop : Nat
  pass : Nat
  active : Nat
  passes : Nat
  passLen : Nat
  deriving DecidableEq, Repr

/-- A place in a core's path through its bundles: the next bundle, the stamp sum before it, the open loops, and whether
the engine's entry of that bundle has been fetched (R166, R216, R221). -/
structure Cursor where
  pc : Nat := 0
  stamp : Nat := 0
  frames : List Frame := []
  fetched : Bool := false
  deriving DecidableEq, Repr

/-- A condition attached to an entry (R212): the wait's slot word, or the fence instance. -/
inductive Cond where
  | wait (w : DWord)
  | fence (i : Inst)
  deriving DecidableEq, Repr

/-- An entry in an instruction queue (R221, R228): its place, its bundle, its stamp in schedule time, its slot word and its
attached conditions, all as fetched. -/
structure Fetched where
  cur : Cursor
  bundle : Bundle
  stamp : Nat
  word : DWord
  conds : List Cond
  deriving DecidableEq, Repr

/-- One engine of a core: the stream it runs, its program counter with the instruction queue (R221), the thresholds latched
for its head (R211), the cause that holds its head (R186), whether a hold of the VXE has its head, the schedule time in which
that hold ended (R100, R185), and the entries it has not retired. `waited` is the schedule time at which its stream started, where the stream before had not
ended at BASE, else 0 (R222). -/
structure Eng where
  stream : Nat := 0
  live : Bool := false
  cur : Cursor := {}
  queue : List Fetched := []
  waited : Nat := 0
  latch : List Nat := []
  cause : Nat := 0
  gated : Bool := false
  ref : Nat := 0
  issueRc : Option Nat := none
  open_ : Nat := 0
  deriving DecidableEq, Repr

/-- What the chart memory of a core holds of one section of a registered manifest (R215, R226): the bundles of a stream,
or the bytes of a table. -/
structure ChartSect where
  ctx : Nat
  voyage : Nat
  leg : Nat
  /-- directory index of the section -/
  idx : Nat
  bundles : List Bundle := []
  bytes : List Byte := []
  deriving DecidableEq, Repr

/-- The stream of one leg on one core with the tables installed for it (R215). In State the contents are those of the chart
memory, and the fields from `bundles` to `budgets` are empty; `State.prog?` reads them. -/
structure Prog where
  ctx : Nat
  /-- number of the launch in its context, the leg, and the core's manifest index -/
  launch : Nat
  leg : Nat
  mindex : Nat
  voyage : Nat := 0
  /-- VARIANT of its section (R154, R178) -/
  variant : Nat := 0
  base : Nat
  /-- the sections it selects in chart memory, by type: directory index (R215) -/
  sects : Tab Nat := []
  /-- patches of the launch: IMM by bundle, and 8 bytes of the LSD table by byte offset (R180, R217) -/
  imms : Tab Nat := []
  fields : Tab (List Byte) := []
  /-- decisions of the sequencer by the instance that made them, with the region cycle of each (R216) -/
  decisions : List (Inst × Nat × Nat) := []
  bundles : List Bundle := []
  mxd : List Byte := []
  vxd : List Byte := []
  lsd : List Byte := []
  sentinels : List Byte := []
  budgets : List Byte := []
  /-- level declared FULL (R43) and the barrier bollard (R152) -/
  full : Bool := true
  barrierBol : Nat := 0xFF
  /-- fence instances that have completed (R212) -/
  fenced : List Inst := []
  deriving DecidableEq, Repr

/-- A write of one byte of a target memory: the bits of `mask`, or with `trit` one TERN trit of the byte, whose code is
`val` (R19, R20, R89). -/
structure Put where
  addr : Nat
  val : Byte
  mask : Byte := 0xFF
  trit : Option Nat := none
  deriving DecidableEq, Repr

/-- A write that lands in one region cycle: 0 WB, 1 AB, 2 PB, 3 vector registers, 4 mask registers. A quantise step names
the rows of codes it writes as (first byte, length, level in force FULL) (R44, R73). -/
structure Landing where
  rc : Nat
  space : Nat
  puts : List Put
  quants : List (Nat × Nat × Bool) := []
  deriving DecidableEq, Repr

/-- A scaled group sum of a row in the array, `none` when it is NaN, with the flags it raises (R26, R29). -/
abbrev GroupSum := Option Rat × Word

/-- A row that has entered the array and not been accumulated: its number, and the group sums of each of its columns in
increasing K order (R70, R75). -/
structure MxRow where
  num : Nat
  sums : List (List GroupSum)
  deriving DecidableEq, Repr

/-- A product in the array (R69 to R78): the descriptor as snapshot with its index (R63), its first batch and tile, the
level in force at its issue (R43), what the checkers find in it as (row, code, DETAIL), the weights loaded for the present
pass (R57), and the rows on their way. -/
structure MxJob where
  desc : Nat
  raw : List Byte
  b0 : Nat
  tile : Nat
  full : Bool
  stop : Option (Nat × Nat × Nat) := none
  plane : Scratch := {}
  flight : List MxRow := []
  deriving DecidableEq, Repr

/-- An instruction of the VXE in its pipe (R85, R98 to R107): the slot and its resolution, the level in force, what the
draws of R40 need, the beat at which the checkers stop it with the code, the values of its broadcast operands read at
issue by field (R89), and what its beats have gathered: the partials of a reduction or sentinel by lane, with their draws
and flags, and the elements that a quantise has read. -/
structure VJob where
  word : DWord
  plan : VPlan
  full : Bool
  seed : Nat
  stamp : Nat
  mindex : Nat
  two : Bool := false
  stop : Option (Nat × Nat) := none
  fixed : Tab (Nat × Word) := []
  lanes : List (Nat × Nat × Word) := []
  elems : List (Nat × Word) := []
  deriving DecidableEq, Repr

/-- A `vx.wharf` in the Wharf pipe (R104): the result groups still due, the active elements, where results go (a
space with its format code, first byte and element stride), and what its rounding needs (R40). -/
structure WharfRun where
  groups : List Nat
  active : List Nat
  space : Nat
  fmt : Nat
  base : Nat
  stride : Nat
  div : Nat
  lat : Nat
  rnd : Bool
  seed : Nat
  mindex : Nat
  opcode : Nat
  deriving DecidableEq, Repr

/-- An issued instruction of the MXE or VXE that has not retired. -/
structure Run where
  issue : Nat
  occ : Nat
  lat : Nat
  /-- 0 array, 1 arithmetic pipe, 2 Wharf pipe, 3 issue stage only -/
  pipe : Nat
  /-- byte ranges it writes as (space, from, length) -/
  dests : List (Nat × Nat × Nat) := []
  inst : Inst
  stream : Nat
  stamp : Nat
  tag : Nat
  line : Nat
  flags : Word := 0
  /-- number of the flag record written at retirement (R102) -/
  record : Option Nat := none
  mx : Option MxJob := none
  vx : Option VJob := none
  wharf : Option WharfRun := none
  /-- stopped by a fault: it never retires (R78, R107) -/
  dead : Bool := false
  deriving DecidableEq, Repr

/-- What a retirement-bound operation does and whom it awaits (R212). -/
structure Bound where
  inst : Inst
  stream : Nat
  word : DWord
  awaits : List Nat
  rc : Nat := 0
  deriving DecidableEq, Repr

/-- An operation on a core bollard waiting for the end of its region cycle (R231): SOURCE of R233 (8 for a software write,
R232), sender's manifest index, amount, add or sub. -/
structure BolOp where
  bol : Nat
  sub : Bool
  amount : Nat
  source : Nat
  sender : Nat
  deriving DecidableEq, Repr

/-- What a message between two cores carries (R234). -/
inductive MsgKind where
  | words (berth addr : Nat) (data : List Byte)
  | add (bol amount : Nat) (done : Bool)
  | probe (fence : Nat)
  deriving DecidableEq, Repr

/-- A message on its way to a core, from physical core `src` with manifest index `sender`. One on a neighbour link is
delivered from region cycle `rc` of its source and instant `after` on (R149). -/
structure Msg where
  src : Nat
  sender : Nat
  neighbour : Bool
  kind : MsgKind
  rc : Nat := 0
  after : Nat := 0
  deriving DecidableEq, Repr

/-- A stream in a slot (R137). `plane` counts from 0; `req` 0 data row, 1 companion row, 2 index word (R158). -/
structure Stream where
  op : Nat
  desc : Nat
  body : List Byte
  p0 : Nat
  n : Nat
  dir : Nat := 0
  target : Option Nat := none
  /-- a halo on its neighbour link (R149, R151) -/
  link : Bool := false
  plane : Nat := 0
  row : Nat := 0
  line : Nat := 0
  req : Nat := 0
  /-- index words read ahead (R142) -/
  index : Tab Nat := []
  indexAsked : List Nat := []
  /-- bytes of the present line that the read port has moved, and how many of them a neighbour link has taken (R115,
  R149) -/
  part : List Byte := []
  sent : Nat := 0
  /-- a skipped plane: bytes of its berth rows still to be zeroed (R142) -/
  zeros : List (Nat × Nat) := []
  /-- chunks whose wait has been met, chunks completed -/
  met : Nat := 0
  chunks : Nat := 0
  /-- outstanding lines of each chunk -/
  outs : Tab Nat := []
  halted : Bool := false
  cause : Nat := 0
  /-- the refused request was an index word (REQ 2 of R158) -/
  idxHalt : Bool := false
  stamp : Nat := 0
  budget : Option (Nat × Nat) := none
  inst : Inst
  stream : Nat
  tag : Nat := 0
  lineNo : Nat := 0
  waitSince : Option Nat := none
  deriving DecidableEq, Repr

/-- A read or write of memory on its way, from request to answer. -/
structure LineReq where
  id : Nat
  core : Nat
  store : Bool
  slot : Nat
  stream : Nat
  chunk : Nat
  /-- 0 data, 1 index word of plane `chunk` -/
  what : Nat := 0
  ctx : Nat
  epoch : Nat
  hint : Nat := 0
  pa : Nat
  len : Nat
  /-- load: berth and address of the deposit; store: the bytes -/
  berth : Nat := 0
  baddr : Nat := 0
  data : List Byte := []
  region : Nat := 0
  /-- the other member of a remote request, and the number under which it travels (R397, R361) -/
  member : Option Nat := none
  via : Nat := 0
  /-- region cycle in which it reached its Basin (R126) -/
  came : Nat := 0
  deriving DecidableEq, Repr

/-- The ends of the Channel's paths (R250): the mesh port of a physical core, the region controller at its GATEWAY, the
memory port of a core, a Basin slice, and the ports of the block switch. -/
inductive Port where
  | core (k : Nat)
  | gateway (r : Nat)
  | mem (k : Nat)
  | basin (r : Nat)
  | quay (m : Nat)
  | jetty (j : Nat)
  | hostQuay
  | control
  deriving DecidableEq, Repr

/-- A request outstanding at a memory quay (R429): the requests it answers or the write it carries, whether the Basin of
`region` allocates its line and pins it, and the writes of its line that had left for memory before it (R124). A fill serves
its requests, the writes among them, in order of arrival (R126). `port` is where it entered the Channel, `time` the tide.
`phase`: 0 on its way to the quay, 1 at the quay, 2 a fill whose line is on its way. -/
structure QReq where
  id : Nat
  quay : Nat
  pa : Nat
  len : Nat
  write : Bool
  source : Nat
  reqs : List LineReq
  region : Nat
  alloc : Bool := false
  pin : Bool := false
  time : Nat := 0
  before : List Nat := []
  phase : Nat := 0
  port : Port := .control
  /-- a line of a COPY or FILL: its queue and the context's EPOCH (R309, R325) -/
  copy : Option (Nat × Nat) := none
  deriving DecidableEq, Repr

/-- An operation on a block bollard on its way to the control complex (R238 to R240): absolute index, what it does,
SOURCE and CORE of R240, and the core and number that await its acknowledgement (R242). `set` is a write of BBOL_VALUE
by Crew firmware (R239). -/
structure BBolOp where
  bol : Nat
  sub : Bool
  amount : Nat
  set : Bool := false
  source : Nat
  core : Nat := 0xFFF
  ack : List (Nat × Nat) := []
  deriving DecidableEq, Repr

/-- A router at its global position, a region switch, the block switch, or an end of a path (R250, R251). -/
inductive Node where
  | router (gr gc : Nat)
  | regionSwitch (r : Nat)
  | blockSwitch
  | port (p : Port)
  deriving DecidableEq, Repr

/-- A slot that waits for a flit (R400, R406). One that is forwarded names the port it came on, and whether it was the last of
its flit, whose credit returns when it is forwarded (R404). -/
structure OutSlot where
  dst : Nat
  src : Nat
  vc : Nat
  hops : Nat
  bytes : List Byte
  time : Nat
  rc : Nat
  via : Option Nat := none
  last : Bool := false
  deriving DecidableEq, Repr

/-- What a packet carries (R255, R258). -/
inductive Load where
  /-- a message to core `target` (R234) -/
  | msg (target : Nat) (m : Msg)
  /-- core `at_` has applied what came before probe `fence` on a path (R242) -/
  | probed (fence at_ : Nat) (link : Bool)
  /-- a request of a core, the line that answers it, the acknowledgement of its write -/
  | line (r : LineReq)
  | data (r : LineReq)
  | done (r : LineReq)
  /-- a request to its quay, the line that fills a Basin line -/
  | quay (id : Nat)
  | fill (id : Nat) (data : List Byte)
  /-- an operation on a block bollard, its acknowledgement, the start of a watch and a copy (R238) -/
  | bbol (o : BBolOp)
  | acked (k id : Nat)
  | watch (k a : Nat)
  | copy (k a : Nat) (v : Word)
  /-- an arrival at a barrier, with the number that awaits its acknowledgement or 0, and its release on bollard `bol`
  (R152, R153, R242) -/
  | arrive (c k id : Nat)
  | release (c bol : Nat)
  /-- a slot of another member on its way to the next (R400, R406) -/
  | slot (o : OutSlot)
  deriving DecidableEq, Repr

/-- A packet (R253): its ends, its virtual channel (R259), its flits, the tide of its injection (R260), and whether the
region controller broadcasts it (R254). -/
structure Packet where
  id : Nat
  load : Load
  src : Port
  dst : Port
  vc : Nat
  len : Nat := 1
  born : Nat := 0
  all : Bool := false
  deriving DecidableEq, Repr

/-- A flit at an input port: its packet, whether it is the packet's last, the cycle of its node from which it may be
granted, and the outputs that have taken their copy (R253, R254). -/
structure Flit where
  pkt : Packet
  tail : Bool
  rdy : Nat
  sent : List Node := []
  deriving DecidableEq, Repr

/-- A link, from its output port at `a` to its input port at `b`, the queue of a lock on it included (R256). By virtual
channel: the flits at the input port, the credits spent, and the packet whose second flit must follow. By class: the input
that was granted last. Then the cycles of the last BK-floor grant and of the last RT injection (R260, R262). -/
structure ChLink where
  a : Node
  b : Node
  queue : Tab (List Flit) := []
  spent : Tab Nat := []
  open_ : Tab Nat := []
  turn : Tab Nat := []
  floorAt : Nat := 0
  rtAt : Option Nat := none
  deriving DecidableEq, Repr

/-- A fence in progress (R242): the requests and messages it awaits. -/
structure Fence where
  id : Nat
  inst : Inst
  stream : Nat
  stamp : Nat := 0
  tag : Nat := 0
  line : Nat := 0
  /-- store-stream instances issued before it that have not retired -/
  stores : List Inst
  /-- memory writes, block operations and arrivals not yet acknowledged, by number -/
  acks : List Nat
  /-- target cores and paths that have not answered the probe -/
  probes : List (Nat × Bool)
  probed : Bool := false
  /-- what was sent before this number lies before the probes -/
  asked : Nat := 0
  deriving DecidableEq, Repr

/-- A plane of a Wharf slice (R282): 0 EMPTY, 1 LOADING, 2 holds a complete image (VERIFIED or ACTIVE). -/
structure Plane where
  state : Nat := 0
  div : Nat := 0
  lat : Nat := 0
  id : Word := 0
  /-- address the image came from, or none for the slipway (R294) -/
  src : Option Nat := none
  frames : Tab (List Byte) := []
  deriving DecidableEq, Repr

/-- What the VXE presents to the Wharf slice (R279); the parity of each word follows from it. -/
structure LaneIn where
  valid : Bool := false
  first : Bool := false
  last : Bool := false
  fn : BitVec 8 := 0
  mask : BitVec 16 := 0
  data : List Word := []
  deriving DecidableEq, Repr

/-- A physical core. -/
structure Core where
  /-- CORE_STATUS state: 0 IDLE, 1 SERVING, 2 STOPPED, 3 WITHDRAWN (R475) -/
  state : Nat := 0
  ctx : Option Nat := none
  mindex : Nat := 0
  held : Bool := false
  progs : Tab Prog := []
  last : Nat := 0
  eng : Tab Eng := []
  /-- sequencer counters and comparators, their values before the write of region cycle `cRc` (R202) -/
  ctr : Tab Word := []
  cmp : Tab Bool := []
  ctrOld : Tab Word := []
  cmpOld : Tab Bool := []
  cRc : Nat := 0
  bolOps : List BolOp := []
  /-- chart-memory writes and fields of `mx.setdim` of the present region cycle, which the engines see from the next: (byte
  address, bytes), and (stream, descriptor, byte of the field, bytes) (R63, R65, R220) -/
  chartOps : List (Nat × List Byte) := []
  dimOps : List (Nat × Nat × Nat × List Byte) := []
  /-- entries that retire at the end of their region cycle: engine, stream, instance, TAG, LINE, stamp (R223) -/
  retiring : List (Nat × Nat × Inst × Nat × Nat × Nat) := []
  /-- chart memory: its bytes, and what they hold for the engines (R226) -/
  chart : Scratch := {}
  sects : List ChartSect := []
  /-- number of the translation that laid out chart memory as it is (R226, log 5) -/
  layout : Nat := 0
  wb : Scratch := {}
  ab : Scratch := {}
  pb : Scratch := {}
  vregs : Scratch := {}
  mregs : Scratch := {}
  mx : List Run := []
  vx : List Run := []
  /-- writes that have not landed: of the array, of the VXE, and of every other writer of the berths (R74, R91, R159) -/
  mxLands : List Landing := []
  vxLands : List Landing := []
  ldLands : List Landing := []
  /-- the lane interface towards the Wharf slice in the present Wharf cycle (R279) -/
  lane : LaneIn := {}
  tile : Nat := 0
  records : Nat := 0
  /-- the level in force of the last quantise instruction that wrote a range: (space, from, length, FULL) (R73) -/
  quants : List (Nat × Nat × Nat × Bool) := []
  loads : Tab Stream := []
  stores : Tab Stream := []
  arrivals : List LineReq := []
  inbox : List Msg := []
  bound : List Bound := []
  fences : List Fence := []
  /-- unacknowledged memory writes, block operations and arrivals; targets with unacknowledged messages, by path, with the
  number before which the last of them was sent -/
  acks : List Nat := []
  posted : List (Nat × Bool × Nat) := []
  /-- copies of watched block bollards by absolute number, none until the first has come (R238) -/
  watched : Tab (Option Word) := []
  planeA : Plane := {}
  planeB : Plane := {}
  activeB : Bool := false
  /-- flip-flops FA and FB of the Wharf cells, by cell (R272) -/
  flops : Tab (Bool × Bool) := []
  /-- bays whose clock multiplexer holds its output low after a plane switch, each with the last region cycle of it (R277) -/
  muxLow : Tab Nat := []
  /-- a plane switch waits for the Wharf pipe (R105) -/
  switchTo : Option Bool := none
  digest : Nat := 0
  /-- segments switched off and not yet powered down, each with the work issued before that touches it, by engine, stream
  and instance; and those being readied (R119) -/
  gating : List (Nat × List (Nat × Nat × Inst)) := []
  readying : Word := 0
  /-- region cycle of the last line request of the load (0) and store (1) engine, and the slot it served (R138) -/
  lineRc : Tab Nat := []
  lastSlot : Tab Nat := []
  /-- streaming ports, by berth, the read ports 3 higher: the region cycle of the last words moved, their banks, and
  whether a bank conflict has stopped the port in it (R115, R136) -/
  port : Tab (Nat × List Nat × Bool) := []
  /-- region cycle of the last ARM of the breakpoint (R246), and a trigger whose hold opens in the region cycle after it:
  that region cycle and its schedule time (R247, R248) -/
  brkRc : Nat := 0
  brkHold : Option (Nat × Nat) := none
  /-- the reference point of the event in LATE_FIRST, whole (R187) -/
  lateRef : Nat := 0
  deriving DecidableEq, Repr

/-- A line of a Basin (R123, R125); `age` orders recency, the larger the more recent. -/
structure BLine where
  set : Nat
  way : Nat
  la : Nat
  ctx : Nat
  pinned : Bool := false
  age : Int := 0
  data : List Byte
  deriving DecidableEq, Repr

/-- A region. -/
structure Region where
  /-- its clock runs; it is frozen by a capture (R481) -/
  clockOn : Bool := false
  frozen : Bool := false
  /-- row of the table of R169 in force, and a rise that waits for its voltage (R383) -/
  tier : Nat := 3
  basin : List BLine := []
  requests : List LineReq := []
  /-- fills whose data has come (R126) -/
  fills : List (QReq × List Byte) := []
  /-- lines of the pin plan that hold no pin any more, by context: refused, or lost with a way (R131) -/
  unpinned : List (Nat × Nat) := []
  /-- ways on their way to another use, with that use (R128) -/
  wayTo : Tab Nat := []
  /-- the last region cycle in which the Basin took requests, and how many (R126) -/
  served : Nat × Nat := (0, 0)
  /-- the last sample of the tide's low 20 bits, and the 44 bits above them as the tide unit holds them (R162) -/
  tideLow : Nat := 0
  tideHigh : Nat := 0
  /-- tides of the codes 0x103 and 0x104 by way (R135) -/
  wayErrors : Tab (List Nat) := []
  /-- a change of voltage code that is not acknowledged, the time of the last change, a code that waits for the
  acknowledgement, the tide at which the acknowledgement came, the time at which it fell unasked (R383, R395, R443) -/
  codePending : Bool := false
  codeAt : Nat := 0
  want : Option Nat := none
  ackAt : Nat := 0
  fallAt : Option Nat := none
  /-- a rise to a row of R169 that waits, and a lower code with the region cycle of the change it follows (R383) -/
  rise : Option Nat := none
  lower : Option (Nat × Nat) := none
  /-- time of the last change of frequency or voltage (R395) -/
  changedAt : Nat := 0
  /-- GAUGE_REGION and GAUGE_CANARY of the region; hits since the last hourly point; codes raised by the re-plan in
  progress (R387 to R389) -/
  gauge : Word := 0
  replicas : List (BitVec 16) := []
  hits : Word := 0
  hourHits : Bool := false
  replan : Option Nat := none
  /-- a re-plan was blocked: it is tried again after a manifest load (R389) -/
  blocked : Bool := false
  deriving DecidableEq, Repr

/-- A registered voyage: the manifest image of each leg (R316). -/
structure Voyage where
  paramBytes : Nat
  legs : List (List Byte)
  deriving DecidableEq, Repr

/-- A LAUNCH in progress (R315): its queue, voyage and patched parameter block, the leg whose lead is next or done,
the tick at which that lead was ready, and whether a BASE has been fixed. -/
structure Launch where
  id : Nat
  queue : Nat
  seq : Nat
  voyage : Nat
  params : List Byte
  test : Bool
  rt : Bool
  leg : Nat := 0
  /-- tick at which the lead of `leg` was complete, with the variant and each stage's tiling -/
  ready : Option Nat := none
  variant : Nat := 1
  tilings : Tab Nat := []
  based : Bool := false
  /-- due point in schedule time (R322) -/
  due : Option Nat := none
  /-- its place in its item (R310) -/
  cmd : Nat := 0
  deriving DecidableEq, Repr

/-- A leg whose BASE is fixed (R315, R319): its launch, its BASE in schedule time and its span, its cores with the
number of its stream on each, its bollard values (core, bollard, value; core 0xFFFF for a block bollard), VX_FLAG_BASE
of its cores, its barrier count, the end of the leg before it, and whether BASE has been reached. -/
structure LegRun where
  launch : Nat
  leg : Nat
  rt : Bool
  base : Nat
  span : Nat
  cores : List (Nat × Nat)
  inits : List (Nat × Nat × Nat) := []
  flags : List (Nat × Nat) := []
  barrier : Nat := 0
  prev : Nat := 0
  begun : Bool := false
  deriving DecidableEq, Repr

/-- A request of a twin at the pair gate (R361): manifest core, side, path, and what it would do. -/
structure GateReq where
  mindex : Nat
  side : Nat
  path : Nat
  write : Option LineReq := none
  /-- block-bollard operation: absolute index, subtract, amount -/
  op : Option (Nat × Bool × Nat) := none
  core : Nat
  ack : Nat
  deriving DecidableEq, Repr

/-- A context (R299). -/
structure Ctx where
  regions : List Nat := []
  ways : Nat := 0
  paired : Bool := false
  /-- TIDE_OFFSET (R165) -/
  offset : Nat := 0
  /-- stamp of an armed resume in schedule time as written, and its effective block tide (R174) -/
  resume : Option (Nat × Nat) := none
  /-- cached translations: page base, page size, physical base, writable (R303) -/
  tlb : List (Nat × Nat × Nat × Bool) := []
  voyages : Tab Voyage := []
  /-- launches that have started and not completed, in order -/
  launches : List Launch := []
  legs : List LegRun := []
  /-- end of the last leg in schedule time, BASE plus SPAN_TT (R319) -/
  prevEnd : Nat := 0
  nextLaunch : Nat := 0
  /-- the next launch runs its prefetch variant (R154) -/
  prefetch : Bool := true
  /-- a launch has started since the context entered RUNNING -/
  started : Bool := false
  /-- RT doorbells whose wait is open (R319) -/
  rtWait : List Nat := []
  /-- the barrier unit: arrivals awaited and arrived (R152) -/
  barrierCount : Nat := 0
  barrierIn : List Nat := []
  gate : List GateReq := []
  /-- cores failed and not replaced, and the fault's code (R365, R371) -/
  failed : List Nat := []
  lostBy : Nat := 0
  /-- the instant, in quarters of a tick, in which the context became LOST -/
  lostAt : Option Nat := none
  r68 : Bool := false
  /-- a detach that has not been carried out: side and the tide of the fault (R365) -/
  detach : Option (Nat × Nat) := none
  /-- manifest index to physical core, for relocated cores (R366) -/
  detours : List (Nat × Nat) := []
  /-- a rebuild in progress: 0 the hold is on its way, 1 the resume is armed (R366) -/
  rebuildAt : Option Nat := none
  /-- failed cores with the spares whose segments are being powered for them (R366) -/
  spares : List (Nat × Nat) := []
  /-- a replay that waits for the segments of its spares (R371) -/
  replaying : Bool := false
  deriving DecidableEq, Repr

/-- A command of an item (R313). -/
structure Cmd where
  op : Nat
  arg : Nat
  hdr : DWord
  words : List DWord
  deriving DecidableEq, Repr

/-- A LOOP being run (R313). -/
structure LoopFrame where
  first : Nat
  stop : Nat
  left : Nat
  cond : Nat
  ref : DWord
  value : DWord
  deriving DecidableEq, Repr

/-- A command buffer being run: the item itself or a CALL. -/
structure CFrame where
  cmds : List Cmd
  pc : Nat := 0
  loops : List LoopFrame := []
  deriving DecidableEq, Repr

/-- An accepted item (R306). -/
structure Item where
  seq : Nat
  bytes : List Byte
  deriving DecidableEq, Repr

/-- A COPY or FILL running in the background (R309). -/
structure Transfer where
  fill : Bool
  src : Nat
  dst : Nat
  len : Nat
  value : Word
  cmd : Nat
  start : Nat
  deriving DecidableEq, Repr

/-- An ENQUEUE in progress (R312). -/
structure Deposit where
  target : Nat
  bytes : List Byte
  done : Nat := 0
  /-- a FLUSH has discarded what was deposited, and how often the producer has been told so -/
  cut : Bool := false
  cuts : Nat := 0
  deriving DecidableEq, Repr

/-- The item in execution (R309). -/
structure Exec where
  item : Item
  stack : List CFrame
  transfers : List Transfer := []
  launches : List Nat := []
  /-- a WAIT, IF or LOOP whose condition is being evaluated (R322) -/
  waiting : Bool := false
  deposit : Option Deposit := none
  /-- the command's start in schedule time -/
  start : Nat := 0
  task : Bool := false
  /-- a failed command: status, detail, command index (R309) -/
  failed : Option (Nat × Nat × Nat) := none
  deriving DecidableEq, Repr

/-- An item that has ended and whose completion is still to be written (R310). -/
structure Ended where
  seq : Nat
  status : Nat
  detail : Nat
  cmd : Nat
  deriving DecidableEq, Repr

/-- A queue of the Dispatchers (R305). -/
structure Queue where
  push : Nat := 0
  accepted : List Item := []
  exec : Option Exec := none
  ended : List Ended := []
  /-- a partly deposited item: the producer queue (R312) -/
  part : Option Nat := none
  /-- a fetch failed and is not repeated until RESET or BIND -/
  stuck : Bool := false
  deriving DecidableEq, Repr

/-- A commit armed on a page: the captured values by address, and its own effective stamp (R190, R191). -/
structure Commit where
  page : Nat
  vals : List (Nat × Word)
  stamp : Nat
  deriving DecidableEq, Repr

/-- A commit group: the stamp asked for, the effective stamp, the members (R192). -/
structure Group where
  want : Nat
  stamp : Nat
  members : List Commit
  deriving DecidableEq, Repr

/-- A Wharf load (R290 to R292): its regions, its source, the stream, the place of the next record in the body, the open
broadcast mask, the last FRAME's data, the frame writes and reject codes so far. -/
structure WLoad where
  regions : List Nat
  slip : Bool
  /-- the slipway stream has not come -/
  waiting : Bool := false
  golden : Bool := false
  /-- a load of an update: no golden image is tried (R350) -/
  alone : Bool := false
  /-- the regions whose requests wait for a slipway stream that they share (R439) -/
  asked : List Nat := []
  src : Nat := 0
  bytes : List Byte := []
  /-- payload bytes that the transfer framed -/
  sent : Nat := 0
  pos : Nat := 0
  mask : Option (List Byte) := none
  frame : Option (List Byte) := none
  frames : Nat := 0
  ended : Bool := false
  code : Nat := 0
  primary : Nat := 0
  deriving DecidableEq, Repr

/-- The boot ROM (R339): the route in use (0 none, 1 GO, 2 slipway), the Pilot image as it came, and whether the transfer
or fetch brought exactly its bytes. -/
structure Boot where
  route : Nat := 0
  image : List Byte := []
  whole : Bool := false
  deriving DecidableEq, Repr

/-- The Pilot and the Crew. -/
structure Pilot where
  /-- time of the last heartbeat; it has stopped for good (R373) -/
  beat : Nat := 0
  stopped : Bool := false
  /-- the key of the Pilot image that runs (R337) -/
  pubkey : List Byte := []
  /-- the images that run, as the Pilot half holds them (R335) -/
  pilotImage : List Byte := []
  crewImage : List Byte := []
  /-- the boot parameters that passed their checks (R341) -/
  params : Option (List Byte) := none
  /-- K of R344; the test access clears it (R489) -/
  ledgerKey : List Byte := []
  /-- rewrites from the Pilot's mirror: address, value and stamp (R363) -/
  fixes : List (Nat × Word × Nat) := []
  /-- a ledger record is due after a re-plan or a way retirement, or at READY; time of the last record, of the last hourly
  point and of READY; the SEQ of the last record; HOURS of the ledger applied (R344, R346) -/
  ledgerDue : Bool := false
  ledgerAt : Option Nat := none
  hourAt : Nat := 0
  ledgerSeq : Nat := 0
  /-- the host quay has answered the ledger record in flight with an error (R427) -/
  writeErr : Bool := false
  hours : Nat := 0
  /-- regions that the ledger keeps off (R390) -/
  regionOff : List Nat := []
  /-- the Crew is halted after its third fault; the times of its faults (R347) -/
  crewDown : Bool := false
  crewUp : Bool := false
  crewFaults : List Nat := []
  /-- an access of a Crew core has been refused, and no Crew fault has answered it (R335, R347) -/
  refused : Bool := false
  /-- a handover of the Pilot is in progress: the time by which it must have ended (R353) -/
  handover : Option Nat := none
  /-- a lead pause: since when, and when it ends at the latest (R347, R348, R350) -/
  pause : Option (Nat × Nat) := none
  deriving DecidableEq, Repr

/-- The update in hand (R349 to R351): its names, the image staged and the one it replaces, its regions, its activation
stamp E, and the time at which it became ACTIVE. -/
structure Update where
  ctx : Nat := 0
  voyage : Nat := 0
  new_ : Nat := 0
  image : List Byte := []
  old : List Byte := []
  regions : List Nat := []
  stamp : Nat := 0
  activeAt : Nat := 0
  /-- cores whose plane the update has changed; a load that could not be started; the code of a fault that reverts -/
  cores : List Nat := []
  blocked : Bool := false
  fault : Nat := 0
  deriving DecidableEq, Repr

/-- The link layer of a jetty port (R401 to R404, R416). -/
structure Link where
  up : Bool := false
  /-- next SEQ to send, and the flits sent and not acknowledged with the time of their first transmission -/
  tx : Nat := 0
  buf : List (Nat × List Byte × Nat) := []
  /-- time of the last progress of ACK -/
  ackAt : Nat := 0
  /-- next SEQ expected; DATA is ignored until it comes -/
  rx : Nat := 0
  deaf : Bool := false
  heardAt : Nat := 0
  sentAt : Nat := 0
  /-- flits received since a flit was last sent, and the time of the first of them -/
  unacked : Nat := 0
  unackedAt : Nat := 0
  /-- credits spent and credits owed, by virtual channel -/
  spent : Tab Nat := []
  owed : Tab Nat := []
  /-- slots of packets that have come in part, by source and virtual channel -/
  parts : Tab (List (List Byte)) := []
  restartAt : Nat := 0
  /-- the flit last driven on the port -/
  out : List Byte := []
  deriving DecidableEq, Repr

/-- An addition of the bollard window that waits (R408): source, channel, absolute bollard, amount, the request, and the
number below which a request here is an earlier one. -/
structure WindowAdd where
  src : Nat
  vc : Nat
  bol : Nat
  amount : Nat
  id : Nat
  epoch : Nat
  before : Nat
  deriving DecidableEq, Repr

/-- What the block holds of its convoy (R406 to R416). -/
structure Convoy where
  /-- CONVOY_ROUTE by destination; the port last selected; ends of the detour fences -/
  routes : Tab Word := []
  port : Tab Nat := []
  fences : Tab (Nat × Nat) := []
  outbox : List OutSlot := []
  adds : List WindowAdd := []
  /-- muster records heard, with the own tide at their arrival; time of MUSTER; RATE; members refused by rule 6 -/
  records : List (List Byte × Nat) := []
  musterAt : Nat := 0
  rate : Int := 0
  excluded : List Nat := []
  /-- a muster that has been decided: forward step still to be made, tier cap and its stamp, the new epoch -/
  step : Option Nat := none
  cap : Option (Nat × Nat) := none
  forming : Option Nat := none
  /-- the smallest FLOOR of the members (R413, R415) -/
  floor : Nat := 7
  /-- members lost (R416); the tide since when the lag is outside its bounds (R412) -/
  lost : List Nat := []
  skewSince : Option Nat := none
  deriving DecidableEq, Repr

/-- The whole block. -/
structure State where
  pending : List Instr := []
  clk : Clk := {}
  build : Build := Build.jx1024
  reg : Tab Word := []
  core : Tab Core := []
  region : Tab Region := []
  ctx : Tab Ctx := []
  queue : Tab Queue := []
  bbol : Tab Word := []
  hostMem : Mem := []
  devMem : Mem := []
  rdata : Tab Word := []
  flog : Tab (BitVec 128) := []
  /-- RESET_N is low; the QUIET output (R338, R374) -/
  inReset : Bool := true
  quiet : Bool := true
  /-- words staged by a write of a _LO register, and high words latched by a read of one, by party and address; the
  selectors and addresses held per party (R454, R455) -/
  staged : Tab Word := []
  latched : Tab Word := []
  select : Tab Word := []
  /-- the links of the Channel that have carried a flit, and the number of the next packet (R250) -/
  net : List ChLink := []
  nextPkt : Nat := 1
  /-- requests outstanding at the quays, and at other members of the convoy; the number of the next request -/
  quays : List QReq := []
  remote : List LineReq := []
  nextId : Nat := 1
  /-- block-bollard operations on their way, and those of the present tick in order of arrival (R238, R240) -/
  bbolIn : List BBolOp := []
  bbolNow : List BBolOp := []
  /-- carve-out of the boot parameters (R335) -/
  carve : Option Nat := none
  /-- ways retired for the life of the block, by region (R135) -/
  retired : List (Nat × Nat) := []
  /-- time of a quay's last frame granted to each context, to other contexts and to BK (R261) -/
  share : Tab (List (Nat × Nat)) := []
  /-- second, plus 1, of the last entry of a code that is entered once per page and second (R358) -/
  once : Tab Nat := []
  /-- cores withdrawn with the spares that have taken their places (R343, R366) -/
  subst : List (Nat × Nat) := []
  groups : List Group := []
  wload : Tab WLoad := []
  pilot : Pilot := {}
  boot : Boot := {}
  update : Update := {}
  link : Tab Link := []
  convoy : Convoy := {}
  /-- stamp of the armed capture (R479) -/
  capStamp : Nat := 0
  /-- the 80 bits that the last test access shifted out (R484); the instruction registers of the wrapper and of the TAP, and the
  wrapper's boundary register as last shifted (R487, R488) -/
  scan : BitVec 80 := 0
  wir : BitVec 8 := 0
  tapIr : BitVec 4 := 0xF
  boundary : BitVec 80 := 0
  /-- RT_SHARE before its last change, and the stamp of that change (R392) -/
  rtWas : Nat × Nat := (0, 0)
  /-- pins and tie-offs: LIFELINE, TEST_EN, SLIP_MODE as sampled, ROOT_KEY_DIGEST, UNIQUE_ID (R373, R423, R489) -/
  lifeline : Bool := false
  lifelineAt : Nat := 0
  testEn : Bool := false
  slipMode : BitVec 2 := 0
  rootKey : BitVec 384 := 0
  uniqueId : BitVec 128 := 0
  /-- period of the memory-quay clock in ps, as the integrator declares it (R256, R422) -/
  quayPs : Nat := 625
  deriving DecidableEq, Repr

/-- The block while RESET_N is low at power-up: every register at its reset value (R338, R447). What the manual leaves
open of it is in log 11. -/
def State.reset : State := {}

end Sys2Proof.Machine
end

