-- ==== Sys2Proof/Machine/Ops.lean ====
section
/-! DEFINITION. The named operations that the meanings share: the pages of the window (R450), register words, events
(R462), the report of a fault and its log entry (R357, R358), the stop of a core (R47), the loss of a context (R326),
bollard updates (R231), and the frame that every ordinary command keeps. -/

namespace Sys2Proof.Machine

/-- The outcome type of the meanings. -/
abbrev Out := Host.Outcome State Fault Refusal

/-- `f` when `b`, nothing otherwise: the occasion of a command (log 2). -/
def when (b : Bool) (f : State → State) (s : State) : State := if b then f s else s

/-! Pages (R450). -/

def bootP : Nat := 0x0000
def identP : Nat := 0x1000
def modeP : Nat := 0x2000
def tideP : Nat := 0x3000
def gaugeP : Nat := 0x4000
def faultP : Nat := 0x5000
def updateP : Nat := 0x6000
def slipP : Nat := 0x7000
def captureP : Nat := 0x8000
def convoyP : Nat := 0x9000
def ctxP (c : Nat) : Nat := 0x10000 + c * 0x1000
def queueP (q : Nat) : Nat := 0x20000 + q * 0x1000
def regionP (r : Nat) : Nat := 0x60000 + r * 0x1000
def basinP (r : Nat) : Nat := 0x70000 + r * 0x1000
def wharfP (r : Nat) : Nat := 0x80000 + r * 0x1000
def quayP (m : Nat) : Nat := 0x90000 + m * 0x1000
def jettyP (j : Nat) : Nat := 0xA0000 + j * 0x1000
def coreP (k : Nat) : Nat := 0x100000 + k * 0x1000

/-- The i-th counter of a CORE page, in the order of R474: 0 SPILL_USED, 1 SPILL_CLAMP, 2 SPILL_SAT, 3 SAT_COUNT,
4 SENT_SAMPLES, 5 SENT_EVENTS, 6 SENT_ERR, 7 SENT_REF, 8 MX_INSTR, 9 MX_TILES, 10 MX_BUSY, 11 MX_FALLBACK,
12 MX_SPILL_TERMS, 13 VX_INSTR, 14 VX_BEATS, 15 VX_WCYCLES, 16 VX_HOLD, 17 BERTH_CE_COUNT, 18 STREAM_PORT_CONFLICT,
19 LD_LINES, 20 ST_LINES, 21 HALO_WORDS, 22 STRM_WAIT, 23 STRM_SLOT_WAIT, 24 HOLD_WAIT, 25 LATE_EVENTS, 26 LATE_TT,
27 BOL_LOCAL_OPS, 28 BOL_REMOTE_IN, 29 FENCE_RC, 30 CHART_CE_COUNT, 31 WHARF_SPURIOUS. -/
def cnt (k i : Nat) : Nat := coreP k + 0x300 + 4 * i

/-- The type code and instance of the page at a window address; code 0 where R450 maps none. -/
def pageOf (a : Nat) : Nat × Nat :=
  let p := a / 0x1000
  if p < 10 then (p + 1, 0)
  else if 0x10 ≤ p ∧ p < 0x20 then (0x10, p - 0x10)
  else if 0x20 ≤ p ∧ p < 0x60 then (0x11, p - 0x20)
  else if 0x60 ≤ p ∧ p < 0x70 then (0x20, p - 0x60)
  else if 0x70 ≤ p ∧ p < 0x80 then (0x21, p - 0x70)
  else if 0x80 ≤ p ∧ p < 0x90 then (0x22, p - 0x80)
  else if 0x90 ≤ p ∧ p < 0xA0 then (0x40, p - 0x90)
  else if 0xA0 ≤ p ∧ p < 0xB0 then (0x41, p - 0xA0)
  else if 0x100 ≤ p ∧ p < 0x540 then (0x30, p - 0x100)
  else (0, 0)

/-- The build has the instance of a page (R9). -/
def Build.hasPage (b : Build) (code inst : Nat) : Bool :=
  match code with
  | 0 => false
  | 0x20 | 0x21 | 0x22 => inst < b.regions
  | 0x30 => inst < b.physCores
  | 0x40 => inst < b.quays
  | 0x41 => inst < b.jetties
  | _ => true

/-- Pages with a shadow half (R450). -/
def pageShadow (code : Nat) : Bool := [3, 0x20, 0x21, 0x22, 0x30].contains code

/-- The host's and the Crew's tags: 0 NONE, 1 READ, 2 LISTED, 3 ALL (R450, R459). -/
def hostTag (code : Nat) : Nat :=
  match code with
  | 2 | 4 => 1
  | 5 | 6 | 8 | 0x10 | 0x20 | 0x21 | 0x30 | 0x40 => 2
  | 0 => 0
  | _ => 3

def crewTag (code : Nat) : Nat :=
  match code with
  | 5 | 6 | 0x10 | 0x21 | 0x30 => 2
  | 0 => 0
  | _ => 1

/-! Register words. Offsets of the header (R451). -/

def oACCESS : Nat := 0x008
def oSEQ : Nat := 0x00C
def oCTRL : Nat := 0x010
def oSTATUS : Nat := 0x014
def oEVENT : Nat := 0x018
def oMASK : Nat := 0x01C
def oFCODE : Nat := 0x020
def oFINFO : Nat := 0x024
def oCOMMIT : Nat := 0x028
def oCTIDE : Nat := 0x02C

/-- The reset value of a register word held in the table, by page code and offset. -/
def regReset (a : Nat) : Word :=
  let off := a % 0x1000
  match (pageOf a).1, off with
  | 6, 0x01C => 0x20
  | 7, 0x054 => 10000
  | 0x20, 0x040 => 0x396
  | 0x20, 0x840 => 0x396
  | 0x20, 0x044 => 0xC0000000
  | 0x40, 0x040 => 450
  | 0x41, 0x040 => 16
  | _, _ => 0

namespace State

/-- The word at a window address. -/
def rd (s : State) (a : Nat) : Word := Tab.get (regReset a) s.reg a

/-- The word written. -/
def wr (s : State) (a : Nat) (v : Word) : State := { s with reg := Tab.put s.reg a v }

/-- A pair of words as one value. -/
def rd64 (s : State) (a : Nat) : Nat := (s.rd a).toNat + (s.rd (a + 4)).toNat * 2 ^ 32

def wr64 (s : State) (a : Nat) (v : Nat) : State := (s.wr a (loWord v)).wr (a + 4) (hiWord v)

/-- A CNT counter advanced, saturating (R456). -/
def count (s : State) (a n : Nat) : State := if n = 0 then s else s.wr a (satAdd (s.rd a) n)

/-- A field of a word replaced. -/
def wrField (s : State) (a hi lo x : Nat) : State := s.wr a (setField (s.rd a) hi lo x)

/-- Bits set in a word. -/
def orBits (s : State) (a : Nat) (m : Word) : State := s.wr a (s.rd a ||| m)

/-- An EVENT bit of a page (R462). -/
def event (s : State) (page bit : Nat) : State := s.orBits (page + oEVENT) (word (2 ^ bit))

def getCore (s : State) (k : Nat) : Core := Tab.get {} s.core k
def setCore (s : State) (k : Nat) (c : Core) : State := { s with core := Tab.put s.core k c }
def modCore (s : State) (k : Nat) (f : Core → Core) : State := s.setCore k (f (s.getCore k))
def getRegion (s : State) (r : Nat) : Region := Tab.get {} s.region r
def setRegion (s : State) (r : Nat) (x : Region) : State := { s with region := Tab.put s.region r x }
def modRegion (s : State) (r : Nat) (f : Region → Region) : State := s.setRegion r (f (s.getRegion r))
def getCtx (s : State) (c : Nat) : Ctx := Tab.get {} s.ctx c
def setCtx (s : State) (c : Nat) (x : Ctx) : State := { s with ctx := Tab.put s.ctx c x }
def modCtx (s : State) (c : Nat) (f : Ctx → Ctx) : State := s.setCtx c (f (s.getCtx c))
def getQueue (s : State) (q : Nat) : Queue := Tab.get {} s.queue q
def setQueue (s : State) (q : Nat) (x : Queue) : State := { s with queue := Tab.put s.queue q x }
def modQueue (s : State) (q : Nat) (f : Queue → Queue) : State := s.setQueue q (f (s.getQueue q))

/-- The region of a core. -/
def regionOf (s : State) (k : Nat) : Nat := s.build.regionOf k

/-- Region cycles of a region, and of a core's region. -/
def rcOf (s : State) (r : Nat) : Nat := Tab.get 0 s.clk.rc r
def coreRc (s : State) (k : Nat) : Nat := s.rcOf (s.regionOf k)

/-- The present reading of the tide (R161). -/
def tide (s : State) : Nat := s.clk.tide

/-- Schedule time of a context (R165). -/
def sched (s : State) (c : Nat) : Nat := s.clk.tide - (s.getCtx c).offset

/-- CTX_STATUS STATE and EPOCH (R329). -/
def ctxState (s : State) (c : Nat) : Nat := fieldOf (s.rd (ctxP c + oSTATUS)) 2 0
def epoch (s : State) (c : Nat) : Nat := fieldOf (s.rd (ctxP c + oSTATUS)) 31 16

/-- STATE of a context changed, with its event (R462). -/
def setCtxState (s : State) (c st : Nat) : State :=
  (s.wrField (ctxP c + oSTATUS) 2 0 st).event (ctxP c) 1

/-- BOOT STATE (R340). -/
def bootState (s : State) : Nat := fieldOf (s.rd (bootP + oSTATUS)) 31 28

/-- The block serves: the Pilot runs and QUIET does not hold it (STATE PILOT_UP, READY or DEGRADED; R338, R340, R374). -/
def awake (s : State) : Bool := let b := s.bootState; decide (3 ≤ b) && decide (b ≤ 5)

/-- The clock of a region runs (R374, R443, R481). -/
def clocked (s : State) (r : Nat) : Bool := (s.getRegion r).clockOn && !(s.getRegion r).frozen

/-- The axes of MODE in force (R465). -/
def neap (s : State) : Bool := bitOf (s.rd (modeP + 0x40)) 0
def pairedMode (s : State) : Bool := bitOf (s.rd (modeP + 0x40)) 1
def rtShare (s : State) : Nat := [0, 64, 128, 256].getD (fieldOf (s.rd (modeP + 0x40)) 3 2) 0

/-- The same in the window that begins at a tide: a change counts from the first window that begins at or after its stamp
(R318, R392). -/
def rtShareIn (s : State) (window : Nat) : Nat := if window < s.rtWas.2 then s.rtWas.1 else s.rtShare
def lean (s : State) : Bool := bitOf (s.rd (modeP + 0x40)) 4
def pinOnly (s : State) : Bool := bitOf (s.rd (modeP + 0x40)) 5
def adapt (s : State) : Bool := bitOf (s.rd (modeP + 0x40)) 6

/-! Faults. -/

/-- An entry of the log of R358 and the events that go with it. -/
def logEntry (s : State) (page code : Nat) (info : Word) (ctx : Option Nat) (outcome : Nat) : State :=
  let w := (s.rd (faultP + 0x40)).toNat
  let lostOne := (2 ^ 32 + w - (s.rd (faultP + 0x78)).toNat) % 2 ^ 32 ≥ 256
  let p := pageOf page
  let e : Nat := (ctx.getD 0) % 16 * 2 ^ 124 + (if ctx.isSome then 2 ^ 123 else 0) + outcome % 8 * 2 ^ 120
    + s.clk.tide % 2 ^ 56 * 2 ^ 64 + info.toNat * 2 ^ 32 + code % 2 ^ 12 * 2 ^ 20 + p.1 % 2 ^ 8 * 2 ^ 12 + p.2 % 2 ^ 12
  let s := { s with flog := Tab.put s.flog (w % 256) (BitVec.ofNat 128 e) }
  let s := s.wr (faultP + 0x40) (word (w + 1))
  let s := if lostOne then
      ((s.count (faultP + 0x58) 1).event faultP 4).wr (faultP + 0x78) (s.rd (faultP + 0x78) + 1)
    else s
  let s := s.event faultP 0
  let s := if outcome = 4 then s.event faultP 1 else s
  let s := if outcome = 2 then s.event faultP 2 else s
  if code / 256 = 3 ∨ outcome = 5 then s.event faultP 3 else s

/-- Codes entered once per page and second (R358). -/
def loggedOnce (code : Nat) : Bool := code / 256 = 1 || code = 0x803 || code = 0x804

/-- The log entry of a fault, under the once-per-second rule of R358; codes 0x801 and 0x802 come here under R186. -/
def logFault (s : State) (page code : Nat) (info : Word) (ctx : Option Nat) (outcome : Nat) : State :=
  if loggedOnce code then
    let key := page * 0x1000 + code
    let now := s.clk.tide / 625000000 + 1
    if Tab.get 0 s.once key = now then s
    else ({ s with once := Tab.put s.once key now }).logEntry page code info ctx outcome
  else s.logEntry page code info ctx outcome

/-- FAULT_CODE, FAULT_INFO and EVENT bit 31 of a page (R357, R462). -/
def recordFault (s : State) (page code : Nat) (info : Word) : State :=
  let f := s.rd (page + oFCODE)
  let s := s.wr (page + oFCODE) (word (min (fieldOf f 31 16 + 1) 65535 * 2 ^ 16 + code % 2 ^ 12))
  let s := s.wr (page + oFINFO) info
  if page = faultP then s else s.event page 31

/-- A fault reported on a page and entered in the log (R356 to R358). -/
def raise (s : State) (page code : Nat) (info : Word := 0) (ctx : Option Nat := none) (outcome : Nat := 0) : State :=
  (s.recordFault page code info).logFault page code info ctx outcome

/-- The configuration fault of a refused access (R359, R460). -/
def configFault (s : State) (page : Nat) (info : Word := 0) : State := s.raise page 0x600 info

/-- ATTN_REQ (R358). -/
def attn (s : State) : State := s.event faultP 5

/-- UPD_STATUS: STAGE and KIND (R351). -/
def updStage (s : State) : Nat := fieldOf (s.rd (updateP + oSTATUS)) 31 28
def updKind (s : State) : Nat := fieldOf (s.rd (updateP + oSTATUS)) 27 24

/-- A Pilot handover is in progress (R353). -/
def handing (s : State) : Bool := s.pilot.handover.isSome

/-- STAGE changes, with its event (R462). -/
def setUpd (s : State) (n : Nat) : State := (s.wrField (updateP + oSTATUS) 31 28 n).event updateP 0

/-- An update ends FAILED with a code in ERR; ATTN (R349). -/
def updFail (s : State) (code : Nat) : State :=
  (((s.wrField (updateP + oSTATUS) 23 12 code).wrField (updateP + oSTATUS) 10 10 0).setUpd 6).attn

/-- The queues bound to a context. -/
def queuesOf (s : State) (c : Nat) : List Nat :=
  (List.range 64).filter fun q =>
    fieldOf (s.rd (queueP q + oSTATUS)) 31 30 ≠ 0 && fieldOf (s.rd (queueP q + 0x50)) 23 20 == c

/-- The item in execution ends with a status; its completion is still to be written (R309, R310). The command index is
that of the item's own buffer, 0xFFFF when none had started. -/
def endItem (s : State) (q status detail : Nat) : State :=
  let x := s.getQueue q
  match x.exec with
  | none => s
  | some e =>
    let cmd := match e.failed with
      | some f => f.2.2
      | none => if status = 0 then 0xFFFF else
          match e.stack.getLast? with
          | some f => if 1 < e.stack.length then f.pc - 1 else f.pc
          | none => 0xFFFF
    s.setQueue q { x with exec := none, ended := x.ended ++ [⟨e.item.seq, status, detail, cmd⟩] }

/-- Every executing item of a context ends with a status. -/
def endItems (s : State) (c status : Nat) : State :=
  (s.queuesOf c).foldl (fun s q => s.endItem q status 0) s

/-- The present instant, in quarters of a tick. -/
def instant (s : State) : Nat := 4 * s.clk.time + s.clk.quarter

/-- A context becomes LOST (R326): engines stop issuing because the state is read at each issue, executing items
complete LOST, EPOCH advances (R325), a hold or an armed resume is abandoned, leads and the running leg are dropped. -/
def loseCtx (s : State) (c code : Nat) (r68 : Bool := false) : State :=
  let st := s.ctxState c
  if 1 ≤ st ∧ st ≤ 3 then
    let s := s.endItems c 1
    let s := s.setCtxState c 4
    let s := s.wrField (ctxP c + oSTATUS) 31 16 (s.epoch c + 1)
    s.modCtx c fun x => { x with resume := none, launches := [], legs := [], rtWait := [], lostBy := code,
                                 lostAt := some s.instant, r68 := r68, gate := [], detach := none, rebuildAt := none, spares := [] }
  else s

/-- A context fault that ends the context (R326), reported on its CONTEXT page. -/
def ctxFatal (s : State) (c code : Nat) (info : Word := 0) : State :=
  (s.raise (ctxP c) code info (some c) 4).loseCtx c code

/-- A parity or double-bit error in the context's Dispatcher (path 5) or barrier unit (path 6) (R359). -/
def controlUe (s : State) (c path : Nat) : State := s.ctxFatal c 0x962 (word (path * 2 ^ 12 + 0xFFF))

/-- The side of a core in a Paired context: even regions 0, odd regions 1 (R360). -/
def sideOf (s : State) (k : Nat) : Nat := s.regionOf k % 2

/-- PAIR_STATUS STATE (R368). -/
def pairState (s : State) (c : Nat) : Nat := fieldOf (s.rd (ctxP c + 0xAC)) 31 30

def setPairState (s : State) (c st : Nat) : State := (s.wrField (ctxP c + 0xAC) 31 30 st).event (ctxP c) 3

/-- CORE_STATUS (R475), from the core's record. -/
def coreStatus (s : State) (k : Nat) : Word :=
  let x := s.getCore k
  word (x.state * 2 ^ 29 + (if s.build.isSpare k then 2 ^ 28 else 0) + (x.ctx.getD 0) * 2 ^ 24
    + (if x.ctx.isSome then 2 ^ 23 else 0) + (if x.ctx.isSome then x.mindex % 2 ^ 11 * 2 ^ 12 else 0))

/-- Codes to which R68 applies: a deterministic property of the schedule, in Paired mode found by both twins. -/
def r68Code (code : Nat) : Bool :=
  code = 0x200 || (0x212 ≤ code && code ≤ 0x216) || (0x222 ≤ code && code ≤ 0x226)
    || (0x240 ≤ code && code ≤ 0x245) || code = 0x250 || code = 0x251

/-- What a core fault does to the core's context (R365, R368, R370, R376): Single: LOST. Paired and attached: the
side is to be detached; a fault of the other side as well ends the context. Paired and not attached, or r68: LOST. -/
def coreFaultOutcome (s : State) (k code : Nat) (r68 : Bool) : Option Nat × Nat :=
  let x := s.getCore k
  match x.ctx with
  | none => (none, 0)
  | some c =>
    let y := s.getCtx c
    if ¬ (s.ctxState c = 2 ∨ s.ctxState c = 3) then (some c, 0)
    else if ¬ y.paired then (some c, 4)
    else if r68 || r68Code code then (some c, 4)
    else if s.pairState c = 1 then
      match y.detach with
      | some (side, _) => (some c, if side = s.sideOf k then 2 else 4)
      | none => (some c, 2)
    else if fieldOf (s.rd (ctxP c + 0xAC)) 29 29 = s.sideOf k then (some c, 4) else (some c, 0)

/-- A core fault (R47): the page records it, the core stops, and the context follows R356. `r68` says that a rule
applies R68 to this occasion of the code. -/
def coreFault (s : State) (k code : Nat) (info : Word) (r68 : Bool := false) : State :=
  let (c, out) := s.coreFaultOutcome k code r68
  let s := s.raise (coreP k) code info c out
  let s := (s.modCore k fun x => { x with state := if x.state = 3 then 3 else 2 }).event (coreP k) 1
  let s : State := if code = 0x227 ∧ s.update.cores.contains k then { s with update := { s.update with fault := code } } else s
  match c with
  | none => s
  | some c =>
    let s := s.modCtx c fun y => { y with failed := if y.failed.contains k then y.failed else y.failed ++ [k] }
    if out = 4 then s.loseCtx c code (r68 || r68Code code)
    else if out = 2 then
      s.modCtx c fun y => { y with detach := some (y.detach.getD (s.sideOf k, s.clk.tide)), lostBy := code }
    else s

/-- The cores that serve a context. -/
def coresOf (s : State) (c : Nat) : List Nat :=
  (s.core.filter fun e => e.2.ctx = some c).map (·.1)

/-- A context enters tide hold with `T_f` (R155, R156, R173); a second cause while HELD changes no HOLD_TIDE. -/
def holdCtx (s : State) (c tf : Nat) : State :=
  if s.ctxState c = 2 then (s.wr64 (ctxP c + 0x80) tf).setCtxState c 3 else s

/-! Bollards. -/

/-- An update of a core bollard reaches it in this region cycle (R231); it is applied at the cycle's end. -/
def bolQueue (s : State) (k : Nat) (o : BolOp) : State :=
  s.modCore k fun x => { x with bolOps := x.bolOps ++ [o] }

/-- The value of a core bollard: the register BOL_b (R474). -/
def bol (s : State) (k b : Nat) : Nat := (s.rd (coreP k + 0x200 + 4 * b)).toNat

/-- The update of R233 that is reported: the lowest SOURCE, and for it the lowest sender. -/
def worstOp (l : List BolOp) : BolOp :=
  l.foldl (fun a o => if o.source < a.source ∨ (o.source = a.source ∧ o.sender < a.sender) then o else a)
    (l.headD ⟨0, false, 0, 0, 0xFFF⟩)

/-- FAULT_INFO of R233. -/
def bolInfo (b : Nat) (o : BolOp) : Word :=
  word (o.source * 2 ^ 29 + b * 2 ^ 23 + (if o.source = 2 ∨ o.source = 3 then o.sender else 0xFFF) * 2 ^ 11)

/-- SOURCE of an update that is a software write of BOL_b (R232); R233 knows no such source. -/
def bolWritten : Nat := 8

/-- All updates of one bollard in one region cycle as one step: adds saturating, then subs clamping (R231). With a
software write among them the value is what it wrote and the net change of the others, and nothing is raised (R232). -/
def bolStep (s : State) (k b : Nat) (l : List BolOp) : State :=
  let ops := l.filter fun o => o.source ≠ bolWritten
  let adds := ops.filter fun o => !o.sub
  let subs := ops.filter fun o => o.sub
  let sum := (adds.map (·.amount)).sum
  let dn := (subs.map (·.amount)).sum
  match (l.filter fun o => o.source = bolWritten).getLast? with
  | some o => s.wr (coreP k + 0x200 + 4 * b) (word (min (o.amount + sum - dn) (2 ^ 32 - 1)))
  | none =>
    let up := s.bol k b + sum
    let v1 := min up (2 ^ 32 - 1)
    let s := s.wr (coreP k + 0x200 + 4 * b) (word (v1 - dn))
    let s := if up > 2 ^ 32 - 1 then s.coreFault k 0x250 (bolInfo b (worstOp adds)) else s
    if dn > v1 then s.coreFault k 0x251 (bolInfo b (worstOp subs)) else s

/-- The waiting updates of a core's bollards, bollard by bollard, applied. -/
def bolFlush (s : State) (k : Nat) : State :=
  let l := (s.getCore k).bolOps
  let s := s.modCore k fun x => { x with bolOps := [] }
  (List.range 64).foldl (fun s b =>
    let m := l.filter fun o => o.bol = b
    if m.isEmpty then s else s.bolStep k b m) s

end State

/-! The frames of the commands: every one keeps the queue of waiting commands and what the silicon fixes; an ordinary one
keeps the clocks as well, and does nothing while the block does not serve. -/

/-- What no step changes: the waiting commands, the build and the tie-offs (R4, R423). -/
def State.keep (s t : State) : State :=
  { t with pending := s.pending, build := s.build, rootKey := s.rootKey, uniqueId := s.uniqueId,
           quayPs := s.quayPs }

/-- The state after an effect that ends in `t`, on everything but the clocks. -/
def State.framed (s t : State) : State := { s.keep t with clk := s.clk }

/-- A command that leaves the clocks at `c`. -/
def actClk (c : State → Clk) (f : State → State) (s : State) : Out := .next { s.keep (f s) with clk := c s }

/-- A command that acts whatever BOOT STATE is, on everything but the clocks. -/
def actRaw (f : State → State) (s : State) : Out := .next (s.framed (f s))

/-- An ordinary command: its effect `f` while the block serves, nothing otherwise. -/
def act (f : State → State) (s : State) : Out := actRaw (when s.awake f) s

/-- A command that names a part of the build: `Fault.absentPart` where the build has none (log 3). -/
def actAt (present : Bool) (f : State → State) (s : State) : Out :=
  if present then act f s else .fault .absentPart

/-- A read of the window, or a pin: it acts whatever BOOT STATE is. -/
def actRawAt (present : Bool) (f : State → State) (s : State) : Out :=
  if present then actRaw f s else .fault .absentPart

/-- A command of the region clock of core `k`: it acts while that clock runs (R374, R443, R481). -/
def actCore (k : Nat) (present : Bool) (f : State → State) (s : State) : Out :=
  actAt present (when (s.clocked (s.regionOf k)) f) s

/-- A command of the clock of region `r`. -/
def actRegion (r : Nat) (present : Bool) (f : State → State) (s : State) : Out :=
  actAt present (when (s.clocked r) f) s

end Sys2Proof.Machine
end

