-- ==== Sys2Proof/Machine/Channel.lean ====
section
/-! DEFINITION. The Channel (R250 to R270): its nodes and links, the routes (R251, R254, R255), virtual channels (R259),
locks (R256), credit loops (R262, R263), arbitration (R260), and the stages of a path (R264). A flit that is granted
crosses its link at once and stands at the next input port from the cycle that the stages name. -/

namespace Sys2Proof.Machine

/-! Places. -/

/-- The router of the GATEWAY of a region (R251). -/
def gatewayPos (b : Build) (r : Nat) : Nat × Nat :=
  ((r / b.gridCols) * b.regionRows + (b.regionRows - 1), (r % b.gridCols) * b.regionCols + (b.regionCols - 1))

/-- The region of a router. -/
def routerRegion (b : Build) (gr gc : Nat) : Nat := (gr / b.regionRows) * b.gridCols + gc / b.regionCols

/-- The region of a port; those of the block switch have none. -/
def Port.region (b : Build) : Port → Option Nat
  | .core k | .mem k => some (b.regionOf k)
  | .gateway r | .basin r => some r
  | .quay _ | .jetty _ | .hostQuay | .control => none

/-- The region of a node. -/
def Node.region (b : Build) : Node → Option Nat
  | .router gr gc => some (routerRegion b gr gc)
  | .regionSwitch r => some r
  | .blockSwitch => none
  | .port p => p.region b

/-- A link passes through a lock: at a region border of the mesh, at a region's block-switch port, and at the quay, jetty
and host quay ports (R256). -/
def hasLock (b : Build) (x y : Node) : Bool :=
  match x, y with
  | .router gr gc, .router hr hc => routerRegion b gr gc ≠ routerRegion b hr hc
  | .regionSwitch _, .blockSwitch | .blockSwitch, .regionSwitch _ => true
  | .blockSwitch, .port .control | .port .control, .blockSwitch => false
  | .blockSwitch, .port _ | .port _, .blockSwitch => true
  | _, _ => false

/-- Flits per cycle of a link (R250): its width in units of 64 bytes. The Basin returns 512 bytes per rc (R126). -/
def linkWidth (x y : Node) : Nat :=
  match x, y with
  | .regionSwitch _, .blockSwitch | .blockSwitch, .regionSwitch _ => 64
  | .regionSwitch _, .port (.basin _) => 64
  | .port (.basin _), .regionSwitch _ => 8
  | .blockSwitch, .port (.quay _) | .port (.quay _), .blockSwitch => 16
  | .blockSwitch, .port (.jetty _) | .port (.jetty _), .blockSwitch => 4
  | .blockSwitch, .port .control | .port .control, .blockSwitch => 4
  | _, _ => 1

/-- The class of a virtual channel: 0 RT, 1 SC, 2 BK, 3 RC (R259). -/
def vcClass (vc : Nat) : Nat := vc / 2 % 4

/-- The credits of a virtual channel of a link, in flits (R262). Links that the table does not name, to an end of a path
within a region, have the loop of a memory port, and that of the control complex the loop of a quay port (log 64). -/
def creditSize (b : Build) (x y : Node) (vc : Nat) : Nat :=
  let row := match x, y with
    | .router _ _, .router _ _ => if hasLock b x y then [4, 24, 8, 4] else [2, 8, 4, 2]
    | .regionSwitch _, .blockSwitch | .blockSwitch, .regionSwitch _ => [16, 1024, 256, 16]
    | .blockSwitch, .port _ | .port _, .blockSwitch => [16, 512, 128, 16]
    | _, _ => [2, 8, 4, 2]
  row.getD (vcClass vc) 0

/-- Cycles of the receiving node until a flit may be granted onward or is delivered (R264): one in a router, five in the
region switch, six in the block switch, two at a core's ports, one elsewhere. -/
def nodeStage : Node → Nat
  | .router _ _ => 1
  | .regionSwitch _ => 5
  | .blockSwitch => 6
  | .port (.core _) | .port (.mem _) => 2
  | .port _ => 1

/-- The stages of a link: the receiving node's, and four of its cycles for a lock (R256). -/
def linkStage (b : Build) (x y : Node) : Nat := nodeStage y + (if hasLock b x y then 4 else 0)

/-- The place of an input among the inputs of its node: N, E, S, W, CORE, SPARE, GATEWAY at a router, by port index in a
switch (R260). -/
def inputIndex (b : Build) (y x : Node) : Nat :=
  match y, x with
  | .router gr gc, .router hr hc => if hr < gr then 0 else if gc < hc then 1 else if gr < hr then 2 else 3
  | .router _ _, .port (.core k) => if b.isSpare k then 5 else 4
  | .router _ _, _ => 6
  | .regionSwitch _, .port (.mem k) => b.localOf k
  | .regionSwitch _, .port (.basin _) => 100
  | .regionSwitch _, .port (.gateway _) => 101
  | .regionSwitch _, _ => 102
  | .blockSwitch, .regionSwitch r => r
  | .blockSwitch, .port (.quay m) => 16 + m
  | .blockSwitch, .port (.jetty j) => 32 + j
  | .blockSwitch, .port .hostQuay => 48
  | .blockSwitch, _ => 49
  | .port _, _ => 0

/-- The router at which a packet leaves the mesh. -/
def meshExit (b : Build) : Port → Nat × Nat
  | .core k | .mem k => b.globalPos k
  | .gateway r | .basin r => gatewayPos b r
  | _ => (0, 0)

/-- The outputs of a broadcast at a router (R254): west along the quayside row, north up every column, and the ports of the
cores here. -/
def broadcastOuts (b : Build) (gr gc : Nat) : List Node :=
  let row := gr % b.regionRows
  let col := gc % b.regionCols
  let r := routerRegion b gr gc
  let quayside := row + 1 = b.regionRows
  (if 0 < row then [Node.router (gr - 1) gc] else []) ++ (if quayside ∧ 0 < col then [Node.router gr (gc - 1)] else [])
    ++ [Node.port (.core (r * b.stride + row * b.regionCols + col))]
    ++ (if quayside ∧ col < b.spares then [Node.port (.core (r * b.stride + b.active + col))] else [])

/-- The outputs that a packet takes at a node: XY order on the mesh, the tree of the memory path elsewhere (R254,
R255). -/
def routeOf (b : Build) (n : Node) (p : Packet) : List Node :=
  match n with
  | .port (.core k) => let g := b.globalPos k; [.router g.1 g.2]
  | .port (.gateway r) => let g := gatewayPos b r; [.router g.1 g.2]
  | .port (.mem k) => [.regionSwitch (b.regionOf k)]
  | .port (.basin r) => [.regionSwitch r]
  | .port _ => [.blockSwitch]
  | .router gr gc =>
    if p.all then broadcastOuts b gr gc
    else
      let d := meshExit b p.dst
      if gc < d.2 then [.router gr (gc + 1)] else if d.2 < gc then [.router gr (gc - 1)]
      else if gr < d.1 then [.router (gr + 1) gc] else if d.1 < gr then [.router (gr - 1) gc]
      else [.port p.dst]
  | .regionSwitch r => if p.dst.region b = some r then [.port p.dst] else [.blockSwitch]
  | .blockSwitch => match p.dst.region b with
    | some r => [.regionSwitch r]
    | none => [.port p.dst]

namespace ChLink

/-- The flits of a virtual channel at the input port, and the credits spent on it. -/
def flits (l : ChLink) (vc : Nat) : List Flit := Tab.get [] l.queue vc
def used (l : ChLink) (vc : Nat) : Nat := Tab.get 0 l.spent vc

/-- A flit joins the queue of its virtual channel. -/
def push (l : ChLink) (vc : Nat) (f : Flit) : ChLink := { l with queue := Tab.put l.queue vc (l.flits vc ++ [f]) }

/-- The queue of a virtual channel replaced. -/
def setFlits (l : ChLink) (vc : Nat) (q : List Flit) : ChLink := { l with queue := Tab.put l.queue vc q }

/-- The self link of a port holds what waits for injection: it is no link of R262 and has no credits. -/
def isSource (l : ChLink) : Bool := l.a = l.b

/-- `n` credits of a virtual channel are usable again (R262). -/
def giveBack (l : ChLink) (vc n : Nat) : ChLink :=
  if l.isSource then l else { l with spent := Tab.put l.spent vc (l.used vc - n) }

/-- A packet leaves a link: its flits are dropped, their credits return (R257). -/
def drop (l : ChLink) (id vc : Nat) : ChLink :=
  let q := l.flits vc
  let kept := q.filter fun f => f.pkt.id ≠ id
  if kept.length = q.length then l
  else (l.setFlits vc kept).giveBack vc (q.length - kept.length)

end ChLink

/-- A place that a flit names lies in region `r` (R251): a router of the region, or one of its switch ports. -/
def partHere (b : Build) (part : ChPart) (r gr gc : Nat) : Bool :=
  match part with
  | .regionSwitch | .blockSwitchLock => decide (r < b.regions)
  | .router | .borderLock | .memoryPort =>
    decide (gr < b.gridRows * b.regionRows) && decide (gc < b.gridCols * b.regionCols) && routerRegion b gr gc = r

/-- The request at a quay that a packet carries or answers. -/
def Load.quayId : Load → Option Nat
  | .quay id | .fill id _ => some id
  | _ => none

/-- The physical core a packet comes from, 0xFFF when its source is no core (R257). -/
def Packet.core (p : Packet) : Nat :=
  match p.src with
  | .core k | .mem k => k
  | _ => 0xFFF

/-- A link ends at the input port of the part of the Channel that R257 names: at a router, at the mesh border lock before it,
at either end of the memory port of a core that stands there, at a region switch, or at the block-switch port lock. -/
def ChLink.endsAt (b : Build) (l : ChLink) (part : ChPart) (r gr gc : Nat) : Bool :=
  match part, l.a, l.b with
  | .router, x, .router hr hc => hr = gr && hc = gc && !hasLock b x l.b
  | .borderLock, x, .router hr hc => hr = gr && hc = gc && hasLock b x l.b
  | .memoryPort, .port (.mem k), .regionSwitch q | .memoryPort, .regionSwitch q, .port (.mem k) => q = r && b.globalPos k = (gr, gc)
  | .regionSwitch, .port _, .regionSwitch q => q = r
  | .blockSwitchLock, .regionSwitch q, .blockSwitch | .blockSwitchLock, .blockSwitch, .regionSwitch q => q = r
  | _, _, _ => false

namespace State

/-- Cycles of the control complex's clock, 1.0 GHz, since power-up (R250). -/
def ctlCycle (s : State) : Nat := s.instant * 2 / 5

/-- Cycles of a node's clock. The ports of the block switch run at the control complex's clock here (log 64). -/
def nodeNow (s : State) (n : Node) : Nat :=
  match n.region s.build with
  | some r => s.rcOf r
  | none => s.ctlCycle

/-- The link from `x` to `y`. -/
def chLink (s : State) (x y : Node) : ChLink := (s.net.find? fun l => l.a = x && l.b = y).getD { a := x, b := y }

/-- A link replaced. -/
def setChLink (s : State) (l : ChLink) : State :=
  if s.net.any fun m => m.a = l.a && m.b = l.b then
    { s with net := s.net.map fun m => if m.a = l.a ∧ m.b = l.b then l else m }
  else { s with net := s.net ++ [l] }

/-- A packet is handed to the Channel at a node, where it waits for its injection (R263, R264): its flits stand in the
queue of the node itself, ready from cycle `ready` of its clock. -/
def injectAt (s : State) (n : Node) (load : Load) (src dst : Port) (vc len ready : Nat) (all : Bool) : State :=
  let p : Packet := ⟨s.nextPkt, load, src, dst, vc, len, s.clk.tide, all⟩
  let rdy := max ready (s.nodeNow n + 1)
  let l := s.chLink n n
  let l := (List.range len).foldl (fun l i => l.push vc ⟨p, decide (i + 1 = len), rdy, []⟩) l
  { s.setChLink l with nextPkt := s.nextPkt + 1 }

/-- A packet is handed to the Channel at its source. -/
def inject (s : State) (load : Load) (src dst : Port) (vc : Nat) (len : Nat := 1) (ready : Nat := 0) : State :=
  s.injectAt (.port src) load src dst vc len ready false

/-! Grants. -/

/-- A flit at the head of a virtual channel of an input of a node. -/
structure Cand where
  from_ : ChLink
  vc : Nat
  flit : Flit
  deriving DecidableEq, Repr

/-- The inputs of a node from which it grants: for an end of a path, what waits for injection there. -/
def inputsOf (s : State) (n : Node) : List ChLink :=
  s.net.filter fun l => l.b = n && (match n with
    | .port _ => l.isSource
    | _ => true)

/-- The heads at a node that may be granted in the present cycle. -/
def headsAt (s : State) (n : Node) : List Cand :=
  let now := s.nodeNow n
  (s.inputsOf n).flatMap fun l => (List.range 8).filterMap fun vc =>
    match l.flits vc with
    | f :: _ => if f.rdy ≤ now then some ⟨l, vc, f⟩ else none
    | [] => none

/-- Outputs that a flit still needs. -/
def outsLeft (s : State) (n : Node) (f : Flit) : List Node := (routeOf s.build n f.pkt).filter fun m => !f.sent.contains m

/-- A grant is possible: a credit of the flit's own virtual channel, and no other packet half sent on it (R253, R260). -/
def grantable (s : State) (n m : Node) (c : Cand) : Bool :=
  let l := s.chLink n m
  decide (l.used c.vc < creditSize s.build n m c.vc)
    && (match Tab.get 0 l.open_ c.vc with
        | 0 => true
        | id => id = c.flit.pkt.id)

/-- RT injection of an end is shaped to one packet in 8 cycles (R260). -/
def shaped (s : State) (n m : Node) (c : Cand) : Bool :=
  match n, (s.chLink n m).rtAt with
  | .port _, some t => vcClass c.vc = 0 && decide (s.nodeNow n < t + 8)
  | _, _ => false

/-- The next of a class in round-robin order after the input granted last. -/
def roundRobin (s : State) (n m : Node) (cls : Nat) (l : List Cand) : Option Cand :=
  let last := Tab.get 127 (s.chLink n m).turn cls
  let key := fun (c : Cand) => (inputIndex s.build n c.from_.a + 128 - last - 1) % 128 * 8 + c.vc
  l.foldl (fun (a : Option Cand) c => match a with
    | none => some c
    | some d => if key c < key d then some c else a) none

/-- The oldest BK flit; ties go to the lower input (R260). -/
def oldestBk (s : State) (n : Node) (l : List Cand) : Option Cand :=
  let older := fun (c d : Cand) =>
    decide (c.flit.pkt.born < d.flit.pkt.born)
      || (c.flit.pkt.born = d.flit.pkt.born && decide (inputIndex s.build n c.from_.a < inputIndex s.build n d.from_.a))
  l.foldl (fun (a : Option Cand) c => match a with
    | none => some c
    | some d => if older c d then some c else a) none

/-- The flit that an output port grants (R260, R269), and whether under the BK floor. -/
def pick (s : State) (n m : Node) : Option (Cand × Bool) :=
  let l := (s.headsAt n).filter fun c => (s.outsLeft n c.flit).contains m && s.grantable n m c && !s.shaped n m c
  let of := fun (k : Nat) => l.filter fun c => vcClass c.vc = k
  let waited := (of 2).filter fun c => decide (c.flit.rdy < s.nodeNow n)
  match s.roundRobin n m 0 (of 0), s.roundRobin n m 3 (of 3) with
  | some c, _ => some (c, false)
  | none, some c => some (c, false)
  | none, none =>
    match s.oldestBk n waited, s.roundRobin n m 1 (of 1) with
    | some c, sc => if (s.chLink n m).floorAt + 16 ≤ s.nodeNow n then some (c, sc.isSome)
        else match sc with
          | some d => some (d, false)
          | none => (s.oldestBk n (of 2)).map fun d => (d, false)
    | none, some d => some (d, false)
    | none, none => (s.oldestBk n (of 2)).map fun d => (d, false)

/-- The counter of a flit's class at mesh outputs (R270). -/
def flitCounter (r vc : Nat) : Nat := regionP r + 0x80 + 4 * (vc / 2 % 4)

/-- A flit is granted at the output of `n` towards `m`: it takes a credit, crosses the link, and leaves its input once every
output that it needs has its copy (R253, R260, R262, R270). -/
def grant (s : State) (n m : Node) (c : Cand) (floor : Bool) : State :=
  let now := s.nodeNow n
  let l := s.chLink n m
  let l := l.push c.vc { c.flit with rdy := s.nodeNow m + linkStage s.build n m, sent := [] }
  let l := { l with spent := Tab.put l.spent c.vc (l.used c.vc + 1),
                    open_ := Tab.put l.open_ c.vc (if c.flit.tail then 0 else c.flit.pkt.id),
                    turn := Tab.put l.turn (vcClass c.vc) (inputIndex s.build n c.from_.a),
                    floorAt := if floor then now else l.floorAt,
                    rtAt := if vcClass c.vc = 0 then some now else l.rtAt }
  let s := s.setChLink l
  let left := (s.outsLeft n c.flit).filter fun x => x ≠ m
  let src := s.chLink c.from_.a n
  let q := src.flits c.vc
  let s := s.setChLink (if left.isEmpty then (src.setFlits c.vc (q.drop 1)).giveBack c.vc 1
    else src.setFlits c.vc ({ c.flit with sent := m :: c.flit.sent } :: q.drop 1))
  match n with
  | .router gr gc =>
    let r := routerRegion s.build gr gc
    let s := s.count (flitCounter r c.vc) 1
    if floor then s.count (regionP r + 0x94) 1 else s
  | _ => s

/-- The grants of one output in a cycle, as many flits as its width. -/
def grants (n m : Node) : Nat → State → State
  | 0, s => s
  | w + 1, s =>
    match s.pick n m with
    | none => s
    | some (c, floor) => grants n m w (s.grant n m c floor)

/-- 1 when an RT flit waits at an output behind another RT flit in this cycle (R270). -/
def rtWaits (s : State) (n m : Node) : Nat :=
  if 2 ≤ ((s.headsAt n).filter fun c => vcClass c.vc = 0 && (s.outsLeft n c.flit).contains m).length then 1 else 0

/-- One cycle of a node: every output that a flit needs makes its grants. -/
def nodeCycle (s : State) (n : Node) : State :=
  let outs := ((s.headsAt n).flatMap fun c => s.outsLeft n c.flit).eraseDups
  let s := match n with
    | .router gr gc => outs.foldl (fun s m => s.count (regionP (routerRegion s.build gr gc) + 0x90) (s.rtWaits n m)) s
    | _ => s
  outs.foldl (fun s m => grants n m (linkWidth n m) s) s

/-- The flits that have come to an end of a path leave its link; the packets whose last flit is among them are delivered,
in order within each virtual channel (R259, R263). -/
def takeOut (s : State) (p : Port) : List (Port × Packet) × State :=
  let n := Node.port p
  let now := s.nodeNow n
  (s.net.filter fun l => l.b = n && !l.isSource).foldl (fun a l =>
    (List.range 8).foldl (fun (a : List (Port × Packet) × State) vc =>
      let q := l.flits vc
      let out := q.takeWhile fun f => decide (f.rdy ≤ now)
      if out.isEmpty then a
      else
        let l' := a.2.chLink l.a l.b
        (a.1 ++ (out.filter (·.tail)).map fun f => (p, f.pkt), a.2.setChLink ((l'.setFlits vc (q.drop out.length)).giveBack vc out.length))) a)
    ([], s)

/-- A packet is discarded wherever its flits are (R257): their credits return, and what it asks of a quay, or brings from one,
is lost with it. -/
def dropPacket (s : State) (p : Packet) : State :=
  { s with
    net := s.net.map fun l =>
      let l := l.drop p.id p.vc
      if Tab.get 0 l.open_ p.vc = p.id then { l with open_ := Tab.put l.open_ p.vc 0 } else l
    quays := s.quays.filter fun q => p.load.quayId ≠ some q.id }

/-- The packets that have a flit at an input of a node that `p` picks. -/
def packetsAt (s : State) (p : ChLink → Bool) : List Packet :=
  ((s.net.filter p).flatMap fun l => l.queue.flatMap fun q => q.2.map (·.pkt)).eraseDups

/-- A region loses its power: its part of the Channel is empty, and its links have all their credits. -/
def clearNet (s : State) (r : Nat) : State :=
  let inside := fun (l : ChLink) => l.b.region s.build = some r
  let s := (s.packetsAt inside).foldl (fun s p => s.dropPacket p) s
  { s with net := s.net.filter fun l => !inside l }

/-- Packets that wait at the block-switch port of a region that is off or frozen are discarded and counted (R269,
R482). -/
def dropDark (s : State) (r : Nat) : State :=
  let l := s.chLink .blockSwitch (.regionSwitch r)
  let gone := (List.range 8).flatMap fun vc => ((l.flits vc).filter (·.tail)).map (·.pkt)
  (gone.foldl (fun s p => s.dropPacket p) s).count (regionP r + 0xA0) gone.length

/-- A lock of a region has no SC credit (R270). -/
def lockFull (s : State) (r : Nat) : Bool :=
  s.net.any fun l => hasLock s.build l.a l.b && (l.a.region s.build = some r || l.b.region s.build = some r)
    && decide (creditSize s.build l.a l.b 2 ≤ l.used 2)

/-- The nodes at which a flit stands, the ends of paths apart from what they inject. -/
def busyNodes (s : State) : List Node :=
  ((s.net.filter fun l => l.queue.any fun q => !q.2.isEmpty).map (·.b)).eraseDups

/-- The Channel in one step of time: `ran` tells whether a node's clock has had a cycle in it. Answers the packets
delivered, each with the end at which it has come. -/
def netCycle (s : State) (ran : Node → Bool) : List (Port × Packet) × State :=
  if s.net.isEmpty then ([], s)
  else
    let busy := s.busyNodes.filter ran
    let s := busy.foldl (fun s n => s.nodeCycle n) s
    busy.foldl (fun (a : List (Port × Packet) × State) n => match n with
      | .port p => let r := a.2.takeOut p; (a.1 ++ r.1, r.2)
      | _ => a) ([], s)

/-! What the parts of the block hand to the Channel (R258, R259). -/

/-- A packet of a line: two flits when it carries more than 64 bytes (R253). -/
def flitsOf (n : Nat) : Nat := if 64 < n then 2 else 1

/-- A message of class SC over the mesh (R234). -/
def sendMsg (s : State) (t : Nat) (m : Msg) : State :=
  let n := match m.kind with
    | .words _ _ d => d.length
    | _ => 0
  s.inject (.msg t m) (.core m.src) (.core t) 2 (flitsOf n)

end State

end Sys2Proof.Machine
end

