-- ==== Sys2Proof/Machine/Crypto.lean ====
section
/-! DEFINITION. The published functions the manual names: CRC32C and CRC-64 with the parameters of R491, SHA-384,
HMAC-SHA-384 and ECDSA P-384 verification. PRESUMED (log 13): the manual names the standards and does not restate
them. -/

namespace Sys2Proof.Machine

/-- One bit of a reflected CRC with the reflected polynomial `poly`. -/
def crcBit (poly : Nat) (c : Nat) : Nat := if c % 2 = 1 then (c / 2) ^^^ poly else c / 2

/-- One byte of a reflected CRC: least significant bit first (R491). -/
def crcByte (poly : Nat) (c : Nat) (b : Byte) : Nat :=
  let f := crcBit poly
  f (f (f (f (f (f (f (f (c ^^^ b.toNat))))))))

/-- A reflected CRC's register after the bytes of `l`. -/
def crcFold (poly : Nat) (c : Nat) : List Byte → Nat
  | [] => c
  | b :: l => crcFold poly (crcByte poly c b) l

/-- The Castagnoli polynomial 0x1EDC6F41, reflected. -/
def crc32cPoly : Nat := 0x82F63B78

/-- CRC32C (R491). -/
def crc32c (l : List Byte) : Nat := crcFold crc32cPoly 0xFFFFFFFF l ^^^ 0xFFFFFFFF

/-- The ECMA-182 polynomial 0x42F0E1EBA9EA3693, reflected. -/
def crc64Poly : Nat := 0xC96C5795D7870F42

/-- The initial CRC-64 register (R491). -/
def crc64Init : Nat := 0xFFFFFFFFFFFFFFFF

/-- CRC-64 (R491). -/
def crc64 (l : List Byte) : Nat := crcFold crc64Poly crc64Init l ^^^ crc64Init

/-- The value of a CRC-64 after `n` bytes more, given its value so far. -/
def crc64More (v : Nat) (l : List Byte) : Nat := crcFold crc64Poly (v ^^^ crc64Init) l ^^^ crc64Init

/-! SHA-384 (log 13). Its constants are the first 64 fractional bits of roots of primes: cube roots of the first 80 for
the rounds, square roots of the 9th to the 16th for the start; each numeral below holds several, the first one highest. -/

def cubeRoots0 : Nat :=
  0x428A2F98D728AE227137449123EF65CDB5C0FBCFEC4D3B2FE9B5DBA58189DBBC3956C25BF348B53859F111F1B605D019923F82A4AF194F9BAB1C5ED5DA6D8118
def cubeRoots1 : Nat :=
  0xD807AA98A303024212835B0145706FBE243185BE4EE4B28C550C7DC3D5FFB4E272BE5D74F27B896F80DEB1FE3B1696B19BDC06A725C71235C19BF174CF692694
def cubeRoots2 : Nat :=
  0xE49B69C19EF14AD2EFBE4786384F25E30FC19DC68B8CD5B5240CA1CC77AC9C652DE92C6F592B02754A7484AA6EA6E4835CB0A9DCBD41FBD476F988DA831153B5
def cubeRoots3 : Nat :=
  0x983E5152EE66DFABA831C66D2DB43210B00327C898FB213FBF597FC7BEEF0EE4C6E00BF33DA88FC2D5A79147930AA72506CA6351E003826F142929670A0E6E70
def cubeRoots4 : Nat :=
  0x27B70A8546D22FFC2E1B21385C26C9264D2C6DFC5AC42AED53380D139D95B3DF650A73548BAF63DE766A0ABB3C77B2A881C2C92E47EDAEE692722C851482353B
def cubeRoots5 : Nat :=
  0xA2BFE8A14CF10364A81A664BBC423001C24B8B70D0F89791C76C51A30654BE30D192E819D6EF5218D69906245565A910F40E35855771202A106AA07032BBD1B8
def cubeRoots6 : Nat :=
  0x19A4C116B8D2D0C81E376C085141AB532748774CDF8EEB9934B0BCB5E19B48A8391C0CB3C5C95A634ED8AA4AE3418ACB5B9CCA4F7763E373682E6FF3D6B2B8A3
def cubeRoots7 : Nat :=
  0x748F82EE5DEFB2FC78A5636F43172F6084C87814A1F0AB728CC702081A6439EC90BEFFFA23631E28A4506CEBDE82BDE9BEF9A3F7B2C67915C67178F2E372532B
def cubeRoots8 : Nat :=
  0xCA273ECEEA26619CD186B8C721C0C207EADA7DD6CDE0EB1EF57D4F7FEE6ED17806F067AA72176FBA0A637DC5A2C898A6113F9804BEF90DAE1B710B35131C471B
def cubeRoots9 : Nat :=
  0x28DB77F523047D8432CAAB7B40C724933C9EBE0A15C9BEBC431D67C49C100D4C4CC5D4BECB3E42B6597F299CFC657E2A5FCB6FAB3AD6FAEC6C44198C4A475817

def squareRoots : Nat :=
  0xCBBB9D5DC1059ED8629A292A367CD5079159015A3070DD17152FECD8F70E593967332667FFC00B318EB44A8768581511DB0C2E0D64F98FA747B5481DBEFA4FA4

/-- The `n` 64-bit words of a numeral, from the highest. -/
def words64 : Nat → Nat → List Nat
  | 0, _ => []
  | n + 1, x => x / 2 ^ (64 * n) % 2 ^ 64 :: words64 n x

/-- The constants of the 80 rounds. -/
def roundKeys : List Nat :=
  [cubeRoots0, cubeRoots1, cubeRoots2, cubeRoots3, cubeRoots4, cubeRoots5, cubeRoots6, cubeRoots7, cubeRoots8,
    cubeRoots9].flatMap (words64 8)

/-- A 64-bit word turned right by `n` bits. -/
def turn64 (n x : Nat) : Nat := x * (2 ^ 64 + 1) / 2 ^ n % 2 ^ 64

/-- Three turns of a word, added bit by bit. -/
def turns (l m n x : Nat) : Nat := turn64 l x ^^^ turn64 m x ^^^ turn64 n x

/-- Two turns and a shift. -/
def spread (l m n x : Nat) : Nat := turn64 l x ^^^ turn64 m x ^^^ x / 2 ^ n

/-- Each bit from `y` where `x` has a 1, else from `z`. -/
def chooseBits (x y z : Nat) : Nat := z ^^^ (x &&& (y ^^^ z))

/-- Each bit as at least two of three have it. -/
def majorityBits (x y z : Nat) : Nat := (x &&& y) ||| (z &&& (x ||| y))

/-- The two sequences that a block computes: the last four words of each, newest first. -/
structure Hashing where
  a : Nat × Nat × Nat × Nat
  e : Nat × Nat × Nat × Nat
  deriving DecidableEq, Repr

/-- One round: the next word of each sequence. -/
def Hashing.round (s : Hashing) (kw : Nat) : Hashing :=
  let t := s.e.2.2.2 + turns 14 18 41 s.e.1 + chooseBits s.e.1 s.e.2.1 s.e.2.2.1 + kw
  { a := ((t + turns 28 34 39 s.a.1 + majorityBits s.a.1 s.a.2.1 s.a.2.2.1) % 2 ^ 64, s.a.1, s.a.2.1, s.a.2.2.1),
    e := ((t + s.a.2.2.2) % 2 ^ 64, s.e.1, s.e.2.1, s.e.2.2.1) }

/-- The word that follows sixteen words of the message. -/
def followWord (w : List Nat) : Nat :=
  (w.headD 0 + spread 1 8 7 (w.getD 1 0) + w.getD 9 0 + spread 19 61 6 (w.getD 14 0)) % 2 ^ 64

/-- The rounds with the keys of a list; the window holds the next sixteen words of the message. -/
def Hashing.rounds : List Nat → List Nat → Hashing → Hashing
  | [], _, s => s
  | k :: ks, w, s => Hashing.rounds ks (w.tail ++ [followWord w]) (s.round (k + w.headD 0))

/-- Sums modulo 2^64 of the members of two quadruples. -/
def addFour (x y : Nat × Nat × Nat × Nat) : Nat × Nat × Nat × Nat :=
  ((x.1 + y.1) % 2 ^ 64, (x.2.1 + y.2.1) % 2 ^ 64, (x.2.2.1 + y.2.2.1) % 2 ^ 64, (x.2.2.2 + y.2.2.2) % 2 ^ 64)

/-- One block of sixteen words. -/
def Hashing.block (s : Hashing) (w : List Nat) : Hashing :=
  let t := Hashing.rounds roundKeys w s
  ⟨addFour s.a t.a, addFour s.e t.e⟩

/-- The blocks of a message, `n` of them, as a numeral: its end holds the last block. -/
def Hashing.message (s : Hashing) : Nat → Nat → Hashing
  | 0, _ => s
  | n + 1, x => (Hashing.block s (words64 16 (x / 2 ^ (1024 * n)))).message n (x % 2 ^ (1024 * n))

/-- The start of SHA-384. -/
def hashStart : Hashing :=
  match words64 8 squareRoots with
  | [a, b, c, d, e, f, g, h] => ⟨(a, b, c, d), (e, f, g, h)⟩
  | _ => ⟨(0, 0, 0, 0), (0, 0, 0, 0)⟩

/-- SHA-384, as 48 bytes: after the message stand a 1 bit, zeros to a whole block, and the bits of its length as 128. -/
def sha384 (m : List Byte) : List Byte :=
  let blocks := (m.length + 144) / 128
  let x := (2 * beNat m + 1) * 2 ^ (1024 * blocks - 8 * m.length - 1) + 8 * m.length
  let s := hashStart.message blocks x
  [s.a.1, s.a.2.1, s.a.2.2.1, s.a.2.2.2, s.e.1, s.e.2.1].flatMap (beBytes 8)

/-- HMAC-SHA-384. -/
def hmacSha384 (key m : List Byte) : List Byte :=
  let k := if key.length > 128 then sha384 key else key
  let k := k ++ List.replicate (128 - k.length) 0
  sha384 (k.map (· ^^^ 0x5C) ++ sha384 (k.map (· ^^^ 0x36) ++ m))

/-- The field prime, the coefficient b, the order and the generator of P-384. -/
def p384P : Nat := 2 ^ 384 - 2 ^ 128 - 2 ^ 96 + 2 ^ 32 - 1
def p384B : Nat :=
  0xb3312fa7e23ee7e4988e056be3f82d19181d9c6efe8141120314088f5013875ac656398d8a2ed19d2a85c8edd3ec2aef
def p384N : Nat :=
  0xffffffffffffffffffffffffffffffffffffffffffffffffc7634d81f4372ddf581a0db248b0a77aecec196accc52973
def p384Gx : Nat :=
  0xaa87ca22be8b05378eb1c71ef320ad746e1d3b628ba79b9859f741e082542a385502f25dbf55296c3a545e3872760ab7
def p384Gy : Nat :=
  0x3617de4a96262c6f5d9e98bf9292dc29f8f41dbd289a147ce9da3113b5f0b8c00a60b1ce1d7e819d7a431d7c90ea0e5f

/-- A power modulo `m` by squaring, over the low `fuel` bits of `e`. -/
def powMod (m : Nat) : Nat → Nat → Nat → Nat
  | 0, _, _ => 1 % m
  | k + 1, b, e =>
    let r := powMod m k (b * b % m) (e / 2)
    if e % 2 = 1 then r * b % m else r

/-- The inverse modulo a prime. -/
def invMod (m a : Nat) : Nat := powMod m 384 (a % m) (m - 2)

/-- A point of P-384 in Jacobian coordinates: x is X / Z^2 and y is Y / Z^3; Z is 0 at infinity. -/
structure JPoint where
  x : Nat
  y : Nat
  z : Nat
  deriving DecidableEq, Repr

/-- `a - b` of residues modulo the field prime. -/
def p384Sub (a b : Nat) : Nat := (a + p384P - b) % p384P

/-- Twice a point. -/
def p384Double (p : JPoint) : JPoint :=
  let zz := p.z * p.z % p384P
  let yy := p.y * p.y % p384P
  let b := p.x * yy % p384P
  let a := 3 * p384Sub p.x zz * (p.x + zz) % p384P
  let x := p384Sub (a * a % p384P) (8 * b % p384P)
  ⟨x, p384Sub (a * p384Sub (4 * b % p384P) x % p384P) (8 * (yy * yy) % p384P), 2 * p.y * p.z % p384P⟩

/-- The sum of two points. -/
def p384Add (p q : JPoint) : JPoint :=
  let zp := p.z * p.z % p384P
  let zq := q.z * q.z % p384P
  let u := p.x * zq % p384P
  let v := p.y * (q.z * zq % p384P) % p384P
  let h := p384Sub (q.x * zp % p384P) u
  let r := p384Sub (q.y * (p.z * zp % p384P) % p384P) v
  if p.z = 0 then q
  else if q.z = 0 then p
  else if h = 0 then (if r = 0 then p384Double p else ⟨1, 1, 0⟩)
  else
    let hh := h * h % p384P
    let hhh := h * hh % p384P
    let w := u * hh % p384P
    let x := p384Sub (p384Sub (r * r % p384P) hhh) (2 * w % p384P)
    ⟨x, p384Sub (r * p384Sub w x % p384P) (v * hhh % p384P), h * (p.z * q.z % p384P) % p384P⟩

/-- A scalar multiple by doubling, over the low `fuel` bits of the scalar. -/
def p384Mul : Nat → Nat → JPoint → JPoint
  | 0, _, _ => ⟨1, 1, 0⟩
  | k + 1, n, p =>
    let r := p384Mul k (n / 2) (p384Double p)
    if n % 2 = 1 then p384Add p r else r

/-- The point lies on P-384. -/
def p384OnCurve (x y : Nat) : Bool :=
  decide (x < p384P) && decide (y < p384P)
    && decide ((y * y) % p384P = (x * x % p384P * x + (p384P - 3) * x + p384B) % p384P)

/-- ECDSA P-384 verification of `(r, s)` over a 48-byte digest under the key `(x, y)`. -/
def ecdsaVerify (x y : Nat) (digest : List Byte) (r s : Nat) : Bool :=
  if p384OnCurve x y && decide (0 < r ∧ r < p384N ∧ 0 < s ∧ s < p384N) then
    let z := beNat digest
    let w := invMod p384N s
    let v := p384Add (p384Mul 384 (z * w % p384N) ⟨p384Gx, p384Gy, 1⟩) (p384Mul 384 (r * w % p384N) ⟨x, y, 1⟩)
    decide (v.z ≠ 0) && decide (v.x * invMod p384P (v.z * v.z) % p384P % p384N = r)
  else false

end Sys2Proof.Machine
end

