-- ==== Sys2Proof/Machine/Engine.lean ====
section
/-! DEFINITION. The streams of a core: bundles and the path through them (R197 to R205), stamps (R166), attached
conditions (R212), the conditions of issue (R167), schedule-late events (R185 to R188), breakpoints (R247), and
retirement (R223). -/

namespace Sys2Proof.Machine

/-- OPCODE of a slot (R197). -/
def opOf (w : DWord) : Nat := fieldOf w 63 56

/-- The SY slot's ATTACH names engine `e`'s slot: bit 55 SQ to bit 51 ST (R211). -/
def attaches (w : DWord) (e : Nat) : Bool := decide (e < 5) && bitOf w (55 - e)

/-- ATTACH as a number. -/
def attachOf (w : DWord) : Nat := fieldOf w 55 51

namespace Bundle

/-- The slot word of an engine. -/
def slot (b : Bundle) (e : Nat) : Option DWord := (b.slots.find? fun p => p.1 = e).map (·.2)

/-- A lead bundle (R213). -/
def isLead (b : Bundle) : Bool :=
  match b.slots with
  | [(5, w)] => (opOf w = 1 || opOf w = 8) && attachOf w ≠ 0 && b.delta = 0
  | _ => false

/-- The native entry of an engine that the bundle makes: every slot makes one, but an SY slot attached to other slots
makes one only when it is a fence (R212). -/
def entry (b : Bundle) (e : Nat) : Option DWord :=
  match b.slot e with
  | none => none
  | some w => if e = 5 ∧ attachOf w ≠ 0 ∧ opOf w ≠ 8 then none else some w

/-- BODY and MAX_M1 of the bundle's `sq.loop` (R204). -/
def loop (b : Bundle) : Option (Nat × Nat) :=
  match b.slot 0 with
  | some w => if opOf w = 0x11 then some (fieldOf w 43 32, fieldOf w 15 0) else none
  | none => none

/-- COUNT of the bundle's `sq.skip` (R203). -/
def skip (b : Bundle) : Option Nat :=
  match b.slot 0 with
  | some w => if opOf w = 0x10 then some (fieldOf w 43 32) else none
  | none => none

end Bundle

/-- The tide ticks that a run of bundles spans, every loop at all its passes (R204, R215). -/
def spanOf : Nat → List Bundle → Nat
  | 0, _ => 0
  | _, [] => 0
  | n + 1, b :: l =>
    match b.loop with
    | some (body, m) => b.delta + (m + 1) * spanOf n (l.take body) + spanOf n (l.drop body)
    | none => b.delta + spanOf n l

/-- What stands at a place on an engine's path: an entry, a further place, a decision that is not yet visible, or the end
of the stream. -/
inductive Seek where
  | head (c : Cursor) (b : Bundle) (stamp : Nat)
  | next (c : Cursor)
  | wait
  | ended
  deriving DecidableEq, Repr

namespace Prog

/-- The bundles after number `i`. -/
def after (p : Prog) (i n : Nat) : List Bundle := (p.bundles.drop (i + 1)).take n

/-- The decision of the bundle at a place, once it is visible (R202, R216). -/
def decided (p : Prog) (now : Nat) (c : Cursor) : Option Nat :=
  match p.decisions.find? fun d => d.1 = ⟨c.pc, c.frames.map (·.pass)⟩ with
  | some (_, d, rc) => if now ≤ rc then none else some d
  | none => none

/-- The path beyond a bundle (R203, R204). A range or body without an entry of engine `e` is passed as a whole, whatever
the decision: only an entry that depends on one waits for it (R216). -/
def beyond (p : Prog) (now e : Nat) (c : Cursor) (b : Bundle) : Seek :=
  let st := c.stamp + b.delta
  let past := fun (n span : Nat) => Seek.next { c with pc := c.pc + 1 + n, stamp := st + span, fetched := false }
  let idle := fun (n : Nat) => (p.after c.pc n).all fun x => (x.entry e).isNone
  match b.skip, b.loop with
  | none, none => past 0 0
  | some n, _ =>
    if idle n then past n (spanOf (n + 1) (p.after c.pc n))
    else match p.decided now c with
      | none => .wait
      | some d => if d = 0 then past n (spanOf (n + 1) (p.after c.pc n)) else past 0 0
  | none, some (body, m) =>
    let len := spanOf (body + 1) (p.after c.pc body)
    if idle body then past body ((m + 1) * len)
    else match p.decided now c with
      | none => .wait
      | some a =>
        if a = 0 then past body ((m + 1) * len)
        else .next { c with pc := c.pc + 1, stamp := st, fetched := false,
                            frames := ⟨c.pc + 1, c.pc + 1 + body, 0, a, m + 1, len⟩ :: c.frames }

/-- The bundle at a place: its entry of engine `e`, or what lies beyond it. -/
def here (p : Prog) (now e : Nat) (c : Cursor) : Seek :=
  match p.bundles[c.pc]? with
  | none => .ended
  | some b => if !c.fetched && (b.entry e).isSome then .head c b (c.stamp + b.delta) else p.beyond now e c b

/-- One step along the path: at the end of a loop body the next active pass begins, or the inactive ones are passed. -/
def stepPath (p : Prog) (now e : Nat) (c : Cursor) : Seek :=
  match c.frames with
  | f :: fs =>
    if c.pc ≠ f.stop then p.here now e c
    else if f.pass + 1 < f.active then
      .next { c with pc := f.first, frames := { f with pass := f.pass + 1 } :: fs, fetched := false }
    else .next { c with stamp := c.stamp + (f.passes - f.active) * f.passLen, frames := fs, fetched := false }
  | [] => p.here now e c

/-- The next entry of engine `e` from a place on the path, within `fuel` steps. -/
def seek (p : Prog) (now e : Nat) : Nat → Cursor → Seek
  | 0, _ => .wait
  | n + 1, c =>
    match p.stepPath now e c with
    | .next c' => p.seek now e n c'
    | x => x

/-- Steps enough for every path to the next entry. -/
def fuel (p : Prog) : Nat := (2 * p.decisions.length + 4) * (p.bundles.length + 4)

end Prog

/-- The conditions of lead bundles just before bundle `i`, at most three, in order. -/
def Prog.leadConds (p : Prog) (passes : List Nat) (e : Nat) : Nat → Nat → List Cond
  | 0, _ => []
  | _, 0 => []
  | n + 1, i + 1 =>
    match p.bundles[i]? with
    | none => []
    | some b =>
      if b.isLead then
        p.leadConds passes e n i ++
          (match b.slot 5 with
           | some w => if attaches w e then (if opOf w = 8 then [.fence ⟨i, passes⟩] else [.wait w]) else []
           | none => [])
      else []

/-- All conditions of engine `e`'s entry at a place, in stream order; a sync-engine wait is its own condition
(R212). -/
def Prog.conds (p : Prog) (c : Cursor) (b : Bundle) (e : Nat) : List Cond :=
  let passes := c.frames.map (·.pass)
  let own := match b.slot 5 with
    | none => []
    | some w =>
      if e = 5 then (if opOf w = 1 then [Cond.wait w] else [])
      else if attaches w e then
        (if opOf w = 1 then [.wait w] else if opOf w = 8 then [.fence ⟨c.pc, passes⟩] else [])
      else []
  (if e = 5 then [] else p.leadConds passes e 3 c.pc) ++ own

/-- The head of an engine: its stream, and the entry as it was fetched (R221, R228). -/
structure Head where
  num : Nat
  prog : Prog
  cur : Cursor
  bundle : Bundle
  stamp : Nat
  word : DWord
  conds : List Cond
  deriving DecidableEq, Repr

def Head.inst (h : Head) : Inst := ⟨h.cur.pc, h.cur.frames.map (·.pass)⟩

/-- The bundles of a section with the IMM that patches give some of them (R180, R217). -/
def patchedBundles (imms : Tab Nat) (l : List Bundle) : List Bundle :=
  if imms.isEmpty then l
  else (l.zip (List.range l.length)).map fun e =>
    match imms.find? fun i => i.1 = e.2 with
    | some i =>
      let patch := fun (x : Nat × DWord) => if x.1 = 0 && opOf x.2 = 1 then (0, setField x.2 31 0 i.2) else x
      { e.1 with slots := e.1.slots.map patch }
    | none => e.1

namespace State

def eng (s : State) (k e : Nat) : Eng := Tab.get {} (s.getCore k).eng e
def setEng (s : State) (k e : Nat) (x : Eng) : State :=
  s.modCore k fun c => { c with eng := Tab.put c.eng e x }

/-- Local tide of a region (R162). -/
def localTide (s : State) (r : Nat) : Nat := (s.getRegion r).tideHigh * 2 ^ 20 + (s.getRegion r).tideLow

/-- Schedule time of a context as a core sees it (R165). -/
def schedAt (s : State) (k c : Nat) : Nat := s.localTide (s.regionOf k) - (s.getCtx c).offset

/-- A stream with what its sections hold in chart memory (R215, R226), as the patches of its launch leave it. -/
def fillProg (x : Core) (p : Prog) : Prog :=
  let sect := fun (t : Nat) => match p.sects.find? fun e => e.1 = t with
    | some e => x.sects.find? fun (y : ChartSect) => y.ctx = p.ctx && y.voyage = p.voyage && y.leg = p.leg && y.idx = e.2
    | none => none
  let bytes := fun (t : Nat) => (sect t).elim [] ChartSect.bytes
  { p with bundles := patchedBundles p.imms ((sect 1).elim [] ChartSect.bundles), mxd := bytes 2, vxd := bytes 3,
           lsd := p.fields.foldl (fun l f => patchAt l f.1 f.2) (bytes 4), sentinels := bytes 0x0B, budgets := bytes 0x0A }

/-- The stream number `n` of a core. -/
def prog? (s : State) (k n : Nat) : Option Prog :=
  let x := s.getCore k
  (x.progs.find? fun p => p.1 = n).map fun p => fillProg x p.2

/-- The record of a stream changed; its contents stay those of chart memory. -/
def modProg (s : State) (k n : Nat) (f : Prog → Prog) : State :=
  s.modCore k fun c => { c with progs := c.progs.map fun p => if p.1 = n then (n, f p.2) else p }

/-- What an engine's path leads to after the entries that it has fetched. -/
def seekEng (s : State) (k e : Nat) : Seek :=
  let x := s.eng k e
  if ¬ x.live then .ended
  else match s.prog? k x.stream with
    | none => .ended
    | some p => p.seek (s.coreRc k) e p.fuel x.cur

/-- Chart memory delivers the next entry of an engine into its instruction queue of 16 (R221). -/
def fetchEng (s : State) (k e : Nat) : State :=
  let x := s.eng k e
  if ¬ x.live ∨ 16 ≤ x.queue.length then s
  else match s.prog? k x.stream with
    | none => s
    | some p =>
      match p.seek (s.coreRc k) e p.fuel x.cur with
      | .head c b st =>
        match b.entry e with
        | some w => s.setEng k e { x with cur := { c with fetched := true },
                                          queue := x.queue ++ [⟨c, b, st, w, p.conds c b e⟩] }
        | none => s
      | _ => s

/-- The head of an engine's stream. -/
def head? (s : State) (k e : Nat) : Option Head :=
  let x := s.eng k e
  match x.queue.head?, s.prog? k x.stream with
  | some f, some p => if x.live then some ⟨x.stream, p, f.cur, f.bundle, f.stamp, f.word, f.conds⟩ else none
  | _, _ => none

/-- A sequencer counter as an entry that issues now reads it: a write of this region cycle is not yet visible (R202). -/
def ctr (s : State) (k i : Nat) : Nat :=
  let x := s.getCore k
  (Tab.get 0 (if x.cRc = s.coreRc k then x.ctrOld else x.ctr) i).toNat

/-- A comparator, likewise. -/
def cmpBit (s : State) (k i : Nat) : Bool :=
  let x := s.getCore k
  Tab.get false (if x.cRc = s.coreRc k then x.cmpOld else x.cmp) i

/-- A 4-bit counter field of a slot: bit 3 enables, bits [2:0] name the counter (R92, R143). -/
def optCtr (s : State) (k f : Nat) : Option Nat := if f / 8 % 2 = 1 then some (s.ctr k (f % 8)) else none

/-- The threshold of a wait (R211). -/
def threshold (s : State) (k : Nat) (w : DWord) : Nat :=
  let v := fieldOf w 31 0
  if bitOf w 37 then min (v + s.ctr k (fieldOf w 36 34)) (2 ^ 32 - 1) else v

/-- The absolute number of a context's block bollard (R236). -/
def bbolAbs (s : State) (c i : Nat) : Nat := (s.rd (ctxP c + 0x90)).toNat + i

def bbolVal (s : State) (a : Nat) : Nat := (Tab.get 0 s.bbol a).toNat

/-- A condition holds; `n` is its latched threshold (R230). One on a block bollard looks at the core's copy (R238). -/
def condHolds (s : State) (k : Nat) (p : Prog) (n : Nat) : Cond → Bool
  | .wait w =>
    let b := fieldOf w 49 38
    if n = 0 then true
    else if bitOf w 50 then
      let a := s.bbolAbs p.ctx b
      let x := s.getCore k
      (match Tab.get none x.watched a with
       | some v => decide (n ≤ v.toNat)
       | none => false)
    else decide (n ≤ s.bol k b)
  | .fence i => p.fenced.contains i

/-- The thresholds of a head's conditions: as latched when they were first evaluated, else as they are now (R211). -/
def thresholds (s : State) (k e : Nat) (h : Head) : List Nat :=
  let l := (s.eng k e).latch
  if l.isEmpty then
    h.conds.map fun c => match c with
      | .wait w => s.threshold k w
      | .fence _ => 0
  else l

/-- The first unmet condition of a head (R224). -/
def unmet (s : State) (k e : Nat) (h : Head) : Option Cond :=
  ((h.conds.zip (s.thresholds k e h)).find? fun c => !s.condHolds k h.prog c.2 c.1).map (·.1)

/-- Condition 1 of R167, from which CHAIN 1 frees (R168). -/
def stampMet (s : State) (k : Nat) (h : Head) : Bool := h.bundle.chain || decide (h.stamp ≤ s.schedAt k h.prog.ctx)

/-- The core may issue at all: it serves, its region's clock runs, no hold has reached it, and its context runs or its
hold has not arrived (R47, R156, R326). -/
def coreIssues (s : State) (k : Nat) : Bool :=
  let x := s.getCore k
  let r := s.getRegion (s.regionOf k)
  x.state = 1 && !x.held && r.clockOn && !r.frozen
    && (match x.ctx with
        | some c => s.ctxState c = 2 || s.ctxState c = 3
        | none => false)

/-- The core issues in the very instant in which its context became LOST: the other cores' entries of that instant issue
at once with the one that ended the context (R167, R326). -/
def lastInstant (s : State) (k : Nat) : Bool :=
  let x := s.getCore k
  let r := s.getRegion (s.regionOf k)
  x.state = 1 && !x.held && r.clockOn && !r.frozen
    && (match x.ctx with
        | some c => s.ctxState c = 4 && (s.getCtx c).lostAt = some s.instant
        | none => false)

/-- Conditions 1 and 2 of R167 and at most one entry per region cycle; the engine's own rules come on top. -/
def ready (s : State) (k e : Nat) (h : Head) : Bool :=
  (s.coreIssues k || s.lastInstant k) && (s.eng k e).issueRc ≠ some (s.coreRc k) && s.stampMet k h && (s.unmet k e h).isNone

/-- A schedule-late event of a core (R186 to R188): `cause` as in R186, `ref` the reference point in schedule time. -/
def lateEvent (s : State) (k c e cause ref late : Nat) : State :=
  let p := coreP k
  let s := (s.count (cnt k 25) 1).count (cnt k 26) late
  let s := if ¬ bitOf (s.rd (p + 0x6C)) 31 ∨ ref < (s.getCore k).lateRef then
      ((s.wr (p + 0x6C) (word (2 ^ 31 + e * 2 ^ 28 + cause * 2 ^ 25 + min late 65535))).wr (p + 0x70) (word ref)).modCore k
        fun x => { x with lateRef := ref }
    else s
  if bitOf (s.rd (ctxP c + oEVENT)) 0 then s
  else
    let code := if cause = 1 ∨ cause = 3 then 0x802 else 0x801
    let info := word (e * 2 ^ 29 + cause * 2 ^ 26 + min late 1023 * 2 ^ 16 + ref % 2 ^ 16)
    (((s.event (ctxP c) 0).recordFault p code info).logEntry p code info (some c) 0)

/-- The head's reference point came while the engine's previous stream had not ended (R186, R222). -/
def heldByStream (s : State) (k e : Nat) (h : Head) : Bool := decide (h.stamp < (s.eng k e).waited)

/-- The lateness of an issue (R185): chained entries and waits during a hold are never late, a VXE entry counts from the
end of its hold. -/
def lateIssue (s : State) (k e : Nat) (h : Head) : State :=
  let x := s.eng k e
  let ref := max h.stamp x.ref
  let now := s.schedAt k h.prog.ctx
  if h.bundle.chain ∨ now ≤ ref ∨ s.ctxState h.prog.ctx = 3 then s
  else s.lateEvent k h.prog.ctx e (if s.heldByStream k e h then 2 else if x.cause ≠ 0 then x.cause else 4) ref (now - ref)

/-- The breakpoint's trigger (R247) in region cycle `rc`. With ACTION 0 the engines stop from the next region cycle, in
which the hold opens. -/
def brkTrigger (s : State) (k tag line stamp rc : Nat) : State :=
  let p := coreP k
  let v := s.rd (p + 0xA0)
  let s := (s.wr (p + 0xA0) (setBit (setBit v 24 true) 0 false)).event p 2
  let s := (s.wr (p + 0xAC) (word (tag * 2 ^ 16 + line))).wr64 (p + 0xB0) stamp
  match (s.getCore k).ctx with
  | some c => if bitOf v 25 then s else s.modCore k fun x => { x with brkHold := some (rc, s.schedAt k c) }
  | none => s

/-- The region cycle after a trigger: the core's engines stop and its context enters tide hold, unless the core has stopped
on a fault by then (R247, R248). -/
def brkOpen (s : State) (k : Nat) : State :=
  let x := s.getCore k
  match x.brkHold, x.ctx with
  | some (rc, tf), some c =>
    if s.coreRc k ≤ rc then s
    else
      let s := s.modCore k fun x => { x with brkHold := none }
      if x.state ≠ 1 then s
      else
        let s := s.modCore k fun x => { x with held := true }
        if s.ctxState c = 2 then (s.holdCtx c tf).raise (ctxP c) 0x912 0 (some c) else s
  | _, _ => s

/-- The breakpoint is armed and in effect: ARM counts from the next region cycle (R246). -/
def brkArmed (s : State) (k : Nat) : Bool :=
  bitOf (s.rd (coreP k + 0xA0)) 0 && decide ((s.getCore k).brkRc < s.coreRc k)

/-- TAG mode: the issue of an entry (R247). -/
def brkIssue (s : State) (k e : Nat) (h : Head) : State :=
  let v := s.rd (coreP k + 0xA0)
  let m := s.rd (coreP k + 0xA8)
  let en := fieldOf v 29 27
  if s.brkArmed k ∧ fieldOf v 31 30 = 2 ∧ (en = e ∨ en = 6) ∧ (h.bundle.brk ∨ ¬ bitOf v 26)
      ∧ (h.bundle.tag ^^^ fieldOf m 31 16) &&& fieldOf m 15 0 = 0 then
    s.brkTrigger k h.bundle.tag h.bundle.line h.stamp (s.coreRc k)
  else s

/-- Block bollards that the entry's conditions watched are free again (R238). -/
def unwatch (s : State) (k : Nat) (h : Head) : State :=
  let l := h.conds.filterMap fun c => match c with
    | .wait w => if bitOf w 50 then some (s.bbolAbs h.prog.ctx (fieldOf w 49 38)) else none
    | .fence _ => none
  if l.isEmpty then s else s.modCore k fun x => { x with watched := x.watched.filter fun a => !l.contains a.1 }

/-- The bookkeeping of an issue: lateness, the engine's place, and the entry now open. -/
def issued (s : State) (k e : Nat) (h : Head) : State :=
  let s := (s.lateIssue k e h).unwatch k h
  let x := s.eng k e
  s.setEng k e { x with queue := x.queue.drop 1, latch := [], cause := 0, gated := false, ref := 0, issueRc := some (s.coreRc k),
                        open_ := x.open_ + 1 }

/-- Engine `e` of core `k` starts its stream number `n` (R222), which fetches its first entry: ENG_RETIRED clears (R225),
the sequencer's counters and comparators are 0 (R201), the numeric flag words clear (R51), vector and mask registers read
as zero (R90). -/
def startStream (s : State) (k e n : Nat) : State :=
  match s.prog? k n with
  | none => s
  | some p =>
    let now := s.schedAt k p.ctx
    let s := s.setEng k e { stream := n, live := true, cur := { stamp := p.base }, waited := if p.base < now then now else 0 }
    let s := s.wr (coreP k + 0x100 + 4 * e) 0
    let s := if e = 0 then s.modCore k fun x => { x with ctr := [], cmp := [], ctrOld := [], cmpOld := [] }
      else if e = 1 then (s.wr (coreP k + 0x54) 0).modCore k fun x => { x with tile := 0 }
      else if e = 2 then
        (s.wr (coreP k + 0x58) 0).modCore k fun x => { x with vregs := {}, mregs := {}, records := 0 }
      else s
    s.fetchEng k e

/-- The engine's stream has ended: no entry is left and every issued one has retired (R222). -/
def streamEnded (s : State) (k e : Nat) : Bool :=
  let x := s.eng k e
  !x.live || (x.open_ = 0 && x.queue.isEmpty && s.seekEng k e = .ended)

/-- An engine whose stream has ended goes on to the next stream installed for the core, once its BASE has come, and is
idle until then (R222). -/
def promoteEng (s : State) (k e : Nat) : State :=
  let x := s.eng k e
  if s.streamEnded k e then
    let next := s.prog? k (x.stream + 1)
    let due := x.stream < (s.getCore k).last && next.all fun p => decide (p.base ≤ s.schedAt k p.ctx)
    if due then s.startStream k e (x.stream + 1)
    else if x.live then s.setEng k e { x with live := false } else s
  else s

/-- All engines of a core. -/
def promote (s : State) (k : Nat) : State := (List.range 6).foldl (fun s e => s.promoteEng k e) s

/-- An entry retires (R223): ENG_RETIRED, the breakpoint's COUNT mode (R247), and the operations bound to its
retirement, which wait for the other entries they name (R212). -/
def retire (s : State) (k e num : Nat) (i : Inst) (tag line stamp : Nat) (rc : Nat := s.coreRc k) : State :=
  let x := s.eng k e
  let s := s.setEng k e { x with open_ := x.open_ - 1 }
  let a := coreP k + 0x100 + 4 * e
  let s := s.count a 1
  let s : State := match s.prog? k num with
    | none => s
    | some p =>
      match (p.bundles[i.bundle]?).bind fun b => b.slot 5 with
      | none => s
      | some w =>
        if attaches w e ∧ opOf w ≠ 1 ∧ opOf w ≠ 8 then
          let l := (s.getCore k).bound
          let same : Bound → Bool := fun b => decide (b.inst = i) && decide (b.stream = num)
          let waits := match l.find? same with
            | some b => b.awaits.filter fun f => f ≠ e
            | none => (List.range 5).filter fun f => attaches w f && f ≠ e
          s.modCore k fun x => { x with bound := (l.filter fun b => !same b) ++ [⟨i, num, w, waits, rc⟩] }
        else s
  let v := s.rd (coreP k + 0xA0)
  let s := if s.brkArmed k ∧ fieldOf v 31 30 = 1 ∧ fieldOf v 29 27 = e ∧ s.rd a = s.rd (coreP k + 0xA4) then
      s.brkTrigger k tag line stamp rc
    else s
  s.promoteEng k e

/-- An entry that retires at the end of the region cycle of its issue (R223): the next tick retires it. -/
def retireSoon (s : State) (k e : Nat) (h : Head) : State :=
  s.modCore k fun x => { x with retiring := x.retiring ++ [(e, h.num, h.inst, h.bundle.tag, h.bundle.line, h.stamp)] }

/-- The entries whose region cycle has ended retire: those of the sync engine in that cycle, the others in the one after
(R223). -/
def retireDue (s : State) (k was : Nat) : State :=
  let l := (s.getCore k).retiring
  let s := s.modCore k fun x => { x with retiring := [] }
  l.foldl (fun s r => s.retire k r.1 r.2.1 r.2.2.1 r.2.2.2.1 r.2.2.2.2.1 r.2.2.2.2.2 (if r.1 = 5 then was else s.coreRc k)) s

/-- An entry that retires at its issue. -/
def retireHead (s : State) (k e : Nat) (h : Head) : State :=
  s.retire k e h.num h.inst h.bundle.tag h.bundle.line h.stamp

end State

end Sys2Proof.Machine
end

