-- ==== Sys2Proof/Machine/Operands.lean ====
section
/-! DEFINITION. Operand forms: the berths and their segments (R111, R117, R120), numeric descriptors (R21, R22),
elements and scales as they lie in a berth (R19, R20, R23, R24), and the checkers' findings on what an instruction
reads. -/

namespace Sys2Proof.Machine

/-- A space of a core that an engine writes: 0 WB, 1 AB, 2 PB, 3 vector registers, 4 mask registers. -/
def Core.space (x : Core) (n : Nat) : Scratch :=
  match n with
  | 0 => x.wb
  | 1 => x.ab
  | 2 => x.pb
  | 3 => x.vregs
  | _ => x.mregs

def Core.setSpace (x : Core) (n : Nat) (m : Scratch) : Core :=
  match n with
  | 0 => { x with wb := m }
  | 1 => { x with ab := m }
  | 2 => { x with pb := m }
  | 3 => { x with vregs := m }
  | _ => { x with mregs := m }

/-- One byte written: some of its bits, or one trit (R89). -/
def Scratch.putBits (m : Scratch) (p : Put) : Scratch :=
  match p.trit with
  | none => m.put p.addr ((m.get p.addr &&& ~~~p.mask) ||| (p.val &&& p.mask))
  | some i => m.put p.addr (ternPut (m.get p.addr) i p.val.toNat)

/-- The writes of a landing. -/
def Scratch.puts (m : Scratch) (l : List Put) : Scratch := l.foldl Scratch.putBits m

/-- A landing takes effect. A row of quantised codes that it touches loses its record (R73), and the rows that it writes
as a quantise step gain theirs. -/
def Core.land (x : Core) (l : Landing) : Core :=
  let kept := x.quants.filter fun q =>
    !(q.1 = l.space && l.puts.any fun p => decide (q.2.1 ≤ p.addr) && decide (p.addr < q.2.1 + q.2.2.1))
  { x.setSpace l.space ((x.space l.space).puts l.puts) with quants := kept ++ l.quants.map fun q => (l.space, q) }

/-- Whole bytes as writes. -/
def putsOf (a : Nat) : List Byte → List Put
  | [] => []
  | b :: l => ⟨a, b, 0xFF, none⟩ :: putsOf (a + 1) l

namespace State

/-- The bytes of a segment of a berth (R111, R117). -/
def segBytes (s : State) (berth : Nat) : Nat := s.build.berthBytes berth / 8

/-- BERTH_READY of a segment (R118). -/
def segReady (s : State) (k berth seg : Nat) : Bool := bitOf (s.rd (coreP k + 0x48)) (8 * berth + seg)

/-- The first byte of `[a, a + n)` that lies in a gated segment (R120). -/
def gatedAt (s : State) (k berth a n : Nat) : Option Nat :=
  if n = 0 then none
  else
    let z := s.segBytes berth
    ((List.range 8).find? fun g => !s.segReady k berth g && decide (g * z < a + n) && decide (a < (g + 1) * z)).map
      fun g => max a (g * z)

/-- FAULT_INFO of 0x230 and 0x231 (R121). -/
def berthInfo (s : State) (berth a source : Nat) : Word :=
  word (berth % 4 * 2 ^ 30 + a / (max 1 (s.segBytes berth)) % 8 * 2 ^ 27 + source * 2 ^ 23 + a % 2 ^ 19)

/-- 0x230 BERTH_GATED raised by the core's own engines, for which R68 holds (R120). -/
def gatedFault (s : State) (k berth a source : Nat) : State :=
  s.coreFault k 0x230 (s.berthInfo berth a source) true

/-- A corrected berth word (R122): FAULT_INFO of 0x101 has no layout and is 0. -/
def berthCe (s : State) (k : Nat) : State := (s.raise (coreP k) 0x101 0 none 1).count (cnt k 17) 1

/-- A corrected chart word (R229). -/
def chartCe (s : State) (k : Nat) : State := (s.raise (coreP k) 0x105 0 none 1).count (cnt k 30) 1

/-- An uncorrectable chart word: SOURCE 6 chart read or 7 chart scrub (R229, R233). -/
def chartUe (s : State) (k source w : Nat) : State :=
  s.coreFault k 0x252 (word (source * 2 ^ 29 + w % 2 ^ 13 * 2 ^ 16))

/-- The safeguard level in force for a manifest: FULL (R43). -/
def fullLevel (s : State) (p : Prog) : Bool := p.full && !s.lean

/-- Bytes of a berth. -/
def berthRead (s : State) (k berth a n : Nat) : List Byte := ((s.getCore k).space berth).bytes a n

/-- Bytes of a berth written at once, by the register window or where no engine runs. -/
def berthPut (s : State) (k berth a : Nat) (l : List Byte) : State :=
  s.modCore k fun x => x.land ⟨0, berth, putsOf a l, []⟩

/-- Bytes of a berth written by a stream or a message: they land at the end of the present region cycle, and
an engine that reads them in it sees the value before (R74, R159). -/
def berthWrite (s : State) (k berth a : Nat) (l : List Byte) : State :=
  let now := s.coreRc k
  s.modCore k fun x => { x with ldLands := x.ldLands ++ [⟨now, berth, putsOf a l, []⟩] }

end State

/-- The fields of a numeric descriptor (R21). -/
def Nd.of (b : Byte) : Nd := ⟨bitOf b 7, bitOf b 6, fieldOf b 5 4, fieldOf b 3 0⟩

/-- The legal combinations of R22; `act` is the activation operand of `mx.` (or a quantise destination, which writes
it). -/
def Nd.legal (d : Nd) (act : Bool) : Bool :=
  match Fmt.ofCode d.fmt with
  | none => false
  | some f =>
    let zpOk := !d.zp || ((f = .int8 || f = .int4 || f = .int2) && d.scale = 0)
    let spillOk := !d.spill || (act && (f = .int4 || f = .e2m1) && (d.scale = 1 || d.scale = 2))
    let scaleOk := match f with
      | .int8 | .e4m3 | .e5m2 => d.scale ≤ 1
      | .int4 | .e2m1 | .int2 | .tern => d.scale ≤ 2
      | _ => d.scale = 0
    zpOk && spillOk && scaleOk

/-- The code of element `i` of a packed row that begins at `base`, and whether its byte was a reserved TERN byte
(R19, R20). TERN codes are trit + 1. -/
def codeAt (rd : Nat → Byte) (f : Fmt) (base i : Nat) : Nat × Bool :=
  match f with
  | .int8 | .e4m3 | .e5m2 => ((rd (base + i)).toNat, false)
  | .int4 | .e2m1 => ((rd (base + i / 2)).toNat / 16 ^ (i % 2) % 16, false)
  | .int2 => ((rd (base + i / 4)).toNat / 4 ^ (i % 4) % 4, false)
  | .tern => ternCode (rd (base + i / 128 * 26 + i % 128 / 5)) (i % 128 % 5)
  | .bf16 | .fp16 => ((rd (base + 2 * i)).toNat + 256 * (rd (base + 2 * i + 1)).toNat, false)
  | .fp32 => (leNat ((List.range 4).map fun j => rd (base + 4 * i + j)), false)

end Sys2Proof.Machine
end

