-- ==== Sys2Proof/Machine/Sequencer.lean ====
section
/-! DEFINITION. The sequencer's entries (R201 to R206). Each issues under R167; its write is visible from the next
region cycle (R202), when it retires (R223). -/

namespace Sys2Proof.Machine

namespace State

/-- A counter written: the region cycle of the write still reads the old values (R202). -/
def putCtr (s : State) (k i : Nat) (v : Word) : State :=
  let now := s.coreRc k
  s.modCore k fun x => { x with ctrOld := x.ctr, cmpOld := x.cmp, cRc := now, ctr := Tab.put x.ctr i v }

/-- A comparator written. -/
def putCmp (s : State) (k i : Nat) (v : Bool) : State :=
  let now := s.coreRc k
  s.modCore k fun x => { x with ctrOld := x.ctr, cmpOld := x.cmp, cRc := now, cmp := Tab.put x.cmp i v }

/-- A loop or skip decision recorded for every engine of the core (R216). -/
def decide_ (s : State) (k : Nat) (h : Head) (d : Nat) : State :=
  s.modProg k h.num fun p => { p with decisions := p.decisions ++ [(h.inst, d, s.coreRc k)] }

/-- The head of an engine when its operation is `op` and R167 lets it issue. -/
def readyHead (s : State) (k e op : Nat) : Option Head :=
  match s.head? k e with
  | some h => if opOf h.word = op ∧ s.ready k e h then some h else none
  | none => none

/-- An entry's word or descriptor is read from chart memory: with a double error it is not used (R229). -/
def chartRead (s : State) (k : Nat) (up : Upset) (f : State → State) : State :=
  match up with
  | .chartUe w => s.chartUe k 6 w
  | .chartCe _ => f (s.chartCe k)
  | _ => f s

/-- A sequencer entry of operation `op` issues with effect `f`. -/
def sqIssue (op : Nat) (f : State → Head → State) (k : Nat) (up : Upset) (s : State) : State :=
  match s.readyHead k 0 op with
  | none => s
  | some h => s.chartRead k up fun s => (f (s.issued k 0 h) h).brkIssue k 0 h

end State

/-- C in [55:53] (R201). -/
def sqC (h : Head) : Nat := fieldOf h.word 55 53

/-- IMM in [31:0]. -/
def sqImm (h : Head) : Word := word (fieldOf h.word 31 0)

/-- The predicates of `sq.cmp`, WAIT, IF and LOOP: 0 eq, 1 ne, 2 lt, 3 le, 4 gt, 5 ge, signed or unsigned; the reserved
values 6 and 7 hold never (R201, R313). -/
def predHolds (pred : Nat) (signed_ : Bool) (a b : Word) : Bool :=
  let lt := if signed_ then a.slt b else a.ult b
  match pred with
  | 0 => a = b
  | 1 => a ≠ b
  | 2 => lt
  | 3 => lt || a = b
  | 4 => !(lt || a = b)
  | 5 => !lt
  | _ => false

/-- `sq.ld` (R201): c[C] := IMM. -/
def execSqLd (a : AtCore) (s : State) : Out :=
  actCore a.core (a.core < s.build.physCores)
    (State.sqIssue 0x01 (fun s h => (s.putCtr a.core (sqC h) (sqImm h)).retireSoon a.core 0 h) a.core a.up) s

/-- `sq.inc` (R201): c[C] := c[C] + 1. -/
def execSqInc (a : AtCore) (s : State) : Out :=
  actCore a.core (a.core < s.build.physCores)
    (State.sqIssue 0x02 (fun s h =>
      (s.putCtr a.core (sqC h) (word (s.ctr a.core (sqC h)) + 1)).retireSoon a.core 0 h) a.core a.up) s

/-- `sq.dec` (R201): c[C] := c[C] - 1. -/
def execSqDec (a : AtCore) (s : State) : Out :=
  actCore a.core (a.core < s.build.physCores)
    (State.sqIssue 0x03 (fun s h =>
      (s.putCtr a.core (sqC h) (word (s.ctr a.core (sqC h)) - 1)).retireSoon a.core 0 h) a.core a.up) s

/-- `sq.addi` (R201): c[C] := c[C] + IMM modulo 2^32. -/
def execSqAddi (a : AtCore) (s : State) : Out :=
  actCore a.core (a.core < s.build.physCores)
    (State.sqIssue 0x04 (fun s h =>
      (s.putCtr a.core (sqC h) (word (s.ctr a.core (sqC h)) + sqImm h)).retireSoon a.core 0 h) a.core a.up) s

/-- `sq.cmp` (R201): k[K] := c[CA] P x. -/
def execSqCmp (a : AtCore) (s : State) : Out :=
  actCore a.core (a.core < s.build.physCores)
    (State.sqIssue 0x08 (fun s h =>
      let w := h.word
      let x := if bitOf w 46 then word (s.ctr a.core (fieldOf w 45 43)) else sqImm h
      (s.putCmp a.core (fieldOf w 55 54)
        (predHolds (fieldOf w 50 48) (bitOf w 47) (word (s.ctr a.core (fieldOf w 53 51))) x)).retireSoon a.core 0 h)
      a.core a.up) s

/-- `sq.skip` (R203): the COUNT bundles that follow are skipped when k[K] equals SENSE; the decision is made once
(R216). -/
def execSqSkip (a : AtCore) (s : State) : Out :=
  actCore a.core (a.core < s.build.physCores)
    (State.sqIssue 0x10 (fun s h =>
      let skip := s.cmpBit a.core (fieldOf h.word 55 54) == bitOf h.word 53
      (s.decide_ a.core h (if skip then 0 else 1)).retireSoon a.core 0 h) a.core a.up) s

/-- `sq.loop` (R204): passes 0 to c[C] - 1 of the body are active; a count above MAX_M1 + 1 is core fault 0x200 with
the FAULT_INFO of R206 and no bundle of the body executes. -/
def execSqLoop (a : AtCore) (s : State) : Out :=
  actCore a.core (a.core < s.build.physCores)
    (State.sqIssue 0x11 (fun s h =>
      let n := s.ctr a.core (sqC h)
      if n > fieldOf h.word 15 0 + 1 then
        s.coreFault a.core 0x200 (word (h.bundle.tag * 2 ^ 16 + h.bundle.line))
      else (s.decide_ a.core h n).retireSoon a.core 0 h) a.core a.up) s

end Sys2Proof.Machine
end

