-- ==== Sys2Proof/Machine/Matrix.lean ====
section
/-! DEFINITION. The matrix engine (R53 to R83) over the numbers of R26 to R38. A product enters the array at its issue; from
then on each region cycle takes one row in, which reads its slab of A, accumulates the row that is D - 1 cycles old, and
lets that row's writes land one cycle later (R74, R75). -/

namespace Sys2Proof.Machine

/-- A pair class with its array tile Kt x Nt (R53). -/
structure PairClass where
  kt : Nat
  nt : Nat
  /-- 0 W2A4, 1 W4A4, 2 W4A8, 3 W8A8, 4 W16 -/
  cls : Nat
  deriving DecidableEq, Repr

/-- The class of a weight and an activation format (R53, R54). -/
def pairClass (w a : Fmt) : Option PairClass :=
  let a4 := a = .int4 ∨ a = .e2m1
  let a8 := a = .int8 ∨ a = .e4m3 ∨ a = .e5m2
  let w2 := w = .int2 ∨ w = .tern
  let w4 := w = .int4 ∨ w = .e2m1
  let w8 := w = .int8 ∨ w = .e4m3 ∨ w = .e5m2
  if w2 ∧ a4 then some ⟨256, 128, 0⟩
  else if w4 ∧ a4 then some ⟨128, 128, 1⟩
  else if (w2 ∨ w4) ∧ a8 then some ⟨128, 64, 2⟩
  else if w8 ∧ (a4 ∨ a8) then some ⟨64, 64, 3⟩
  else if (w = .bf16 ∧ a = .bf16) ∨ (w = .fp16 ∧ a = .fp16) then some ⟨32, 32, 4⟩
  else none

/-- An MX descriptor (R61). -/
structure MxDesc where
  m : Nat
  n : Nat
  k : Nat
  a : Nd
  w : Nd
  aAddr : Nat
  aPitch : Nat
  aAux : Nat
  aFine : Nat
  aSpill : Nat
  wAddr : Nat
  wAux : Nat
  cAddr : Nat
  cPitch : Nat
  aBs : Nat
  wBs : Nat
  cBs : Nat
  b : Nat
  accum : Bool
  deriving DecidableEq, Repr

/-- The fields of a descriptor's 64 bytes. -/
def MxDesc.of (l : List Byte) : MxDesc :=
  { m := fieldAt l 0 2 % 4096 + 1, n := fieldAt l 2 2 % 4096 + 1, k := fieldAt l 4 2 % 16384 + 1,
    a := Nd.of (l.getD 6 0), w := Nd.of (l.getD 7 0), aAddr := fieldAt l 8 4, aPitch := fieldAt l 12 4,
    aAux := fieldAt l 16 4, aFine := fieldAt l 20 4, aSpill := fieldAt l 24 4, wAddr := fieldAt l 28 4,
    wAux := fieldAt l 32 4, cAddr := fieldAt l 36 4, cPitch := fieldAt l 40 4, aBs := fieldAt l 44 4,
    wBs := fieldAt l 48 4, cBs := fieldAt l 52 4, b := fieldAt l 56 2 + 1, accum := fieldAt l 58 1 % 2 = 1 }

/-- A reserved byte or bit of the descriptor is set (R61). -/
def mxReserved (l : List Byte) : Bool :=
  fieldAt l 0 2 ≥ 4096 || fieldAt l 2 2 ≥ 4096 || fieldAt l 4 2 ≥ 16384 || fieldAt l 58 1 ≥ 2 || !zeroAt l 59 5

namespace MxDesc

def zeroPoint (d : MxDesc) : Bool := d.a.zp || d.w.zp
def fa (d : MxDesc) : Fmt := (Fmt.ofCode d.a.fmt).getD .int8
def fw (d : MxDesc) : Fmt := (Fmt.ofCode d.w.fmt).getD .int8

/-- The accumulator is INT32 (R27). -/
def intAcc (d : MxDesc) : Bool := d.fa.isInt && d.fw.isInt && d.a.scale = 0 && d.w.scale = 0

/-- The NDESC rules of an `mx.` operand: R22, by which FP32 is none. -/
def ndOk (d : MxDesc) : Bool := d.a.legal true && d.w.legal false && d.a.fmt ≠ 9 && d.w.fmt ≠ 9

/-- A pair that R53 and R54 allow: it has a class, and a zero point stands with INT32 accumulation only. -/
def pairOk (d : MxDesc) : Bool := (pairClass d.fw d.fa).isSome && (!d.zeroPoint || d.intAcc)

/-- The format rules of R66: DETAIL 0 NDESC, 1 pair, 2 SPILL, 3 zero point. -/
def formatFault (d : MxDesc) : Option Nat :=
  if ¬ d.ndOk then some 0
  else match pairClass d.fw d.fa with
    | none => some 1
    | some c =>
      if d.a.spill ∧ c.cls > 1 then some 2
      else if d.zeroPoint ∧ ¬ d.intAcc then some 3
      else none

def cls (d : MxDesc) : PairClass := (pairClass d.fw d.fa).getD ⟨64, 64, 3⟩
def kb (d : MxDesc) : Nat := (d.k + d.cls.kt - 1) / d.cls.kt
def nb (d : MxDesc) : Nat := (d.n + d.cls.nt - 1) / d.cls.nt

/-- Bytes of one column of a weight block, and the block's pitch (R56). -/
def colBytes (d : MxDesc) : Nat :=
  match d.fw with
  | .tern => 26 * d.cls.kt / 128
  | f => d.cls.kt * f.bits / 8
def wblk (d : MxDesc) : Nat := (d.colBytes * d.cls.nt + 255) / 256 * 256

/-- Scale bytes of one column of a scale block, and the scale block's pitch (R59). -/
def colScales (d : MxDesc) : Nat :=
  if d.w.scale = 1 then d.cls.kt / 32 else if d.w.scale = 2 then d.cls.kt / 128 + d.cls.kt / 16 else 0
def wsb (d : MxDesc) : Nat := (d.cls.nt * d.colScales + 7) / 8 * 8

/-- The divisor of A_PITCH that gives the pitch of the scales of A, or of the coarse plane (R58). -/
def auxDiv (d : MxDesc) : Nat :=
  if d.a.scale = 2 then 64 else if d.fa.bits = 4 then 16 else 32

def rowBytes (d : MxDesc) : Nat := d.fa.rowBytes d.k

/-- The ranges of R67 for batch `i`, each with its DETAIL, berth, first byte, length, and whether its alignment
and pitch rules of R58, R61 and R67 hold (a rule with a DETAIL of its own stands as an empty range); `spillOn` says that the range of spill records is used. -/
def ranges (d : MxDesc) (i : Nat) : List (Nat × Nat × Nat × Nat × Bool) :=
  let o := i * d.aBs
  let m1 := d.m - 1
  let aData := [(0, 1, 0, 0,
      decide (d.aAddr % 16 = 0 ∧ d.aPitch % 16 = 0 ∧ d.aBs % 16 = 0 ∧ (d.a.spill → d.aPitch % 64 = 0))),
    (8, 1, 0, 0, decide (d.rowBytes ≤ d.aPitch)), (0, 1, d.aAddr + o, m1 * d.aPitch + d.rowBytes, true)]
  let aScale :=
    if d.zeroPoint then [(1, 1, d.aAux + o, d.m * 8, decide (d.aAux % 8 = 0))]
    else if d.a.scale = 0 then [(1, 1, 0, 0, decide (d.aAux = 0))]
    else [(1, 1, d.aAux + o, m1 * (d.aPitch / d.auxDiv) + (d.k + (if d.a.scale = 2 then 127 else 31))
            / (if d.a.scale = 2 then 128 else 32), decide (d.aPitch % d.auxDiv = 0))]
  let aFine :=
    if d.a.scale = 2 then [(2, 1, d.aFine + o, m1 * (d.aPitch / 8) + 8 * ((d.k + 127) / 128), true)]
    else [(2, 1, 0, 0, decide (d.aFine = 0))]
  let aSpill :=
    if d.a.spill then [(3, 1, d.aSpill + o, m1 * (d.aPitch / 4) + 16 * ((d.k + 127) / 128),
                        decide (d.aSpill % 16 = 0))]
    else [(3, 1, 0, 0, decide (d.aSpill = 0))]
  let wData := (4, 0, d.wAddr + i * d.wBs, d.nb * d.kb * d.wblk, decide (d.wAddr % 256 = 0 ∧ d.wBs % 256 = 0))
  let wScale :=
    if d.zeroPoint then [(5, 0, d.wAux + i * d.wBs, d.n * 8, decide (d.wAux % 8 = 0))]
    else if d.w.scale = 0 then [(5, 0, 0, 0, decide (d.wAux = 0))]
    else [(5, 0, d.wAux + i * d.wBs, d.nb * d.kb * d.wsb, decide (d.wAux % 8 = 0))]
  let c := [(6, 2, 0, 0, decide (d.cAddr % 16 = 0 ∧ d.cPitch % 16 = 0 ∧ d.cBs % 16 = 0)),
    (7, 2, 0, 0, decide (4 * d.n ≤ d.cPitch)), (6, 2, d.cAddr + i * d.cBs, m1 * d.cPitch + 4 * d.n, true)]
  aData ++ aScale ++ aFine ++ aSpill ++ [wData] ++ wScale ++ c

/-- D of R75. -/
def delay (d : MxDesc) : Nat :=
  (if d.intAcc then 10 else if d.cls.cls = 4 then 16 else 12) + (if d.zeroPoint then 2 else 0)

end MxDesc

/-- What an issue check meets: a fault code with its DETAIL, or a gated byte of a berth. -/
inductive Check where
  | ok
  | fault (code detail : Nat)
  | gated (berth addr : Nat)
  deriving DecidableEq, Repr

namespace State

/-- The range rules of R66: alignment, then bounds, then gating, range by range and batch by batch. -/
def checkRanges (s : State) (k : Nat) : List (Nat × Nat × Nat × Nat × Bool) → Check
  | [] => .ok
  | (detail, berth, a, n, aligned) :: l =>
    if ¬ aligned then .fault 0x213 detail
    else if a + n > s.build.berthBytes berth then .fault 0x212 detail
    else match s.gatedAt k berth a n with
      | some g => .gated berth g
      | none => s.checkRanges k l

/-- The issue check of R66 behind the descriptor and format rules; batches `b0` and `b0 + b - 1`. -/
def mxCheck (s : State) (k : Nat) (d : MxDesc) (b0 : Nat) : Check :=
  s.checkRanges k (((d.ranges b0).zip (d.ranges (b0 + d.b - 1))).flatMap fun p => [p.1, p.2])

end State

/-! The product (R26 to R29, R36, R38, R70 to R73). -/

/-- What a row of a product reads: AB as its row enters, and the weights loaded for its pass. -/
structure MxSrc where
  d : MxDesc
  ab : Scratch
  wb : Scratch
  spill : Bool

/-- A scale and its flag; `none` is NaN or invalid (R29). -/
abbrev Scale := Option Rat

def mulScale (x y : Scale) : Scale :=
  match x, y with
  | some a, some b => some (a * b)
  | _, _ => none

/-- Scale of row `m`, element `k` of A in batch `i` (R58). -/
def MxSrc.aScale (x : MxSrc) (i m k : Nat) : Scale :=
  let d := x.d
  let o := i * d.aBs
  if d.a.scale = 0 then some 1
  else if d.a.scale = 1 then e8m0 (x.ab.get (d.aAux + o + m * (d.aPitch / d.auxDiv) + k / 32))
  else mulScale (e8m0 (x.ab.get (d.aAux + o + m * (d.aPitch / 64) + k / 128)))
    (ue4m3 (x.ab.get (d.aFine + o + m * (d.aPitch / 8) + k / 16)))

/-- Scale of column `n`, element `k` of W in batch `i` (R59). -/
def MxSrc.wScale (x : MxSrc) (i n k : Nat) : Scale :=
  let d := x.d
  let c := d.cls
  let base := d.wAux + i * d.wBs + (n / c.nt * d.kb + k / c.kt) * d.wsb + n % c.nt * d.colScales
  let kk := k % c.kt
  if d.w.scale = 0 then some 1
  else if d.w.scale = 1 then e8m0 (x.wb.get (base + kk / 32))
  else mulScale (e8m0 (x.wb.get (base + kk / 128))) (ue4m3 (x.wb.get (base + c.kt / 128 + kk / 16)))

/-- Element (m, k) of A in batch `i` (R55). -/
def MxSrc.aElem (x : MxSrc) (i m k : Nat) : Val × Bool :=
  let c := codeAt x.ab.get x.d.fa (x.d.aAddr + i * x.d.aBs + m * x.d.aPitch) k
  (decodeVal x.d.fa x.d.a.zp c.1, c.2)

/-- Element (k, n) of W in batch `i` (R56). -/
def MxSrc.wElem (x : MxSrc) (i n k : Nat) : Val × Bool :=
  let d := x.d
  let c := d.cls
  let base := d.wAddr + i * d.wBs + (n / c.nt * d.kb + k / c.kt) * d.wblk + n % c.nt * d.colBytes
  let v := codeAt x.wb.get d.fw base (k % c.kt)
  (decodeVal d.fw d.w.zp v.1, v.2)

/-- The valid spill entries of row `m` whose element lies in the 16-element group `g` (R35, R73): index and value. -/
def MxSrc.spills (x : MxSrc) (i m g : Nat) : List (Nat × Val) :=
  if ¬ x.spill then []
  else
    let blk := g / 8
    let base := x.d.aSpill + i * x.d.aBs + m * (x.d.aPitch / 4) + blk * 16
    (List.range 8).filterMap fun e =>
      let p := x.ab.get (base + 2 * e)
      let k := blk * 128 + fieldOf p 6 0
      if bitOf p 7 ∧ k / 16 = g ∧ k < x.d.k then
        some (k, decodeVal (if x.d.fa = .int4 then .int8 else .e4m3) false (x.ab.get (base + 2 * e + 1)).toNat)
      else none

/-- One scaled group sum (R26, R29, R36): the exact sum, `none` when it is NaN, and the flags. -/
def MxSrc.group (x : MxSrc) (i m n g : Nat) : Option Rat × Word :=
  let ks := ((List.range 16).map fun j => 16 * g + j).filter fun k => k < x.d.k
  let main := ks.map fun k => (x.aElem i m k, x.wElem i n k)
  let side := (x.spills i m g).map fun p => ((p.2, false), x.wElem i n p.1)
  let l := main ++ side
  let bad := l.any fun p => !p.1.1.isFinite || !p.2.1.isFinite
  let resv := l.any fun p => p.1.2 || p.2.2
  let sum := (l.map fun p => p.1.1.toRat * p.2.1.toRat).sum
  let sc := mulScale (x.aScale i m (16 * g)) (x.wScale i n (16 * g))
  let fl := (if bad then flagNanInput else 0) ||| (if resv then flagInvalid else 0)
    ||| (if sc.isNone then flagScaleInvalid else 0)
  match sc with
  | some v => (if bad then none else some (sum * v), fl)
  | none => (none, fl)

/-- Group sums added to an accumulator in increasing K order (R28, R70): the result and the flags. -/
def MxDesc.accumulate (d : MxDesc) (start : Word) : List GroupSum → Word × Word
  | [] => (start, 0)
  | (v, f) :: l =>
    let (a, f2) := if d.intAcc then accInt32 start (v.getD 0).num else accFp32 start v
    let (r, f3) := d.accumulate a l
    (r, f ||| f2 ||| f3)

/-- The correction of R38 with the records of R37: SUM and ZERO of a row of A and of a column of W. -/
def MxSrc.correction (x : MxSrc) (i m n : Nat) : Int :=
  let d := x.d
  let ra := d.aAux + i * d.aBs + 8 * m
  let rw := d.wAux + i * d.wBs + 8 * n
  let asum := signed 32 (leNat (x.ab.bytes ra 4))
  let za := if d.a.zp then signed 16 (leNat (x.ab.bytes (ra + 4) 2)) else 0
  let wsum := signed 32 (leNat (x.wb.bytes rw 4))
  let zw := if d.w.zp then signed 16 (leNat (x.wb.bytes (rw + 4) 2)) else 0
  (d.k : Int) * za * zw - za * wsum - zw * asum

/-- One accumulator over one pass from its starting value `old` and its group sums: the correction of R38 comes on the
last pass. The third part says whether saturation occurred in this write (R83). -/
def MxSrc.element (x : MxSrc) (i m n kb : Nat) (sums : List GroupSum) (old : Word) : Word × Word × Bool :=
  let d := x.d
  let start := if kb = 0 ∧ ¬ d.accum then 0 else old
  let f0 := if kb = 0 ∧ d.accum ∧ ¬ d.intAcc ∧ ¬ (fp32Val old).isFinite then flagNanInput else 0
  let (v, f) := d.accumulate start sums
  let (v, f1) := if kb + 1 = d.kb ∧ d.zeroPoint then accInt32 v (x.correction i m n) else (v, 0)
  let fl := f0 ||| f ||| f1
  (v, fl, ((f ||| f1) &&& (flagSat ||| flagOverflow)) ≠ 0)

namespace MxDesc

/-- Rows of one batch, and of the whole product (R69, R75). -/
def batchRows (d : MxDesc) : Nat := d.nb * d.kb * d.m
def rowCount (d : MxDesc) : Nat := d.b * d.batchRows

/-- Row number `r` in the order of R69: batch, n-tile, k-tile, row. -/
def rowAt (d : MxDesc) (b0 r : Nat) : Nat × Nat × Nat × Nat :=
  (b0 + r / max 1 d.batchRows, r / max 1 (d.kb * d.m) % max 1 d.nb, r / d.m % max 1 d.kb, r % d.m)

/-- The columns that n-tile `nb` writes (R71). -/
def cols (d : MxDesc) (nb : Nat) : List Nat := ((List.range d.cls.nt).map fun j => nb * d.cls.nt + j).filter fun n => n < d.n

/-- The 16-element groups that k-tile `kb` reads (R70, R71). -/
def groups (d : MxDesc) (kb : Nat) : List Nat :=
  let per := d.cls.kt / 16
  ((List.range per).map fun j => kb * per + j).filter fun g => 16 * g < d.k

end MxDesc

/-- The group sums of a row as it enters the array, column by column. -/
def MxSrc.rowSums (x : MxSrc) (row : Nat × Nat × Nat × Nat) : List (List GroupSum) :=
  let (i, nb, kb, m) := row
  (x.d.cols nb).map fun n => (x.d.groups kb).map fun g => x.group i m n g

/-- The valid entries of the spill records that a row's pass covers (R35, R73). -/
def MxSrc.rowTerms (x : MxSrc) (row : Nat × Nat × Nat × Nat) : Nat :=
  let (i, _, kb, m) := row
  let per := x.d.cls.kt / 128
  let base := x.d.aSpill + i * x.d.aBs + m * (x.d.aPitch / 4)
  ((List.range (per * 8)).filter fun e =>
    decide (128 * (kb * per + e / 8) < x.d.k) && bitOf (x.ab.get (base + 16 * (kb * per) + 2 * e)) 7).length

/-- The level in force for row `m` of batch `i` of A: that of the quantise instruction of this core that wrote it, or where
none did that of the product itself (R44, R73). -/
def Core.rowLevel (x : Core) (d : MxDesc) (full : Bool) (i m : Nat) : Bool :=
  let a := d.aAddr + i * d.aBs + m * d.aPitch
  match (x.quants.filter fun q => q.1 = 1 && decide (q.2.1 < a + d.rowBytes) && decide (a < q.2.1 + q.2.2.1)).getLast? with
  | some q => q.2.2.2
  | none => full

/-- What a row reads (R55, R73). -/
def Core.mxSrc (x : Core) (j : MxJob) (i m : Nat) : MxSrc :=
  let d := MxDesc.of j.raw
  ⟨d, x.ab, j.plane, d.a.spill && x.rowLevel d j.full i m⟩

/-- What the array does in one region cycle: rows that enter, spill terms, flags, saturated writes, the bit MX_INJECT taken,
and the mismatch that is met, as code and FAULT_INFO. -/
structure MxDone where
  busy : Nat := 0
  terms : Nat := 0
  flags : Word := 0
  sats : Nat := 0
  injected : Bool := false
  fault : Option (Nat × Word) := none
  deriving DecidableEq, Repr

/-- FAULT_INFO of R80. -/
def mxInfo (desc detail tile : Nat) : Word := word (desc % 128 * 2 ^ 25 + detail % 16 * 2 ^ 21 + tile % 2 ^ 16)

/-- The present cycle of a product: the row that enters takes its group sums along; before the first row of a pass the
weights of the pass are loaded (R57). `inject` inverts the first residue of a tile that enters (R81). -/
def Core.mxEnter (x : Core) (rc : Nat) (inject : Bool) (run : Run) : Run × MxDone :=
  match run.mx with
  | none => (run, {})
  | some j =>
    let d := MxDesc.of j.raw
    let r := rc - run.issue - 1
    let enters := !run.dead && decide (run.issue < rc) && decide (r < d.rowCount)
    let hit := enters && inject && decide (r % max 1 d.batchRows = 0)
    let row := d.rowAt j.b0 r
    let src := x.mxSrc j row.1 row.2.2.2
    let terms := if enters && src.spill && row.2.1 = 0 then src.rowTerms row else 0
    let j := if enters then { j with flight := j.flight ++ [⟨r, src.rowSums row⟩] } else j
    let j := if hit && j.stop.all (fun q => r < q.1) then { j with stop := some (r, 0x210, 0) } else j
    let next := rc - run.issue
    let j := if run.issue ≤ rc ∧ next < d.rowCount ∧ next % d.m = 0 then { j with plane := x.wb } else j
    ({ run with mx := some j }, { busy := enters.toNat, terms := terms, injected := hit })

/-- The accumulation of one row from PB with the array's own writes on their way: its landing, flags, saturated writes
(R70, R72, R74). -/
def Core.mxAccumulate (x : Core) (run : Run) (j : MxJob) (lands : List Landing) (w : MxRow) : Landing × Word × Nat :=
  let d := MxDesc.of j.raw
  let (i, nb, kb, m) := d.rowAt j.b0 w.num
  let src : MxSrc := ⟨d, x.ab, x.wb, false⟩
  let pb := lands.foldl (fun p l => p.puts l.puts) x.pb
  let base := d.cAddr + i * d.cBs + m * d.cPitch
  let res := ((d.cols nb).zip w.sums).map fun c =>
    src.element i m c.1 kb c.2 (word (leNat (pb.bytes (base + 4 * c.1) 4)))
  (⟨run.issue + 1 + w.num + d.delay, 2, putsOf (base + 4 * (nb * d.cls.nt)) (res.flatMap fun v => leBytes 4 v.1.toNat), []⟩,
    res.foldl (fun f v => f ||| v.2.1) 0, (res.filter fun v => v.2.2).length)

/-- Rows accumulated in order up to the one at which the checkers stop the product (R78). -/
def Core.mxRows (x : Core) (run : Run) (j : MxJob) : List Landing → MxDone → List MxRow → List Landing × MxDone
  | lands, o, [] => (lands, o)
  | lands, o, w :: l =>
    match j.stop with
    | some (r, code, detail) =>
      if w.num = r then
        (lands, { o with fault := some (code, mxInfo j.desc detail (j.tile + r / max 1 (MxDesc.of j.raw).batchRows)) })
      else
        let a := x.mxAccumulate run j lands w
        x.mxRows run j (lands ++ [a.1]) { o with flags := o.flags ||| a.2.1, sats := o.sats + a.2.2 } l
    | none =>
      let a := x.mxAccumulate run j lands w
      x.mxRows run j (lands ++ [a.1]) { o with flags := o.flags ||| a.2.1, sats := o.sats + a.2.2 } l

/-- The rows of a product that are due by a region cycle: they read their starting value in cycle entry + D - 1 (R74). -/
def Run.due (rc : Nat) (run : Run) : List MxRow :=
  match run.mx with
  | none => []
  | some j => if run.dead then [] else j.flight.filter fun w => decide (run.issue + w.num + (MxDesc.of j.raw).delay ≤ rc)

/-- The products of the array in issue order. A row that is due comes after every row before it (R74: an accumulation sees
the array's earlier results). -/
def Core.mxAll (x : Core) (rc : Nat) : List Landing → MxDone → List Run → List Landing × MxDone × List Run
  | lands, o, [] => (lands, o, [])
  | lands, o, run :: l =>
    match run.mx with
    | none => let t := x.mxAll rc lands o l; (t.1, t.2.1, run :: t.2.2)
    | some j =>
      let now := if run.dead then [] else if l.any (fun r => !(r.due rc).isEmpty) then j.flight else run.due rc
      let a := x.mxRows run j lands o now
      let run := { run with mx := some { j with flight := j.flight.drop now.length }, dead := run.dead || a.2.fault.isSome }
      if a.2.fault.isSome then (a.1, a.2, run :: l)
      else let t := x.mxAll rc a.1 a.2 l; (t.1, t.2.1, run :: t.2.2)

/-- The array in one region cycle. -/
def Core.mxCycle (x : Core) (rc : Nat) (inject : Bool) : Core × MxDone :=
  let es := x.mx.map (x.mxEnter rc inject)
  let sum := fun (f : MxDone → Nat) => (es.map fun e => f e.2).sum
  let (lands, o, runs) := x.mxAll rc x.mxLands {} (es.map (·.1))
  ({ x with mx := runs, mxLands := lands },
    { o with busy := sum (·.busy), terms := sum (·.terms), injected := es.any fun e => e.2.injected })

namespace State

/-- MX descriptor `i` of a stream (R61). -/
def mxdAt (p : Prog) (i : Nat) : Option (List Byte) :=
  if i < p.mxd.length / 64 then some ((p.mxd.drop (64 * i)).take 64) else none

/-- The row at which the checkers stop a product, with code and DETAIL (R45, R78, R80). -/
def mxStop : Upset → Option (Nat × Nat × Nat)
  | .residue r d => some (r, 0x210, d.val)
  | .side r d => some (r, 0x211, d.val)
  | _ => none

/-- The first batch of a product (R64). -/
def mxBatch (s : State) (k : Nat) (h : Head) : Nat := if bitOf h.word 48 then s.ctr k (fieldOf h.word 47 45) else 0

/-- The run of a product that enters the array: from its descriptor `raw` at place `desc`, with what the checkers will find
in it. -/
def mxRun (s : State) (k : Nat) (h : Head) (desc : Nat) (raw : List Byte) (stop : Option (Nat × Nat × Nat)) : Run :=
  let d := MxDesc.of raw
  { issue := s.coreRc k, occ := d.rowCount, lat := d.delay, pipe := 0, inst := h.inst, stream := h.num, stamp := h.stamp,
    tag := h.bundle.tag, line := h.bundle.line,
    mx := some { desc := desc, raw := raw, b0 := s.mxBatch k h, tile := (s.getCore k).tile, full := s.fullLevel h.prog,
                 stop := stop } }

/-- A product that has passed its issue check is counted (R83) and enters the array, unless a word it reads has a
double-bit error (R122). -/
def mxEnterRun (s : State) (k : Nat) (h : Head) (desc : Nat) (raw : List Byte) (masked : Bool) (up : Upset) : State :=
  let d := MxDesc.of raw
  let run := s.mxRun k h desc raw (mxStop up)
  let s := (s.count (cnt k 8) 1).count (cnt k 9) d.b
  let s := if !masked && (d.n % d.cls.nt ≠ 0 || d.k % d.cls.kt ≠ 0) then s.count (cnt k 11) 1 else s
  let enter := fun (s : State) => s.modCore k fun x => { x with mx := x.mx ++ [run], tile := x.tile + d.b }
  match up with
  | .berthUe berth a => s.coreFault k 0x231 (s.berthInfo berth a 0)
  | .berthCe _ _ => (enter s).berthCe k
  | _ => enter s

/-- `mx.mm` and `mx.mm.masked` behind the issue bookkeeping: R66, then the product. -/
def mxMm (s : State) (k : Nat) (h : Head) (masked : Bool) (up : Upset) : State :=
  let desc := fieldOf h.word 55 49
  let tile := (s.getCore k).tile
  match mxdAt h.prog desc with
  | none => s.coreFault k 0x215 (mxInfo desc 0 tile)
  | some raw =>
    if mxReserved raw then s.coreFault k 0x215 (mxInfo desc 0 tile)
    else
      let d := MxDesc.of raw
      match d.formatFault with
      | some detail => s.coreFault k 0x214 (mxInfo desc detail tile)
      | none =>
        match s.mxCheck k d (s.mxBatch k h) with
        | .fault code detail => s.coreFault k code (mxInfo desc detail tile)
        | .gated berth a => s.gatedFault k berth a 0
        | .ok => s.mxEnterRun k h desc raw masked up

/-- One region cycle of the array (R74 to R78, R83): it goes on while the core has not stopped. A mismatch is reported in
the cycle in which its row would have been accumulated. -/
def mxCycle (s : State) (k rc : Nat) : State :=
  let x := s.getCore k
  if x.state ≠ 1 ∨ x.mx.isEmpty then s
  else
    let (x, o) := x.mxCycle rc (bitOf (s.rd (coreP k + 0x4C)) 0)
    let s := ((s.setCore k x).count (cnt k 10) o.busy).count (cnt k 12) o.terms
    let s := (s.count (cnt k 3) o.sats).orBits (coreP k + 0x54) o.flags
    let s := if o.injected then s.wrField (coreP k + 0x4C) 0 0 0 else s
    match o.fault with
    | some f => s.coreFault k f.1 f.2
    | none => s

/-- The array is free for another product (R75). -/
def arrayFree (s : State) (k : Nat) : Bool :=
  (s.getCore k).mx.all fun r => r.pipe ≠ 0 || decide (r.issue + r.occ ≤ s.coreRc k)

/-- An `mx.` product issues when R167 and R75 allow it. -/
def mxIssue (op : Nat) (masked : Bool) (k : Nat) (up : Upset) (s : State) : State :=
  match s.readyHead k 1 op with
  | none => s
  | some h =>
    if s.arrayFree k then
      s.chartRead k up fun s => ((s.issued k 1 h).mxMm k h masked up).brkIssue k 1 h
    else s

/-- The field of a dimension in the descriptor: byte offset, and the dimension's maximum (R65). -/
def dimField (dim : Nat) : Nat × Nat :=
  match dim with
  | 0 => (0, 4096)
  | 1 => (2, 4096)
  | 2 => (4, 16384)
  | _ => (56, 65536)

/-- `mx.setdim` behind the issue bookkeeping (R65): the field is written at the end of the region cycle, after every chart
write of that cycle (R220). -/
def mxSetdim (s : State) (k : Nat) (h : Head) : State :=
  let desc := fieldOf h.word 55 49
  let x := s.getCore k
  let dim := fieldOf h.word 48 47
  let v : Int := (s.ctr k (fieldOf h.word 46 44) : Int) + signed 16 (fieldOf h.word 43 28)
  let f := dimField dim
  if h.prog.mxd.length / 64 ≤ desc then s.coreFault k 0x215 (mxInfo desc 0 x.tile)
  else if v < 1 ∨ (f.2 : Int) < v then s.coreFault k 0x216 (mxInfo desc dim x.tile)
  else
    let run : Run := { issue := s.coreRc k, occ := 0, lat := 1, pipe := 3, inst := h.inst,
                       stream := h.num, stamp := h.stamp, tag := h.bundle.tag, line := h.bundle.line }
    s.modCore k fun x =>
      { x with mx := x.mx ++ [run], dimOps := x.dimOps ++ [(h.num, desc, f.1, leBytes 2 (v.toNat - 1))] }

/-- Every result group of a run has come (R104). -/
def wholeRun (r : Run) : Bool :=
  match r.wharf with
  | some w => w.groups.isEmpty
  | none => true

/-- The first run of a list that is due to retire, and the others. -/
def dueRun (now : Nat) : List Run → Option (Run × List Run)
  | [] => none
  | r :: l =>
    if !r.dead && wholeRun r && decide (r.issue + r.occ + r.lat ≤ now) then some (r, l)
    else (dueRun now l).map fun p => (p.1, r :: p.2)

/-- The oldest due instruction of the MXE retires: its last writes are visible. A stopped core retires no product (R75,
R76). -/
def mxRetire (s : State) (k : Nat) : State :=
  if (s.getCore k).state ≠ 1 then s
  else match dueRun (s.coreRc k) (s.getCore k).mx with
    | none => s
    | some (r, rest) =>
      (s.modCore k fun x => { x with mx := rest }).retire k 1 r.stream r.inst r.tag r.line r.stamp

end State

/-- `mx.mm` (R64, R66). -/
def execMxMm (core : Nat) (up : Upset) (s : State) : Out :=
  actCore core (core < s.build.physCores) (State.mxIssue 0x01 false core up) s

/-- `mx.mm.masked` (R64, R71). -/
def execMxMmMasked (core : Nat) (up : Upset) (s : State) : Out :=
  actCore core (core < s.build.physCores) (State.mxIssue 0x02 true core up) s

/-- `mx.setdim` (R65). -/
def execMxSetdim (core : Nat) (up : Upset) (s : State) : Out :=
  actCore core (core < s.build.physCores) (fun s =>
    match s.readyHead core 1 0x08 with
    | none => s
    | some h => s.chartRead core up fun s => ((s.issued core 1 h).mxSetdim core h).brkIssue core 1 h) s

/-- A product or `mx.setdim` retires (R65, R75). -/
def execMxRetire (core : Nat) (s : State) : Out :=
  actCore core (core < s.build.physCores) (fun s => s.mxRetire core) s

end Sys2Proof.Machine
end

