-- ==== Sys2Proof/Machine/Vector.lean ====
section
/-! DEFINITION. The vector engine (R84 to R110, R492): operand descriptors, the resolution of an instruction and its issue
check. The quantise step is in Quantise.lean, the lanes are in Lanes.lean. -/

namespace Sys2Proof.Machine

/-- The fields of a VX slot (R208, R209). -/
def VOp.of (w : DWord) : VOp :=
  let o := opOf w
  { op := o / 4, cls := o % 4, dst := fieldOf w 55 48, sa := fieldOf w 47 40, sb := fieldOf w 39 32,
    sc := fieldOf w 31 24, n := fieldOf w 23 10 + 1, mask := fieldOf w 9 6, rnd := bitOf w 5, fw := bitOf w 4,
    octr := fieldOf w 3 0 }

/-- The kinds of VX operations by OPCODE[7:2] (R208). -/
def vAdd : Nat := 0x01
def vMul : Nat := 0x02
def vFma : Nat := 0x03
def vMin : Nat := 0x04
def vMax : Nat := 0x05
def vSel : Nat := 0x06
def vCvt : Nat := 0x10
def vQuant : Nat := 0x11
def vCompress : Nat := 0x1C
def vExpand : Nat := 0x1D
def vMset : Nat := 0x20
def vWharf : Nat := 0x28
def vSent : Nat := 0x2C
def isCmp (op : Nat) : Bool := 0x08 ≤ op && op ≤ 0x0E
def isRed (op : Nat) : Bool := 0x14 ≤ op && op ≤ 0x18
def isMlogic (op : Nat) : Bool := 0x24 ≤ op && op ≤ 0x27

/-- Lanes, register capacity, element bytes and element format of a class (R84, R90). -/
def lanesOf (cls : Nat) : Nat := [256, 512, 512, 1024].getD cls 256
def sizeOf_ (cls : Nat) : Nat := [4, 2, 2, 1].getD cls 4
def capOf (cls : Nat) : Nat := 4096 / sizeOf_ cls
def fmtOf (cls : Nat) : Fmt := [.fp32, .bf16, .fp16, .int8].getD cls .fp32

/-- The fields of an operand descriptor (R88). -/
def VDesc.of (l : List Byte) : VDesc :=
  let b1 := fieldAt l 1 1
  { kind := fieldAt l 0 1 % 4, berth := b1 % 8, accInt := b1 / 8 % 2 = 1, nd := Nd.of (l.getD 2 0),
    addr := fieldAt l 4 4, estride := fieldAt l 8 2, step := signed 32 (fieldAt l 12 4), aux := fieldAt l 16 4,
    pitch := fieldAt l 20 4,
    reserved := fieldAt l 0 1 ≥ 4 || b1 ≥ 16 || b1 % 8 ≥ 4 || !zeroAt l 3 1 || !zeroAt l 10 2 || !zeroAt l 24 8 }

/-- The fields of a quantise descriptor (R97). -/
def QDesc.of (l : List Byte) : QDesc :=
  { rowsum := fieldAt l 1 1 % 2 = 1, k := fieldAt l 2 2 % 16384 + 1, ratio := word (fieldAt l 4 4),
    pitch := fieldAt l 8 4, aux := fieldAt l 12 4, fine := fieldAt l 16 4, spill := fieldAt l 20 4,
    qscale := word (fieldAt l 24 4), zero := fieldAt l 28 2,
    reserved := fieldAt l 0 1 ≥ 4 || fieldAt l 1 1 ≥ 2 || fieldAt l 2 2 ≥ 16384 || !zeroAt l 30 2 }

/-- The berth space of a descriptor's BERTH: 0 AB, 1 WB, 2 PB, 3 PB_ACC (R88). -/
def vSpace (berth : Nat) : Nat := [1, 0, 2, 2].getD berth 1

def VDesc.fmt (d : VDesc) : Fmt := (Fmt.ofCode d.nd.fmt).getD .fp32

/-- Byte offset of element `i` for formats of whole bytes (R89). -/
def VDesc.elemOff (d : VDesc) (i : Nat) : Nat := i * d.estride * (d.fmt.bits / 8)

/-- Bytes of the range of `n` elements (R101); those of a TERN operand lie in groups of 26 bytes (R20). -/
def VDesc.span (d : VDesc) (n : Nat) : Nat :=
  let b := d.fmt.bits
  if b < 8 then (if d.estride = 0 then 1 else d.fmt.rowBytes n)
  else (n - 1) * d.estride * (b / 8) + b / 8

/-- Alignment of an operand: a multiple of the element size (R101). -/
def VDesc.aligned (d : VDesc) (ea : Int) : Bool :=
  d.fmt.bits < 8 || ea % ((d.fmt.bits / 8 : Nat) : Int) = 0

/-- The strides and the AUX field that the format and scaling of an operand allow (R88, R89). -/
def VDesc.shapeOk (d : VDesc) : Bool :=
  (8 ≤ d.fmt.bits || d.estride ≤ 1) && (d.nd.scale = 0 || d.estride = 1) && (d.nd.scale = 1 || d.aux = 0)

/-- VX descriptor `i` of a stream. -/
def vxdAt (p : Prog) (i : Nat) : Option (List Byte) :=
  if i < p.vxd.length / 32 then some ((p.vxd.drop (32 * i)).take 32) else none

/-- What a field of a slot admits; `sentinel` is DESC of `vx.sent`, seven bits. -/
inductive Kind where
  | none_ | value | mask | desc | quant | count | sentinel | any
  deriving DecidableEq, Repr

/-- The kinds of DST, SA, SB and SC of an operation (R92, R209). `vx.wharf` holds FN in SB, `vx.sent` T in SC. -/
def kindsOf (op : Nat) : List Kind :=
  if op = vFma then [.value, .value, .value, .value]
  else if op = vAdd ∨ op = vMul ∨ op = vMin ∨ op = vMax ∨ op = vSel then [.value, .value, .value, .none_]
  else if isCmp op then [.mask, .value, .value, .none_]
  else if op = vQuant then [.desc, .value, .quant, .none_]
  else if op = vCompress then [.value, .value, .none_, .count]
  else if op = vMset then [.mask, .none_, .none_, .none_]
  else if isMlogic op then [.mask, .mask, .mask, .none_]
  else if op = vWharf then [.value, .value, .any, .none_]
  else if op = vSent then [.none_, .desc, .sentinel, .any]
  else [.value, .value, .none_, .none_]

/-- The specifier check of one field (R87, R101): illegal value or kind, or a bad descriptor. -/
def specOk (p : Prog) (spec : Nat) (k : Kind) : Bool :=
  match k with
  | .none_ => spec = 0
  | .any => true
  | .sentinel => spec < 0x80
  | .mask => 0x20 ≤ spec && spec < 0x28
  | _ =>
    if 0x10 ≤ spec ∧ spec < 0x20 then k = .value
    else if 0x80 ≤ spec then
      match vxdAt p (spec - 0x80) with
      | none => false
      | some l =>
        if k = .quant then fieldAt l 0 1 % 4 = 1 && !(QDesc.of l).reserved
        else fieldAt l 0 1 % 4 = 0 && !(VDesc.of l).reserved
    else false

/-- The operand of a specifier that passed its check. -/
def opndOf (p : Prog) (spec : Nat) (off : Int) : Option Opnd :=
  if 0x10 ≤ spec ∧ spec < 0x20 then some (.reg (spec - 0x10))
  else if 0x80 ≤ spec then
    (vxdAt p (spec - 0x80)).map fun l =>
      let d := VDesc.of l
      .mem d (d.addr + off * d.step) (d.aux + off * d.step)
  else none

/-- The class and NDESC rules of a source (R84, R88, R91). -/
def srcFormatOk (cls : Nat) : Opnd → Bool
  | .reg _ => true
  | .mem d _ _ =>
    d.nd.legal false && !d.nd.zp && !d.nd.spill && d.shapeOk
      && (if d.berth = 3 then cls = 0 && d.nd.fmt = 9 && d.nd.scale = 0
          else if cls = 0 then d.nd.scale ≤ 1 else d.fmt = fmtOf cls && d.nd.scale = 0)

/-- The same of a destination other than that of `vx.quant` (R88, R89). -/
def dstFormatOk (cls : Nat) : Opnd → Bool
  | .reg _ => true
  | .mem d _ _ =>
    d.nd.legal false && !d.nd.zp && !d.nd.spill && d.nd.scale = 0 && d.shapeOk
      && (cls = 0 || d.fmt = fmtOf cls)

/-- The ranges of an operand of `n` elements: its data and, under MX32, its scales. -/
def opndRanges (detail n : Nat) (dst : Bool) : Opnd → List VRange
  | .reg _ => []
  | .mem d ea aux =>
    [(detail, vSpace d.berth, ea, d.span n, d.aligned ea && !(dst && (d.estride = 0 || d.berth = 3)) && d.pitch = 0)]
      ++ (if d.nd.scale = 1 then [(detail, vSpace d.berth, aux, (n + 31) / 32, true)] else [])

/-- The bytes of an operand for the interlock of R100. -/
def opndBytes (cls n : Nat) : Opnd → List (Nat × Nat × Nat)
  | .reg i => [(3, 4096 * i, n * sizeOf_ cls)]
  | .mem d ea aux =>
    [(vSpace d.berth, ea.toNat, d.span n)]
      ++ (if d.nd.scale = 1 then [(vSpace d.berth, aux.toNat, (n + 31) / 32)] else [])

/-- The bytes of one row of a quantise destination, its padded length, and the ranges of R98: codes, scales or records,
fine plane, spill records. -/
def quantPad (nd : Nd) (k : Nat) : Nat :=
  if nd.scale = 1 then (k + 31) / 32 * 32 else if nd.scale = 2 then (k + 127) / 128 * 128 else k

/-- The divisor of the destination pitch for the scales (R58). -/
def quantAuxDiv (nd : Nd) : Nat :=
  if nd.scale = 2 then 64 else if ((Fmt.ofCode nd.fmt).getD .int8).bits ≥ 8 then 32 else 16

def quantRanges (d : VDesc) (q : QDesc) (ea off : Int) (rows : Nat) (spillOn : Bool) : List VRange :=
  let sp := vSpace d.berth
  let nd := d.nd
  let kp := quantPad nd q.k
  let m1 := rows - 1
  let o := off * d.step
  let codes := (0, sp, ea, m1 * q.pitch + d.fmt.rowBytes kp,
    (d.fmt.bits < 8 || ea % ((d.fmt.bits / 8 : Nat) : Int) = 0) && d.estride ≠ 0 && d.berth ≠ 3 && d.pitch = 0
      && q.pitch % 16 = 0 && (!nd.spill || q.pitch % 64 = 0))
  let scales :=
    if nd.scale = 1 then
      [(5, sp, (q.aux : Int) + o, m1 * (q.pitch / quantAuxDiv nd) + kp / 32, decide (q.pitch % quantAuxDiv nd = 0))]
    else if nd.scale = 2 then
      [(5, sp, (q.aux : Int) + o, m1 * (q.pitch / 64) + kp / 128, decide (q.pitch % 64 = 0)),
       (5, sp, (q.fine : Int) + o, m1 * (q.pitch / 8) + kp / 16, true)]
    else if q.rowsum then [(5, sp, (q.aux : Int) + o, 8 * rows, decide (((q.aux : Int) + o) % 8 = 0))]
    else []
  let spill :=
    if nd.spill ∧ spillOn then
      [(5, sp, (q.spill : Int) + o, m1 * (q.pitch / 4) + 16 * ((kp + 127) / 128),
        decide (((q.spill : Int) + o) % 16 = 0))]
    else []
  [codes] ++ scales ++ spill

/-- The rows of codes that a quantise writes, with its level in force (R44, R73). -/
def quantRows (d : VDesc) (q : QDesc) (ea : Int) (rows : Nat) (full : Bool) : List (Nat × Nat × Bool) :=
  (List.range rows).map fun r => (ea.toNat + r * q.pitch, d.fmt.rowBytes (quantPad d.nd q.k), full)

/-- The NDESC and descriptor rules of a quantise (R22, R88, R97, R98); DETAIL 0 for DST, 2 for the quantise
descriptor. -/
def quantFormat (d : VDesc) (q : QDesc) : Option Nat :=
  let f := d.fmt
  if ¬ d.nd.legal true ∨ (f.bits < 8 ∧ 1 < d.estride) ∨ (d.nd.scale = 1 ∧ d.estride ≠ 1) ∨ (d.nd.scale ≠ 1 ∧ d.aux ≠ 0) then
    some 0
  else if q.rowsum ∧ ¬ ((f = .int8 ∨ f = .int4 ∨ f = .int2) ∧ d.nd.scale = 0) then some 2
  else if ¬ (fp32Val q.qscale).isFinite ∨ ¬ (fp32Val q.ratio).isFinite ∨ fp32Rat q.ratio ≤ 0 then some 2
  else if (if d.nd.zp then decide (2 ^ f.bits ≤ q.zero) else decide (q.zero ≠ 0)) then some 2
  else if (d.nd.scale ≠ 2 ∧ q.fine ≠ 0) ∨ (¬ d.nd.spill ∧ q.spill ≠ 0) then some 2
  else none

/-- A register operand whose capacity `n` exceeds (R90). -/
def overCap (cls n : Nat) : Opnd → Bool
  | .reg _ => decide (capOf cls < n)
  | .mem _ _ _ => false

/-- The count operand of `vx.compress`: an operand descriptor with NDESC 0x00, and so with AUX 0 (R88, R95). -/
def countOk : Option Opnd → Bool
  | some (.mem d _ _) => decide (d.nd = ⟨false, false, 0, 0⟩) && decide (d.aux = 0)
  | _ => false

/-- Its range: 4 bytes, an ADDR that is a multiple of 4, ESTRIDE 1 (R95, R101). -/
def countRange : Option Opnd → List VRange
  | some (.mem d ea _) =>
    [(3, vSpace d.berth, ea, 4, decide (d.addr % 4 = 0) && decide (ea % 4 = 0) && decide (d.estride = 1)
      && decide (d.pitch = 0) && decide (d.berth ≠ 3))]
  | _ => []

/-- The first listed operand, with its DETAIL, that a test rejects. -/
def firstBad (test : Opnd → Bool) : List (Nat × Option Opnd) → Option Nat
  | [] => none
  | (i, some o) :: l => if test o then some i else firstBad test l
  | (_, none) :: l => firstBad test l

/-- Ranges and bytes over the operands that are present. -/
def overOpnds {α : Type} (f : Nat → Opnd → List α) : List (Nat × Option Opnd) → List α
  | [] => []
  | (i, some o) :: l => f i o ++ overOpnds f l
  | (_, none) :: l => overOpnds f l

/-- The legal classes of an operation (R208). -/
def classOk (op cls : Nat) : Bool :=
  if op = vAdd || op = vMin || op = vMax || op = vSel || isCmp op || op = vCompress || op = vExpand then cls ≤ 3
  else if op = vMul || op = vFma then cls ≤ 2
  else cls = 0

/-- The Wharf plane in use. -/
def Core.plane (x : Core) : Plane := if x.activeB then x.planeB else x.planeA

/-- Range rules in order: alignment, bounds, gating (R101). -/
def State.vxRanges (s : State) (k : Nat) : List VRange → Check
  | [] => .ok
  | (detail, space, a, n, aligned) :: l =>
    if ¬ aligned then .fault 0x223 detail
    else if a < 0 ∨ a.toNat + n > s.build.berthBytes space then .fault 0x222 detail
    else match s.gatedAt k space a.toNat n with
      | some g => .gated space g
      | none => s.vxRanges k l

/-- The row and column that a sentinel samples (R49). -/
def sentPick (seed t mindex m n : Nat) : Nat × Nat :=
  let h := srSeed seed t mindex 0
  (h % m, h / 2 ^ 16 % n)

/-- SENT_RATE_LOG2, SENT_PHASE, SENT_THRESH and SENT_FLOOR of a stream: its entry of the SENTINELS table, or the defaults
where the table has none (R48). The entries of a core and tiling stand in the order of its streams, the ordinary one first,
then the prefetch variant (log 63, DESIGN CHOICE). -/
def Prog.sentParams (p : Prog) : Nat × Nat × Word × Word :=
  let o := if p.variant = 2 then 12 else 0
  if o + 12 ≤ p.sentinels.length then
    (fieldAt p.sentinels o 1, fieldAt p.sentinels (o + 2) 2, word (fieldAt p.sentinels (o + 4) 4),
      word (fieldAt p.sentinels (o + 8) 4))
  else (8, 0, 0x3C800000, 0x33800000)

/-- A tile is sampled (R48). -/
def Prog.samples (p : Prog) (t : Nat) : Bool := (t + p.sentParams.2.1) % 2 ^ p.sentParams.1 = 0

/-- The ranges of column `n` of W and of its scales in batch `b` (R56, R59, R106). -/
def MxDesc.colRanges (d : MxDesc) (b n : Nat) : List VRange :=
  let blk := fun (kb : Nat) => n / d.cls.nt * d.kb + kb
  let ok := decide (d.wAddr % 256 = 0 ∧ d.wBs % 256 = 0)
  (List.range d.kb).flatMap fun kb =>
    [(2, 0, ((d.wAddr + b * d.wBs + blk kb * d.wblk + n % d.cls.nt * d.colBytes : Nat) : Int), d.colBytes, ok)]
      ++ (if d.w.scale = 0 then []
          else [(2, 0, ((d.wAux + b * d.wBs + blk kb * d.wsb + n % d.cls.nt * d.colScales : Nat) : Int), d.colScales,
                  decide (d.wAux % 8 = 0))])

/-- The plan of a sentinel, or its fault (R101, R106): at LEAN, and for a tile that R48 does not sample, it reads
nothing. -/
def State.sentPlan (s : State) (h : Head) (v : VOp) (a : Option Opnd) : Except Check VPlan :=
  let p := h.prog
  let t := fieldOf h.word 31 16
  let bt := fieldOf h.word 15 0
  match mxdAt p (fieldOf h.word 38 32), a with
  | some raw, some (.mem da _ _) =>
    let md := MxDesc.of raw
    if mxReserved raw then .error (.fault 0x225 2)
    else if md.formatFault.isSome ∨ md.cls.cls > 3 ∨ md.a.scale = 0 then .error (.fault 0x224 2)
    else if da.nd ≠ ⟨false, false, 0, 7⟩ ∨ da.berth = 3 ∨ da.aux ≠ 0 then .error (.fault 0x224 1)
    else if ¬ s.fullLevel p then .ok { v := v }
    else if ¬ p.samples t then .ok { v := v, q := none, sent := some ⟨raw, bt, 0, 0, 0, 0, 0, 0, false⟩ }
    else
      let (m, n) := sentPick (s.rd (ctxP p.ctx + 0x4C)).toNat t p.mindex md.m md.n
      let ea : Int := (da.addr : Int) + bt * da.step + m * da.pitch
      let y := md.cAddr + bt * md.cBs + m * md.cPitch + 4 * n
      let r : List VRange :=
        [(1, vSpace da.berth, ea, 2 * ((md.k - 1) * da.estride) + 2, decide (ea % 2 = 0 ∧ da.pitch % 16 = 0)),
         (2, 2, (y : Int), 4, decide (y % 4 = 0))] ++ md.colRanges bt n
      .ok { v := v, a := a, sent := some ⟨raw, bt, m, n, ea.toNat, da.estride, vSpace da.berth, y, true⟩, ranges := r,
            srcs := r.map fun x => (x.2.1, x.2.2.1.toNat, x.2.2.2.1) }
  | _, _ => .error (.fault 0x225 2)

/-- The operand in field `i` of a slot (R87, R209). -/
def fieldOpnd (p : Prog) (v : VOp) (off : Int) (i : Nat) : Option Opnd :=
  match (kindsOf v.op)[i]? with
  | some .value | some .desc | some .count => opndOf p ([v.dst, v.sa, v.sb, v.sc].getD i 0) off
  | _ => none

/-- The ranges of the operands of an instruction whose offset is `off` (R89, R95, R98, R101); those of a sentinel follow
from what it samples. -/
def descRanges (p : Prog) (v : VOp) (off : Int) (full : Bool) : List VRange :=
  let o := fieldOpnd p v off
  if v.op = vSent then []
  else if v.op = vQuant then
    match o 0, o 1, vxdAt p (v.sb - 0x80) with
    | some (.mem d ea _), some a, some q =>
      opndRanges 1 v.n false a ++ quantRanges d (QDesc.of q) ea off (v.n / (QDesc.of q).k) full
    | _, _, _ => []
  else
    overOpnds (fun i x => opndRanges i (if isRed v.op then 1 else v.n) true x) [(0, o 0)]
      ++ overOpnds (fun i x => opndRanges i v.n false x)
        ([(1, o 1), (2, o 2)] ++ (if v.op = vCompress then [] else [(3, o 3)]))
      ++ (if v.op = vCompress then countRange (o 3) else [])

/-- The length that `vx.mset` sets, before its range check (R92). -/
def State.vxSetLen (s : State) (k : Nat) (h : Head) : Int :=
  (s.ctr k (fieldOf h.word 18 16) : Int) + signed 16 (fieldOf h.word 15 0)

/-- The plan of an instruction, or the fault its issue check raises (R101). -/
def State.vxPlan (s : State) (k : Nat) (h : Head) : Except Check VPlan :=
  let v := VOp.of h.word
  let p := h.prog
  let kinds := kindsOf v.op
  let x := s.getCore k
  let specs := [v.dst, v.sa, v.sb, v.sc]
  let bad := ((specs.zip kinds).zip (List.range 4)).find? fun f => !specOk p f.1.1 f.1.2
  match bad with
  | some f => .error (.fault 0x225 f.2)
  | none =>
    let common := !(v.op = vMset || v.op = vSent || isMlogic v.op)
    let needMask := v.op = vSel || v.op = vCompress || v.op = vExpand
    if (needMask && v.mask < 8) || (v.op = vQuant && v.mask ≠ 0) then .error (.fault 0x225 6)
    else
      let off : Int := if common then ((s.optCtr k v.octr).getD 0 : Nat) else 0
      let get := fieldOpnd p v off
      let d := get 0
      let a := get 1
      let b := get 2
      let c := get 3
      let reach := descRanges p v off (s.fullLevel p)
      let n := v.n
      let maskSrc := if common && 8 ≤ v.mask then [(4, 2048 * (v.mask % 8), 2048)] else []
      let frec : List VRange := if common && v.fw then
          [(4, 1, ((s.rd (coreP k + 0x50)).toNat + 8 * (x.records % 64) : Int), 8,
            decide ((s.rd (coreP k + 0x50)).toNat % 4 = 0))]
        else []
      if v.op = vSent then s.sentPlan h v a
      else if v.op = vMset then
        let len := s.vxSetLen k h
        if len < 0 ∨ 16384 < len then .error (.fault 0x226 0)
        else .ok { v := v, setLen := len, dests := [(4, 2048 * (v.dst % 8), 2048)] }
      else if isMlogic v.op then
        .ok { v := v, srcs := [(4, 2048 * (v.sa % 8), 2048), (4, 2048 * (v.sb % 8), 2048)],
              dests := [(4, 2048 * (v.dst % 8), 2048)] }
      else if v.op = vQuant then
        match d, a, vxdAt p (v.sb - 0x80) with
        | some (.mem dd ea _), some av, some ql =>
          let q := QDesc.of ql
          if ¬ srcFormatOk 0 av then .error (.fault 0x224 1)
          else match quantFormat dd q with
            | some detail => .error (.fault 0x224 detail)
            | none =>
              if overCap 0 n av then .error (.fault 0x226 1)
              else if n % q.k ≠ 0 then .error (.fault 0x226 2)
              else
                let rows := n / q.k
                let rs := quantRanges dd q ea off rows (s.fullLevel p)
                .ok { v := v, d := d, a := a, q := some q, off := off, ranges := reach ++ frec,
                      srcs := opndBytes 0 n av, dests := rs.map fun r => (r.2.1, r.2.2.1.toNat, r.2.2.2.1) }
        | _, _, _ => .error (.fault 0x225 0)
      else
        let srcs := [(1, a), (2, b)] ++ (if v.op = vCompress then [] else [(3, c)])
        if ¬ classOk v.op v.cls then .error (.fault 0x224 0)
        else match firstBad (fun o => !dstFormatOk v.cls o) [(0, d)] with
        | some i => .error (.fault 0x224 i)
        | none =>
          match firstBad (fun o => !srcFormatOk v.cls o) srcs with
          | some i => .error (.fault 0x224 i)
          | none =>
            if v.op = vCompress ∧ ¬ countOk c then .error (.fault 0x224 3)
            else match firstBad (overCap v.cls n) ((0, d) :: srcs) with
            | some i => .error (.fault 0x226 i)
            | none =>
              if v.op = vWharf ∧ x.plane.state ≠ 2 then .error (.fault 0x227 0)
              else
                let dn := if isRed v.op then 1 else n
                let cr := if v.op = vCompress then countRange c else []
                let maskDest := if isCmp v.op then [(4, 2048 * (v.dst % 8), 2048)] else []
                .ok { v := v, d := d, a := a, b := b, c := c, off := off, ranges := reach ++ frec,
                      srcs := overOpnds (fun _ o => opndBytes v.cls n o) srcs ++ maskSrc,
                      dests := overOpnds (fun _ o => opndBytes v.cls dn o) [(0, d)] ++ maskDest
                        ++ cr.map fun r => (r.2.1, r.2.2.1.toNat, 4) }

end Sys2Proof.Machine
end

