-- ==== Sys2Proof/Machine/Quantise.lean ====
section
/-! DEFINITION. The quantise step (R30 to R37, R97, R98): codes, scales, spill records and row sums of one row of a
source. -/

namespace Sys2Proof.Machine

/-- The absolute value. -/
def absR (x : Rat) : Rat := if x < 0 then -x else x

/-- The largest magnitude, 0 of none. -/
def amaxOf (l : List Rat) : Rat := l.foldl (fun m x => max m (absR x)) 0

/-- qmax of R30. -/
def qmaxOf : Fmt → Rat
  | .int4 => 7
  | .e2m1 => 6
  | _ => 1

/-- The exponent of the largest power of two of an element format (R31, log 19). -/
def emaxOf : Fmt → Int
  | .int8 => 6
  | .int4 => 2
  | .e4m3 => 8
  | .e5m2 => 15
  | .e2m1 => 2
  | _ => 0

/-- What the quantise step yields for one row. -/
structure QRow where
  codes : List Nat
  aux : List Byte := []
  fine : List Byte := []
  spill : List Byte := []
  sum : Int := 0
  flags : Word := 0
  used : Nat := 0
  clamped : Nat := 0
  sat : Nat := 0
  deriving DecidableEq, Repr

/-- Insertion in the ranking of R34: magnitude first, then the lower index. -/
def rankIn (e : Nat × Rat) : List (Nat × Rat) → List (Nat × Rat)
  | [] => [e]
  | f :: l => if absR f.2 < absR e.2 then e :: f :: l else f :: rankIn e l

/-- The spill candidates of a 128-element vector, ranked (R34 steps 1 to 3). -/
def spillCandidates (ratio : Word) (xs : List Rat) : List (Nat × Rat) :=
  let rms := sqrtFp32 ((xs.map fun x => x * x).sum / 128)
  let t := roundFloat ⟨8, 23, 127, pow2 128 - pow2 104, true, true⟩ .nearest (fp32Rat ratio * rms)
  if t.2.2 then []
  else (((List.range xs.length).zip xs).filter fun e => t.1 < absR e.2).foldl (fun l e => rankIn e l) []

/-- The measure of a scale unit (R34 step 4): its non-candidates, or all when those are all zero and it holds a
candidate. -/
def unitAmax (excluded : List Nat) (from_ : Nat) (xs : List Rat) : Rat :=
  let l := ((List.range xs.length).map (· + from_)).zip xs
  let a := amaxOf ((l.filter fun e => !excluded.contains e.1).map (·.2))
  if a = 0 then amaxOf xs else a

/-- A code of the quantise step from a scaled value: rounded to the format and clamped to `lo` to `hi` where it is an
integer one (R30, R31). `neg` is the sign of the source: a result that is zero keeps it in a signed floating format, which
the manual leaves open (log 26, DESIGN CHOICE). -/
def codeOf (f : Fmt) (md : Round) (lo hi : Int) (neg : Bool) (v : Rat) : Coded :=
  if f.isInt then
    let r := roundInt md v
    let n := max lo (min hi r.1)
    (intCode f n, (if r.2 then flagInexact else 0) ||| (if n ≠ r.1 then flagOverflow ||| flagInexact else 0))
  else convertTo f md (Val.ofRat neg v) 0

/-- Entry of a spill record (R34 step 5, R35): position byte, value byte, saturated. -/
def spillEntry (f : Fmt) (i : Nat) (v : Rat) : List Byte × Bool × Word :=
  if f = .int4 then
    let r := roundInt .nearest v
    let n := max (-127) (min 127 r.1)
    ([BitVec.ofNat 8 (128 + i), BitVec.ofInt 8 n], n ≠ r.1,
      (if r.2 then flagInexact else 0) ||| (if n ≠ r.1 then flagSpillSat ||| flagOverflow ||| flagInexact else 0))
  else
    let c := convertTo .e4m3 .nearest (Val.ofRat false v) 0
    let sat := decide (c.2 &&& flagOverflow ≠ 0)
    ([BitVec.ofNat 8 (128 + i), BitVec.ofNat 8 c.1], sat,
      c.2 ||| (if sat then flagSpillSat else 0))

/-- The scales of a vector of at most 128 elements, per element, with its scale bytes: coarse or MX32 bytes, and fine
bytes. `none` for an element whose unit is poisoned (R33). -/
structure VecScales where
  per : List (Option Rat)
  aux : List Byte
  fine : List Byte

/-- TL16 (R30): one block. -/
def tl16Scales (f : Fmt) (excluded : List Nat) (vals : List Val) : VecScales :=
  let n := vals.length
  let xs := vals.map Val.toRat
  if vals.any fun v => !v.isFinite then
    ⟨List.replicate n none, [0xFF], List.replicate 8 0⟩
  else
    let amax := unitAmax excluded 0 xs
    let cc : Nat := if amax = 0 then 0 else (max 0 (127 + ceilLog2 (amax / qmaxOf f) - 8)).toNat
    let c := pow2 ((cc : Int) - 127)
    let fs := (List.range 8).map fun g =>
      ue4m3AtLeast (unitAmax excluded (16 * g) ((xs.drop (16 * g)).take 16) / (qmaxOf f * c))
    let per := (List.range n).map fun i => some (c * (decodeVal .e4m3 false (fs.getD (i / 16) 0)).toRat)
    ⟨per, [BitVec.ofNat 8 cc], fs.map fun b => BitVec.ofNat 8 b⟩

/-- MX32 (R31): the groups of 32 of a vector. -/
def mx32Scales (f : Fmt) (code : Nat) (excluded : List Nat) (vals : List Val) : VecScales :=
  let groups := (List.range (vals.length / 32)).map fun g =>
    let gv := (vals.drop (32 * g)).take 32
    if gv.any fun v => !v.isFinite then (none, (0xFF : Nat))
    else
      let amax := unitAmax excluded (32 * g) (gv.map Val.toRat)
      if amax = 0 then
        let e := Config.mxZeroExponent code % 255
        (some (pow2 ((e : Int) - 127)), e)
      else
        let e := max 0 (min 254 (floorLog2 amax - emaxOf f + 127))
        (some (pow2 (e - 127)), e.toNat)
  ⟨(List.range vals.length).map fun i => (groups.getD (i / 32) (none, 0)).1,
   groups.map fun g => BitVec.ofNat 8 g.2, []⟩

/-- The code of the value 0. -/
def zeroCode (f : Fmt) : Nat := if f = .tern then 1 else 0

/-- The elements of a vector in poisoned units: of TL16 the whole block, of MX32 groups of 32 (R33). -/
def poisonedAt (nd : Nd) (vals : List Val) (i : Nat) : Bool :=
  if nd.scale = 2 then vals.any fun v => !v.isFinite else ((vals.drop (i / 32 * 32)).take 32).any fun v => !v.isFinite

/-- The range of the codes of a scaled destination (R30, R31): a two's complement format has no code above its maximum,
and the quantise step writes no INT4 code -8 (log 26). -/
def codeRange (f : Fmt) (nd : Nd) : Int × Int :=
  if nd.scale = 2 then (if f = .int4 then (-7, 7) else (-1, 1))
  else if f = .int4 then (-7, 7) else (f.intMin, f.intMax)

/-- One vector under MX32 or TL16: `base` numbers its first element within the row, `rnd` gives an element's rounding. An
element of a poisoned unit counts as 0 for the others' rms and is no spill candidate (R33, log 26). -/
def quantVector (f : Fmt) (nd : Nd) (spillOn : Bool) (ratio : Word) (rnd : Nat → Round) (base : Nat) (vals : List Val) :
    QRow :=
  let poisoned := vals.any fun v => !v.isFinite
  let xs := ((List.range vals.length).zip vals).map fun e => if poisonedAt nd vals e.1 then 0 else e.2.toRat
  let cands := if spillOn then spillCandidates ratio (xs ++ List.replicate (128 - xs.length) 0) else []
  let excluded := cands.map (·.1)
  let sc := if nd.scale = 2 then tl16Scales f excluded vals else mx32Scales f nd.fmt excluded vals
  let q := codeRange f nd
  let spilled := (cands.take 8).map (·.1)
  let elem : Nat → Coded := fun i =>
    match sc.per.getD i none with
    | none => (zeroCode f, (0 : Word))
    | some s =>
      if spilled.contains i ∨ s = 0 then (zeroCode f, 0)
      else codeOf f (rnd (base + i)) q.1 q.2 (vals.getD i .nan).sign (xs.getD i 0 / s)
  let cs := (List.range xs.length).map elem
  let entries := (cands.take 8).map fun e =>
    match sc.per.getD e.1 none with
    | some s => spillEntry f e.1 (if s = 0 then 0 else e.2 / s)
    | none => ([0, 0], false, 0)
  let rec_ := entries.flatMap (·.1)
  { codes := cs.map (·.1), aux := sc.aux, fine := sc.fine,
    spill := if spillOn then rec_ ++ List.replicate (16 - rec_.length) 0 else [],
    flags := (cs.map (·.2)).foldl (· ||| ·) 0 ||| (entries.map (·.2.2)).foldl (· ||| ·) 0
      ||| (if cands.length > 8 then flagSpillClamp else 0) ||| (if poisoned then flagNanInput else 0),
    used := entries.length, clamped := cands.length - 8, sat := (entries.filter (·.2.1)).length }

/-- Vectors of 128 of a row, `n` of them at most. -/
def quantVectors (f : Fmt) (nd : Nd) (spillOn : Bool) (ratio : Word) (rnd : Nat → Round) : Nat → Nat → List Val → List QRow
  | 0, _, _ => []
  | _, _, [] => []
  | n + 1, base, v :: l =>
    quantVector f nd spillOn ratio rnd base ((v :: l).take 128)
      :: quantVectors f nd spillOn ratio rnd n (base + 128) ((v :: l).drop 128)

/-- Two parts of a row joined. -/
def QRow.join (a b : QRow) : QRow :=
  { codes := a.codes ++ b.codes, aux := a.aux ++ b.aux, fine := a.fine ++ b.fine, spill := a.spill ++ b.spill,
    sum := a.sum + b.sum, flags := a.flags ||| b.flags, used := a.used + b.used, clamped := a.clamped + b.clamped,
    sat := a.sat + b.sat }

/-- The code of an infinity that saturates, and of a NaN, under SCALE NONE in any format (R33). -/
def plainInf (f : Fmt) (neg : Bool) : Coded :=
  match f.shape with
  | some sh => (encodeFloat sh (.fin neg sh.maxFinite), flagOverflow)
  | none => (intCode f (if neg then (if f = .int4 then -7 else f.intMin) else f.intMax), flagOverflow)
def plainNan (f : Fmt) : Coded := (zeroCode f, flagInvalid)

/-- One element under SCALE NONE (R33, R98): the exact product, rounded once. A NaN converts to code 0 and sets INVALID,
an infinity saturates and sets OVERFLOW, whatever the format. -/
def quantPlain (f : Fmt) (nd : Nd) (q : QDesc) (md : Round) (v : Val) : Coded :=
  match mulVal v (fp32Val q.qscale) with
  | none | some .nan => if nd.zp then (0, flagInvalid) else plainNan f
  | some (.inf n) => if nd.zp then (if n then 0 else 2 ^ f.bits - 1, flagOverflow) else plainInf f n
  | some (.fin n m) =>
    if nd.zp then
      let r := roundInt md (if n then -m else m)
      let hi : Int := 2 ^ f.bits - 1
      let c := max 0 (min hi (r.1 + signed 16 q.zero))
      (c.toNat, (if r.2 then flagInexact else 0) ||| (if c ≠ r.1 + signed 16 q.zero then flagOverflow ||| flagInexact else 0))
    else
      let c := convertTo f md (.fin n m) (word 0)
      if f = .int4 ∧ c.1 = 8 then (9, c.2 ||| flagOverflow ||| flagInexact) else c

/-- A code as its operand reads it, for SUM of R37. -/
def codeInt (f : Fmt) (zp : Bool) (c : Nat) : Int :=
  if zp then c else (decodeVal f false c).toRat.floor

/-- One row of `vx.quant` (R98). -/
def quantRow (f : Fmt) (nd : Nd) (q : QDesc) (spillOn : Bool) (rnd : Nat → Round) (vals : List Val) : QRow :=
  if nd.scale = 0 then
    let cs := ((List.range vals.length).zip vals).map fun e => quantPlain f nd q (rnd e.1) e.2
    { codes := cs.map (·.1), sum := (cs.map fun c => codeInt f nd.zp c.1).sum,
      flags := (cs.map (·.2)).foldl (· ||| ·) 0
        ||| (if vals.any (fun v => !v.isFinite) then flagNanInput else 0) }
  else
    let padded := vals ++ List.replicate (quantPad nd vals.length - vals.length) (.fin false 0)
    (quantVectors f nd (spillOn && nd.spill) q.ratio rnd (padded.length / 128 + 1) 0 padded).foldl QRow.join
      { codes := [] }

/-- The writes of elements `(index, code)` of a destination format that begins at `base`, with element stride `st`: the
bits or trits of other elements in a shared byte are not written (R89). With the last elements of a TERN group go the two
empty positions of its last byte, which hold the trit 0 (R20). -/
def emit (f : Fmt) (base st : Nat) (l : List (Nat × Nat)) : List Put :=
  l.flatMap fun e =>
    let j := e.1 * st
    match f with
    | .tern =>
      let a := base + j / 128 * 26 + j % 128 / 5
      ⟨a, BitVec.ofNat 8 e.2, 0, some (j % 128 % 5)⟩
        :: (if j % 128 / 5 = 25 then [⟨a, 1, 0, some 3⟩, ⟨a, 1, 0, some 4⟩] else [])
    | .int4 | .e2m1 =>
      [⟨base + j / 2, BitVec.ofNat 8 (e.2 % 16 * 16 ^ (j % 2)), if j % 2 = 0 then 0x0F else 0xF0, none⟩]
    | .int2 => [⟨base + j / 4, BitVec.ofNat 8 (e.2 % 4 * 4 ^ (j % 4)), BitVec.ofNat 8 (3 * 4 ^ (j % 4)), none⟩]
    | _ => putsOf (base + j * (f.bits / 8)) (leBytes (f.bits / 8) e.2)

end Sys2Proof.Machine
end

