-- ==== Sys2Proof/Machine/Lanes.lean ====
section
/-! DEFINITION. The lanes of the vector engine: how elements are read and written (R84, R89, R90), masks (R94), the
draws of stochastic rounding (R40), and what each beat of an operation computes (R85, R92 to R98, R106). -/

namespace Sys2Proof.Machine

/-- What a beat sees: the core in the beat's region cycle, the instruction, the seed of its draws, and the operands read
once at its issue (R89). -/
structure VEnv where
  x : Core
  v : VOp
  seed : Nat
  stamp : Nat
  mindex : Nat
  fixed : Tab (Nat × Word) := []

namespace VEnv

/-- Bit `i` of mask register `m`. -/
def maskBit (e : VEnv) (m i : Nat) : Bool := bitOf (e.x.mregs.get (2048 * m + i / 8)) (i % 8)

/-- Bit `i` of the instruction's mask, 1 where none is enabled (R94). -/
def picked (e : VEnv) (i : Nat) : Bool := if 8 ≤ e.v.mask then e.maskBit (e.v.mask % 8) i else true

/-- Element `i` takes part: `vx.sel` uses its mask to select and writes every element (R92). -/
def active (e : VEnv) (i : Nat) : Bool := e.v.op = vSel || e.picked i

/-- The active elements in index order. -/
def actives (e : VEnv) : List Nat := (List.range e.v.n).filter e.active

/-- The draw of element `i`: its lane advances once for each active element of the lane up to it (R40, R85, R94). -/
def draw (e : VEnv) (i : Nat) : Nat :=
  let l := lanesOf e.v.cls
  let c := ((List.range (i / l + 1)).filter fun j => e.active (i % l + j * l)).length
  srDraw e.seed e.stamp e.mindex (i % l) c

/-- The rounding of element `i`. -/
def md (e : VEnv) (i : Nat) : Round := if e.v.rnd then .stochastic (e.draw i) else .nearest

/-- Element `i` of a berth operand as an FP32 code, with the flags of reading it (R84, R91). -/
def readWide (e : VEnv) (d : VDesc) (ea aux : Int) (md : Round) (i : Nat) : Coded :=
  let m := e.x.space (vSpace d.berth)
  let f := d.fmt
  if d.berth = 3 ∧ d.accInt then
    convertTo .fp32 md (Val.ofRat false ((signed 32 (leNat (m.bytes (ea.toNat + d.elemOff i) 4)) : Int) : Rat)) 0
  else
    let c := if f.bits < 8 then codeAt m.get f ea.toNat (i * d.estride) else codeAt m.get f (ea.toNat + d.elemOff i) 0
    let v := decodeVal f false c.1
    let fl := (if c.2 then flagInvalid else 0) ||| nanIn v
    if d.nd.scale = 1 then
      match e8m0 (m.get (aux.toNat + i / 32)) with
      | none => (nanCode .fp32 (word c.1) 0 0, fl ||| flagScaleInvalid)
      | some s =>
        let r := match v with
          | .fin n x => convertTo .fp32 md (.fin n (x * s)) (word c.1)
          | w => convertTo .fp32 md w (word c.1)
        (r.1, fl ||| r.2)
    else if f = .fp32 then (c.1, fl)
    else
      let r := convertTo .fp32 md v (word c.1)
      (r.1, fl ||| r.2)

/-- Element `i` of an operand in the lane format of the class (R84, R90), with the rounding of the element that carries
it. -/
def read (e : VEnv) (o : Opnd) (md : Round) (i : Nat) : Coded :=
  let cls := e.v.cls
  match o with
  | .reg r =>
    let c := leNat (e.x.vregs.bytes (4096 * r + i * sizeOf_ cls) (sizeOf_ cls))
    (c, if cls = 3 then 0 else nanIn (decodeVal (fmtOf cls) false c))
  | .mem d ea aux =>
    if cls = 0 then e.readWide d ea aux md i
    else
      let c := leNat ((e.x.space (vSpace d.berth)).bytes (ea.toNat + d.elemOff i) (sizeOf_ cls))
      (c, if cls = 3 then 0 else nanIn (decodeVal (fmtOf cls) false c))

/-- Element `j` of the operand of field `f` (1 SA, 2 SB, 3 SC) for the active element `i` that carries it: a broadcast
operand serves every element with the value read at issue (R89). -/
def take (e : VEnv) (f : Nat) (o : Opnd) (i j : Nat) : Coded :=
  match e.fixed.find? fun p => p.1 = f with
  | some p => p.2
  | none => e.read o (e.md i) j

/-- The number of active elements before element `i` (R95). -/
def rank (e : VEnv) (i : Nat) : Nat := ((List.range i).filter e.active).length

/-- A lane result in the destination's format: a register and a class other than FP32 take it as it is. -/
def narrow (e : VEnv) (o : Opnd) (md : Round) (c : Nat) : Coded :=
  match o with
  | .reg _ => (c, 0)
  | .mem d _ _ =>
    if e.v.cls ≠ 0 ∨ d.fmt = .fp32 then (c, 0)
    else convertTo d.fmt md (fp32Val (word c)) (word c)

/-- Where a destination's elements lie: space, format, first byte, stride. -/
def place (e : VEnv) (o : Opnd) : Nat × Fmt × Nat × Nat :=
  match o with
  | .reg r => (3, fmtOf e.v.cls, 4096 * r, 1)
  | .mem d ea _ => (vSpace d.berth, d.fmt, ea.toNat, d.estride)

end VEnv

/-- The lane operation of add, mul, fma, min, max and sel on element codes (R84, R92, R93). -/
def laneOp (op cls : Nat) (md : Round) (pick : Bool) (a b c : Nat) : Coded :=
  let f := fmtOf cls
  if op = vSel then (if pick then a else b, 0)
  else if cls = 3 then
    (if op = vMin then ((if signed 8 b < signed 8 a then b else a), 0)
     else if op = vMax then ((if signed 8 a < signed 8 b then b else a), 0)
     else i8Add a b)
  else if op = vMin then fMinMax f false a b
  else if op = vMax then fMinMax f true a b
  else if op = vMul then fMul f md a b
  else if op = vFma then fFma f md a b c
  else if op = vCvt then (a, 0)
  else fAdd f md a b

/-- The predicate of a `vx.cmp` by OPCODE[7:2]. -/
def predOf (op : Nat) : Pred := [Pred.eq, .ne, .lt, .le, .gt, .ge, .un].getD (op - 8) .eq

/-- A comparison of two elements. -/
def laneCmp (op cls a b : Nat) : Bool :=
  if cls = 3 then (predOf op).holds (some (compare (signed 8 a) (signed 8 b)))
  else (predOf op).holds (cmpVal (decodeVal (fmtOf cls) false a) (decodeVal (fmtOf cls) false b))

/-- One step of a reduction on FP32 codes (R96): `first` combines an element, otherwise two partials. -/
def redStep (op : Nat) (first : Bool) (md : Round) (p x : Nat) : Coded :=
  let keep := fun (c : Coded) => ((c.1, c.2 &&& ~~~flagNanInput) : Coded)
  if op = 0x14 then keep (fAdd .fp32 md p x)
  else if op = 0x15 then keep (if first then fFma .fp32 md x x p else fAdd .fp32 md p x)
  else if op = 0x16 then keep (fMinMax .fp32 true p x)
  else if op = 0x17 then keep (fMinMax .fp32 false p x)
  else keep (fMinMax .fp32 true p (if first ∧ fp32Val (word x) ≠ .nan then x % 2 ^ 31 else x))

/-- The identity of a reduction (R96). -/
def redIdentity (op : Nat) : Nat := if op = 0x16 then 0xFF800000 else if op = 0x17 then 0x7F800000 else 0

/-- A lane of a reduction: its partial, the roundings it has drawn, its flags. -/
abbrev Lane := Nat × Nat × Word

/-- One combination in a lane; each one that may round draws once (R40, R96). -/
def Lane.step (e : VEnv) (lane : Nat) (first : Bool) (l : Lane) (x : Nat) : Lane :=
  let md := if e.v.rnd then Round.stochastic (srDraw e.seed e.stamp e.mindex lane (l.2.1 + 1)) else .nearest
  let r := redStep e.v.op first md l.1 x
  (r.1, l.2.1 + 1, l.2.2 ||| r.2)

/-- The lanes a reduction starts from (R96). -/
def redStart (op : Nat) : List Lane := List.replicate 256 (redIdentity op, 0, 0)

/-- The elements of beat `b` in their lanes, active ones only (R85, R94). -/
def VEnv.beatElems (e : VEnv) (b : Nat) : List Nat :=
  let l := lanesOf e.v.cls
  ((List.range l).map fun t => b * l + t).filter fun i => decide (i < e.v.n) && e.active i

/-- Beat `b` of a reduction combined into the lanes. -/
def VEnv.redBeat (e : VEnv) (a : Opnd) (b : Nat) (lanes : List Lane) : List Lane :=
  ((List.range 256).zip lanes).map fun p =>
    let i := 256 * b + p.1
    if i < e.v.n ∧ e.active i then
      let c := e.take 1 a i i
      let r := Lane.step e p.1 true p.2 c.1
      (r.1, r.2.1, r.2.2 ||| c.2)
    else p.2

/-- The pairwise combination: `h` lanes of the lower half take those of the upper (R96). -/
def redTree (e : VEnv) : Nat → List Lane → List Lane
  | 0, l => l
  | n + 1, l =>
    let h := 2 ^ n
    let lo := l.take h
    let hi := l.drop h
    redTree e n (((List.range h).zip (lo.zip hi)).map fun p =>
      let r := Lane.step e p.1 false p.2.1 p.2.2.1
      (r.1, r.2.1, r.2.2 ||| p.2.2.2.2))

/-- The result of a reduction as an FP32 code, with the draws and flags of lane 0. -/
def VEnv.reduce (e : VEnv) (lanes : List Lane) : Lane := (redTree e 8 lanes).headD (0, 0, 0)

/-- What a beat makes: writes by space, and flags. -/
structure VMade where
  puts : List (Nat × List Put) := []
  flags : Word := 0
  deriving DecidableEq, Repr

/-- Writes of elements `(index, code)` of a destination. -/
def VEnv.write (e : VEnv) (o : Opnd) (l : List (Nat × Nat)) : Nat × List Put :=
  let p := e.place o
  (p.1, emit p.2.1 p.2.2.1 p.2.2.2 l)

/-- The result of an element-wise operation that active element `i` carries: element written, code, flags. -/
def VEnv.result (e : VEnv) (p : VPlan) (d a : Opnd) (i : Nat) : Nat × Nat × Word :=
  let fin := fun (j : Nat) (r : Coded) (fl : Word) =>
    let c := e.narrow d (e.md i) r.1
    (j, c.1, fl ||| r.2 ||| c.2)
  if e.v.op = vCompress then let r := e.take 1 a i i; fin (e.rank i) (r.1, 0) r.2
  else if e.v.op = vExpand then let r := e.take 1 a i (e.rank i); fin i (r.1, 0) r.2
  else
    let need := fun (f : Nat) (o : Option Opnd) (b : Bool) => match o with
      | some o => if b then e.take f o i i else ((0, 0) : Coded)
      | none => (0, 0)
    let pick := e.picked i
    let x := need 1 (some a) (e.v.op ≠ vSel || pick)
    let y := need 2 p.b (e.v.op ≠ vSel || !pick)
    let w := need 3 p.c true
    fin i (laneOp e.v.op e.v.cls (e.md i) pick x.1 y.1 w.1) (x.2 ||| y.2 ||| w.2)

/-- Bytes of a whole mask register from its bits. -/
def maskBytes (from_ n : Nat) (f : Nat → Bool) : List Byte :=
  (List.range n).map fun j => BitVec.ofNat 8 (((List.range 8).map fun t => (f (8 * (from_ + j) + t)).toNat * 2 ^ t).sum)

/-- The writes of a quantise (R98): codes, then the auxiliary tensors of each row. An ESTRIDE of its DST is not applied: the
codes of a row are adjacent (log 28). -/
def quantLand (d : VDesc) (ea off : Int) (q : QDesc) (spillOn : Bool) (rows : List QRow) : List Put :=
  let o := off * d.step
  let at_ := fun (b : Nat) (off : Nat) => ((b : Int) + o).toNat + off
  ((List.range rows.length).zip rows).flatMap fun p =>
    let (r, x) := p
    let codes := emit d.fmt (ea.toNat + r * q.pitch) 1 ((List.range x.codes.length).zip x.codes)
    let aux :=
      if d.nd.scale = 1 then putsOf (at_ q.aux (r * (q.pitch / quantAuxDiv d.nd))) x.aux
      else if d.nd.scale = 2 then
        putsOf (at_ q.aux (r * (q.pitch / 64))) x.aux ++ putsOf (at_ q.fine (r * (q.pitch / 8))) x.fine
      else if q.rowsum then
        putsOf (at_ q.aux (8 * r)) (leBytes 4 (BitVec.ofInt 32 x.sum).toNat ++ leBytes 2 q.zero ++ [0, 0])
      else []
    let sp := if d.nd.spill ∧ spillOn then putsOf (at_ q.spill (r * (q.pitch / 4))) x.spill else []
    codes ++ aux ++ sp

/-- Consecutive rows of `k` values. -/
def rowsOf {α : Type} (k : Nat) : Nat → List α → List (List α)
  | 0, _ => []
  | n + 1, l => l.take k :: rowsOf k n (l.drop k)

/-- The mask bits of one beat of `vx.cmp`, masked-off bits 0; with the last beat go the bits from n to 16,383 (R94). -/
def VEnv.cmpBeat (e : VEnv) (a b : Opnd) (beat beats : Nat) : VMade :=
  let lanes := lanesOf e.v.cls
  let per := lanes / 8
  let cells := (List.range lanes).map fun t =>
    let i := beat * lanes + t
    if i < e.v.n ∧ e.active i then
      let x := e.take 1 a i i
      let y := e.take 2 b i i
      (laneCmp e.v.op e.v.cls x.1 y.1, x.2 ||| y.2)
    else (false, (0 : Word))
  let bytes := maskBytes 0 per fun t => (cells.getD t (false, 0)).1
  let tail := if beat + 1 = beats then List.replicate (2048 - beats * per) (0 : Byte) else []
  { puts := [(4, putsOf (2048 * (e.v.dst % 8) + beat * per) (bytes ++ tail))],
    flags := (cells.map (·.2)).foldl (· ||| ·) 0 }

/-- The bits that `vx.mlogic.F` makes of two mask registers (R92). -/
def VEnv.logicBit (e : VEnv) (i : Nat) : Bool :=
  let a := e.maskBit (e.v.sa % 8) i
  let b := e.maskBit (e.v.sb % 8) i
  if e.v.op = 0x24 then a && b else if e.v.op = 0x25 then a || b else if e.v.op = 0x26 then a != b else a && !b

/-- Beat `b` of an instruction that writes beat by beat (R92, R94, R95). The active count of `vx.compress` lands with the
last beat. -/
def VEnv.beat (e : VEnv) (p : VPlan) (b beats : Nat) : VMade :=
  let v := e.v
  if v.op = vMset then { puts := [(4, putsOf (2048 * (v.dst % 8)) (maskBytes 0 2048 fun i => decide ((i : Int) < p.setLen)))] }
  else if isMlogic v.op then { puts := [(4, putsOf (2048 * (v.dst % 8)) (maskBytes 0 2048 e.logicBit))] }
  else match p.d, p.a, p.b with
    | none, some a, some c => if isCmp v.op then e.cmpBeat a c b beats else {}
    | some d, some a, _ =>
      let l := (e.beatElems b).map (e.result p d a)
      let counts := match p.c with
        | some (.mem c ea _) =>
          if v.op = vCompress ∧ b + 1 = beats then
            [(vSpace c.berth, putsOf ea.toNat (leBytes 4 e.actives.length))]
          else []
        | _ => []
      { puts := e.write d (l.map fun r => (r.1, r.2.1)) :: counts, flags := (l.map (·.2.2)).foldl (· ||| ·) 0 }
    | _, _, _ => {}

/-- The writes and flags that end a reduction (R96). -/
def VEnv.redEnd (e : VEnv) (d : Opnd) (lanes : List Lane) : VMade :=
  let r := e.reduce lanes
  let md := if e.v.rnd then Round.stochastic (srDraw e.seed e.stamp e.mindex 0 (r.2.1 + 1)) else .nearest
  let c := e.narrow d md r.1
  { puts := [e.write d [(0, c.1)]], flags := r.2.2 ||| c.2 }

/-- The rows of a quantise from the elements it has read (R98). -/
def VEnv.quantAll (e : VEnv) (d : VDesc) (q : QDesc) (spillOn : Bool) (elems : List Coded) : List QRow :=
  (rowsOf q.k (elems.length / q.k) ((List.range elems.length).zip elems)).map fun r =>
    let base := (r.headD (0, (0, 0))).1
    quantRow d.fmt d.nd q spillOn (fun j => e.md (base + j)) (r.map fun t => fp32Val (word t.2.1))

/-- The elements of a quantise's source in beat `b` of its first pass: the passes run over the padded rows (R98). -/
def VEnv.quantElems (e : VEnv) (d : VDesc) (q : QDesc) (b : Nat) : List Nat :=
  let kp := max 1 (quantPad d.nd q.k)
  ((List.range 256).map fun t => 256 * b + t).filterMap fun pos =>
    let i := pos / kp * q.k + pos % kp
    if pos % kp < q.k ∧ i < e.v.n then some i else none

end Sys2Proof.Machine
end

