-- ==== Sys2Proof/Machine/VectorIssue.lean ====
section
/-! DEFINITION. Issue, hold and retirement of the vector engine's instructions (R86, R99 to R110), what its pipes do in each
region cycle, its Wharf results (R104, R280) and the drift sentinel (R48 to R50, R106). -/

namespace Sys2Proof.Machine

/-- Two byte ranges of one space meet. -/
def rangesMeet (a b : Nat × Nat × Nat) : Bool :=
  a.1 = b.1 && decide (a.2.1 < b.2.1 + b.2.2) && decide (b.2.1 < a.2.1 + a.2.2)

/-- FAULT_INFO of R109. -/
def vxInfo (opcode detail beat : Nat) : Word := word (opcode * 2 ^ 24 + detail * 2 ^ 20 + beat % 2 ^ 16)

/-- Latency of R99 without the addition for PB_ACC. -/
def vxLatency (op : Nat) : Nat :=
  if op = vAdd ∨ op = vSel ∨ op = vMin ∨ op = vMax ∨ isCmp op then 4
  else if op = vMul ∨ op = vFma ∨ op = vCompress ∨ op = vExpand then 6
  else if op = vCvt then 5
  else if op = vMset ∨ isMlogic op then 1
  else 8

/-- A berth source that is not broadcast (R86). -/
def countsAsBerth : Option Opnd → Bool
  | some (.mem d _ _) => decide (d.estride ≠ 0)
  | _ => false

/-- A PB_ACC source (R91). -/
def isPbAcc : Option Opnd → Bool
  | some (.mem d _ _) => decide (d.berth = 3)
  | _ => false

namespace VPlan

/-- Two region cycles a beat: three berth sources that are not broadcast (R86). -/
def twoRc (p : VPlan) : Bool :=
  countsAsBerth p.a && countsAsBerth p.b && countsAsBerth p.c && p.v.op = vFma

/-- Beats of one pass (R85, R98), and the region cycles of a beat. -/
def beats (p : VPlan) : Nat :=
  match p.d, p.q with
  | some (.mem d _ _), some q => (p.v.n / q.k * quantPad d.nd q.k + 255) / 256
  | _, _ => if p.v.op = vMset ∨ isMlogic p.v.op then 1 else (p.v.n + lanesOf p.v.cls - 1) / lanesOf p.v.cls

/-- Reduction length of a sentinel's product. -/
def sentK (p : VPlan) : Nat := p.sent.elim 0 fun x => (MxDesc.of x.raw).k

/-- Occupancy of the arithmetic pipe (R85, R98, R99). -/
def occupancy (p : VPlan) (spillOn : Bool) : Nat :=
  if p.v.op = vSent then (if p.sent.isSome then 2 * ((p.sentK + 255) / 256) + 8 else 1)
  else match p.d, p.q with
    | some (.mem d _ _), some _ => (if d.nd.scale = 0 then 1 else if d.nd.spill ∧ spillOn then 3 else 2) * p.beats
    | _, _ => if p.twoRc then 2 * p.beats else p.beats

/-- Latency (R91, R99); a sentinel at LEAN has none. -/
def latency (p : VPlan) : Nat :=
  if p.v.op = vSent ∧ p.sent.isNone then 0
  else vxLatency p.v.op + (if isPbAcc p.a || isPbAcc p.b || (isPbAcc p.c && p.v.op ≠ vCompress) then 2 else 0)

end VPlan

namespace State

/-- Why the head of the VXE does not issue although R167 would let it: 0 nothing stands in its way, 1 its pipe is
occupied, 2 it is held (R99, R100, R105, R281). -/
def vxGate (s : State) (k : Nat) (h : Head) : Nat :=
  let x := s.getCore k
  let now := s.coreRc k
  let op := (VOp.of h.word).op
  let pipe := if op = vWharf then 2 else 1
  if x.vx.any fun r => r.pipe = pipe && decide (now < r.issue + r.occ) then 1
  else
    let meets : Bool := match s.vxPlan k h with
      | .error _ => false
      | .ok p => x.vx.any fun r => (r.dead || r.wharf.isSome || decide (now < r.issue + r.occ + r.lat))
          && r.dests.any fun d => (p.srcs ++ p.dests).any (rangesMeet d)
    if meets ∨ (op = vWharf ∧ (x.switchTo.isSome ∨ now % max 1 x.plane.div ≠ 0)) then 2 else 0

/-- The beat at which the checkers stop an instruction, with the code (R46, R107, R108). -/
def vxStop (op : Nat) (up : Upset) : Option (Nat × Nat) :=
  let arith := op = vAdd || op = vMul || op = vFma
  match up with
  | .residue b _ => if arith then some (b, 0x220) else none
  | .parity b => if arith then none else some (b, 0x221)
  | _ => none

/-- The context's CTX_SEED (R40). -/
def ctxSeed (s : State) (c : Nat) : Nat := (s.rd (ctxP c + 0x4C)).toNat

/-- A run enters a pipe of the VXE. -/
def vxEnter (s : State) (k : Nat) (r : Run) : State := s.modCore k fun x => { x with vx := x.vx ++ [r] }

/-- The flag record index of an instruction with FW 1 (R102). -/
def vxRecord (s : State) (k : Nat) (fw : Bool) : Option Nat × State :=
  if fw then (some (s.getCore k).records, s.modCore k fun x => { x with records := x.records + 1 }) else (none, s)

/-- The operands of a plan by field. -/
def planFields (p : VPlan) : List (Nat × Option Opnd) := [(1, p.a), (2, p.b), (3, if p.v.op = vCompress then none else p.c)]

/-- The values of the broadcast operands, read at issue (R89). -/
def vxFixed (e : VEnv) (p : VPlan) : Tab (Nat × Word) :=
  (planFields p).filterMap fun f => match f.2 with
    | some (.mem d ea aux) => if d.estride = 0 then some (f.1, e.read (.mem d ea aux) (e.md 0) 0) else none
    | _ => none

/-- The work of an instruction as it issues. -/
def vxJob (s : State) (k : Nat) (h : Head) (p : VPlan) (up : Upset) : VJob :=
  let e : VEnv := { x := s.getCore k, v := p.v, seed := s.ctxSeed h.prog.ctx, stamp := h.stamp, mindex := h.prog.mindex }
  { word := h.word, plan := p, full := s.fullLevel h.prog, seed := e.seed, stamp := h.stamp, mindex := h.prog.mindex,
    two := p.twoRc, stop := vxStop p.v.op up, fixed := vxFixed e p,
    lanes := if isRed p.v.op then redStart p.v.op else if p.v.op = vSent then redStart 0x14 else [] }

/-- The run of an instruction of the arithmetic pipe. -/
def vxRun (s : State) (k : Nat) (h : Head) (p : VPlan) (up : Upset) (record : Option Nat) : Run :=
  { issue := s.coreRc k, occ := p.occupancy (s.fullLevel h.prog), lat := p.latency, pipe := 1, dests := p.dests,
    inst := h.inst, stream := h.num, stamp := h.stamp, tag := h.bundle.tag, line := h.bundle.line, record := record,
    vx := some (s.vxJob k h p up) }

/-- An instruction that writes beat by beat, or whose whole effect is the flag record, carries the FW field (R92). -/
def hasRecord (p : VPlan) : Bool := !(p.v.op = vMset || p.v.op = vSent || isMlogic p.v.op) && p.v.fw

/-- An instruction that has passed its issue check is counted (R110) and enters its pipe, unless a word it reads has a
double-bit error (R122). -/
def vxEnterRun (s : State) (k : Nat) (run : Run) (up : Upset) : State :=
  let s := s.count (cnt k 13) 1
  match up with
  | .berthUe berth a => s.coreFault k 0x231 (s.berthInfo berth a 1)
  | .berthCe _ _ => (s.vxEnter k run).berthCe k
  | _ => s.vxEnter k run

/-- An instruction of the arithmetic pipe enters it (R92 to R98, R106). -/
def vxArith (s : State) (k : Nat) (h : Head) (p : VPlan) (up : Upset) : State :=
  let (rec_, s) := s.vxRecord k (hasRecord p)
  s.vxEnterRun k (s.vxRun k h p up rec_) up

/-- The run of a `vx.wharf` on the plane in use (R104, R280). -/
def wharfRunOf (s : State) (k : Nat) (h : Head) (p : VPlan) (up : Upset) (d : Opnd) (record : Option Nat) : Run :=
  let j := s.vxJob k h p up
  let pl := (s.getCore k).plane
  let e : VEnv := { x := s.getCore k, v := p.v, seed := j.seed, stamp := h.stamp, mindex := j.mindex }
  let at_ := e.place d
  let n := (p.v.n + 15) / 16
  let fmt := match d with
    | .reg _ => 9
    | .mem dd _ _ => dd.nd.fmt
  { s.vxRun k h p up record with
    occ := n * max 1 pl.div, lat := 4 + pl.lat * max 1 pl.div + (if isPbAcc p.a then 2 else 0), pipe := 2,
    wharf := some { groups := List.range n, active := e.actives, space := at_.1, fmt := fmt, base := at_.2.2.1,
                    stride := at_.2.2.2, div := max 1 pl.div, lat := pl.lat, rnd := p.v.rnd, seed := j.seed,
                    mindex := j.mindex, opcode := opOf h.word } }

/-- `vx.wharf` enters the Wharf pipe (R104, R280). -/
def vxWharfEnter (s : State) (k : Nat) (h : Head) (p : VPlan) (up : Upset) : State :=
  match p.d with
  | some d =>
    let (rec_, s) := s.vxRecord k p.v.fw
    s.vxEnterRun k (s.wharfRunOf k h p up d rec_) up
  | none => s

/-- Adds an exact square to an FP32 sum of R52; `none` makes it NaN. -/
def addSum (s : State) (a : Nat) (x : Option Rat) : State := s.wr a (accFp32 (s.rd a) x).1

/-- The product's elements of a sentinel at reduction index `kk` as FP32 codes with the flags of reading them (R49): of the
BF16 row, and of the column of W dequantised with its scales. -/
def sentElem (x : Core) (o : SentOp) (kk : Nat) : Coded × Coded :=
  let d := MxDesc.of o.raw
  let src : MxSrc := ⟨d, x.ab, x.wb, false⟩
  let v := decodeVal .bf16 false (leNat ((x.space o.space).bytes (o.copy + 2 * (kk * o.stride)) 2))
  let a := convertTo .fp32 .nearest v 0
  let w := src.wElem o.batch o.col kk
  let fl := (if w.2 then flagInvalid else 0) ||| nanIn w.1
  let b : Coded := match src.wScale o.batch o.col kk, w.1 with
    | some sc, .fin g m => convertTo .fp32 .nearest (.fin g (m * sc)) 0
    | some _, v => convertTo .fp32 .nearest v 0
    | none, _ => (nanCode .fp32 0 0 0, flagScaleInvalid)
  ((a.1, a.2 ||| nanIn v), (b.1, b.2 ||| fl))

/-- Beat `b` of a sentinel: 256 products accumulated, each with one rounding, in their lanes (log 29). -/
def sentBeat (x : Core) (o : SentOp) (b : Nat) (lanes : List Lane) : List Lane :=
  ((List.range 256).zip lanes).map fun p =>
    let i := 256 * b + p.1
    if i < (MxDesc.of o.raw).k then
      let c := sentElem x o i
      let r := fFma .fp32 .nearest c.1.1 c.2.1 p.2.1
      (r.1, 0, p.2.2.2 ||| (r.2 &&& ~~~flagNanInput) ||| c.1.2 ||| c.2.2)
    else p.2

/-- The counters of a sentinel from y and its reference (R50): the squares are exact, each sum rounds once. `p` is the stream
that holds it. -/
def sentScore (s : State) (k : Nat) (p : Prog) (y r : Word) : State :=
  let s := s.count (cnt k 4) 1
  let big := pow2 300
  let sq := fun (v : Val) => match v with
    | .fin _ m => some (m * m)
    | .inf _ => some big
    | .nan => none
  match fp32Val y, fp32Val r with
  | .nan, v => (s.addSum (cnt k 6) none).addSum (cnt k 7) (sq v)
  | .fin a m, .fin b n =>
    let dy := (if a then -m else m) - (if b then -n else n)
    let s := (s.addSum (cnt k 6) (some (dy * dy))).addSum (cnt k 7) (some (n * n))
    let th := fp32Rat p.sentParams.2.2.1
    let fl := fp32Rat p.sentParams.2.2.2
    if dy * dy > th * (n * n + fl) then (s.count (cnt k 5) 1).event (coreP k) 0 else s
  | _, .nan => (s.addSum (cnt k 6) none).addSum (cnt k 7) none
  | _, v => (s.addSum (cnt k 6) (some big)).addSum (cnt k 7) (sq v)

/-- The issue check of R101 and then the instruction. -/
def vxStart (s : State) (k : Nat) (h : Head) (up : Upset) : State :=
  let fail := fun (c : Check) => match c with
    | .fault code detail => s.coreFault k code (vxInfo (opOf h.word) detail 0) (code = 0x227)
    | .gated berth a => s.gatedFault k berth a 1
    | .ok => s
  match s.vxPlan k h with
  | .error c => fail c
  | .ok p =>
    match s.vxRanges k p.ranges with
    | .ok =>
      if p.v.op = vWharf then s.vxWharfEnter k h p up else s.vxArith k h p up
    | c => fail c

/-- A `vx.` instruction whose operation satisfies `isOp` issues when R167, R99, R100 and R105 allow it. -/
def vxIssue (isOp : Nat → Bool) (k : Nat) (up : Upset) (s : State) : State :=
  match s.head? k 2 with
  | none => s
  | some h =>
    if isOp (opOf h.word / 4) && s.ready k 2 h && s.vxGate k h = 0 then
      s.chartRead k up fun s => ((s.issued k 2 h).vxStart k h up).brkIssue k 2 h
    else s

/-- The oldest due instruction of the VXE retires; its flag record is written (R99, R102). -/
def vxRetire (s : State) (k : Nat) : State :=
  match dueRun (s.coreRc k) (s.getCore k).vx with
  | none => s
  | some (r, rest) =>
    let s := s.modCore k fun x => { x with vx := rest }
    let s := match r.record with
      | some i =>
        let base := (s.rd (coreP k + 0x50)).toNat
        s.berthWrite k 1 (base + 8 * (i % 64)) (leBytes 4 r.flags.toNat ++ leBytes 4 r.stamp)
      | none => s
    s.retire k 2 r.stream r.inst r.tag r.line r.stamp

/-- The conversion of one result group into its destination (R104): writes and flags. -/
def wharfLand (stamp : Nat) (w : WharfRun) (g : Nat) (words : List Word) : List Put × Word :=
  let f := (Fmt.ofCode w.fmt).getD .fp32
  let is := w.active.filter fun i => i / 16 = g
  let cs := is.map fun i =>
    let v := words.getD (i % 16) 0
    let c := (w.active.filter fun j => j % 256 = i % 256 && decide (j ≤ i)).length
    let md := if w.rnd then Round.stochastic (srDraw w.seed stamp w.mindex (i % 256) c) else .nearest
    (i, if f = .fp32 then ((v.toNat, 0) : Coded) else convertTo f md (fp32Val v) v)
  (emit f w.base w.stride (cs.map fun c => (c.1, c.2.1)), (cs.map (·.2.2)).foldl (· ||| ·) 0)

/-- A run of the VXE replaced. -/
def setVx (s : State) (k : Nat) (r : Run) : State :=
  s.modCore k fun x => { x with vx := x.vx.map fun y => if y.inst = r.inst ∧ y.stream = r.stream then r else y }

/-- The group whose results the present Wharf cycle is to bring, of the run that waits for it: group g of an instruction
issued at t returns in the cycle that ends with rc t + (g + 1 + LAT) x DIV - 1 (R280). -/
def wharfDue (now : Nat) (r : Run) : Option (WharfRun × Nat) :=
  match r.wharf with
  | some w =>
    match w.groups with
    | g :: _ =>
      if decide (r.issue + (g + w.lat) * w.div ≤ now) && decide (now < r.issue + (g + 1 + w.lat) * w.div) then some (w, g) else none
    | [] => none
  | none => none

/-- The run stops at group `g` with a core fault (R104, R107). -/
def wharfFail (s : State) (k : Nat) (r : Run) (w : WharfRun) (g code : Nat) : State :=
  let s := s.setVx k { r with dead := true, wharf := some { w with groups := [] } }
  if r.dead then s
  else if code = 0x227 then s.coreFault k code (vxInfo w.opcode 1 g) true else s.coreFault k code (vxInfo w.opcode 0 g)

/-- What one Wharf cycle brings from the slice (R104, R279, R280). -/
def wharfResult (s : State) (k : Nat) (valid : Bool) (words : List Word) (parityOk : Bool) : State :=
  match (s.getCore k).vx.find? fun r => (wharfDue (s.coreRc k) r).isSome with
  | none => if valid then s.count (cnt k 31) 1 else s
  | some r =>
    match wharfDue (s.coreRc k) r with
    | none => s
    | some (w, g) =>
      if ¬ valid then s.wharfFail k r w g 0x227
      else if ¬ parityOk then s.wharfFail k r w g 0x221
      else
        let l := wharfLand r.stamp w g words
        let land : Landing := ⟨r.issue + (g + 1 + w.lat) * w.div + 3, w.space, l.1, []⟩
        let s := s.setVx k { r with wharf := some { w with groups := w.groups.drop 1 }, flags := r.flags ||| l.2 }
        (s.modCore k fun x => { x with vxLands := x.vxLands ++ [land] }).orBits (coreP k + 0x58) l.2

/-! What the pipes do in one region cycle. -/

/-- The environment of a job's beat in the present cycle. -/
def vxEnvOf (x : Core) (j : VJob) : VEnv :=
  { x := x, v := j.plan.v, seed := j.seed, stamp := j.stamp, mindex := j.mindex, fixed := j.fixed }

/-- Writes of a run that land in region cycle `rc`, and its flags. -/
def vxWrite (s : State) (k rc : Nat) (r : Run) (m : VMade) (quants : List (Nat × Nat × Bool)) : State :=
  let ls := m.puts.map fun p => (⟨rc, p.1, p.2, quants⟩ : Landing)
  let s := s.setVx k { r with flags := r.flags ||| m.flags }
  (s.modCore k fun x => { x with vxLands := x.vxLands ++ ls }).orBits (coreP k + 0x58) m.flags

/-- The checkers stop a run at beat `b` (R107). -/
def vxFail (s : State) (k : Nat) (r : Run) (j : VJob) (b code : Nat) : State :=
  (s.setVx k { r with dead := true }).coreFault k code (vxInfo (opOf j.word) 0 b)

/-- The beat that a job takes up in the region cycle `o` after its issue: its number, the first of two cycles of a beat
taking up none (R85, R492). -/
def beatOf (j : VJob) (o : Nat) : Option Nat :=
  if j.two || decide (j.plan.v.op = vSent) then (if o % 2 = 1 then some (o / 2) else none) else some o

/-- A sentinel in a cycle: its beats, then y and the counters in its last cycle (R50, R106, log 30). -/
def sentCycle (s : State) (k : Nat) (r : Run) (j : VJob) (o : Nat) : State :=
  match j.plan.sent with
  | none => s
  | some x =>
    let core := s.getCore k
    let nb := ((MxDesc.of x.raw).k + 255) / 256
    if ¬ x.on then s
    else
      let j := match beatOf j o with
        | some b => if b < nb then { j with lanes := sentBeat core x b j.lanes } else j
        | none => j
      let s := s.setVx k { r with vx := some j }
      if o + 1 = r.occ then
        let e : VEnv := { vxEnvOf core j with v := { j.plan.v with op := 0x14, rnd := false } }
        let t := e.reduce j.lanes
        let y := word (leNat (core.pb.bytes x.y 4))
        let fl := t.2.2 ||| nanIn (fp32Val y)
        let s := s.vxWrite k 0 { r with vx := some j } { flags := fl } []
        match s.prog? k r.stream with
        | some p => s.sentScore k p y (word t.1)
        | none => s
      else s

/-- A quantise in a cycle: its first pass reads the source, its last cycle makes the rows (R98, log 30). -/
def quantCycle (s : State) (k : Nat) (r : Run) (j : VJob) (d : VDesc) (ea : Int) (q : QDesc) (a : Opnd) (o : Nat) : State :=
  let e := vxEnvOf (s.getCore k) j
  let cs := if o < j.plan.beats then (e.quantElems d q o).map fun i => e.take 1 a i i else []
  let j := { j with elems := j.elems ++ cs }
  let fl := (cs.map (·.2)).foldl (· ||| ·) 0
  let r := { r with vx := some j }
  let s := s.vxWrite k 0 r { flags := fl } []
  let r := { r with flags := r.flags ||| fl }
  if o + 1 = r.occ then
    let rows := e.quantAll d q j.full j.elems
    let m : VMade := { puts := [(vSpace d.berth, quantLand d ea j.plan.off q j.full rows)],
                       flags := (rows.map (·.flags)).foldl (· ||| ·) 0 }
    let s := s.vxWrite k (r.issue + r.occ + r.lat - 1) r m (quantRows d q ea rows.length j.full)
    ((s.count (cnt k 0) (rows.map (·.used)).sum).count (cnt k 1) (rows.map (·.clamped)).sum).count (cnt k 2)
      (rows.map (·.sat)).sum
  else s

/-- The beat of a cycle that no check stops. -/
def goBeat (s : State) (k : Nat) (r : Run) (j : VJob) (p : VPlan) (e : VEnv) (o : Nat) : State :=
  if p.v.op = vSent then s.sentCycle k r j o
  else match p.d, p.a, p.q with
    | some (.mem d ea _), some a, some q => s.quantCycle k r j d ea q a o
    | some d, some a, _ =>
      if isRed p.v.op then
        let j := { j with lanes := e.redBeat a o j.lanes }
        let r := { r with vx := some j }
        let s := s.setVx k r
        if o + 1 = r.occ then s.vxWrite k (r.issue + r.occ + r.lat - 1) r (e.redEnd d j.lanes) [] else s
      else match beatOf j o with
        | some b => s.vxWrite k (r.issue + o + r.lat) r (e.beat p b p.beats) []
        | none => s
    | _, _, _ =>
      match beatOf j o with
      | some b => s.vxWrite k (r.issue + o + r.lat) r (e.beat p b p.beats) []
      | none => s

/-- A run of the arithmetic pipe in the region cycle `o` after its issue (R85, R492). -/
def arithCycle (s : State) (k : Nat) (r : Run) (j : VJob) (o : Nat) : State :=
  let p := j.plan
  let e := vxEnvOf (s.getCore k) j
  match j.stop with
  | some (b, code) =>
    if beatOf j o = some b then s.vxFail k r j b code else s.goBeat k r j p e o
  | none => s.goBeat k r j p e o

/-- The 32-bit word of element `i` that goes to the slice, and the flags of reading it (R104). -/
def laneWord (e : VEnv) (a : Opnd) (i : Nat) : Word × Word :=
  if i < e.v.n ∧ e.active i then
    match a with
    | .mem d ea _ =>
      if d.berth = 3 ∧ d.accInt then (word (leNat (e.x.pb.bytes (ea.toNat + d.elemOff i) 4)), 0)
      else let c := e.take 1 a i i; (word c.1, c.2)
    | .reg _ => let c := e.take 1 a i i; (word c.1, c.2)
  else (0, 0)

/-- Group `g` of `n` is presented to the slice (R104, R279). -/
def sendGroup (s : State) (k : Nat) (r : Run) (j : VJob) (g n : Nat) : State :=
  match j.plan.a with
  | none => s
  | some a =>
    let e := vxEnvOf (s.getCore k) j
    let ws := (List.range 16).map fun t => laneWord e a (16 * g + t)
    let m := (List.range 16).map fun t => (decide (16 * g + t < j.plan.v.n) && e.active (16 * g + t)).toNat * 2 ^ t
    let fl := (ws.map (·.2)).foldl (· ||| ·) 0
    let s := s.modCore k fun x => { x with
      lane := { valid := true, first := decide (g = 0), last := decide (g + 1 = n), fn := BitVec.ofNat 8 j.plan.v.sb,
                mask := BitVec.ofNat 16 m.sum, data := ws.map (·.1) } }
    (s.vxWrite k 0 r { flags := fl } []).count (cnt k 15) 1

/-- A run of the Wharf pipe in the region cycle `o` after its issue: a group leaves at the start of each Wharf cycle, and
a group whose results have not come by the end of their cycle is a fault (R104, R279, R280). -/
def wharfCycle (s : State) (k rc : Nat) (r : Run) (j : VJob) (w : WharfRun) (o : Nat) : State :=
  let g := o / w.div
  let n := (j.plan.v.n + 15) / 16
  let s :=
    if r.dead ∨ o % w.div ≠ 0 ∨ n ≤ g then s
    else match j.stop, j.plan.a with
      | some (b, code), _ =>
        if b = g then
          (s.setVx k { r with dead := true, wharf := some { w with groups := w.groups.filter (· < g) } }).coreFault k code
            (vxInfo w.opcode 0 g)
        else s.sendGroup k r j g n
      | none, _ => s.sendGroup k r j g n
  match wharfDue rc r with
  | some (w, h) =>
    if rc + 1 = r.issue + (h + 1 + w.lat) * w.div then
      match (s.getCore k).vx.find? fun y => y.inst = r.inst ∧ y.stream = r.stream with
      | some y => s.wharfFail k y (y.wharf.getD w) h 0x227
      | none => s
    else s
  | none => s

/-- One region cycle of a run of the VXE. -/
def vxRunCycle (rc : Nat) (s : State) (k : Nat) (r : Run) : State :=
  match r.vx with
  | none => s
  | some j =>
    if rc < r.issue then s
    else
      let o := rc - r.issue
      match r.wharf with
      | some w => s.wharfCycle k rc r j w o
      | none => if r.dead ∨ r.occ ≤ o then s else (s.count (cnt k 14) 1).arithCycle k r j o

/-- One region cycle of the VXE's pipes, in issue order. Between two groups the lane interface shows no group (R279). -/
def vxCycle (s : State) (k rc : Nat) : State :=
  let x := s.getCore k
  if x.vx.isEmpty then s
  else
    let s := if x.lane.valid ∧ rc % max 1 x.plane.div = 0 then s.modCore k fun x => { x with lane := {} } else s
    x.vx.foldl (fun s r => s.vxRunCycle rc k r) s

/-- The writes of one region cycle land: those of streams, messages and windows first, then the array's, then the VXE's, so
that the VXE's value remains (R74, R91). -/
def landCycle (s : State) (k rc : Nat) : State :=
  s.modCore k fun x =>
    let now := (x.ldLands ++ x.mxLands ++ x.vxLands).filter fun l => decide (l.rc ≤ rc)
    let later := fun (l : List Landing) => l.filter fun l => decide (rc < l.rc)
    let y := now.foldl Core.land x
    { y with ldLands := later x.ldLands, mxLands := later x.mxLands, vxLands := later x.vxLands }

/-- One region cycle of the array, the VXE's pipes and the berths: everything reads what stood before the cycle's writes
(R74, R91, R159). -/
def engineCycle (s : State) (k rc : Nat) : State := ((s.mxCycle k rc).vxCycle k rc).landCycle k rc

end State

/-- `vx.add` (R92). -/
def execVxAdd (core : Nat) (up : Upset) (s : State) : Out :=
  actCore core (core < s.build.physCores) (State.vxIssue (· == vAdd) core up) s

/-- `vx.mul` (R92). -/
def execVxMul (core : Nat) (up : Upset) (s : State) : Out :=
  actCore core (core < s.build.physCores) (State.vxIssue (· == vMul) core up) s

/-- `vx.fma` (R92). -/
def execVxFma (core : Nat) (up : Upset) (s : State) : Out :=
  actCore core (core < s.build.physCores) (State.vxIssue (· == vFma) core up) s

/-- `vx.min` (R93). -/
def execVxMin (core : Nat) (up : Upset) (s : State) : Out :=
  actCore core (core < s.build.physCores) (State.vxIssue (· == vMin) core up) s

/-- `vx.max` (R93). -/
def execVxMax (core : Nat) (up : Upset) (s : State) : Out :=
  actCore core (core < s.build.physCores) (State.vxIssue (· == vMax) core up) s

/-- `vx.cmp.P` (R92 to R94). -/
def execVxCmp (core : Nat) (up : Upset) (s : State) : Out :=
  actCore core (core < s.build.physCores) (State.vxIssue isCmp core up) s

/-- `vx.sel` (R92). -/
def execVxSel (core : Nat) (up : Upset) (s : State) : Out :=
  actCore core (core < s.build.physCores) (State.vxIssue (· == vSel) core up) s

/-- `vx.cvt` (R92). -/
def execVxCvt (core : Nat) (up : Upset) (s : State) : Out :=
  actCore core (core < s.build.physCores) (State.vxIssue (· == vCvt) core up) s

/-- `vx.quant` (R97, R98). -/
def execVxQuant (core : Nat) (up : Upset) (s : State) : Out :=
  actCore core (core < s.build.physCores) (State.vxIssue (· == vQuant) core up) s

/-- `vx.red.F` (R96). -/
def execVxRed (core : Nat) (up : Upset) (s : State) : Out :=
  actCore core (core < s.build.physCores) (State.vxIssue isRed core up) s

/-- `vx.compress` (R95). -/
def execVxCompress (core : Nat) (up : Upset) (s : State) : Out :=
  actCore core (core < s.build.physCores) (State.vxIssue (· == vCompress) core up) s

/-- `vx.expand` (R95). -/
def execVxExpand (core : Nat) (up : Upset) (s : State) : Out :=
  actCore core (core < s.build.physCores) (State.vxIssue (· == vExpand) core up) s

/-- `vx.mset` (R92). -/
def execVxMset (core : Nat) (up : Upset) (s : State) : Out :=
  actCore core (core < s.build.physCores) (State.vxIssue (· == vMset) core up) s

/-- `vx.mlogic.F` (R92). -/
def execVxMlogic (core : Nat) (up : Upset) (s : State) : Out :=
  actCore core (core < s.build.physCores) (State.vxIssue isMlogic core up) s

/-- `vx.wharf` (R104, R105, R281). -/
def execVxWharf (core : Nat) (up : Upset) (s : State) : Out :=
  actCore core (core < s.build.physCores) (State.vxIssue (· == vWharf) core up) s

/-- `vx.sent` (R106). -/
def execVxSent (core : Nat) (up : Upset) (s : State) : Out :=
  actCore core (core < s.build.physCores) (State.vxIssue (· == vSent) core up) s

/-- A `vx.` instruction retires (R99, R102, R104). -/
def execVxRetire (core : Nat) (s : State) : Out :=
  actCore core (core < s.build.physCores) (fun s => s.vxRetire core) s

/-- A Wharf result group comes, or does not (R104, R280). -/
def execWharfResultGroup (core : Nat) (valid : Bool) (words : List Word) (parityOk : Bool) (s : State) : Out :=
  actCore core (core < s.build.physCores) (fun s => s.wharfResult core valid words parityOk) s

end Sys2Proof.Machine
end

