-- ==== Sys2Proof/Machine/Memory.lean ====
section
/-! DEFINITION. Device memory behind the tables of a context (R302, R303), the checks of a physical address (R335,
R396, R397), the quays (R428 to R433), the pair gate's side of a write (R361), and the Basin (R123 to R135). -/

namespace Sys2Proof.Machine

/-- How a translation ends: an address, a page that is not present (0x910 or 0x916), or a refusal with its code. -/
inductive Trans where
  | ok (pa : Nat)
  | absent
  | refused (code : Nat)
  deriving DecidableEq, Repr

/-- The levels of R302: shift and index bits. -/
def ptLevels : List (Nat × Nat × Nat) := [(0, 39, 9), (1, 30, 9), (2, 21, 9), (3, 16, 5)]

/-- A walk of the tables from level entry `l` at address `a`: page size, physical base and WRITE of the leaf. -/
def walk (mem : Mem) (va : Nat) (write : Bool) : List (Nat × Nat × Nat) → Nat → Trans × Option (Nat × Nat × Bool)
  | [], _ => (.refused 0x911, none)
  | (lvl, sh, bits) :: l, a =>
    let e := leNat (Mem.bytes zeroFill mem (a + 8 * (va / 2 ^ sh % 2 ^ bits)) 8)
    let leaf := e / 4 % 2 = 1
    let reserved := e / 2 ^ 48 ≠ 0 ∨ e / 16 % 16 ≠ 0 ∨ (¬ (lvl = 2 ∧ ¬ leaf) ∧ e / 256 % 16 ≠ 0)
    if e % 2 = 0 ∨ reserved ∨ (lvl = 0 ∧ leaf) ∨ (lvl = 3 ∧ ¬ leaf) then (.refused 0x911, none)
    else if ¬ leaf then walk mem va write l (e % 2 ^ 48 / (if lvl = 2 then 256 else 4096) * (if lvl = 2 then 256 else 4096))
    else if e / 2 % 2 = 0 then (.absent, none)
    else if write ∧ e / 8 % 2 = 0 then (.refused 0x911, none)
    else
      let base := e % 2 ^ 48 / 2 ^ sh * 2 ^ sh
      (.ok (base + va % 2 ^ sh), some (2 ^ sh, base, e / 8 % 2 = 1))

namespace State

/-- CONVOY_CFG names this context as the convoy context (R396). -/
def convoyCtx (s : State) : Option Nat :=
  let v := s.rd (convoyP + 0x40)
  if bitOf v 20 then some (fieldOf v 19 16) else none

/-- The checks of a physical address that a context's request carries: the carve-out, and a remote address of another
context than the convoy's. -/
def checkPa (s : State) (c pa : Nat) : Trans :=
  if pa / 2 ^ 40 ≠ 0 then (if s.convoyCtx = some c then .ok pa else .refused 0x914)
  else match s.carve with
    | some b => if b ≤ pa ∧ pa < b + 2 ^ 24 then .refused 0x913 else .ok pa
    | none => .ok pa

/-- A device virtual address of a context translated, with the cache of R303. -/
def translate (s : State) (c va : Nat) (write : Bool) : Trans × State :=
  if 2 ^ 48 ≤ va then (.refused 0x911, s)
  else
    match (s.getCtx c).tlb.find? fun e => decide (e.1 ≤ va) && decide (va < e.1 + e.2.1) with
    | some e =>
      if write ∧ ¬ e.2.2.2 then (.refused 0x911, s) else (s.checkPa c (e.2.2.1 + (va - e.1)), s)
    | none =>
      match walk s.devMem va write ptLevels (s.rd64 (ctxP c + 0x50)) with
      | (.ok pa, some (size, base, w)) =>
        (s.checkPa c pa, s.modCtx c fun x => { x with tlb := (va / size * size, size, base, w) :: x.tlb })
      | (r, _) => (r, s)

/-- Quay, offset and channel of a local physical address (R428). -/
def quayOf (s : State) (pa : Nat) : Nat × Nat × Nat :=
  let ch := pa / 2 ^ 24
  let n := max 1 s.build.quays
  (ch % n, ch / n * 2 ^ 24 + pa % 2 ^ 24, pa / 128 % 4)

/-- The address lies behind a quay. -/
def behindQuay (s : State) (pa : Nat) : Bool := decide (pa < s.build.quays * 2 ^ 36)

/-- FAULT_INFO of R433. -/
def quayInfo (s : State) (pa : Nat) (write decerr : Bool) (source : Nat) : Word :=
  let (_, off, c) := s.quayOf pa
  word (c * 2 ^ 30 + write.toNat * 2 ^ 29 + decerr.toNat * 2 ^ 28 + source % 32 * 2 ^ 23 + off / 8192 % 2 ^ 23)

/-- A failed quay request of a context (R432): 0x401 or 0x402 on the QUAY page, and the context becomes LOST. -/
def quayFail (s : State) (code pa : Nat) (write decerr : Bool) (source : Nat) : State :=
  let q := (s.quayOf pa).1
  let s := s.raise (quayP q) code (s.quayInfo pa write decerr source) (if source < 16 then some source else none) 4
  let s := (s.event (quayP q) 1).count (quayP q + 0x8C) 1
  if source < 16 then s.loseCtx source code else s

/-- The memory write of a core is acknowledged (R242). -/
def ackCore (s : State) (k id : Nat) : State :=
  s.modCore k fun x => { x with acks := x.acks.filter (· ≠ id) }

/-- The channel of a request: SC for a core's, BK for the Dispatcher's and another member's (R258, R259). -/
def reqVc : Port → Nat
  | .basin _ => 2
  | _ => 4

/-- A read or write leaves for its quay; an address behind none is answered by the block switch as DECERR (R428). -/
def toQuay (s : State) (r : QReq) : State :=
  if s.behindQuay r.pa then
    let q := (s.quayOf r.pa).1
    let s := s.inject (.quay r.id) r.port (.quay q) (reqVc r.port) (if r.write then flitsOf r.len else 1)
    { s with quays := s.quays ++ [{ r with quay := q, time := s.clk.tide }] }
  else s.quayFail 0x401 r.pa r.write true r.source

/-- A request has come to its quay (R434). -/
def atQuay (s : State) (id : Nat) : State :=
  match s.quays.find? fun o => o.id = id && o.phase = 0 with
  | none => s
  | some o =>
    let s := s.count (quayP o.quay + (if o.write then 0x84 else 0x80)) 1
    { s with quays := s.quays.map fun x => if x.id = id ∧ x.phase = 0 then { x with phase := 1 } else x }

/-- A line that a core asked for has come: the load engine deposits it later (R138). -/
def arrive (s : State) (r : LineReq) : State := s.modCore r.core fun x => { x with arrivals := x.arrivals ++ [r] }

/-- The answer to a core's request leaves `n` for the core's memory port, in the RSP channel of SC (R255, R259). -/
def answer (s : State) (n : Node) (src : Port) (r : LineReq) (data : List Byte) (ready : Nat := 0) : State :=
  if r.store then s.injectAt n (.done { r with data := [] }) src (.mem r.core) 3 1 ready false
  else s.injectAt n (.data { r with data := data }) src (.mem r.core) 3 (flitsOf data.length) ready false

/-- The next request number. -/
def freshId (s : State) : Nat × State := (s.nextId, { s with nextId := s.nextId + 1 })

/-! Requests to other members of a convoy (R397, R398, R406). -/

/-- MEMBER and the convoy's size (R418). -/
def member (s : State) : Nat := fieldOf (s.rd (convoyP + 0x40)) 7 0
def members (s : State) : Nat := fieldOf (s.rd (convoyP + 0x40)) 15 8 + 1

/-- JETTY_STATUS STATE: 0 DOWN, 1 UP, 2 DARK, 3 RESTARTING (R419). -/
def linkState (s : State) (j : Nat) : Nat := fieldOf (s.rd (jettyP j + oSTATUS)) 31 30

/-- The port that a route entry selects for a destination (R406). -/
def portTo (s : State) (dst : Nat) : Option Nat :=
  let v := Tab.get 0 s.convoy.routes dst
  let ok := fun (j : Nat) => decide (j < s.build.jetties) && s.linkState j ≠ 2
  if s.convoy.lost.contains dst then none
  else if bitOf v 4 && ok (fieldOf v 3 0) then some (fieldOf v 3 0)
  else if bitOf v 12 && ok (fieldOf v 11 8) then some (fieldOf v 11 8)
  else none

/-- A packet is put into slots that wait for a flit (R400): context EPOCH, convoy epoch, CLASS and REQ or RSP, header. -/
def postPacket (s : State) (dst vc epoch rc : Nat) (p : RemotePacket) : State :=
  let tail := leBytes 2 epoch ++ leBytes 2 (s.rd (convoyP + 0x44)).toNat ++ leBytes 1 (vc / 2 % 4 + vc % 2 * 4)
  let slots := (Config.slotsOf p).map fun x =>
    (⟨dst, s.member, vc, 0, ((x.1 ++ List.replicate 64 0).take 64) ++ tail ++ leBytes 3 x.2.toNat, s.clk.time, rc, none, false⟩ : OutSlot)
  { s with convoy := { s.convoy with outbox := s.convoy.outbox ++ slots } }

/-- A request of the convoy context leaves for the jetty of the member that its address names; `l` are the requests that it
answers. One to no member, or to a member with no usable port, is refused at once (R255, R398, R406). -/
def sendRemote (s : State) (r : LineReq) (l : List LineReq) : State :=
  let dst := s.member ^^^ (r.pa / 2 ^ 40)
  match s.portTo dst with
  | some j =>
    if s.members ≤ dst then s.ctxFatal r.ctx 0x914
    else
      let s := { s with remote := s.remote ++ l.map fun (x : LineReq) => { x with member := some dst, via := r.id } }
      s.inject (.line r) (.mem r.core) (.jetty j) 2 (if r.store then flitsOf r.len else 1)
  | none => s.ctxFatal r.ctx 0x914

/-- A request of the convoy context has come to its jetty: it is put into a Hersil packet (R400). -/
def atJetty (s : State) (r : LineReq) : State :=
  s.postPacket (s.member ^^^ (r.pa / 2 ^ 40)) 2 r.epoch (s.coreRc r.core)
    (if r.store then .write r.id (r.pa % 2 ^ 40) r.data else .read r.id (r.pa % 2 ^ 40) r.len)

/-- The core number under which a request of another member is carried here. -/
def foreign : Nat := 2 ^ 16

/-! The Basin. -/

def basinMode (s : State) : Bool := s.pinOnly

/-- USE of way `w` (R127). -/
def wayUse (s : State) (r w : Nat) : Nat := fieldOf (s.rd (basinP r + 0x40)) (2 * w + 1) (2 * w)

/-- Ways in which a context may hold lines: one on its way to another use takes no new line (R127, R128). -/
def ctxWays (s : State) (r : Nat) : List Nat :=
  (List.range 16).filter fun w => s.wayUse r w = 1 && (s.getRegion r).wayTo.all fun e => e.1 ≠ w

/-- The set of a line address: the fold of R123. -/
def foldSet (sets : Nat) : Nat → Nat → Nat
  | 0, _ => 0
  | n + 1, x => if x = 0 ∨ sets ≤ 1 then 0 else (x % sets) ^^^ foldSet sets n (x / sets)

def setOf (s : State) (la : Nat) : Nat := foldSet s.build.basinSets 33 la

/-- The line of a context, if the Basin holds it (R125). -/
def basinFind (s : State) (r c la : Nat) : Option BLine :=
  (s.getRegion r).basin.find? fun l => l.ctx = c && l.la = la

/-- One line of a Basin changed. -/
def basinMod (s : State) (r c la : Nat) (f : BLine → BLine) : State :=
  s.modRegion r fun x => { x with basin := x.basin.map fun l => if l.ctx = c ∧ l.la = la then f l else l }

/-- One line of a Basin dropped. -/
def basinDrop (s : State) (r c la : Nat) : State :=
  s.modRegion r fun x => { x with basin := x.basin.filter fun l => ¬ (l.ctx = c ∧ l.la = la) }

def youngest (s : State) (r : Nat) : Int := ((s.getRegion r).basin.map (·.age)).foldl max 0 + 1
def oldest (s : State) (r : Nat) : Int := ((s.getRegion r).basin.map (·.age)).foldl min 0 - 1

/-- Pinned lines of a context in a set, and the limit of R130. -/
def pinCount (s : State) (r c set : Nat) : Nat :=
  ((s.getRegion r).basin.filter fun l => l.set = set && l.ctx = c && l.pinned).length
def pinLimit (s : State) (r : Nat) : Nat := (s.ctxWays r).length - (if s.pinOnly then 0 else 1)

/-- A line of the pin plan that no longer holds its pin, or holds it again, or has left the plan (R131). -/
def planLost (s : State) (r c la : Nat) : State :=
  s.modRegion r fun x => { x with unpinned := if x.unpinned.contains (c, la) then x.unpinned else x.unpinned ++ [(c, la)] }
def planKept (s : State) (r c la : Nat) : State :=
  s.modRegion r fun x => { x with unpinned := x.unpinned.filter (· ≠ (c, la)) }

/-- A refused pin: the counter, the event, and a line of the plan that holds no pin (R130, R131). -/
def pinRefused (s : State) (r c la : Nat) : State :=
  ((s.count (basinP r + 0x90) 1).event (basinP r) 0).planLost r c la

/-- The age of a line changed: it becomes the most or the least recent. -/
def newest (s : State) (r c la : Nat) : State := let a := s.youngest r; s.basinMod r c la fun l => { l with age := a }
def stalest (s : State) (r c la : Nat) : State := let a := s.oldest r; s.basinMod r c la fun l => { l with age := a }

/-- A line present is pinned where the limit allows; whether it holds a pin now (R130). -/
def pinLine (s : State) (r c la : Nat) : Bool × State :=
  match s.basinFind r c la with
  | none => (false, s.pinRefused r c la)
  | some l =>
    if l.pinned then (true, s)
    else if s.pinCount r c l.set < s.pinLimit r then
      (true, (s.basinMod r c la fun l => { l with pinned := true }).planKept r c la)
    else (false, s.pinRefused r c la)

/-- The way a new line takes: an invalid one first, else the least recent unpinned one (R129). -/
def victim (s : State) (r set : Nat) : Option Nat :=
  let here := (s.getRegion r).basin.filter fun l => l.set = set
  match (s.ctxWays r).find? fun w => here.all fun l => l.way ≠ w with
  | some w => some w
  | none =>
    (here.filter fun l => !l.pinned && (s.ctxWays r).contains l.way).foldl
      (fun (a : Option (Nat × Int)) l => match a with
        | none => some (l.way, l.age)
        | some b => if l.age < b.2 then some (l.way, l.age) else a) none |>.map (·.1)

/-- A line allocated as most recent. -/
def basinPut (s : State) (r c la : Nat) (data : List Byte) : State :=
  match s.basinFind r c la with
  | some _ => s.basinMod r c la fun l => { l with data := data }
  | none =>
    let set := s.setOf la
    match s.victim r set with
    | none => s
    | some w =>
      let age := s.youngest r
      s.modRegion r fun x =>
        { x with basin := (x.basin.filter fun l => ¬ (l.set = set ∧ l.way = w)) ++ [⟨set, w, la, c, false, age, data⟩] }

/-- Bytes of a write put into a line's data. -/
def mergeInto (la pa : Nat) (data l : List Byte) : List Byte := if pa / 128 = la then patchAt data (pa % 128) l else data

/-- The pair gate holds 64 requests of a twin already (R361). -/
def gateFull (s : State) (k : Nat) : Bool :=
  match (s.getCore k).ctx with
  | none => false
  | some c =>
    let y := s.getCtx c
    y.paired && s.pairState c = 1
      && decide (64 ≤ (y.gate.filter fun g => g.mindex = (s.getCore k).mindex && g.side = s.sideOf k).length)

/-- A write enters the pair gate of its context or goes to its quay (R361); only in a Paired context that is attached
on both sides is it held. -/
def gateWrite (s : State) (r : LineReq) : State :=
  let y := s.getCtx r.ctx
  let q : QReq := { id := r.id, quay := 0, pa := r.pa, len := r.len, write := true, source := r.ctx, reqs := [r],
                    region := r.region, port := .basin r.region }
  if y.paired ∧ s.pairState r.ctx = 1 then
    s.modCtx r.ctx fun y =>
      { y with gate := y.gate ++
          [⟨(s.getCore r.core).mindex, s.sideOf r.core, if r.pa / 2 ^ 40 = 0 then 0 else 2, some r, none, r.core, r.id⟩] }
  else if r.pa / 2 ^ 40 ≠ 0 then s.sendRemote r [r]
  else s.toQuay q

/-- The writes of a line that are on their way to memory, the pair gate's among them, in order. -/
def writesTo (s : State) (r c la : Nat) : List LineReq :=
  ((s.getCtx c).gate.filterMap (·.write)).filter (fun w => w.region = r && w.pa / 128 = la)
    ++ ((s.quays.filter fun o => o.write).flatMap (·.reqs)).filter fun w => w.region = r && w.pa / 128 = la

/-- A read leaves for its quay; a twin's read of the same address within 64 tt shares the response (R361). -/
def gateRead (s : State) (r : LineReq) (alloc pin : Bool) : State :=
  let la := r.pa / 128
  let q : QReq := { id := r.id, quay := 0, pa := if alloc then 128 * la else r.pa, len := if alloc then 128 else r.len,
                    write := false, source := r.ctx, reqs := [r], region := r.region, alloc := alloc, pin := pin,
                    port := .basin r.region, before := if alloc then (s.writesTo r.region r.ctx la).map (·.id) else [] }
  let twin := fun (o : QReq) => !o.write && o.pa = r.pa && o.len = r.len && o.source = r.ctx && decide (s.clk.tide ≤ o.time + 64)
    && o.region ≠ r.region && !o.alloc && !alloc && o.copy.isNone
  if (s.getCtx r.ctx).paired ∧ s.pairState r.ctx = 1 ∧ s.quays.any twin then
    { s with quays := s.quays.map fun o => if twin o then { o with reqs := o.reqs ++ [r] } else o }
  else s.toQuay q

/-- An error of R134 in a way: the count within one second, and the retirement of R135, which undoes a change of the way's
use that has not applied, and makes a ledger record due (R344). -/
def wayError (s : State) (r w : Nat) : State :=
  let now := s.clk.tide
  let l := ((Tab.get [] (s.getRegion r).wayErrors w).filter fun t => now < t + 625000000) ++ [now]
  let s := s.modRegion r fun x => { x with wayErrors := Tab.put x.wayErrors w l }
  if l.length < 3 ∨ s.wayUse r w = 3 then s
  else
    let lost := (s.getRegion r).basin.filter fun x => x.way = w
    let s := s.wrField (basinP r + 0x40) (2 * w + 1) (2 * w) 3
    let s := s.wrField (basinP r + 0x840) (2 * w + 1) (2 * w) 3
    let s := (s.modRegion r fun x =>
      { x with basin := x.basin.filter fun l => l.way ≠ w, wayTo := x.wayTo.filter fun e => e.1 ≠ w }).event (basinP r) 1
    let s := { s with retired := s.retired ++ [(r, w)], pilot := { s.pilot with ledgerDue := true } }
    (lost.filter (·.pinned)).foldl (fun s l =>
      let t := (s.basinPut r l.ctx l.la l.data).pinLine r l.ctx l.la
      if t.1 then t.2 else t.2.attn) s

/-- A corrected Basin entry (R134). -/
def basinCe (s : State) (r : Nat) : State := (s.raise (basinP r) 0x102 0 none 1).count (basinP r + 0x98) 1

/-- A double-bit data error in a line (R134): it is dropped; the refetch is the caller's. -/
def basinDataLoss (s : State) (r : Nat) (l : BLine) : State :=
  let s := (s.raise (basinP r) 0x103 0 none 1).count (basinP r + 0x9C) 1
  (s.basinDrop r l.ctx l.la).wayError r l.way

/-- A double-bit tag error (R134): every line of the set in that way is dropped, and the pins among them. -/
def basinTagLoss (s : State) (r set w : Nat) : State :=
  let gone := (s.getRegion r).basin.filter fun l => l.set = set && l.way = w
  let s := (s.raise (basinP r) 0x104 0 none 1).count (basinP r + 0x9C) 1
  let s := s.modRegion r fun x => { x with basin := x.basin.filter fun l => ¬ (l.set = set ∧ l.way = w) }
  let s := (gone.filter (·.pinned)).foldl (fun s l => s.planLost r l.ctx l.la) s
  s.wayError r w

/-- What the checks of the Basin find on a lookup, short of the data of the line (R134). -/
def basinTags (s : State) (r la : Nat) : BasinEcc → State
  | .single => s.basinCe r
  | .tagDouble w => s.basinTagLoss r (s.setOf la) w
  | _ => s

/-- An access to a line of the pin plan that holds no pin has missed (R131). -/
def planMiss (s : State) (r c la : Nat) : State :=
  if (s.getRegion r).unpinned.contains (c, la) then s.count (basinP r + 0x8C) 1 else s

/-- A hit is counted (R136). -/
def basinHit (s : State) (r : Nat) (l : BLine) : State :=
  let s := s.count (basinP r + 0x84) 1
  if l.pinned then s.count (basinP r + 0x88) 1 else s

/-- What a read's hint does to the line that served it (R129, R130). -/
def hintRead (s : State) (r c la hint : Nat) : State :=
  match hint with
  | 0 => s.newest r c la
  | 1 => s.stalest r c la
  | 2 => let t := s.pinLine r c la; if t.1 then t.2 else t.2.newest r c la
  | _ => (s.basinDrop r c la).planKept r c la

/-- What a write does to a line that is present (R124, R129). -/
def hintWrite (s : State) (r c : Nat) (q : LineReq) : State :=
  let la := q.pa / 128
  if q.hint = 3 then (s.basinDrop r c la).planKept r c la
  else
    let s := s.basinMod r c la fun l => { l with data := mergeInto la q.pa l.data q.data }
    if q.hint = 2 then (s.pinLine r c la).2 else s

/-- An outstanding fill of a line of the context (R126). -/
def isFill (r c la : Nat) (o : QReq) : Bool := o.alloc && !o.write && o.region = r && o.pa / 128 = la && o.source = c

/-- A fill of the line is outstanding: on its way to the quay or back, or at the Basin. -/
def fillOpen (s : State) (r c la : Nat) : Bool :=
  s.quays.any (isFill r c la) || (s.getRegion r).fills.any fun f => isFill r c la f.1

/-- A request joins the fill of its line, which serves it in its turn (R126). -/
def joinFill (s : State) (r c la : Nat) (q : LineReq) : State :=
  let add := fun (o : QReq) => if isFill r c la o then { o with reqs := o.reqs ++ [q] } else o
  let s : State := { s with quays := s.quays.map add }
  s.modRegion r fun x => { x with fills := x.fills.map fun f => (add f.1, f.2) }

/-- A line that has lost its data is fetched again, and pinned again where it was pinned (R134). -/
def basinRefetch (s : State) (r : Nat) (l : BLine) : State :=
  let (id, s) := s.freshId
  s.toQuay { id := id, quay := 0, pa := 128 * l.la, len := 128, write := false, source := l.ctx, reqs := [], region := r,
             alloc := true, pin := l.pinned, port := .basin r, before := (s.writesTo r l.ctx l.la).map (·.id) }

/-- A read request at the Basin (R126, R129 to R132). A hit leaves it 18 rc after the request has come. -/
def basinRead (s : State) (r : Nat) (q : LineReq) (found : BasinEcc) : State :=
  let la := q.pa / 128
  let pinned := (s.basinFind r q.ctx la).any (·.pinned)
  if s.pinOnly ∧ ¬ pinned then ((s.count (basinP r + 0x94) 1).planMiss r q.ctx la).gateRead q false false
  else if s.fillOpen r q.ctx la then
    let s := (s.count (basinP r + 0x80) 1).planMiss r q.ctx la
    (if q.hint = 1 ∨ q.hint = 3 then s.count (basinP r + 0x94) 1 else s).joinFill r q.ctx la q
  else
    let s := (s.count (basinP r + 0x80) 1).basinTags r la found
    match s.basinFind r q.ctx la with
    | some l =>
      if found = .dataDouble then ((s.basinDataLoss r l).basinRefetch r l).joinFill r q.ctx la q
      else
        let s := (s.basinHit r l).answer (.port (.basin r)) (.basin r) q ((l.data.drop (q.pa % 128)).take q.len) (q.came + 18)
        s.hintRead r q.ctx la q.hint
    | none =>
      let s := s.planMiss r q.ctx la
      if q.hint = 1 ∨ q.hint = 3 then (s.count (basinP r + 0x94) 1).gateRead q false false
      else s.gateRead q true (q.hint = 2)

/-- A write request at the Basin (R124, R126, R129, R132). One that reaches a line whose fill is outstanding is merged into
it; a line with a double-bit error is fetched again and takes the write then. -/
def basinWrite (s : State) (r : Nat) (q : LineReq) (found : BasinEcc) : State :=
  let la := q.pa / 128
  let pinned := (s.basinFind r q.ctx la).any (·.pinned)
  let s : State :=
    if s.pinOnly ∧ ¬ pinned then ((s.count (basinP r + 0x94) 1).planMiss r q.ctx la).joinFill r q.ctx la q
    else if s.fillOpen r q.ctx la then ((s.count (basinP r + 0x80) 1).planMiss r q.ctx la).joinFill r q.ctx la q
    else
      let s := (s.count (basinP r + 0x80) 1).basinTags r la found
      match s.basinFind r q.ctx la with
      | none =>
        let s := s.planMiss r q.ctx la
        if q.hint = 1 ∨ q.hint = 3 then s.count (basinP r + 0x94) 1 else s
      | some l =>
        if found = .dataDouble then ((s.basinDataLoss r l).basinRefetch r l).joinFill r q.ctx la q
        else (s.basinHit r l).hintWrite r q.ctx q
  s.gateWrite q

/-- A request whose epoch is its context's present one, in a context that is not LOST or closing (R325). -/
def fresh (s : State) (c epoch : Nat) : Bool :=
  s.epoch c = epoch && (s.ctxState c = 2 || s.ctxState c = 3)

/-- The request that the Basin takes next: the oldest that no full pair gate holds back, and none before an earlier one of
its line (R126, R361). -/
def nextRequest (s : State) (l : List LineReq) : Option LineReq :=
  l.find? fun q => !(q.store && s.gateFull q.core)
    && (match l.find? fun o => o.pa / 128 = q.pa / 128 && o.ctx = q.ctx with
        | some o => o.id = q.id && o.core = q.core
        | none => false)

/-- The next request at a region's Basin, of which it takes up to 4 per rc (R126). A request of another EPOCH is discarded
(R325). -/
def basinRequest (s : State) (r : Nat) (found : BasinEcc) : State :=
  let now := s.rcOf r
  let (rc, n) := (s.getRegion r).served
  let n := if rc = now then n else 0
  if 4 ≤ n then s
  else match s.nextRequest (s.getRegion r).requests with
    | none => s
    | some q =>
      let s := s.modRegion r fun x => { x with requests := x.requests.erase q, served := (now, n + 1) }
      if ¬ s.fresh q.ctx q.epoch then s.count (ctxP q.ctx + 0xC4) 1
      else if q.store then s.basinWrite r q found else s.basinRead r q found

/-- The requests of a fill, in order of arrival, on the line's bytes: a read is answered past the Basin's return port, a
write changes the bytes (R126, R255). -/
def fillServe (s : State) (r c la : Nat) : List LineReq → List Byte → State × List Byte
  | [], data => (s, data)
  | q :: l, data =>
    if q.store then fillServe s r c la l (mergeInto la q.pa data q.data)
    else fillServe (s.answer (.regionSwitch r) (.basin r) q ((data.drop (q.pa % 128)).take q.len)) r c la l data

/-- A fill becomes a valid line, where the context still holds the region and PIN_ONLY allows it, and its requests act on it
in order of arrival (R126, R129, R130, R132). -/
def fillComplete (s : State) (r : Nat) : State :=
  match (s.getRegion r).fills with
  | [] => s
  | (q, data) :: l =>
    let s := s.modRegion r fun x => { x with fills := l }
    let la := q.pa / 128
    let c := q.source
    let (s, after) := s.fillServe r c la q.reqs data
    let held := fieldOf (s.rd (regionP r + oSTATUS)) 24 24 = 1 ∧ fieldOf (s.rd (regionP r + oSTATUS)) 28 25 = c
    let wanted := q.pin || q.reqs.any fun x => x.hint = 2
    if ¬ held ∨ (s.pinOnly ∧ ¬ wanted) then s
    else
      let s := s.basinPut r c la after
      let s := if q.pin ∧ ¬ q.reqs.any (fun x => x.hint = 2) then (s.pinLine r c la).2 else s
      let s := q.reqs.foldl (fun s x => if x.store then s.hintWrite r c { x with data := [] } else s.hintRead r c la x.hint) s
      if s.pinOnly ∧ ¬ (s.basinFind r c la).any (·.pinned) then s.basinDrop r c la else s

/-- The bytes of a write reach memory, as the quay acknowledges it (R243). -/
def memWrite (s : State) (a : Nat) (l : List Byte) : State := { s with devMem := Mem.putBytes zeroFill s.devMem a l }
def memRead (s : State) (a n : Nat) : List Byte := Mem.bytes zeroFill s.devMem a n

/-- STATE_DIGEST folds the bytes of a write (R362, log 20). -/
def digestWrite (s : State) (k a : Nat) (l : List Byte) : State :=
  s.modCore k fun x => { x with digest := crc64More x.digest (Config.digestBytes a l) }

/-- A write is acknowledged: its stream's chunk has one line less outstanding (R148, R242). -/
def storeDone (s : State) (r : LineReq) : State :=
  let s := s.ackCore r.core r.id
  s.modCore r.core fun x =>
    { x with stores := x.stores.map fun e =>
        if e.1 = r.slot then (e.1, { e.2 with outs := Tab.put e.2.outs r.chunk (Tab.get 0 e.2.outs r.chunk - 1) }) else e }

/-- A quay request of another member has failed: its sender is refused, and no context here is concerned (R398, R432). -/
def foreignFail (s : State) (code : Nat) (q : QReq) (decerr : Bool) : State :=
  let m := (s.quayOf q.pa).1
  let s := ((s.raise (quayP m) code (s.quayInfo q.pa q.write decerr q.source)).event (quayP m) 1).count (quayP m + 0x8C) 1
  q.reqs.foldl (fun s r => s.postPacket (r.member.getD 0) (r.slot + 1) r.epoch 0 (.refusal r.id)) s

/-- The request came from another member. -/
def isForeign (q : QReq) : Bool := q.reqs.any fun r => r.core = foreign

/-- The answer to a request of another member has come to its jetty (R397). -/
def foreignDone (s : State) (r : LineReq) : State :=
  s.postPacket (r.member.getD 0) (r.slot + 1) r.epoch 0 (if r.store then .done r.id else .answer r.id r.data)

/-- Whether the response finds another EPOCH than its own: a line of a COPY or FILL, or requests of cores (R325). -/
def isStale (s : State) (q : QReq) : Bool :=
  match q.copy with
  | some (_, e) => !s.fresh q.source e
  | none => !q.reqs.isEmpty && q.reqs.all fun r => !s.fresh r.ctx r.epoch

/-- The answer to one request of a quay's request leaves for its core; one of another EPOCH is discarded (R325). -/
def quayAnswer (s : State) (quay : Nat) (r : LineReq) (data : List Byte) : State :=
  if s.fresh r.ctx r.epoch then s.answer (.port (.quay quay)) (.quay quay) r data else s.count (ctxP r.ctx + 0xC4) 1

/-- The line of a fill as memory gives it, with the region's earlier writes that are still on their way (R124). -/
def fillData (s : State) (q : QReq) : List Byte :=
  let la := q.pa / 128
  ((s.writesTo q.region q.source la).filter fun w => q.before.contains w.id).foldl
    (fun d w => mergeInto la w.pa d w.data) (s.memRead (128 * la) 128)

/-- A quay has done what it was asked: memory takes a write's bytes, and the answers leave it (R126, R243, R255). -/
def quayOkay (s : State) (quay : Nat) (q : QReq) : State :=
  let s := if q.write then q.reqs.foldl (fun s r => s.memWrite r.pa r.data) s else s
  if q.copy.isSome then (if s.isStale q then s.count (ctxP q.source + 0xC4) 1 else s)
  else if isForeign q then
    q.reqs.foldl (fun s r =>
      let data := if r.store then [] else s.memRead r.pa r.len
      s.injectAt (.port (.quay quay)) (if r.store then .done r else .data { r with data := data }) (.quay quay) q.port 5
        (flitsOf data.length) 0 false) s
  else if q.alloc ∧ ¬ q.write then
    let s := { s with quays := s.quays ++ [{ q with phase := 2 }] }
    s.inject (.fill q.id (s.fillData q)) (.quay quay) (.basin q.region) 3 2
  else q.reqs.foldl (fun s r => s.quayAnswer quay r (if r.store then [] else s.memRead r.pa r.len)) s

/-- The line of a fill has come to its Basin (R126); what another EPOCH asked for is discarded (R325). -/
def fillArrive (s : State) (id : Nat) (data : List Byte) : State :=
  match s.quays.find? fun o => o.id = id && o.phase = 2 with
  | none => s
  | some q =>
    let s := { s with quays := s.quays.filter fun o => ¬ (o.id = id ∧ o.phase = 2) }
    let stale := q.reqs.filter fun r => !s.fresh r.ctx r.epoch
    let s := stale.foldl (fun s r => s.count (ctxP r.ctx + 0xC4) 1) s
    s.modRegion q.region fun x =>
      { x with fills := x.fills ++ [({ q with reqs := q.reqs.filter fun r => s.fresh r.ctx r.epoch }, data)] }

/-- A response of a memory quay to a request that has come to it (R325, R431, R432). `latency` is in tt. -/
def quayResponse (s : State) (quay id : Nat) (resp : QuayResp) (latency : Nat) : State :=
  match s.quays.find? fun o => o.quay = quay && o.id = id && o.phase = 1 with
  | none =>
    (s.raise (quayP quay) 0x403 (word (id % 2 ^ 12))).count (quayP quay + 0x90) 1
  | some q =>
    let s := { s with quays := s.quays.filter fun o => ¬ (o.quay = quay ∧ o.id = id ∧ o.phase = 1) }
    let a := quayP quay + 0x44
    let s := s.wr a (word (max (s.rd a).toNat (min latency (2 ^ 20 - 1))))
    let fail := fun (s : State) (code : Nat) (d : Bool) =>
      if isForeign q then s.foreignFail code q d
      else if s.isStale q then s.count (ctxP q.source + 0xC4) (max 1 q.reqs.length)
      else s.quayFail code q.pa q.write d q.source
    match resp with
    | .slverr => fail s 0x401 false
    | .decerr => fail s 0x401 true
    | .poison => fail s 0x402 false
    | .okay => s.quayOkay quay q

/-- A request over the latency bound (R431). -/
def quayLate (s : State) (quay id latency : Nat) : State :=
  if latency ≤ fieldOf (s.rd (quayP quay + 0x40)) 11 0 then s
  else
    let info := match s.quays.find? fun o => o.quay = quay && o.id = id && o.phase = 1 with
      | some o => s.quayInfo o.pa o.write false o.source
      | none => 0
    (((s.raise (quayP quay) 0x803 info).event (quayP quay) 0).count (quayP quay + 0x88) 1).wr (quayP quay + 0x44)
      (word (max (s.rd (quayP quay + 0x44)).toNat (min latency (2 ^ 20 - 1))))

end State

/-- A memory-quay response arrives (R432). -/
def execQuayResponse (quay id : Nat) (resp : QuayResp) (latency : Nat) (s : State) : Out :=
  actAt (quay < s.build.quays) (fun s => s.quayResponse quay id resp latency) s

/-- A request exceeds QUAY_LATENCY_BOUND (R431). -/
def execQuayLate (quay id latency : Nat) (s : State) : Out :=
  actAt (quay < s.build.quays) (fun s => s.quayLate quay id latency) s

/-- The Basin takes its next request (R126). -/
def execBasinRequest (region : Nat) (found : BasinEcc) (s : State) : Out :=
  actRegion region (region < s.build.regions) (fun s => s.basinRequest region found) s

/-- A fill completes (R126). -/
def execBasinFillComplete (region : Nat) (s : State) : Out :=
  actRegion region (region < s.build.regions) (fun s => s.fillComplete region) s

/-- The Basin scrubber checks one entry of a set (R134). -/
def execBasinScrub (region set way : Nat) (found : BasinEcc) (s : State) : Out :=
  actRegion region (region < s.build.regions && set < s.build.basinSets && way < 16) (fun s =>
    match found with
    | .clean => s
    | .single => s.basinCe region
    | .tagDouble w => s.basinTagLoss region set (w % 16)
    | .dataDouble =>
      match (s.getRegion region).basin.find? fun l => l.set = set && l.way = way with
      | none => s
      | some l => (s.basinDataLoss region l).basinRefetch region l) s

end Sys2Proof.Machine
end

