-- ==== Sys2Proof/Machine/Streams.lean ====
section
/-! DEFINITION. The load and store engines (R137 to R160): the issue check, chunks and lines, index words, halos and
posted writes, refused translations and tide hold, and the retirement of streams. -/

namespace Sys2Proof.Machine

/-- An LS descriptor (R140). -/
structure LsDesc where
  indexed : Bool
  hint : Nat
  aux : Bool
  idxMem : Bool
  barrierEnd : Bool
  berth : Nat
  chunk : Nat
  row : Nat
  rows : Nat
  planes : Nat
  baddr : Nat
  xaddr : Nat
  xs1 : Int
  xs2 : Int
  bs1 : Int
  bs2 : Int
  pong : Nat
  waitBol : Option Nat
  waitAdj : Int
  doneBol : Option Nat
  waitBase : Nat
  idxLimit : Nat
  idxAddr : Nat
  axaddr : Nat
  arow : Nat
  axs1 : Int
  axs2 : Int
  abaddr : Nat
  abs1 : Int
  abs2 : Int
  apong : Nat
  deriving DecidableEq, Repr

def LsDesc.of (l : List Byte) : LsDesc :=
  let f := fieldAt l 1 1
  let b := fun (a : Nat) => let v := fieldAt l a 1; if bitOf (BitVec.ofNat 8 v) 6 then some (v % 64) else none
  { indexed := fieldAt l 0 1 % 4 = 1, hint := f % 4, aux := f / 4 % 2 = 1, idxMem := f / 8 % 2 = 1,
    barrierEnd := f / 16 % 2 = 1, berth := fieldAt l 2 1 % 4, chunk := fieldAt l 3 1 + 1, row := fieldAt l 4 2 + 1,
    rows := fieldAt l 6 2 + 1, planes := fieldAt l 8 4 % 2 ^ 25, baddr := fieldAt l 12 4,
    xaddr := fieldAt l 16 8 % 2 ^ 48, xs1 := signed 32 (fieldAt l 24 4), xs2 := signed 32 (fieldAt l 28 4),
    bs1 := signed 32 (fieldAt l 32 4), bs2 := signed 32 (fieldAt l 36 4), pong := fieldAt l 40 4, waitBol := b 44,
    waitAdj := signed 8 (fieldAt l 45 1), doneBol := b 46, waitBase := fieldAt l 48 4, idxLimit := fieldAt l 52 4,
    idxAddr := fieldAt l 56 8, axaddr := fieldAt l 64 8 % 2 ^ 48, arow := fieldAt l 72 2 + 1,
    axs1 := signed 32 (fieldAt l 76 4), axs2 := signed 32 (fieldAt l 80 4), abaddr := fieldAt l 84 4,
    abs1 := signed 32 (fieldAt l 88 4), abs2 := signed 32 (fieldAt l 92 4), apong := fieldAt l 96 4 }

/-- A reserved bit of an LS descriptor is set (R140). -/
def lsReserved (l : List Byte) : Bool :=
  fieldAt l 0 1 ≥ 2 || fieldAt l 1 1 ≥ 32 || fieldAt l 2 1 ≥ 3 || fieldAt l 8 4 ≥ 2 ^ 25 || fieldAt l 16 8 ≥ 2 ^ 48
    || fieldAt l 44 1 ≥ 128 || fieldAt l 46 1 ≥ 128 || !zeroAt l 47 1 || fieldAt l 64 8 ≥ 2 ^ 48 || !zeroAt l 74 2
    || !zeroAt l 100 28

namespace LsDesc

/-- The KIND and FLAGS rules of R140 and R144 for operation `op` of the load (1 stream, 2 gather) or store (1 stream,
2 scatter, 3 halo, 4 post) engine. -/
def flagsOk (d : LsDesc) (store : Bool) (op : Nat) : Bool :=
  (d.indexed == (op = 2 : Bool)) && (op < 3 || d.hint = 0)
    && (if d.indexed then d.idxLimit ≠ 0 else d.idxLimit = 0 && d.idxAddr = 0) && (d.aux || d.axaddr = 0)
    && !(store && op = 4 && (d.xaddr / 2 ^ 32 % 4 = 3 || d.xaddr ≥ 2 ^ 46))
    && !(store && op = 3 && d.xaddr ≥ 2 ^ 32)

/-- The alignment rules of R140; the DETAIL of the first that fails. -/
def misaligned (d : LsDesc) : Option Nat :=
  let m := fun (x : Int) => x % 16 ≠ 0
  if d.baddr % 16 ≠ 0 ∨ m d.xs1 ∨ m d.xs2 ∨ m d.bs1 ∨ m d.bs2 then some 0
  else if d.aux ∧ (d.abaddr % 16 ≠ 0 ∨ m d.axs1 ∨ m d.axs2 ∨ m d.abs1 ∨ m d.abs2) then some 1
  else if d.indexed ∧ d.idxAddr % 4 ≠ 0 then some 2
  else if d.pong % 16 ≠ 0 ∨ (d.aux ∧ (d.apong % 16 ≠ 0 ∨ (d.apong = 0) ≠ (d.pong = 0))) then some 3
  else none

/-- Berth address of row `r` of plane `p0 + j`, data or companion (R141). -/
def berthAt (d : LsDesc) (comp : Bool) (p0 j r : Nat) : Int :=
  let base : Int := if comp then d.abaddr else d.baddr
  let s1 := if comp then d.abs1 else d.bs1
  let s2 := if comp then d.abs2 else d.bs2
  let pong := if comp then d.apong else d.pong
  if pong = 0 then base + ((p0 + j : Nat) : Int) * s2 + r * s1
  else base + ((j / d.chunk % 2 * pong : Nat) : Int) + ((j % d.chunk : Nat) : Int) * s2 + r * s1

/-- External address of a row; `xp` is the plane or its index value (R141). -/
def extAt (d : LsDesc) (comp : Bool) (xp r : Nat) : Int :=
  if comp then (d.axaddr : Int) + xp * d.axs2 + r * d.axs1 else (d.xaddr : Int) + xp * d.xs2 + r * d.xs1

def rowLen (d : LsDesc) (comp : Bool) : Nat := if comp then d.arow else d.row

/-- External address of a row inside the target berth of a halo or post. -/
def targetAt (d : LsDesc) (comp : Bool) (p r : Nat) : Int :=
  if comp then ((d.axaddr % 2 ^ 32 : Nat) : Int) + p * d.axs2 + r * d.axs1
  else ((d.xaddr % 2 ^ 32 : Nat) : Int) + p * d.xs2 + r * d.xs1

/-- Rows of a stream as (companion, plane from 0, row). -/
def rowList (d : LsDesc) (n : Nat) : List (Bool × Nat × Nat) :=
  (List.range n).flatMap fun j => (List.range d.rows).flatMap fun r =>
    if d.aux then [(true, j, r), (false, j, r)] else [(false, j, r)]

/-- Lines of a row whose external address is `x`: split at 128-byte boundaries (R141). -/
def lineCount (len : Nat) (x : Int) : Nat := ((x + len - 1) / 128 - x / 128 + 1).toNat

/-- First byte and length of line `l` of a row. -/
def lineAt (len : Nat) (x : Int) (l : Nat) : Int × Nat :=
  let a := max x ((x / 128 + l) * 128)
  let b := min (x + len) ((x / 128 + l + 1) * 128)
  (a, (b - a).toNat)

end LsDesc

/-- FAULT_INFO of R146. -/
def lsInfo (store : Bool) (slot detail desc plane : Nat) : Word :=
  word (store.toNat * 2 ^ 31 + slot % 4 * 2 ^ 29 + detail * 2 ^ 25 + desc * 2 ^ 16 + plane % 2 ^ 16)

/-- Bytes [from, from + len) lie in a berth of `z` bytes. -/
def insideBerth (z : Nat) (a : Int) (len : Nat) : Bool := decide (0 ≤ a) && decide (a + len ≤ z)

namespace State

/-- The regions of a context on one side, ascending: all of them in Single mode (R177, R360). -/
def sideRegions (s : State) (c side : Nat) : List Nat :=
  let x := s.getCtx c
  if x.paired then x.regions.filter fun r => r % 2 = side else x.regions

/-- The home position of manifest core `m` on a side (R177, R360); `none` where the context has none. -/
def homeOf (s : State) (c side m : Nat) : Option Nat :=
  match (s.sideRegions c side)[m / s.build.stride]? with
  | some r => if m % s.build.stride < s.build.active then some (r * s.build.stride + m % s.build.stride) else none
  | none => none

/-- The physical core that carries manifest core `m` on a side, after any detour (R366). -/
def physOf (s : State) (c side m : Nat) : Option Nat :=
  match (s.getCtx c).detours.find? fun e => e.1 = m && (!(s.getCtx c).paired || s.sideOf e.2 = side) with
  | some e => some e.2
  | none => s.homeOf c side m

/-- The manifest index whose home is a physical core. -/
def mindexOfHome (s : State) (c side k : Nat) : Option Nat :=
  let l := s.sideRegions c side
  if l.contains (s.regionOf k) ∧ s.build.localOf k < s.build.active then
    some (l.idxOf (s.regionOf k) * s.build.stride + s.build.localOf k)
  else none

/-- One step of the core grid in direction 0 N, 1 E, 2 S, 3 W. -/
def gridStep (s : State) (dir : Nat) (p : Nat × Nat) : Option (Nat × Nat) :=
  if dir = 0 then (if p.1 = 0 then none else some (p.1 - 1, p.2))
  else if dir = 1 then (if p.2 + 1 < s.build.gridCols * s.build.regionCols then some (p.1, p.2 + 1) else none)
  else if dir = 2 then (if p.1 + 1 < s.build.gridRows * s.build.regionRows then some (p.1 + 1, p.2) else none)
  else (if p.2 = 0 then none else some (p.1, p.2 - 1))

/-- The neighbour of a position in a direction: the next core of the side, past the partner region's cores in Paired
mode (R149, R360). -/
def neighbour (s : State) (c side dir : Nat) : Nat → Nat × Nat → Option Nat
  | 0, _ => none
  | n + 1, p =>
    match s.gridStep dir p with
    | none => none
    | some q =>
      match s.build.coreAt q.1 q.2 with
      | none => none
      | some k =>
        if (s.sideRegions c side).contains (s.regionOf k) then some k
        else if (s.getCtx c).regions.contains (s.regionOf k) then s.neighbour c side dir n q
        else none

/-- Target core of a halo, and whether it goes over the neighbour link: both ends at home and adjacent (R149, R151,
R360). -/
def haloTarget (s : State) (k : Nat) (p : Prog) (dir : Nat) : Option (Nat × Bool) :=
  let side := s.sideOf k
  match s.homeOf p.ctx side p.mindex with
  | none => none
  | some home =>
    match s.neighbour p.ctx side dir 64 (s.build.globalPos home) with
    | none => none
    | some nb =>
      match (s.mindexOfHome p.ctx side nb).bind fun m => s.physOf p.ctx side m with
      | none => none
      | some t =>
        let adjacent := s.gridStep dir (s.build.globalPos home) = some (s.build.globalPos nb)
        let sameRegion := s.regionOf home = s.regionOf nb
        some (t, home = k && t = nb && adjacent && (sameRegion || !(s.getCtx p.ctx).paired))

/-- The slots of an engine. -/
def slotsOf (x : Core) (store : Bool) : Tab Stream := if store then x.stores else x.loads
def setSlots (x : Core) (store : Bool) (t : Tab Stream) : Core :=
  if store then { x with stores := t } else { x with loads := t }

/-- A free slot. -/
def freeSlot (s : State) (k : Nat) (store : Bool) : Option Nat :=
  (List.range 4).find? fun i => (slotsOf (s.getCore k) store).all fun e => e.1 ≠ i

def streamAt (s : State) (k : Nat) (store : Bool) (slot : Nat) : Option Stream :=
  ((slotsOf (s.getCore k) store).find? fun e => e.1 = slot).map (·.2)

def setStream (s : State) (k : Nat) (store : Bool) (slot : Nat) (x : Stream) : State :=
  s.modCore k fun c => setSlots c store (Tab.put (slotsOf c store) slot x)

/-- LS descriptor `i` of a stream. -/
def lsdAt (p : Prog) (i : Nat) : Option (List Byte) :=
  if i < p.lsd.length / 128 then some ((p.lsd.drop (128 * i)).take 128) else none

/-- FIRST and STEP of a descriptor's budget (R182). -/
def budgetOf (p : Prog) (desc : Nat) : Option (Nat × Nat) :=
  ((List.range (p.budgets.length / 8)).find? fun i => fieldAt p.budgets (8 * i) 1 = desc).map fun i =>
    (fieldAt p.budgets (8 * i + 2) 2, fieldAt p.budgets (8 * i + 4) 4)

/-- A core sends its arrival to the barrier unit (R152, R153); `id` awaits the acknowledgement, 0 when none does. -/
def sendArrival (s : State) (c k id : Nat) : State := s.inject (.arrive c k id) (.mem k) .control 0

/-- The regions of two neighbours differ: their link passes a lock (R149). -/
def linkDelay (s : State) (k t : Nat) : Nat := if s.regionOf k = s.regionOf t then 0 else 16

/-- A message leaves core `k` for core `t`: over the mesh, or over the neighbour link, which delivers it 3 rc later and at
most 6.4 ns more at a region border (R149, R234). -/
def post (s : State) (k t : Nat) (link : Bool) (m : MsgKind) : State :=
  let m : Msg := ⟨k, (s.getCore k).mindex, link, m, s.coreRc k + 3, s.instant + s.linkDelay k t⟩
  if link then s.modCore t fun x => { x with inbox := x.inbox ++ [m] } else s.sendMsg t m

/-- A posted write, DONE add or signal leaves a core: a later fence asks its target for it (R242). -/
def send (s : State) (k t : Nat) (link : Bool) (m : MsgKind) : State :=
  let s := s.post k t link m
  s.modCore k fun x => { x with posted := (x.posted.filter fun e => ¬ (e.1 = t ∧ e.2.1 = link)) ++ [(t, link, s.nextId)] }

/-- Words of a core on a neighbour link that the receiver has not written (R149). -/
def linkWords (s : State) (k t : Nat) : Nat :=
  ((s.getCore t).inbox.filter fun m => m.src = k && m.neighbour && (match m.kind with
    | .words _ _ _ => true
    | _ => false)).length

/-- The fences of a core whose earlier store entries have all retired send their probes (R242). -/
def fenceProbes (s : State) (k : Nat) : State :=
  (s.getCore k).fences.foldl (fun s f =>
    if f.probed ∨ (s.getCore k).stores.any (fun e => f.stores.contains e.2.inst) then s
    else
      let l := (s.getCore k).posted.map fun e => (e.1, e.2.1)
      let (n, s) := s.freshId
      let s := l.foldl (fun s t => s.post k t.1 t.2 (.probe f.id)) s
      s.modCore k fun x =>
        { x with fences := x.fences.map fun g => if g.id = f.id then { g with probed := true, probes := l, asked := n } else g }) s

/-- A probe of a fence has been answered (R242). -/
def probed (s : State) (k fence t : Nat) (link : Bool) : State :=
  s.modCore k fun x =>
    let asked := ((x.fences.find? fun g => g.id = fence).map (·.asked)).getD 0
    { x with fences := x.fences.map (fun g =>
               if g.id = fence then { g with probes := g.probes.filter (· ≠ (t, link)) } else g),
             posted := x.posted.filter fun e => ¬ (e.1 = t ∧ e.2.1 = link ∧ e.2.2 ≤ asked) }

/-- A stream retires: its slot and STREAM_STATE clear, its barrier arrival is sent, its entry retires (R148, R158). -/
def streamRetire (s : State) (k : Nat) (store : Bool) (slot : Nat) (x : Stream) : State :=
  let d := LsDesc.of x.body
  let s := s.modCore k fun c => setSlots c store (Tab.del (slotsOf c store) slot)
  let s := match (s.getCore k).ctx with
    | some c => if d.barrierEnd then s.sendArrival c k 0 else s
    | none => s
  (s.retire k (if store then 4 else 3) x.stream x.inst x.tag x.lineNo x.stamp).fenceProbes k

/-- What a checked LS entry asks for. -/
inductive LsCheck where
  | ok
  | fault (code detail : Nat)
  | gated (berth addr : Nat)
  deriving DecidableEq, Repr

/-- PLANE0 and the plane count of an entry (R143). -/
def lsPlane0 (s : State) (k : Nat) (h : Head) : Nat := (s.optCtr k (fieldOf h.word 48 45)).getD 0
def lsPlanes (s : State) (k : Nat) (h : Head) (d : LsDesc) : Nat := (s.optCtr k (fieldOf h.word 44 41)).getD d.planes

/-- The target of a halo or posted write, and whether the words go over the neighbour link (R149, R150). -/
def lsTarget (s : State) (k : Nat) (store : Bool) (h : Head) (d : LsDesc) : Option (Nat × Bool) :=
  let op := opOf h.word
  if ¬ store ∨ op < 3 then none
  else if op = 3 then s.haloTarget k h.prog (fieldOf h.word 40 39)
  else (s.physOf h.prog.ctx (s.sideOf k) (d.xaddr / 2 ^ 34 % 2 ^ 12)).map fun t => (t, false)

/-- The berth side of a stream's data or companion rows (R144): bounds, then gating. -/
def lsSide (s : State) (k : Nat) (d : LsDesc) (p0 : Nat) (rows : List (Bool × Nat × Nat)) (comp : Bool) : LsCheck :=
  let mine := rows.filter fun r => r.1 = comp
  if mine.any fun r => !insideBerth (s.build.berthBytes d.berth) (d.berthAt comp p0 r.2.1 r.2.2) (d.rowLen comp) then
    .fault 0x241 comp.toNat
  else match mine.findSome? fun r => s.gatedAt k d.berth (d.berthAt comp p0 r.2.1 r.2.2).toNat (d.rowLen comp) with
    | some a => .gated d.berth a
    | none => .ok

/-- The checks of R144, in its order. -/
def lsCheck (s : State) (k : Nat) (store : Bool) (h : Head) (raw : List Byte) : LsCheck :=
  let op := opOf h.word
  let d := LsDesc.of raw
  let p0 := s.lsPlane0 k h
  let n := s.lsPlanes k h d
  let tberth := if op = 4 then d.xaddr / 2 ^ 32 % 4 else d.berth
  if lsReserved raw then .fault 0x240 0
  else if ¬ d.flagsOk store op then .fault 0x240 0
  else if 2 ^ 24 < n ∨ 2 ^ 32 < p0 + n then .fault 0x243 0
  else match d.misaligned with
  | some detail => .fault 0x242 detail
  | none =>
    let rows := d.rowList n
    match s.lsSide k d p0 rows false with
    | .ok =>
      match s.lsSide k d p0 rows true with
      | .ok =>
        let tz := s.build.berthBytes tberth
        if store && 3 ≤ op && rows.any fun r => !insideBerth tz (d.targetAt r.1 (p0 + r.2.1) r.2.2) (d.rowLen r.1) then
          .fault 0x241 4
        else if store && 3 ≤ op && (s.lsTarget k store h d).isNone then .fault 0x245 0
        else .ok
      | x => x
    | x => x

/-- The stream that an entry starts. -/
def lsStream (s : State) (k : Nat) (store : Bool) (h : Head) (raw : List Byte) : Stream :=
  let desc := fieldOf h.word 55 49
  let d := LsDesc.of raw
  let target := s.lsTarget k store h d
  { op := opOf h.word, desc := desc, body := raw, p0 := s.lsPlane0 k h, n := s.lsPlanes k h d, dir := fieldOf h.word 40 39,
    target := target.map (·.1), link := (target.map (·.2)).getD false, req := if d.aux then 1 else 0,
    stamp := h.stamp, budget := budgetOf h.prog desc, inst := h.inst, stream := h.num, tag := h.bundle.tag,
    lineNo := h.bundle.line }

/-- The checks of R144 and the start of the stream. -/
def lsStart (s : State) (k : Nat) (store : Bool) (h : Head) (slot : Nat) : State :=
  let desc := fieldOf h.word 55 49
  match lsdAt h.prog desc with
  | none => s.coreFault k 0x240 (lsInfo store slot 0 desc (s.lsPlane0 k h))
  | some raw =>
    match s.lsCheck k store h raw with
    | .fault code detail => s.coreFault k code (lsInfo store slot detail desc (s.lsPlane0 k h))
    | .gated berth a => s.gatedFault k berth a (if store then 3 else 2)
    | .ok =>
      let x := s.lsStream k store h raw
      if x.n = 0 then s.streamRetire k store slot x else s.setStream k store slot x

/-- An LD or ST entry of operation `op` issues when R167 admits it and a slot is free (R137). -/
def lsIssue (store : Bool) (isOp : Nat → Bool) (k : Nat) (up : Upset) (s : State) : State :=
  let e := if store then 4 else 3
  match s.head? k e with
  | none => s
  | some h =>
    if isOp (opOf h.word) && s.ready k e h then
      match s.freeSlot k store with
      | none => s
      | some slot => s.chartRead k up fun s => ((s.issued k e h).lsStart k store h slot).brkIssue k e h
    else s

/-! Chunks and lines. -/

/-- Chunks of a stream. -/
def chunksOf (x : Stream) (d : LsDesc) : Nat := (x.n + d.chunk - 1) / d.chunk

/-- The threshold of chunk `c` (R147). -/
def chunkThreshold (d : LsDesc) (c : Nat) : Int := (d.waitBase : Int) + c + d.waitAdj

/-- Chunk `c` may be requested: it does not wait, or its wait has been met. -/
def chunkOpen (x : Stream) (d : LsDesc) (c : Nat) : Bool :=
  d.waitBol.isNone || decide (chunkThreshold d c ≤ 0) || decide (c < x.met)

/-- The chunk whose first line the engine is to request next, when its wait has not been met (R147). -/
def chunkHeld (x : Stream) (d : LsDesc) : Option Nat :=
  let c := x.plane / d.chunk
  if x.plane < x.n ∧ ¬ x.halted ∧ ¬ chunkOpen x d c then some c else none

/-- The budgeted point of chunk `c` in schedule time (R147, R182). -/
def chunkPoint (x : Stream) (c : Nat) : Option Nat := x.budget.map fun b => x.stamp + b.1 + c * b.2

/-- The wait of the chunk that a stream has reached ends; past its budgeted point it is a schedule-late event, but not
during a hold (R147, R156, R185). -/
def chunkWait (s : State) (k : Nat) (store : Bool) (slot : Nat) : State :=
  match s.streamAt k store slot with
  | none => s
  | some x =>
    let d := LsDesc.of x.body
    match chunkHeld x d, d.waitBol with
    | some c, some b =>
      if ¬ s.coreIssues k ∨ ¬ chunkThreshold d c ≤ s.bol k b then s
      else
        let ctx := (s.getCore k).ctx.getD 0
        let now := s.schedAt k ctx
        let s := s.setStream k store slot { x with met := c + 1 }
        match chunkPoint x c with
        | some point =>
          if point < now ∧ s.ctxState ctx ≠ 3 then s.lateEvent k ctx (if store then 4 else 3) 3 point (now - point) else s
        | none => s
    | _, _ => s

/-- The index value of a plane: its number in a LINEAR stream (R141). -/
def planeValue (x : Stream) (d : LsDesc) (j : Nat) : Option Nat :=
  if d.indexed then (x.index.find? fun e => e.1 = j).map (·.2) else some (x.p0 + j)

/-- The external address of a stream's next row part. -/
def nextExt (x : Stream) (d : LsDesc) (store : Bool) (xp : Nat) : Int :=
  if store ∧ 3 ≤ x.op then d.targetAt (x.req = 1) xp x.row else d.extAt (x.req = 1) xp x.row

/-- A stream that could request a line now (R138, R139, R142, R147); a skipped plane requests none. -/
def lineAble (s : State) (k : Nat) (x : Stream) : Bool :=
  let d := LsDesc.of x.body
  s.coreIssues k && !x.halted && decide (x.plane < x.n) && chunkOpen x d (x.plane / d.chunk)
    && (match planeValue x d x.plane with
        | some v => !(d.indexed && v = 2 ^ 32 - 1)
        | none => false)

/-- The slot whose turn it is (R137). -/
def turnOf (s : State) (k : Nat) (store : Bool) : Option Nat :=
  let e := if store then 1 else 0
  let last := Tab.get 3 (s.getCore k).lastSlot e
  ((List.range 4).map fun i => (last + 1 + i) % 4).find? fun i =>
    match s.streamAt k store i with
    | some x => s.lineAble k x
    | none => false

/-- The place after a line (R141). -/
def stepLine (x : Stream) (d : LsDesc) (count : Nat) : Stream :=
  if x.line + 1 < count then { x with line := x.line + 1, part := [], sent := 0 }
  else if x.req = 1 then { x with line := 0, req := 0, part := [], sent := 0 }
  else
    let first := if d.aux then 1 else 0
    if x.row + 1 < d.rows then { x with line := 0, req := first, row := x.row + 1, part := [], sent := 0 }
    else { x with line := 0, req := first, row := 0, plane := x.plane + 1, part := [], sent := 0 }

/-- The place after a skipped plane (R142). -/
def stepPlane (x : Stream) (d : LsDesc) : Stream :=
  { x with line := 0, req := if d.aux then 1 else 0, row := 0, plane := x.plane + 1 }

/-- A stream halts at its place; STREAM_STATE tells the cause, and the request that was refused (R155, R158). -/
def haltStream (s : State) (k : Nat) (store : Bool) (slot : Nat) (x : Stream) (cause : Nat) : State :=
  s.setStream k store slot { x with halted := true, cause := cause }

/-- A translation of a stream is refused (R155, R156, R302). -/
def lineRefused (s : State) (k c : Nat) (store : Bool) (slot : Nat) (x : Stream) (va : Nat) : Trans → State
  | .absent =>
    let s := s.haltStream k store slot x 1
    let s := s.wr64 (coreP k + 0x64) va
    let s := if s.ctxState c = 2 then s.wr (ctxP c + 0x68) (word k) else s
    (s.raise (ctxP c) 0x910 0 (some c)).holdCtx c (s.schedAt k c)
  | .refused code => (s.haltStream k store slot x 1).ctxFatal c code
  | .ok _ => s

/-- A translated request leaves the core: to its region's Basin, or to another member (R255, R397). -/
def memRequest (s : State) (r : LineReq) : State :=
  if r.pa / 2 ^ 40 ≠ 0 then (if r.store then s.gateWrite r else s.sendRemote r [r])
  else s.inject (.line r) (.mem r.core) (.basin r.region) 2 (if r.store then flitsOf r.len else 1)

/-- Bank of a berth address (R113); BANK_MODE has a bit per berth. -/
def foldBank (nb : Nat) : Nat → Nat → Nat
  | 0, _ => 0
  | n + 1, x => if x = 0 then 0 else (x % nb) ^^^ foldBank nb n (x / nb)
def bankOf (s : State) (k berth a : Nat) : Nat :=
  let nb := Build.banks berth
  if bitOf (s.rd (coreP k + 0x40)) berth then a / 64 % nb else foldBank nb 8 (a / 64)

/-- A streaming port has moved its four words of this region cycle, or a bank conflict has stopped it (R115). -/
def portShut (s : State) (k port : Nat) : Bool :=
  let (rc, used, hit) := Tab.get (0, [], false) (s.getCore k).port port
  rc = s.coreRc k && (hit || decide (4 ≤ used.length))

/-- The bank word at `a` passes a streaming port in this region cycle, or waits for the next (R115, R136). -/
def portWord (s : State) (k port berth a : Nat) : Bool × State :=
  let now := s.coreRc k
  let (rc, used, hit) := Tab.get (0, [], false) (s.getCore k).port port
  let used := if rc = now then used else []
  let bank := s.bankOf k berth a
  if s.portShut k port then (false, s)
  else if used.contains bank then
    (false, (s.count (cnt k 18) 1).modCore k fun x => { x with port := Tab.put x.port port (now, used, true) })
  else (true, s.modCore k fun x => { x with port := Tab.put x.port port (now, used ++ [bank], hit && rc = now) })

/-- Why a port's transfer ends before its last word: the next word waits, lies in a gated segment, or has a double-bit
error. -/
inductive PortStop where
  | none | waits
  | gated (a : Nat)
  | bad (a : Nat)
  deriving DecidableEq, Repr

/-- What the checkers find in the bank word `[a, a + n)`: the address of a double-bit error, and whether a single-bit error
was corrected (R122). A write reads only ECC words that it does not cover. -/
def wordUpset (up : Upset) (berth a n : Nat) (read : Bool) : Option Nat × Bool :=
  let meets := fun (b x : Nat) => b = berth && decide (a / 8 * 8 ≤ x) && decide (x < (a + n + 7) / 8 * 8)
    && (read || decide (x < (a + 7) / 8 * 8) || decide ((a + n) / 8 * 8 ≤ x))
  match up with
  | .berthUe b x => (if meets b x then some x else Option.none, false)
  | .berthCe b x => (Option.none, meets b x)
  | _ => (Option.none, false)

/-- Bytes `[a, a + n)` pass a streaming port word by word as far as they can in this region cycle (R115, R120, R122): how
many have, and why no more. -/
def portMove (k port berth : Nat) (read : Bool) (up : Upset) : Nat → Nat → Nat → State → Nat × PortStop × State
  | 0, _, _, s => (0, .none, s)
  | w + 1, a, n, s =>
    if n = 0 then (0, .none, s)
    else
      let m := min n (64 - a % 64)
      match s.gatedAt k berth a m with
      | some g => (0, .gated g, s)
      | none =>
        let u := wordUpset up berth a m read
        match u.1 with
        | some x => (0, .bad x, s)
        | none =>
          let (free, s) := s.portWord k port berth a
          if ¬ free then (0, .waits, s)
          else
            let s := if u.2 then s.berthCe k else s
            let r := portMove k port berth read up w (a + m) (n - m) s
            (m + r.1, r.2)

/-- Bank words enough for a line. -/
def wordsOf (a n : Nat) : Nat := (a + n + 63) / 64 - a / 64

/-- A stream stops at a word that lies in a gated segment or has a double-bit error (R120, R122, R159). -/
def wordFault (s : State) (k : Nat) (store : Bool) (slot berth : Nat) (x : Stream) : PortStop → State
  | .gated g => (s.haltStream k store slot x 2).gatedFault k berth g (if store then 3 else 2)
  | .bad a => (s.haltStream k store slot x 2).coreFault k 0x231 (s.berthInfo berth a (if store then 3 else 2))
  | _ => s

/-- The rows of a skipped plane are written with zeros, as far as the port moves them in this region cycle (R142). -/
def zeroStep (s : State) (k slot : Nat) (x : Stream) (d : LsDesc) : State :=
  match x.zeros with
  | [] => s.setStream k false slot (stepPlane x d)
  | (a, n) :: l =>
    let (m, stop, s) := portMove k d.berth d.berth false .none (wordsOf a n) a n s
    let s := s.berthWrite k d.berth a (List.replicate m 0)
    let rest := if m < n then (a + m, n - m) :: l else l
    let x := { x with zeros := rest }
    match stop with
    | .none | .waits => s.setStream k false slot (if rest.isEmpty then stepPlane x d else x)
    | e => s.wordFault k false slot d.berth x e

/-- The berth rows of a plane. -/
def planeRows (x : Stream) (d : LsDesc) : List (Nat × Nat) :=
  ((d.rowList x.n).filter fun r => r.2.1 = x.plane).map fun r =>
    ((d.berthAt r.1 x.p0 r.2.1 r.2.2).toNat, d.rowLen r.1)

/-- A skipped plane (R142): a gather zeroes its berth rows, a scatter does nothing. -/
def skipPlane (s : State) (k : Nat) (store : Bool) (slot : Nat) (x : Stream) (d : LsDesc) : State :=
  if store then s.setStream k store slot (stepPlane x d)
  else s.zeroStep k slot (if x.zeros.isEmpty then { x with zeros := planeRows x d } else x) d

/-- Words of a line that a neighbour link takes in this region cycle, from byte `from_` of the line at `a`: 64 bytes, up to
the next boundary of the target's words, while its credit loop of 16 words has room (R149). -/
def linkPiece (s : State) (k t a len from_ : Nat) : Nat :=
  if 16 ≤ s.linkWords k t then 0 else min (len - from_) (64 - (a + from_) % 64)

/-- A line of a store engine's stream is read from its berth through the port (R115, R143): the stream with what has come,
and why it is not whole. A line that is whole is not read again. -/
def readLine (s : State) (k : Nat) (x : Stream) (d : LsDesc) (a n : Nat) (up : Upset) : Stream × PortStop × State :=
  let from_ := x.part.length
  let (m, stop, s) := portMove k (3 + d.berth) d.berth true up (wordsOf (a + from_) (n - from_)) (a + from_) (n - from_) s
  ({ x with part := x.part ++ s.berthRead k d.berth (a + from_) m }, stop, s)

/-- The bytes of a posted line that have been read and not sent leave for the target: over the neighbour link one word, over
the Channel the line; `all` of them where the line breaks off (R149, R150, R160). -/
def postLine (s : State) (k t berth a len : Nat) (all : Bool) (x : Stream) : Stream × State :=
  let ready := x.part.length - x.sent
  let n := if x.link && !all then min ready (s.linkPiece k t a len x.sent) else ready
  let n := if !x.link && !all && decide (x.part.length < len) then 0 else n
  let n := if x.link && !all && decide (n < s.linkPiece k t a len x.sent) then 0 else n
  if n = 0 then (x, s)
  else
    let data := (x.part.drop x.sent).take n
    let at_ := a + x.sent
    let s := (s.digestWrite k at_ data).send k t x.link (.words berth at_ data)
    let s := if x.link then s.count (cnt k 21) ((at_ + n - 1) / 64 - at_ / 64 + 1) else s
    ({ x with sent := x.sent + n }, s)

/-- Requests of an engine that are outstanding, its lines and its index words (R138, R263, log 65). -/
def trackers (x : Core) (store : Bool) : Nat :=
  ((slotsOf x store).map fun t => (t.2.outs.map (·.2)).sum + t.2.indexAsked.length).sum

/-- One step of a halo or posted line (R149, R150): words are read, and what is due leaves. -/
def postStep (s : State) (k slot : Nat) (x : Stream) (d : LsDesc) (ext : Int) (ln : Int × Nat) (up : Upset) : State :=
  match x.target with
  | none => s
  | some t =>
    let a := (d.berthAt (x.req = 1) x.p0 x.plane x.row + (ln.1 - ext)).toNat
    let berth := if x.op = 4 then d.xaddr / 2 ^ 32 % 4 else d.berth
    let (x, stop, s) := s.readLine k x d a ln.2 up
    let broken := match stop with
      | .gated _ | .bad _ => true
      | _ => false
    let (x, s) := s.postLine k t berth ln.1.toNat ln.2 broken x
    if broken then s.wordFault k true slot d.berth x stop
    else if x.sent < ln.2 then s.setStream k true slot x
    else (s.count (cnt k 20) 1).setStream k true slot (stepLine x d (LsDesc.lineCount (d.rowLen (x.req = 1)) ext))

/-- A request for memory of the stream's next line, at its translated address. -/
def lineFor (s : State) (k c : Nat) (store : Bool) (slot : Nat) (x : Stream) (d : LsDesc) (ext : Int) (ln : Int × Nat)
    (pa : Nat) : LineReq :=
  { id := s.nextId, core := k, store := store, slot := slot, stream := x.stream, chunk := x.plane / d.chunk, ctx := c,
    epoch := s.epoch c, hint := d.hint, pa := pa, len := ln.2, berth := d.berth,
    baddr := (d.berthAt (x.req = 1) x.p0 x.plane x.row + (ln.1 - ext)).toNat, region := s.regionOf k }

/-- A line of the stream leaves for memory: one more of its chunk is outstanding. -/
def lineLeaves (s : State) (k : Nat) (store : Bool) (slot : Nat) (x : Stream) (r : LineReq) (next : Stream) : State :=
  let s := { s with nextId := s.nextId + 1 }
  let s := if store then s.modCore k fun y => { y with acks := y.acks ++ [r.id] } else s
  (s.memRequest r).setStream k store slot
    { next with outs := Tab.put x.outs r.chunk (Tab.get 0 x.outs r.chunk + 1) }

/-- A stored line is read and, once it is whole, sent; where it breaks off, the words before leave (R120, R122, R143). -/
def storeStep (s : State) (k slot : Nat) (x : Stream) (d : LsDesc) (ext : Int) (ln : Int × Nat) (r : LineReq) (up : Upset) :
    State :=
  let (x, stop, s) := s.readLine k x d r.baddr ln.2 up
  let leaves := fun (s : State) (next : Stream) =>
    ((s.count (cnt k 20) 1).digestWrite k ln.1.toNat x.part).lineLeaves k true slot x
      { r with data := x.part, len := x.part.length } next
  match stop with
  | .waits => s.setStream k true slot x
  | .none => leaves s (stepLine x d (LsDesc.lineCount (d.rowLen (x.req = 1)) ext))
  | e =>
    let s := if x.part.isEmpty then s else leaves s x
    s.wordFault k true slot d.berth ((s.streamAt k true slot).getD x) e

/-- One line request of a slot (R138, R139, R141, R142). -/
def lineRequest (s : State) (k : Nat) (store : Bool) (slot : Nat) (up : Upset) : State :=
  let e := if store then 1 else 0
  let now := s.coreRc k
  match s.streamAt k store slot, (s.getCore k).ctx with
  | some x, some c =>
    let d := LsDesc.of x.body
    let skips := d.indexed && planeValue x d x.plane = some (2 ^ 32 - 1)
    if skips ∧ s.coreIssues k ∧ ¬ x.halted ∧ x.plane < x.n ∧ chunkOpen x d (x.plane / d.chunk) then s.skipPlane k store slot x d
    else if s.turnOf k store ≠ some slot ∨ ((s.getCore k).lineRc.any fun t => t.1 = e && t.2 = now)
        ∨ 512 ≤ trackers (s.getCore k) store then s
    else
      let s := s.modCore k fun y =>
        { y with lineRc := Tab.put y.lineRc e now, lastSlot := Tab.put y.lastSlot e slot }
      match planeValue x d x.plane with
      | none => s
      | some xp =>
        let len := d.rowLen (x.req = 1)
        let ext := nextExt x d store xp
        let ln := LsDesc.lineAt len ext x.line
        if store ∧ 3 ≤ x.op then s.postStep k slot x d ext ln up
        else
          let (tr, s) := if ln.1 < 0 then (Trans.refused 0x911, s) else s.translate c ln.1.toNat store
          match tr with
          | .ok pa =>
            let r := s.lineFor k c store slot x d ext ln pa
            if store ∧ 2 ^ 40 ≤ pa ∧ s.gateFull k then s
            else if store then s.storeStep k slot x d ext ln r up
            else s.lineLeaves k false slot x r (stepLine x d (LsDesc.lineCount len ext))
          | t => s.lineRefused k c store slot x ln.1.toNat t
  | _, _ => s

/-- An index value is taken into its stream; one at or above IDX_LIMIT other than skip is core fault 0x244 (R142). -/
def putIndex (s : State) (k : Nat) (store : Bool) (slot : Nat) (x : Stream) (j v : Nat) : State :=
  let d := LsDesc.of x.body
  if v ≠ 2 ^ 32 - 1 ∧ d.idxLimit ≤ v then
    (s.haltStream k store slot { x with idxHalt := true } 2).coreFault k 0x244 (lsInfo store slot 0 x.desc (x.p0 + j))
  else s.setStream k store slot { x with index := Tab.put x.index j v, indexAsked := x.indexAsked.filter (· ≠ j) }

/-- The next index word of an INDEXED stream: read from AB at once, or requested from memory with hint NORMAL
(R142). -/
def indexWord (s : State) (k : Nat) (store : Bool) (slot : Nat) (up : Upset) : State :=
  match s.streamAt k store slot, (s.getCore k).ctx with
  | some x, some c =>
    let d := LsDesc.of x.body
    let next := ((List.range (x.n - x.plane)).map (· + x.plane)).find? fun j =>
      (planeValue x d j).isNone && !x.indexAsked.contains j
    if ¬ d.indexed ∨ x.halted ∨ ¬ s.coreIssues k then s
    else match next with
    | none => s
    | some j =>
      let a := d.idxAddr + 4 * (x.p0 + j)
      let halt := { x with idxHalt := true }
      if ¬ d.idxMem then
        if s.build.berthBytes 1 < a + 4 then
          (s.haltStream k store slot halt 2).coreFault k 0x241 (lsInfo store slot 2 x.desc (x.p0 + j))
        else match s.gatedAt k 1 a 4, (wordUpset up 1 a 4 true).1 with
        | some g, _ => s.wordFault k store slot 1 halt (.gated g)
        | none, some b => s.wordFault k store slot 1 halt (.bad b)
        | none, none =>
          let s := if (wordUpset up 1 a 4 true).2 then s.berthCe k else s
          s.putIndex k store slot x j (leNat (s.berthRead k 1 a 4))
      else if 512 ≤ trackers (s.getCore k) store then s
      else
        let (tr, s) := s.translate c a false
        match tr with
        | .ok pa =>
          let (id, s) := s.freshId
          let s := s.setStream k store slot { x with indexAsked := x.indexAsked ++ [j] }
          s.memRequest { id := id, core := k, store := false, slot := slot + (if store then 4 else 0), stream := x.stream,
                         chunk := j, what := 1, ctx := c, epoch := s.epoch c, pa := pa, len := 4, region := s.regionOf k }
        | t => s.lineRefused k c store slot halt a t
  | _, _ => s

/-- The line that is written next: the oldest of those whose port still moves words in this region cycle, in order of
arrival at each port (R115); an index word needs no port. -/
def nextDeposit (s : State) (k : Nat) : Option LineReq :=
  (s.getCore k).arrivals.find? fun r => r.what = 1 || !s.portShut k r.berth

/-- A line that has arrived is written into its berth, as far as the port moves it in this region cycle (R112, R115, R120,
R160), or an index word is taken. -/
def lineDeposit (s : State) (k : Nat) (up : Upset) : State :=
  match s.nextDeposit k with
  | none => s
  | some r =>
    let pop := fun (s : State) => s.modCore k fun x => { x with arrivals := x.arrivals.erase r }
    let store := decide (4 ≤ r.slot)
    let slot := r.slot % 4
    match s.streamAt k store slot with
    | none => pop s
    | some x =>
      if ¬ s.fresh r.ctx r.epoch ∨ x.stream ≠ r.stream then pop s
      else if r.what = 1 then (pop s).putIndex k store slot x r.chunk (leNat r.data)
      else
        let (m, stop, s) := portMove k r.berth r.berth false up (wordsOf r.baddr r.len) r.baddr r.len s
        let s := s.berthWrite k r.berth r.baddr (r.data.take m)
        match stop with
        | .waits =>
          let rest := { r with baddr := r.baddr + m, len := r.len - m, data := r.data.drop m }
          s.modCore k fun y => { y with arrivals := y.arrivals.map fun o => if o = r then rest else o }
        | .none =>
          ((pop s).count (cnt k 19) 1).setStream k store slot
            { x with outs := Tab.put x.outs r.chunk (Tab.get 0 x.outs r.chunk - 1) }
        | e => (pop s).wordFault k store slot r.berth x e

/-- The next chunk of a stream is complete: DONE_BOL, here or at the receiver, and the stream's retirement (R148,
R223). -/
def chunkComplete (s : State) (k : Nat) (store : Bool) (slot : Nat) : State :=
  match s.streamAt k store slot with
  | none => s
  | some x =>
    let d := LsDesc.of x.body
    let total := chunksOf x d
    let c := x.chunks
    if total ≤ c ∨ x.plane < min ((c + 1) * d.chunk) x.n ∨ Tab.get 0 x.outs c ≠ 0 then s
    else
      let x' := { x with chunks := c + 1 }
      let s := s.setStream k store slot x'
      let s := match d.doneBol, x.target with
        | none, _ => s
        | some b, some t => s.send k t x.link (.add b 1 true)
        | some b, none =>
          (s.bolQueue k ⟨b, false, 1, 3, (s.getCore k).mindex⟩).count (cnt k 28) 1
      if c + 1 = total then s.streamRetire k store slot x' else s

/-! Arrivals at a core. -/

/-- The first message of one source and path, once it has been delivered, taken from the inbox (R149, R234). -/
def takeMsg (s : State) (k src : Nat) (link : Bool) : Option (Msg × State) :=
  let l := (s.getCore k).inbox
  match l.find? fun m => m.src = src && m.neighbour == link with
  | none => none
  | some m =>
    if link ∧ (s.coreRc src < m.rc ∨ s.instant < m.after) then none
    else some (m, s.modCore k fun x => { x with inbox := l.erase m })

/-- The other member of a pair has raised the same remote-write fault at the same stamp: R68 applies (R120). -/
def twinFaulted (s : State) (k : Nat) (info : Word) : Bool :=
  match (s.getCore k).ctx with
  | none => false
  | some c =>
    (s.getCtx c).detach = some (1 - s.sideOf k, s.clk.tide) && s.core.any fun e =>
      e.2.ctx = some c && e.2.mindex = (s.getCore k).mindex && s.sideOf e.1 ≠ s.sideOf k && e.2.state = 2
        && fieldOf (s.rd (coreP e.1 + oFCODE)) 11 0 = 0x230 && s.rd (coreP e.1 + oFINFO) = info

/-- A line of a halo or posted write is written as far as the port moves it in this region cycle, gating checked (R120,
R150). -/
def remoteWords (s : State) (k src : Nat) (link : Bool) (up : Upset) : State :=
  match s.takeMsg k src link with
  | some (⟨_, sender, _, .words berth a data, rc, after⟩, s') =>
    match s.gatedAt k berth a data.length with
    | some g => let info := s.berthInfo berth g 4; s'.coreFault k 0x230 info (s.twinFaulted k info)
    | none =>
      let (m, stop, s2) := portMove k berth berth false up (wordsOf a data.length) a data.length s'
      let s2 := s2.berthWrite k berth a (data.take m)
      match stop with
      | .none => s2
      | .bad x => s2.coreFault k 0x231 (s.berthInfo berth x 4)
      | _ => s2.modCore k fun x =>
          { x with inbox := ⟨src, sender, link, .words berth (a + m) (data.drop m), rc, after⟩ :: x.inbox }
  | _ => s

/-- A signal or DONE add arrives behind its data (R230, R234, R249). -/
def remoteAdd (s : State) (k src : Nat) (link : Bool) : State :=
  match s.takeMsg k src link with
  | some (⟨_, sender, _, .add b n done, _, _⟩, s') =>
    (s'.bolQueue k ⟨b, false, n, if done then 3 else 2, sender⟩).count (cnt k 28) 1
  | _ => s

end State

/-- `ld.stream` (R143). -/
def execLdStream (core : Nat) (up : Upset) (s : State) : Out :=
  actCore core (core < s.build.physCores) (State.lsIssue false (· == 1) core up) s

/-- `ld.gather` (R142, R143). -/
def execLdGather (core : Nat) (up : Upset) (s : State) : Out :=
  actCore core (core < s.build.physCores) (State.lsIssue false (· == 2) core up) s

/-- `st.stream` (R143). -/
def execStStream (core : Nat) (up : Upset) (s : State) : Out :=
  actCore core (core < s.build.physCores) (State.lsIssue true (· == 1) core up) s

/-- `st.scatter` (R142, R143). -/
def execStScatter (core : Nat) (up : Upset) (s : State) : Out :=
  actCore core (core < s.build.physCores) (State.lsIssue true (· == 2) core up) s

/-- `st.halo` (R149). -/
def execStHalo (core : Nat) (up : Upset) (s : State) : Out :=
  actCore core (core < s.build.physCores) (State.lsIssue true (· == 3) core up) s

/-- `st.post` (R150). -/
def execStPost (core : Nat) (up : Upset) (s : State) : Out :=
  actCore core (core < s.build.physCores) (State.lsIssue true (· == 4) core up) s

/-- A slot becomes free and the waiting entry takes it (R137). -/
def execStreamSlotFree (core : Nat) (store : Bool) (up : Upset) (s : State) : Out :=
  actCore core (core < s.build.physCores) (State.lsIssue store (fun _ => true) core up) s

/-- The wait of a chunk is met (R147). -/
def execChunkWaitMet (core : Nat) (store : Bool) (slot : Nat) (s : State) : Out :=
  actCore core (core < s.build.physCores && slot < 4) (fun s => s.chunkWait core store slot) s

/-- One line request (R138, R139). -/
def execLineRequest (core : Nat) (store : Bool) (slot : Nat) (up : Upset) (s : State) : Out :=
  actCore core (core < s.build.physCores && slot < 4) (fun s => s.lineRequest core store slot up) s

/-- An index word is read ahead (R142). -/
def execIndexWordRead (a : AtCore) (store : Bool) (slot : Nat) (s : State) : Out :=
  actCore a.core (a.core < s.build.physCores && slot < 4) (fun s => s.indexWord a.core store slot a.up) s

/-- A line that has arrived is deposited (R138). -/
def execLineDeposit (a : AtCore) (s : State) : Out :=
  actCore a.core (a.core < s.build.physCores) (fun s => s.lineDeposit a.core a.up) s

/-- A chunk completes (R148). -/
def execChunkComplete (core : Nat) (store : Bool) (slot : Nat) (s : State) : Out :=
  actCore core (core < s.build.physCores && slot < 4) (fun s => s.chunkComplete core store slot) s

/-- Halo words arrive over a neighbour link (R149). -/
def execHaloDelivery (a : AtCore) (src : Nat) (s : State) : Out :=
  actCore a.core (a.core < s.build.physCores && src < s.build.physCores) (fun s => s.remoteWords a.core src true a.up) s

/-- A posted write arrives (R150). -/
def execPostWriteArrival (a : AtCore) (src : Nat) (s : State) : Out :=
  actCore a.core (a.core < s.build.physCores && src < s.build.physCores) (fun s => s.remoteWords a.core src false a.up) s

/-- A remote add arrives: `sy.signal`, or the DONE add of a halo or post (R230, R234). -/
def execSignalArrival (core src : Nat) (neighbour : Bool) (s : State) : Out :=
  actCore core (core < s.build.physCores && src < s.build.physCores) (fun s => s.remoteAdd core src neighbour) s

end Sys2Proof.Machine
end

