-- ==== Sys2Proof/Machine/Window.lean ====
section
/-! DEFINITION. Access to the register window: who may write what (R449, R450, R459 to R461), pages that do not answer
(R9, R338, R374, R477), pairs of words (R454), and the selectors each party holds (R455). -/

namespace Sys2Proof.Machine

/-- A party as a number: host 0, Crew firmware 1, Pilot 2. -/
def partyNo : Party → Nat
  | .host => 0
  | .crew => 1
  | .pilot => 2

/-- The parties of a Writers column. -/
def wHP : List Party := [.host, .pilot]
def wHCP : List Party := [.host, .crew, .pilot]
def wCP : List Party := [.crew, .pilot]
def wHC : List Party := [.host, .crew]

/-- What a register of a page is for software: nothing assigned, read-only, or written by these parties. -/
inductive RegKind where
  | none_
  | ro
  | rw (writers : List Party)
  deriving DecidableEq, Repr

/-- Offset `o` lies in `[a, b]` and is one of its words. -/
def inWords (o a b : Nat) : Bool := decide (a ≤ o) && decide (o ≤ b) && o % 4 = 0

/-- The header's registers (R451); CTRL and STATUS belong to the page. -/
def headerKind (o : Nat) : RegKind :=
  if o = 0x000 ∨ o = 0x004 ∨ o = 0x00C ∨ o = 0x020 ∨ o = 0x024 then .ro
  else if o = oACCESS then .rw wHP
  else if o = oEVENT ∨ o = oMASK ∨ o = oCOMMIT ∨ o = oCTIDE ∨ o = 0x030 then .rw wHCP
  else .none_

/-- The registers of the catalogues (R464 to R476): by page type code and offset. -/
def regKind (code o : Nat) : RegKind :=
  if o < 0x034 ∧ o ≠ oCTRL ∧ o ≠ oSTATUS then headerKind o
  else match code with
  | 0x01 =>
    if o = oCTRL then .rw wHP else if o = oSTATUS then .ro
    else if inWords o 0x040 0x04C then .rw wHP else if o = 0x050 then .ro else .none_
  | 0x02 =>
    if inWords o 0x040 0x050 ∨ inWords o 0x054 0x058 ∨ inWords o 0x060 0x06C ∨ inWords o 0x080 0x0AC then .ro else .none_
  | 0x03 => if o = 0x040 then .ro else if o = 0x840 then .rw wHP else .none_
  | 0x04 => if inWords o 0x040 0x048 then .ro else .none_
  | 0x05 =>
    if o = 0x040 then .rw wHCP else if o = 0x048 then .rw wHP
    else if o = 0x044 ∨ o = 0x04C ∨ o = 0x050 ∨ inWords o 0x060 0x08C then .ro else .none_
  | 0x06 =>
    if o = 0x044 then .rw wHCP else if o = 0x058 ∨ o = 0x05C ∨ o = 0x078 then .rw wHP
    else if o = 0x040 ∨ inWords o 0x048 0x054 ∨ inWords o 0x060 0x074 then .ro else .none_
  | 0x07 =>
    if o = oCTRL ∨ inWords o 0x040 0x054 then .rw wHP else if o = oSTATUS then .ro else .none_
  | 0x08 => if o = oSTATUS then .ro else if inWords o 0x080 0x088 then .rw wHP else .none_
  | 0x09 =>
    if o = oCTRL ∨ inWords o 0x040 0x048 then .rw wHP else if o = oSTATUS then .ro else .none_
  | 0x0A =>
    if o = oCTRL ∨ o = 0x040 ∨ inWords o 0x048 0x05C ∨ inWords o 0x080 0x0AC ∨ inWords o 0x0C0 0x0C8 then .rw wHP
    else if o = oSTATUS ∨ o = 0x044 ∨ o = 0x060 ∨ o = 0x064 then .ro else .none_
  | 0x10 =>
    if o = oCTRL ∨ inWords o 0x040 0x060 ∨ o = 0x0B0 then .rw [.host]
    else if o = 0x064 ∨ o = 0x06C ∨ o = 0x088 ∨ o = 0x08C ∨ o = 0x09C ∨ o = 0x0A4 ∨ o = 0x0A8 then .rw wHC
    else if o = 0x0A0 then .rw [.crew]
    else if inWords o 0x0C0 0x0D4 then .rw wHP
    else if o = oSTATUS ∨ o = 0x068 ∨ inWords o 0x070 0x084 ∨ inWords o 0x090 0x098 ∨ o = 0x0AC ∨ o = 0x0B4 ∨ o = 0x0B8
      then .ro else .none_
  | 0x11 =>
    if o = oCTRL ∨ o = 0x040 ∨ inWords o 0x04C 0x070 then .rw [.host]
    else if inWords o 0x080 0x088 then .rw wHP
    else if o = oSTATUS ∨ o = 0x044 ∨ o = 0x048 then .ro else .none_
  | 0x20 =>
    if o = 0x840 then .rw [.pilot] else if inWords o 0x080 0x0A0 then .rw wHP
    else if o = oSTATUS ∨ o = 0x040 ∨ o = 0x044 then .ro else .none_
  | 0x21 =>
    if o = oCTRL ∨ o = oSTATUS ∨ inWords o 0x044 0x04C then .rw wCP
    else if o = 0x840 then .rw [.pilot]
    else if inWords o 0x080 0x09C then .rw wHCP
    else if o = 0x040 then .ro else .none_
  | 0x22 =>
    if o = oCTRL ∨ o = oSTATUS ∨ inWords o 0x040 0x04C ∨ inWords o 0x850 0x858 ∨ o = 0x080 ∨ o = 0x084 then .rw wHP
    else if inWords o 0x050 0x058 then .ro else .none_
  | 0x30 =>
    if o = 0x040 ∨ o = 0x044 ∨ o = 0x050 ∨ o = 0x084 ∨ o = 0x088 ∨ inWords o 0x200 0x2FC ∨ o = 0x844 then .rw wCP
    else if o = 0x04C then .rw [.pilot]
    else if o = 0x06C ∨ o = 0x070 ∨ o = 0x080 ∨ o = 0x08C ∨ o = 0x090 ∨ inWords o 0x0A0 0x0A8 ∨ inWords o 0x300 0x37C
      then .rw wHCP
    else if inWords o 0x100 0x114 then .rw wHP
    else if o = oSTATUS ∨ o = 0x048 ∨ inWords o 0x054 0x068 ∨ o = 0x074 ∨ o = 0x078 ∨ inWords o 0x0AC 0x0B4
        ∨ inWords o 0x0C0 0x0D4 ∨ inWords o 0x0E0 0x0F4 ∨ inWords o 0x120 0x140 ∨ inWords o 0x180 0x1BC then .ro
    else .none_
  | 0x40 => if inWords o 0x080 0x090 then .rw wHP else if o = 0x040 ∨ o = 0x044 then .ro else .none_
  | 0x41 =>
    if o = oCTRL ∨ o = 0x040 ∨ inWords o 0x080 0x090 then .rw wHP else if o = oSTATUS then .ro else .none_
  | _ => .none_

/-- The page tag of a party (R450, R459): the Pilot's is ALL. -/
def tagOf (code : Nat) : Party → Nat
  | .host => hostTag code
  | .crew => crewTag code
  | .pilot => 3

/-- The page tag lets a party write a register (R459). -/
def mayWrite (code o : Nat) (p : Party) : Bool :=
  match tagOf code p, regKind code o with
  | 3, _ => true
  | 2, .rw l => (l.contains p) || (o = oACCESS && p = .host)
  | _, .rw _ => o = oACCESS && p = .host
  | _, _ => false

namespace State

/-- POWER of a region (R471): 0 OFF, 1 STARTING, 2 ON, 3 WITHDRAWN. -/
def power (s : State) (r : Nat) : Nat := fieldOf (s.rd (regionP r + oSTATUS)) 31 30

/-- A page of a region's island whose region is not ON, or is FROZEN, answers only these registers (R477, R481). -/
def dimmed (s : State) (code inst o : Nat) : Bool :=
  let r := if code = 0x30 then s.regionOf inst else inst
  (code = 0x21 || code = 0x30) && (s.power r ≠ 2 || (s.getRegion r).frozen)
    && !([0x000, 0x004, 0x008, 0x020, 0x024, 0x018, 0x01C].contains o || (code = 0x30 && o = oSTATUS))

/-- The window answers at all at an address: the build has the page (R9), the block is neither in reset nor QUIET but
for BOOT (R338, R374), the region's island is on (R477). -/
def answers (s : State) (a : Nat) : Bool :=
  let p := pageOf a
  Build.hasPage s.build p.1 p.2 && (p.1 = 1 || s.awake) && !s.dimmed p.1 p.2 (a % 0x1000)

/-- A write that its page tag refuses (R461). The host and the Pilot are parties 1 and, for the log, none. -/
def refuseWrite (s : State) (p : Party) (a : Nat) : State :=
  let page := if a < 0x800000 then a / 0x1000 * 0x1000 else faultP
  let o := a % 0x1000
  let who := partyNo p + 1
  let v := s.rd (page + oACCESS)
  let s := s.wr (page + oACCESS) (word (o * 2 ^ 20 + who * 2 ^ 18 + min (fieldOf v 15 8 + 1) 255 * 2 ^ 8))
  let s := if page = faultP then s else s.event page 30
  let info := word (who * 2 ^ 12 + o)
  s.logEntry (if a < 0x800000 then page else 0xFFFFF000) 0x630 info none 0

/-- PAGE_SEQ advances at a write that the page accepts (R451). -/
def accept (s : State) (page : Nat) : State := s.wr (page + oSEQ) (s.rd (page + oSEQ) + 1)

/-- A write by a party to a register of the window: `f` is its effect, `none` when the register's own rule refuses it
and 0x600 is recorded (R449, R459 to R461). -/
def write (s : State) (p : Party) (a : Nat) (f : State → Option State) : State :=
  let pg := pageOf a
  let page := a / 0x1000 * 0x1000
  let o := a % 0x1000
  if 0x800000 ≤ a then (if p = .pilot then s else if ¬ s.awake then s else s.refuseWrite p a)
  else if ¬ s.answers a ∨ (pg.1 = 1 ∧ s.inReset) ∨ regKind pg.1 o = .none_ then s
  else if ¬ mayWrite pg.1 o p then s.refuseWrite p a
  else match f s with
    | none => s.configFault page
    | some s' => s'.accept page

/-- The key of a party's own copy of a register. -/
def own (p : Party) (a : Nat) : Nat := partyNo p * 2 ^ 24 + a

/-- A selector or address register as a party holds it (R455). -/
def sel (s : State) (p : Party) (a : Nat) : Word := Tab.get 0 s.select (own p a)
def setSel (s : State) (p : Party) (a : Nat) (v : Word) : State := { s with select := Tab.put s.select (own p a) v }

/-- A write of a _LO register is staged for its party; the value takes effect with the _HI register (R454). -/
def stageLo (s : State) (p : Party) (a : Nat) (v : Word) : State := { s with staged := Tab.put s.staged (own p a) v }

/-- The 64-bit value that a party's write of the _HI register at `a` forms. -/
def formed (s : State) (p : Party) (a : Nat) (hi : Word) : Nat :=
  (Tab.get 0 s.staged (own p (a - 4))).toNat + hi.toNat * 2 ^ 32

/-- What a read returned, by party. -/
def give (s : State) (p : Party) (v : Word) : State := { s with rdata := Tab.put s.rdata (partyNo p) v }

end State

end Sys2Proof.Machine
end

