-- ==== Sys2Proof/Machine/Sync.lean ====
section
/-! DEFINITION. The sync engine, retirement-bound operations, fences and the barrier (R211 to R213, R223, R230 to R245,
R152), block bollards (R236 to R240), and the register writes that touch bollards and breakpoints. -/

namespace Sys2Proof.Machine

namespace State

/-- An operation on a block bollard leaves core `k` for the control complex, in class RT (R238, R258). -/
def bbolLeaves (s : State) (k : Nat) (o : BBolOp) : State := s.inject (.bbol o) (.mem k) .control 0

/-- An operation on a block bollard: at the pair gate in an attached Paired context, else on its way to the control complex
(R238, R361). -/
def bbolSend (s : State) (k c i : Nat) (sub : Bool) (amount : Nat) : State :=
  let a := s.bbolAbs c i
  let (id, s) := s.freshId
  let s := s.modCore k fun x => { x with acks := x.acks ++ [id] }
  let s := s.digestWrite k a (leBytes 4 amount)
  if (s.getCtx c).paired ∧ s.pairState c = 1 then
    s.modCtx c fun y => { y with gate := y.gate ++ [⟨(s.getCore k).mindex, s.sideOf k, 3, none, some (a, sub, amount), k, id⟩] }
  else s.bbolLeaves k ⟨a, sub, amount, false, 0, (s.getCore k).mindex, [(k, id)]⟩

/-- `sy.arrive`: the arrival awaits its acknowledgement (R152, R242). -/
def syArrival (s : State) (k c : Nat) : State :=
  let (id, s) := s.freshId
  (s.modCore k fun x => { x with acks := x.acks ++ [id] }).sendArrival c k id

/-- A sync operation takes place: from an SY entry (SOURCE 0) or bound to a retirement (SOURCE 1). -/
def syPerform (s : State) (k c source : Nat) (w : DWord) : State :=
  let v := fieldOf w 31 0
  let op := opOf w
  if op = 2 ∨ op = 3 then
    if bitOf w 50 then s.bbolSend k c (fieldOf w 49 38) (op = 3) v
    else (s.bolQueue k ⟨fieldOf w 49 38 % 64, op = 3, v, source, (s.getCore k).mindex⟩).count (cnt k 27) 1
  else if op = 4 then
    match s.physOf c (s.sideOf k) (fieldOf w 43 32) with
    | some t => s.send k t false (.add (fieldOf w 49 44) v false)
    | none => s
  else if op = 0x10 then s.syArrival k c
  else s

/-- An operation on a block bollard finds the pair gate full for its core, and waits (R361). -/
def gateWaits (s : State) (k : Nat) (w : DWord) : Bool :=
  (opOf w = 2 || opOf w = 3) && bitOf w 50 && s.gateFull k

/-- A free-standing sync entry issues with its effect and retires as R223 says. -/
def syIssue (op : Nat) (soon : Head → Bool) (k : Nat) (up : Upset) (s : State) : State :=
  match s.readyHead k 5 op with
  | none => s
  | some h =>
    if s.gateWaits k h.word then s
    else s.chartRead k up fun s =>
      let s := (s.issued k 5 h).syPerform k h.prog.ctx 0 h.word
      let s := if soon h then s.retireSoon k 5 h else s.retireHead k 5 h
      s.brkIssue k 5 h

/-- `sy.fence` issues: it awaits the store entries, acknowledgements and messages before it (R242). -/
def fenceIssue (s : State) (k : Nat) (h : Head) : State :=
  let (id, s) := s.freshId
  let x := s.getCore k
  let f : Fence := { id := id, inst := h.inst, stream := h.num, stamp := h.stamp, tag := h.bundle.tag, line := h.bundle.line,
                     stores := x.stores.map fun e => e.2.inst, acks := x.acks, probes := [] }
  (s.modCore k fun x => { x with fences := x.fences ++ [f] }).fenceProbes k

/-- A fence awaits nothing any more. -/
def fenceReady (x : Core) (f : Fence) : Bool :=
  f.probed && f.probes.isEmpty && !(x.stores.any fun e => f.stores.contains e.2.inst) && f.acks.all fun a => !x.acks.contains a

/-- The first fence that is ready completes: attached entries may issue, and its entry retires (R212, R223, R242). -/
def fenceDone (s : State) (k : Nat) : State :=
  let x := s.getCore k
  match x.fences.find? (fenceReady x) with
  | none => s
  | some f =>
    let s := s.modCore k fun x => { x with fences := x.fences.filter fun g => g.id ≠ f.id }
    let s := s.modProg k f.stream fun p => { p with fenced := p.fenced ++ [f.inst] }
    s.retire k 5 f.stream f.inst f.tag f.line f.stamp

/-- A fence probe reaches its target behind everything sent before it, and is answered over the Channel (R242). -/
def probeAnswer (s : State) (k src : Nat) : State :=
  let head := fun (link : Bool) => (s.getCore k).inbox.find? fun m => m.src = src && m.neighbour == link
  let isProbe := fun (m : Option Msg) => match m with
    | some ⟨_, _, _, .probe _, _, _⟩ => true
    | _ => false
  let link := !isProbe (head false)
  match s.takeMsg k src link with
  | some (⟨_, _, _, .probe f, _, _⟩, s) => s.inject (.probed f k link) (.core k) (.core src) 3
  | _ => s

/-- The digests of the twins of a Paired context agree (R362). -/
def digestsAgree (s : State) (c : Nat) : Bool :=
  let l := s.coresOf c
  l.all fun k => l.all fun j =>
    (s.getCore k).mindex ≠ (s.getCore j).mindex || s.sideOf k = s.sideOf j || (s.getCore k).digest = (s.getCore j).digest

/-- Core bollards that the streams of a core name (R362); the others are dead. -/
def liveBollards (x : Core) : List Nat :=
  let ofProg := fun (p : Prog) =>
    (p.bundles.filterMap fun b => b.slot 5).filterMap (fun w =>
      if (opOf w = 1 ∨ opOf w = 2 ∨ opOf w = 3) ∧ ¬ bitOf w 50 then some (fieldOf w 49 38)
      else if opOf w = 4 then some (fieldOf w 49 44) else none)
    ++ ((List.range (p.lsd.length / 128)).flatMap fun i =>
        let d := LsDesc.of ((p.lsd.drop (128 * i)).take 128)
        d.waitBol.toList ++ d.doneBol.toList)
    ++ (if p.barrierBol < 64 then [p.barrierBol] else [])
  let l := x.progs.flatMap fun p => ofProg (State.fillProg x p.2)
  (List.range 64).filter fun b => l.contains b

/-- A comparison point (R362): the live bollards are folded in, then the twins' digests are compared; a difference is
0x961. -/
def comparePoint (s : State) (c : Nat) : State :=
  if ¬ ((s.getCtx c).paired ∧ s.pairState c = 1) then s
  else
    let named := fun (k b : Nat) => (s.getCtx c).legs.any fun g => g.inits.any fun i => decide (i.1 = k) && decide (i.2.1 = b)
    let live := fun (k : Nat) => (List.range 64).filter fun b => (liveBollards (s.getCore k)).contains b || named k b
    let s := (s.coresOf c).foldl (fun s k =>
      (live k).foldl (fun s b =>
        s.modCore k fun x => { x with digest := crc64More x.digest (leBytes 4 (s.bol k b)) }) s) s
    if s.digestsAgree c then s
    else s.ctxFatal c 0x961 (word (4 * 2 ^ 12 + 0xFFF))

/-- The barrier releases when all its cores have arrived (R152, R153): the release leaves the control complex for the region
controllers of the context, each of which broadcasts it, and a new generation begins. -/
def barrierRelease (s : State) (c : Nat) : State :=
  let x := s.getCtx c
  if x.barrierCount = 0 ∨ x.barrierIn.length < x.barrierCount ∨ s.ctxState c ≠ 2 then s
  else
    let s := s.modCtx c fun x => { x with barrierIn := x.barrierIn.drop x.barrierCount }
    let leg := (x.legs.filter fun g => g.begun).getLast?
    let prog := (leg.bind fun g => g.cores.head?).bind fun e => s.prog? e.1 e.2
    let bol := prog.elim 0xFF fun (p : Prog) => p.barrierBol
    let s := if bol < 64 then x.regions.foldl (fun s r => s.inject (.release c bol) .control (.gateway r) 0) s else s
    s.comparePoint c

/-- A release has reached a core: one add to its barrier bollard (R152). -/
def releaseAt (s : State) (k c bol : Nat) : State :=
  if (s.getCore k).ctx = some c then (s.bolQueue k ⟨bol, false, 1, 4, 0xFFF⟩).count (cnt k 28) 1 else s

/-- An arrival has reached the barrier unit, which acknowledges that of a sync engine (R152, R242). -/
def arriveBarrier (s : State) (c k id : Nat) : State :=
  let s := s.modCtx c fun x => { x with barrierIn := x.barrierIn ++ [k] }
  if id = 0 then s else s.inject (.acked k id) .control (.mem k) 1

/-- The context that holds a block bollard (R236). -/
def bbolOwner (s : State) (a : Nat) : Option Nat :=
  (List.range 16).find? fun c =>
    decide ((s.rd (ctxP c + 0x90)).toNat ≤ a) && decide (a < (s.rd (ctxP c + 0x90)).toNat + (s.rd (ctxP c + 0x94)).toNat)

/-- The present value of a block bollard leaves for every core that watches it (R238). -/
def bbolCopies (s : State) (a : Nat) : State :=
  (s.core.filter fun e => e.2.watched.any fun w => w.1 = a).foldl
    (fun s e => s.inject (.copy e.1 a (word (s.bbolVal a))) .control (.mem e.1) 0) s

/-- All operations of one tick on one block bollard as one step (R231, R238 to R240). With a Crew write of BBOL_VALUE among
them the value is what it wrote and the net change of the others, and nothing is raised (R232, R239). -/
def bbolStep (s : State) (a : Nat) (l : List BBolOp) : State :=
  let ops := l.filter fun o => !o.set
  let adds := ops.filter fun o => !o.sub
  let subs := ops.filter fun o => o.sub
  let sum := (adds.map (·.amount)).sum
  let dn := (subs.map (·.amount)).sum
  let acked := fun (s : State) =>
    (l.foldl (fun s o => o.ack.foldl (fun s e => s.inject (.acked e.1 e.2) .control (.mem e.1) 1) s) s).bbolCopies a
  match (l.filter fun o => o.set).getLast? with
  | some o => acked { s with bbol := Tab.put s.bbol a (word (min (o.amount + sum - dn) (2 ^ 32 - 1))) }
  | none =>
    let up := s.bbolVal a + sum
    let v1 := min up (2 ^ 32 - 1)
    let s := acked { s with bbol := Tab.put s.bbol a (word (v1 - dn)) }
    let fail := fun (s : State) (sub : Bool) (o : Option BBolOp) => match o, s.bbolOwner a with
      | some o, some c =>
        s.ctxFatal c 0x930 (word (sub.toNat * 2 ^ 31 + o.source * 2 ^ 28 + a % 2 ^ 12 * 2 ^ 12 + o.core % 2 ^ 12))
      | _, _ => s
    let s := if up > 2 ^ 32 - 1 then fail s false adds.head? else s
    if dn > v1 then fail s true subs.head? else s

/-- The operations of the tick, bollard by bollard. -/
def bbolFlush (s : State) : State :=
  let l := s.bbolNow
  let s := { s with bbolNow := [] }
  let names := l.foldl (fun n o => if n.contains o.bol then n else n ++ [o.bol]) []
  names.foldl (fun s a => s.bbolStep a (l.filter fun o => o.bol = a)) s

/-- An operation of a party joins the control complex's stream of updates (R239); `none` in `i` when the selection lies
outside the context's range. -/
def bbolIndex (s : State) (p : Party) (c : Nat) : Option Nat :=
  let i := (s.sel p (ctxP c + 0x9C)).toNat
  if i < (s.rd (ctxP c + 0x94)).toNat then some (s.bbolAbs c i) else none

def bbolJoin (s : State) (o : BBolOp) : State := { s with bbolNow := s.bbolNow ++ [o] }

/-- A write of BBOL_ADD or BBOL_SUB (R239). -/
def wrBbolOp (p : Party) (c : Nat) (sub : Bool) (v : Word) (s : State) : Option State :=
  (s.bbolIndex p c).map fun a => s.bbolJoin ⟨a, sub, v.toNat, false, partyNo p + 1, 0xFFF, []⟩

/-- A write of BBOL_VALUE by Crew firmware (R239). -/
def wrBbolValue (p : Party) (c : Nat) (v : Word) (s : State) : Option State :=
  (s.bbolIndex p c).map fun a => s.bbolJoin ⟨a, false, v.toNat, true, partyNo p + 1, 0xFFF, []⟩

/-- A software write of a core bollard joins the updates of its region cycle (R232). -/
def wrBol (k b : Nat) (v : Word) (s : State) : Option State := some (s.bolQueue k ⟨b, false, v.toNat, bolWritten, 0xFFF⟩)

/-- A write of BRK_CTRL: MODE, ENGINE, NEED_BREAK and ACTION are stored, HIT clears by a 1, ARM arms from the next
region cycle (R246). -/
def wrBrk (k : Nat) (v : Word) (s : State) : Option State :=
  let a := coreP k + 0xA0
  let old := s.rd a
  let hit := bitOf old 24 && !bitOf v 24
  let arm := bitOf old 0 || bitOf v 0
  let s := s.wr a (word (fieldOf v 31 25 * 2 ^ 25 + hit.toNat * 2 ^ 24 + arm.toNat))
  some (if bitOf v 0 then s.modCore k fun x => { x with brkRc := s.coreRc k } else s)

end State

/-- `sy.wait` without ATTACH (R211, R230). -/
def execSyWait (a : AtCore) (s : State) : Out :=
  actCore a.core (a.core < s.build.physCores) (State.syIssue 1 (fun _ => false) a.core a.up) s

/-- `sy.add` (R230). -/
def execSyAdd (a : AtCore) (s : State) : Out :=
  actCore a.core (a.core < s.build.physCores) (State.syIssue 2 (fun h => !bitOf h.word 50) a.core a.up) s

/-- `sy.sub` (R230). -/
def execSySub (a : AtCore) (s : State) : Out :=
  actCore a.core (a.core < s.build.physCores) (State.syIssue 3 (fun h => !bitOf h.word 50) a.core a.up) s

/-- `sy.signal` (R230, R234). -/
def execSySignal (a : AtCore) (s : State) : Out :=
  actCore a.core (a.core < s.build.physCores) (State.syIssue 4 (fun _ => false) a.core a.up) s

/-- `sy.fence` (R242). -/
def execSyFence (a : AtCore) (s : State) : Out :=
  actCore a.core (a.core < s.build.physCores) (fun s =>
    match s.readyHead a.core 5 8 with
    | none => s
    | some h => s.chartRead a.core a.up fun s => ((s.issued a.core 5 h).fenceIssue a.core h).brkIssue a.core 5 h) s

/-- `sy.arrive` (R152, R230). -/
def execSyArrive (a : AtCore) (s : State) : Out :=
  actCore a.core (a.core < s.build.physCores) (State.syIssue 0x10 (fun _ => false) a.core a.up) s

/-- The first retirement-bound operation whose entries have all retired is performed, in the region cycle after (R212,
R223). -/
def execRetirementBoundOp (core : Nat) (s : State) : Out :=
  actCore core (core < s.build.physCores) (fun s =>
    let x := s.getCore core
    match x.bound.find? fun b => b.awaits.isEmpty && decide (b.rc < s.coreRc core) && !s.gateWaits core b.word, x.ctx with
    | some b, some c => (s.modCore core fun x => { x with bound := x.bound.erase b }).syPerform core c 1 b.word
    | _, _ => s) s

/-- A fence probe arrives (R242). -/
def execFenceProbe (core src : Nat) (s : State) : Out :=
  actCore core (core < s.build.physCores && src < s.build.physCores) (fun s => s.probeAnswer core src) s

/-- A fence completes (R242). -/
def execFenceComplete (core : Nat) (s : State) : Out :=
  actCore core (core < s.build.physCores) (fun s => s.fenceDone core) s

/-- The barrier of a context releases (R152), unless its unit finds an error of its own (R359). -/
def execBarrierRelease (c : AtUnit) (s : State) : Out :=
  actAt (c.index < 16) (fun s => if c.ue then s.controlUe c.index 6 else s.barrierRelease c.index) s

/-- A block-bollard operation reaches the control complex; the tick applies it (R238). -/
def execBlockBollardUpdate (s : State) : Out :=
  act (fun s => match s.bbolIn with
    | [] => s
    | o :: l => ({ s with bbolIn := l }).bbolJoin o) s

/-- A write of BOL_b (R232). -/
def execBolWrite (party : Party) (core b : Nat) (value : Word) (s : State) : Out :=
  actAt (core < 1088 && b < 64) (fun s => s.write party (coreP core + 0x200 + 4 * b) (State.wrBol core b value)) s

/-- A write of BBOL_VALUE (R239). -/
def execBbolValue (party : Party) (ctx : Nat) (value : Word) (s : State) : Out :=
  actAt (ctx < 16) (fun s => s.write party (ctxP ctx + 0xA0) (State.wrBbolValue party ctx value)) s

/-- A write of BBOL_ADD (R239). -/
def execBbolAdd (party : Party) (ctx : Nat) (value : Word) (s : State) : Out :=
  actAt (ctx < 16) (fun s => s.write party (ctxP ctx + 0xA4) (State.wrBbolOp party ctx false value)) s

/-- A write of BBOL_SUB (R239). -/
def execBbolSub (party : Party) (ctx : Nat) (value : Word) (s : State) : Out :=
  actAt (ctx < 16) (fun s => s.write party (ctxP ctx + 0xA8) (State.wrBbolOp party ctx true value)) s

/-- A write of BRK_CTRL (R246). -/
def execBrkArm (party : Party) (core : Nat) (value : Word) (s : State) : Out :=
  actAt (core < 1088) (fun s => s.write party (coreP core + 0xA0) (State.wrBrk core value)) s

end Sys2Proof.Machine
end

