-- ==== Sys2Proof/Machine/Delivery.lean ====
section
/-! DEFINITION. What a packet does at the end of its path (R234, R238, R242, R255), and the discards of the Channel
(R269, R482). -/

namespace Sys2Proof.Machine

namespace State

/-- A request of a core has reached the Basin of its region. -/
def atBasin (s : State) (r : Nat) (q : LineReq) : State :=
  s.modRegion r fun x => { x with requests := x.requests ++ [{ q with came := s.rcOf r }] }

/-- An answer from memory has reached its core; one of another EPOCH is discarded (R325). -/
def atCore (s : State) (q : LineReq) : State :=
  if ¬ s.fresh q.ctx q.epoch then s.count (ctxP q.ctx + 0xC4) 1
  else if q.store then s.storeDone q
  else s.arrive q

/-- The copy of a watched block bollard has come (R238). -/
def copyArrive (s : State) (k a : Nat) (v : Word) : State :=
  s.modCore k fun x => { x with watched := x.watched.map fun w => if w.1 = a then (a, some v) else w }

/-- A slot of another member has left the receive buffers of its port: with the last of its flit a credit is owed (R404). -/
def creditSlot (s : State) (o : OutSlot) : State :=
  match o.via, o.last with
  | some j, true =>
    let x := Tab.get {} s.link j
    { s with link := Tab.put s.link j { x with owed := Tab.put x.owed o.vc (Tab.get 0 x.owed o.vc + 1) } }
  | _, _ => s

/-- A slot of another member waits at the port by which it leaves (R406). -/
def slotArrive (s : State) (o : OutSlot) : State :=
  let s := s.creditSlot o
  { s with convoy := { s.convoy with outbox := s.convoy.outbox ++ [{ o with via := none, last := false }] } }

/-- What the load of a packet does at the end at which it has come. -/
def deliver (s : State) (p : Port) (load : Load) : State :=
  match load with
  | .msg t m => s.modCore t fun x => { x with inbox := x.inbox ++ [m] }
  | .probed f t link => match p with
    | .core k => s.probed k f t link
    | _ => s
  | .line q => match p with
    | .basin r => s.atBasin r q
    | _ => s.atJetty q
  | .data q | .done q => match p with
    | .mem _ => s.atCore q
    | _ => s.foreignDone q
  | .quay id => s.atQuay id
  | .fill id data => s.fillArrive id data
  | .bbol o => { s with bbolIn := s.bbolIn ++ [o] }
  | .acked k id => s.ackCore k id
  | .watch k a => s.inject (.copy k a (word (s.bbolVal a))) .control (.mem k) 1
  | .copy k a v => s.copyArrive k a v
  | .arrive c k id => s.arriveBarrier c k id
  | .release c bol => match p with
    | .gateway r => s.injectAt (.port (.gateway r)) load (.gateway r) (.gateway r) 0 1 0 true
    | .core k => s.releaseAt k c bol
    | _ => s
  | .slot o => s.slotArrive o

/-- The Channel in one step of time: the nodes whose clocks have had a cycle make their grants, what comes to its end takes
effect, what waits at the port of a dark region is discarded, and full locks are counted (R260, R269, R270). -/
def channelCycle (s : State) (was : Tab Nat) : State :=
  if s.net.isEmpty then s
  else
    let passed := fun (r : Nat) => s.rcOf r - Tab.get 0 was r
    let ran := fun (n : Node) => match n.region s.build with
      | some r => decide (0 < passed r)
      | none => decide ((s.instant - 1) * 2 / 5 < s.ctlCycle)
    let (l, s) := s.netCycle ran
    let s := l.foldl (fun s e => s.deliver e.1 e.2.load) s
    (List.range s.build.regions).foldl (fun s r =>
      let s := if s.clocked r then s else s.dropDark r
      if 0 < passed r ∧ s.lockFull r then s.count (regionP r + 0x98) (passed r) else s) s

end State

end Sys2Proof.Machine
end

