-- ==== Sys2Proof/Machine/Parts.lean ====
section
/-! DEFINITION. Chart memory and its scrubber (R226 to R229), berth scrubbing and segments (R117 to R122), the bank
mapping (R116), changes of way use (R128), range operations (R129, R472), the berth window (R475) and error injection
(R81, R467). -/

namespace Sys2Proof.Machine

/-- Bytes `[a, a + n)` of a scratch memory zeroed. -/
def Scratch.zeroRange (m : Scratch) (a n : Nat) : Scratch :=
  if m.gen = 0 then { m with cells := m.cells.filter fun c => c.1 < a || decide (a + n ≤ c.1) }
  else m.putBytes a (List.replicate n 0)

namespace State

/-- A chart-memory word written: its bytes change at once, and what the engines see of it at the end of the region cycle
(R63, R227, R228). -/
def chartWrite (s : State) (k a : Nat) (l : List Byte) : State :=
  s.modCore k fun x => { x with chart := x.chart.putBytes a l, chartOps := x.chartOps ++ [(a, l)] }

/-- The native entry of an engine in a bundle replaced. -/
def putSlot (b : Bundle) (e : Nat) (w : DWord) : Bundle :=
  { b with slots := b.slots.map fun x => if x.1 = e then (e, w) else x }

/-- One section of a chart memory changed. -/
def modSect (x : Core) (i : Nat) (f : ChartSect → ChartSect) : Core :=
  { x with sects := (x.sects.zip (List.range x.sects.length)).map fun e => if e.2 = i then f e.1 else e.1 }

/-- The streams that use a section of a chart memory, changed. -/
def modUsers (x : Core) (i : Nat) (f : Prog → Prog) : Core :=
  match x.sects[i]? with
  | none => x
  | some y =>
    { x with progs := x.progs.map fun p =>
        if y.ctx = p.2.ctx ∧ y.voyage = p.2.voyage ∧ y.leg = p.2.leg ∧ (p.2.sects.any fun e => e.2 = y.idx) then (p.1, f p.2) else p }

/-- What a written word is to the engines from the next region cycle on (R226, log 5). Entries in instruction queues and
snapshots stay as they are (R63, R228); a patch of the launch is overwritten with its word (R217). -/
def chartLand (x : Core) (o : Nat × List Byte) : Core :=
  let v := Config.nativeWord (BitVec.ofNat 64 (leNat o.2))
  match Config.chartPlace x.layout (o.1 / 8) with
  | .other => x
  | .slot i b e =>
    let x := if e = 0 then modUsers x i fun p => { p with imms := p.imms.filter fun m => m.1 ≠ b } else x
    modSect x i fun t =>
      { t with bundles := (t.bundles.zip (List.range t.bundles.length)).map fun z => if z.2 = b then putSlot z.1 e v else z.1 }
  | .table i w =>
    let x := if (x.sects[i]?).any fun y => x.progs.any fun p => p.2.sects.any fun e => e.1 = 4 ∧ e.2 = y.idx then
        modUsers x i fun p => { p with fields := p.fields.filter fun m => m.1 / 8 ≠ w }
      else x
    modSect x i fun t => { t with bytes := patchAt t.bytes (8 * w) (leBytes 8 v.toNat) }

/-- The section of a stream's table of type `t` in chart memory, by its place there. -/
def sectIndex (x : Core) (p : Prog) (t : Nat) : Option Nat :=
  match p.sects.find? fun e => e.1 = t with
  | none => none
  | some e => x.sects.findIdx? fun (y : ChartSect) => y.ctx = p.ctx && y.voyage = p.voyage && y.leg = p.leg && y.idx = e.2

/-- The field of an `mx.setdim` (R65). What its word reads as natively is free again. -/
def dimLand (x : Core) (o : Nat × Nat × Nat × List Byte) : Core :=
  match (x.progs.find? fun p => p.1 = o.1).bind fun p => sectIndex x p.2 2 with
  | none => x
  | some i =>
    let x := modSect x i fun t => { t with bytes := patchAt t.bytes (64 * o.2.1 + o.2.2.1) o.2.2.2 }
    let stale := fun (a : Nat) => Config.chartPlace x.layout (a / 8) = .table i ((64 * o.2.1 + o.2.2.1) / 8)
    { x with chart := { x.chart with cells := x.chart.cells.filter fun c => !stale c.1 } }

/-- The chart-memory writes of the region cycle that has ended, then its `mx.setdim` fields (R63, R65, R220). -/
def chartFlush (s : State) (k : Nat) : State :=
  let x := s.getCore k
  if x.chartOps.isEmpty ∧ x.dimOps.isEmpty then s
  else
    let y := x.dimOps.foldl dimLand (x.chartOps.foldl chartLand x)
    s.setCore k { y with chartOps := [], dimOps := [] }

/-- CHART_ADDR of a party. -/
def chartAddr (s : State) (p : Party) (k : Nat) : Nat := (s.sel p (coreP k + 0x80)).toNat / 8 * 8 % 65536

/-- A write of CHART_DATA_HI (R227). -/
def wrChart (p : Party) (k : Nat) (v : Word) (s : State) : Option State :=
  let a := s.chartAddr p k
  let lo := Tab.get 0 s.staged (own p (coreP k + 0x84))
  some ((s.chartWrite k a (leBytes 4 lo.toNat ++ leBytes 4 v.toNat)).setSel p (coreP k + 0x80) (word ((a + 8) % 65536)))

/-- A read of CHART_DATA_LO: the word's low half, its high half latched (R227). A word with a double-bit error is not
delivered and reads as zeros (R229, log 67). -/
def rdChartLo (p : Party) (k : Nat) (up : Upset) (s : State) : State :=
  if ¬ s.answers (coreP k + 0x84) then s.give p 0
  else
    let a := s.chartAddr p k
    let l := (s.getCore k).chart.bytes a 8
    let out := fun (s : State) (l : List Byte) =>
      let s := { s with latched := Tab.put s.latched (own p (coreP k + 0x88)) (word (leNat (l.drop 4))) }
      s.give p (word (leNat (l.take 4)))
    match up with
    | .chartUe w => out (s.chartUe k 6 w) (List.replicate 8 0)
    | .chartCe _ => out (s.chartCe k) l
    | _ => out s l

/-- The core's clock runs and its island has power. -/
def coreAlive (s : State) (k : Nat) : Bool :=
  let r := s.getRegion (s.regionOf k)
  r.clockOn && !r.frozen && s.power (s.regionOf k) = 2

/-- The bytes of a segment read as zero. -/
def zeroSegment (s : State) (k berth seg : Nat) : State :=
  let z := s.segBytes berth
  s.modCore k fun x => x.setSpace berth ((x.space berth).zeroRange (seg * z) z)

/-- The segments named by a mask in the layout of BERTH_GATE. -/
def segmentsOf (m : Word) : List (Nat × Nat) :=
  ((List.range 24).filter fun i => bitOf m i).map fun i => (i / 8, i % 8)

/-- Segments switched on by a commit are zeroed and report ready, at most 512 tt after the stamp (R117, R119). -/
def segmentReady (s : State) (k : Nat) : State :=
  let m := (s.getCore k).readying
  if m = 0 then s
  else
    let s := (segmentsOf m).foldl (fun s e => s.zeroSegment k e.1 e.2) s
    (s.modCore k fun x => { x with readying := 0 }).orBits (coreP k + 0x48) m

/-- A range of bytes meets a segment of a berth. -/
def meetsSegment (s : State) (berth seg : Nat) (b : Nat) (a : Int) (n : Nat) : Bool :=
  let z := s.segBytes berth
  b = berth && decide (0 < n) && decide (a < ((seg + 1) * z : Nat)) && decide (((seg * z : Nat) : Int) < a + n)

/-- An instruction in an engine touches a segment: by the ranges of its issue check (R67, R101). -/
def runTouches (s : State) (berth seg : Nat) (r : Run) : Bool :=
  (match r.mx with
   | some j =>
     let d := MxDesc.of j.raw
     (List.range d.b).any fun i => (d.ranges (j.b0 + i)).any fun g => s.meetsSegment berth seg g.2.1 g.2.2.1 g.2.2.2.1
   | none => false)
  || (match r.vx with
      | some j => j.plan.ranges.any fun g => s.meetsSegment berth seg g.2.1 g.2.2.1 g.2.2.2.1
      | none => false)

/-- A stream touches a segment: a row of its berth side does, or its index (R141, R142). -/
def streamTouches (s : State) (berth seg : Nat) (x : Stream) : Bool :=
  let d := LsDesc.of x.body
  ((d.rowList x.n).any fun r => s.meetsSegment berth seg d.berth (d.berthAt r.1 x.p0 r.2.1 r.2.2) (d.rowLen r.1))
    || (d.indexed && !d.idxMem && s.meetsSegment berth seg 1 ((d.idxAddr + 4 * x.p0 : Nat) : Int) (4 * x.n))

/-- What a core has issued and not retired that touches a segment: engine, stream and instance (R119). -/
def segmentWork (s : State) (k berth seg : Nat) : List (Nat × Nat × Inst) :=
  let x := s.getCore k
  let runs := fun (e : Nat) (l : List Run) => (l.filter (s.runTouches berth seg)).map fun r => (e, r.stream, r.inst)
  let streams := fun (e : Nat) (l : Tab Stream) => (l.filter fun t => s.streamTouches berth seg t.2).map fun t => (e, t.2.stream, t.2.inst)
  runs 1 x.mx ++ runs 2 x.vx ++ streams 3 x.loads ++ streams 4 x.stores

/-- A piece of work has not retired. -/
def unretired (x : Core) (w : Nat × Nat × Inst) : Bool :=
  let inRuns := fun (l : List Run) => l.any fun r => r.stream = w.2.1 && r.inst = w.2.2
  let inSlots := fun (l : Tab Stream) => l.any fun t => t.2.stream = w.2.1 && t.2.inst = w.2.2
  match w.1 with
  | 1 => inRuns x.mx
  | 2 => inRuns x.vx
  | 3 => inSlots x.loads
  | _ => inSlots x.stores

/-- Segments switched off are powered down once the work that was issued before and touches them has retired (R119). -/
def segmentDown (s : State) (k : Nat) : State :=
  let x := s.getCore k
  let down := x.gating.filter fun g => !g.2.any (unretired x)
  if down.isEmpty then s
  else
    let s := down.foldl (fun s g => s.zeroSegment k (g.1 / 8) (g.1 % 8)) s
    s.modCore k fun x => { x with gating := x.gating.filter fun g => !down.contains g }

/-- A context holds the region of core `k` (R471). -/
def regionHeld (s : State) (r : Nat) : Bool := bitOf (s.rd (regionP r + oSTATUS)) 24

/-- The context that holds a region. -/
def regionCtx (s : State) (r : Nat) : Option Nat :=
  if s.regionHeld r then some (fieldOf (s.rd (regionP r + oSTATUS)) 28 25) else none

/-- The berths of a core hold bytes that nobody can tell: fills of their own, by the number `g`. -/
def freeBerths (x : Core) (g : Nat) : Core := { x with wb := ⟨4 * g, []⟩, ab := ⟨4 * g + 1, []⟩, pb := ⟨4 * g + 2, []⟩ }

/-- A write of BANK_MODE (R116): after a change the berths hold undefined bytes. -/
def wrBankMode (k : Nat) (v : Word) (s : State) : Option State :=
  if s.regionHeld (s.regionOf k) then none
  else
    let v := v &&& 7
    if s.rd (coreP k + 0x40) = v then some s
    else
      let (g, s) := s.freshId
      some ((s.wr (coreP k + 0x40) v).modCore k fun x => freeBerths x g)

/-- The ways that leave CONTEXT or CREW have no outstanding fill: their lines are invalidated and zeroed, and the new use of
each applies (R128). -/
def wayUseChange (s : State) (r : Nat) : State :=
  let l := (s.getRegion r).wayTo
  if l.isEmpty ∨ (s.quays.any fun q => q.alloc && q.region = r) ∨ ¬ (s.getRegion r).fills.isEmpty then s
  else
    let s := s.modRegion r fun x =>
      { x with wayTo := [], basin := x.basin.filter fun b => !(l.any fun e => e.1 = b.way) }
    l.foldl (fun s e => s.wrField (basinP r + 0x40) (2 * e.1 + 1) (2 * e.1) e.2) s

/-- A line as memory will have it once the region's writes that are on their way have come (R124). -/
def lineNow (s : State) (r c la : Nat) : List Byte :=
  (s.writesTo r c la).foldl (fun d w => mergeInto la w.pa d w.data) (s.memRead (128 * la) 128)

/-- One line of a range operation (R129, R472): 1 PIN, 2 UNPIN, 3 EVICT; whether a pin was refused. In PIN_ONLY an
unpinned line does not stay (R132, log 68). An EVICT of a line whose fill is outstanding acts on the fill in its turn. -/
def rangeLine (s : State) (r c op pa : Nat) : Bool × State :=
  let la := pa / 128
  if op = 1 then
    let s := if (s.basinFind r c la).isSome then s else s.basinPut r c la (s.lineNow r c la)
    let t := s.pinLine r c la
    (!t.1, t.2)
  else if op = 2 then
    let s := (s.basinMod r c la fun l => { l with pinned := false }).planKept r c la
    (false, if s.pinOnly then s.basinDrop r c la else s.newest r c la)
  else
    let s := s.joinFill r c la { id := 0, core := 0, store := true, slot := 0, stream := 0, chunk := 0, ctx := c,
                                 epoch := s.epoch c, hint := 3, pa := 128 * la, len := 0, region := r }
    (false, (s.basinDrop r c la).planKept r c la)

/-- `n` lines from a device virtual address, until one does not translate. -/
def rangeRun (s : State) (r c op : Nat) : Nat → Nat → State
  | 0, _ => s
  | n + 1, va =>
    match s.translate c va false with
    | (.ok pa, s) =>
      if s.behindQuay pa then
        let (refused, s) := s.rangeLine r c op pa
        let s := s.wr (basinP r + oSTATUS) (s.rd (basinP r + oSTATUS) + 1)
        (if refused then s.orBits (basinP r + oSTATUS) (word (2 ^ 30)) else s).rangeRun r c op n (va + 128)
      else s.orBits (basinP r + oSTATUS) (word (2 ^ 29))
    | (_, s) => s.orBits (basinP r + oSTATUS) (word (2 ^ 29))

/-- A write of OP to BRANGE_CTRL (R472). -/
def wrRange (r op : Nat) (s : State) : Option State :=
  let a := basinP r + oSTATUS
  if op = 0 then some s
  else if bitOf (s.rd a) 31 then none
  else match s.regionCtx r with
    | none => none
    | some c =>
      let s := (s.wr (basinP r + oCTRL) (word op)).wr a (setField (setField (s.rd a) 31 31 1) 23 0 0)
      some (s.rangeRun r c op (fieldOf (s.rd (basinP r + 0x4C)) 23 0) (s.rd64 (basinP r + 0x44) / 128 * 128))

/-- Every line of the range operation has been acted on (R472). -/
def rangeDone (s : State) (r : Nat) : State :=
  if bitOf (s.rd (basinP r + oSTATUS)) 31 then
    ((s.wr (basinP r + oCTRL) 0).wrField (basinP r + oSTATUS) 31 31 0).event (basinP r) 2
  else s

/-- One access to WIN_DATA (R120, R122, R475): it reads, or writes `w`, and advances ADDR. A word that a check withholds reads
as zeros and is not written. -/
def winAccess (s : State) (p : Party) (k : Nat) (w : Option Word) (up : Upset) : State :=
  let v := s.sel p (coreP k + 0x8C)
  let berth := fieldOf v 31 30
  let a := fieldOf v 18 0 / 4 * 4
  let z := s.build.berthBytes berth
  if berth = 3 ∨ z ≤ a then
    let s := s.configFault (coreP k)
    match w with
    | none => s.give p 0
    | some _ => s
  else
    let next := fun (s : State) => s.setSel p (coreP k + 0x8C) (setField v 18 0 ((a + 4) % z))
    let withheld := fun (s : State) => next (match w with
      | none => s.give p 0
      | some _ => s)
    let found := wordUpset up berth a 4 w.isNone
    match s.gatedAt k berth a 4, found.1 with
    | some g, _ => withheld (s.raise (coreP k) 0x230 (s.berthInfo berth g 5))
    | none, some b => withheld (s.coreFault k 0x231 (s.berthInfo berth b 5))
    | none, none =>
      let s := if found.2 then s.berthCe k else s
      match w with
      | none => next (s.give p (word (leNat (s.berthRead k berth a 4))))
      | some x => (next (s.berthPut k berth a (leBytes 4 x.toNat))).accept (coreP k)

/-- A write of DEBUG_INJECT (R81). -/
def wrInject (k : Nat) (v : Word) (s : State) : Option State :=
  some (if bitOf v 0 then s.wr (coreP k + 0x4C) 1 else s)

/-- A write of CAP_INJECT (R467): the Pilot sets MX_INJECT of the core it names. -/
def wrCapInject (v : Word) (s : State) : Option State :=
  let k := fieldOf v 10 0
  let s := s.wr (captureP + 0x48) (word k)
  some (if bitOf v 31 ∧ k < s.build.physCores then s.wr (coreP k + 0x4C) 1 else s)

end State

/-- A write of CHART_DATA_HI (R227). -/
def execChartDataHi (party : Party) (core : Nat) (value : Word) (s : State) : Out :=
  actAt (core < 1088) (fun s => s.write party (coreP core + 0x88) (State.wrChart party core value)) s

/-- A read of CHART_DATA_LO (R227). -/
def execChartDataLoRead (party : Party) (a : AtCore) (s : State) : Out :=
  actRawAt (a.core < 1088) (State.rdChartLo party a.core a.up) s

/-- The chart scrubber reads a word (R229). -/
def execChartScrub (core word : Nat) (found : Ecc) (s : State) : Out :=
  actCore core (core < s.build.physCores && word < 8192) (fun s =>
    if s.coreAlive core then
      match found with
      | .clean => s
      | .single => s.chartCe core
      | .double => s.chartUe core 7 word
    else s) s

/-- A berth scrubber reads a word (R122). -/
def execBerthScrub (core berth addr : Nat) (found : Ecc) (s : State) : Out :=
  actCore core (core < s.build.physCores && berth < 3 && addr < s.build.berthBytes berth) (fun s =>
    if s.coreAlive core && (s.gatedAt core berth addr 1).isNone then
      match found with
      | .clean => s
      | .single => s.berthCe core
      | .double => s.coreFault core 0x231 (s.berthInfo berth addr 6)
    else s) s

/-- Segments report ready (R119). -/
def execSegmentReady (core : Nat) (s : State) : Out :=
  actCore core (core < s.build.physCores) (fun s => s.segmentReady core) s

/-- Segments are powered down (R119). -/
def execSegmentPowerDown (core : Nat) (s : State) : Out :=
  actCore core (core < s.build.physCores) (fun s => s.segmentDown core) s

/-- A write of BANK_MODE (R116). -/
def execBankModeWrite (party : Party) (core : Nat) (value : Word) (s : State) : Out :=
  actAt (core < 1088) (fun s => s.write party (coreP core + 0x40) (State.wrBankMode core value)) s

/-- A change of WAY_USE applies (R128). -/
def execWayUseChange (region : Nat) (s : State) : Out :=
  actRegion region (region < s.build.regions) (fun s => s.wayUseChange region) s

/-- A range PIN (R129, R472). -/
def execBrangePin (party : Party) (region : Nat) (s : State) : Out :=
  actAt (region < 16) (fun s => s.write party (basinP region + oCTRL) (State.wrRange region 1)) s

/-- A range UNPIN (R129, R472). -/
def execBrangeUnpin (party : Party) (region : Nat) (s : State) : Out :=
  actAt (region < 16) (fun s => s.write party (basinP region + oCTRL) (State.wrRange region 2)) s

/-- A range EVICT (R129, R472). -/
def execBrangeEvict (party : Party) (region : Nat) (s : State) : Out :=
  actAt (region < 16) (fun s => s.write party (basinP region + oCTRL) (State.wrRange region 3)) s

/-- A range operation ends (R472). -/
def execRangeDone (region : Nat) (s : State) : Out :=
  actRegion region (region < s.build.regions) (fun s => s.rangeDone region) s

/-- An access to WIN_DATA (R475). -/
def execWinData (party : Party) (a : AtCore) (write : Option Word) (s : State) : Out :=
  actRawAt (a.core < 1088) (fun s =>
    if s.answers (coreP a.core + 0x90) then s.winAccess party a.core write a.up
    else match write with
      | none => s.give party 0
      | some _ => s) s

/-- A write of DEBUG_INJECT (R81). -/
def execMxInject (party : Party) (core : Nat) (value : Word) (s : State) : Out :=
  actAt (core < 1088) (fun s => s.write party (coreP core + 0x4C) (State.wrInject core value)) s

/-- A write of CAP_INJECT (R467). -/
def execCapInject (party : Party) (value : Word) (s : State) : Out :=
  act (fun s => s.write party (captureP + 0x48) (State.wrCapInject value)) s

/-- A read of QUAY_LAT_MAX clears it (R434). -/
def execQuayLatMaxRead (party : Party) (quay : Nat) (s : State) : Out :=
  actRawAt (quay < 16) (fun s =>
    let a := quayP quay + 0x44
    if s.answers a then (s.give party (s.rd a)).wr a 0 else s.give party 0) s

end Sys2Proof.Machine
end

