-- ==== Sys2Proof/Machine/Cells.lean ====
section
/-! DEFINITION. The cells of a Wharf slice (R271 to R277, R285, R286): their outputs, their carry chains, and their
flip-flops. What the routing brings to their inputs is a free value (log 69). -/

namespace Sys2Proof.Machine

/-- What a cell forms in its present cycle (R272, R274). -/
structure CellOut where
  o6 : Bool
  o5a : Bool
  o5b : Bool
  sum : Bool
  cout : Bool
  deriving DecidableEq, Repr

/-- Truth table and control word of a cell, from the frame of its bay (R273, R286). -/
def cellTable (frames : Tab (List Byte)) (cell : Nat) : DWord := dwordAt (Tab.get [] frames (cell / 16)) (16 * (cell % 16))
def cellControl (frames : Tab (List Byte)) (cell : Nat) : DWord :=
  dwordAt (Tab.get [] frames (cell / 16)) (16 * (cell % 16) + 8)

/-- The carry input of a cell: `below` is the COUT of the cell under it (R273, R274). -/
def carryIn (ctl : DWord) (ins : BitVec 6) (below : Bool) : Bool :=
  match fieldOf ctl 39 38 with
  | 0 => false
  | 1 => true
  | 2 => below
  | _ => bitOf ins 5

/-- The outputs of a cell from its table, its inputs and its carry input. SUM and COUT are formed in carry mode; outside it
`free` stands in their place (R272 to R274). -/
def cellOut (tab ctl : DWord) (ins : BitVec 6) (free : BitVec 4) (below : Bool) : CellOut :=
  let j := ins.toNat
  let a := bitOf tab (j % 32)
  let b := bitOf tab (32 + j % 32)
  let c := carryIn ctl ins below
  let carry := bitOf ctl 37
  { o6 := bitOf tab j, o5a := a, o5b := b,
    sum := if carry then a != c else bitOf free 0,
    cout := if carry then (if a then c else b) else bitOf free 1 }

/-- The first and second output of a cell to the routing (R273); a bay that is off drives 0 (R286). -/
def outA (ctl : DWord) (o : CellOut) (fa on : Bool) : Bool :=
  on && match fieldOf ctl 25 24 with
    | 0 => o.o6
    | 1 => o.o5a
    | 2 => o.sum
    | _ => fa

def outB (ctl : DWord) (o : CellOut) (fb on : Bool) (free : BitVec 4) : Bool :=
  on && match fieldOf ctl 23 22 with
    | 0 => o.o5b
    | 1 => o.cout
    | 2 => fb
    | _ => bitOf free 2

/-- The outputs of the cell at a height of a column, whose carry link comes from the cell below; the lowest cell has none
(R271, R273, R274). -/
def columnOut (frames : Tab (List Byte)) (now core col : Nat) : Nat → CellOut
  | 0 =>
    let n := 128 * col
    cellOut (cellTable frames n) (cellControl frames n) (Config.wharfInputs now core n) (Config.wharfOpen now core n)
      (bitOf (Config.wharfOpen now core n) 3)
  | h + 1 =>
    let n := 128 * col + (h + 1)
    cellOut (cellTable frames n) (cellControl frames n) (Config.wharfInputs now core n) (Config.wharfOpen now core n)
      (columnOut frames now core col h).cout

/-- One flip-flop at an edge of its bay's clock (R275). -/
def flopNext (en ceUse srUse ce sr init data old : Bool) : Bool :=
  if !en then init else if srUse && sr then init else if !ceUse || ce then data else old

/-- The data inputs of FA and FB (R273); a reserved code leaves `free`. -/
def dataA (ctl : DWord) (o : CellOut) (free : BitVec 4) : Bool :=
  match fieldOf ctl 35 34 with
  | 0 => o.o6
  | 1 => o.o5a
  | 2 => o.sum
  | _ => bitOf free 2

def dataB (ctl : DWord) (o : CellOut) (ins : BitVec 6) (free : BitVec 4) : Bool :=
  match fieldOf ctl 33 32 with
  | 0 => o.o5b
  | 1 => o.cout
  | 2 => bitOf ins 5
  | _ => bitOf free 3

/-- Both flip-flops of a cell at an edge of its bay's clock (R275); `bay` holds CE and SR. -/
def flopsNext (ctl : DWord) (o : CellOut) (ins : BitVec 6) (free : BitVec 4) (bay : BitVec 2) (old : Bool × Bool) : Bool × Bool :=
  let ce := bitOf bay 0
  let sr := bitOf bay 1
  (flopNext (bitOf ctl 29) (bitOf ctl 27) (bitOf ctl 26) ce sr (bitOf ctl 31) (dataA ctl o free) old.1,
   flopNext (bitOf ctl 28) (bitOf ctl 27) (bitOf ctl 26) ce sr (bitOf ctl 30) (dataB ctl o ins free) old.2)

/-- CLK_SEL and BAY_ON of a bay (R286): its clock has an edge in region cycle `rc` of the counter of R277. -/
def bayClocked (frame : List Byte) (rc : Nat) : Bool :=
  let b := frame.getD 480 0
  bitOf b 2 && decide (rc % 2 ^ fieldOf b 1 0 = 0)

/-- The region cycle with which the first low phase of a bay's clock begins, from cycle `rc` on: at once where the clock is
low or stopped, else at the middle of its period (R277). -/
def lowFrom (frame : List Byte) (rc : Nat) : Nat :=
  let b := frame.getD 480 0
  let d := 2 ^ fieldOf b 1 0
  if bitOf b 2 && decide (rc % d < d / 2) then rc - rc % d + d / 2 else rc

/-- The bays whose clock multiplexer takes another selection in region cycle `rc`, each with the cycle up to which its output
stays low (R277). -/
def muxGaps (rc : Nat) (old new : Tab (List Byte)) : Tab Nat :=
  new.filterMap fun e =>
    let was := Tab.get [] old e.1
    if fieldOf (was.getD 480 0) 2 0 = fieldOf (e.2.getD 480 0) 2 0 then none else some (e.1, lowFrom was rc)

/-- The INIT values of the cells of a plane, which every flip-flop loads when the plane becomes active (R285). -/
def initFlops (frames : Tab (List Byte)) : Tab (Bool × Bool) :=
  frames.foldl (fun t e => (List.range 16).foldl (fun t c =>
    let ctl := cellControl frames (16 * e.1 + c)
    if bitOf ctl 31 || bitOf ctl 30 then Tab.put t (16 * e.1 + c) (bitOf ctl 31, bitOf ctl 30) else t) t) []

namespace State

/-- A plane becomes the active one of a core in region cycle `rc` (R277, R285). -/
def usePlane (x : Core) (rc : Nat) (b : Bool) : Core :=
  let old := (if x.activeB then x.planeB else x.planeA).frames
  let new := (if b then x.planeB else x.planeA).frames
  { x with activeB := b, switchTo := none, flops := initFlops new, muxLow := muxGaps rc old new }

/-- The cells of a bay at an edge of its clock (R275). -/
def bayEdge (now core : Nat) (frames : Tab (List Byte)) (old : Tab (Bool × Bool)) (bay : Nat) (t : Tab (Bool × Bool)) :
    Tab (Bool × Bool) :=
  (List.range 16).foldl (fun t c =>
    let n := 16 * bay + c
    let o := columnOut frames now core (n / 128) (n % 128)
    Tab.put t n (flopsNext (cellControl frames n) o (Config.wharfInputs now core n) (Config.wharfOpen now core n)
      (Config.wharfBay now core bay) (Tab.get (false, false) old n))) t

/-- The Wharf slice of a core in region cycle `rc`: the bays whose clock has an edge (R275, R277). -/
def sliceCycle (s : State) (k rc : Nat) : State :=
  s.modCore k fun x =>
    let frames := (if x.activeB then x.planeB else x.planeA).frames
    let edge := fun (e : Nat × List Byte) => bayClocked e.2 rc && decide (Tab.get 0 x.muxLow e.1 < rc)
    { x with
      flops := frames.foldl (fun t e => if edge e then bayEdge s.instant k frames x.flops e.1 t else t) x.flops,
      muxLow := x.muxLow.filter fun e => decide (rc ≤ e.2) }

end State

end Sys2Proof.Machine
end

