-- ==== Sys2Proof/Machine/Image.lean ====
section
/-! DEFINITION. A manifest as a file (R176, R178, R197): its sections and their records, its bundles, and what translation
places of it in the chart memory of a core (R215). -/

namespace Sys2Proof.Machine

/-- A section of a manifest: its directory entry (R178). -/
structure Sect where
  idx : Nat
  typ : Nat
  variant : Nat
  tiling : Nat
  core : Nat
  off : Nat
  len : Nat
  deriving DecidableEq, Repr

/-- The directory of a manifest image (R176, R178). -/
def sectsOf (m : List Byte) : List Sect :=
  (List.range (fieldAt m 18 2)).map fun i =>
    let a := 128 + 16 * i
    ⟨i, fieldAt m a 1, fieldAt m (a + 1) 1, fieldAt m (a + 2) 1, fieldAt m (a + 4) 2, fieldAt m (a + 8) 4, fieldAt m (a + 12) 4⟩

/-- The bytes of a section. -/
def Sect.bytes (x : Sect) (m : List Byte) : List Byte := (m.drop x.off).take x.len

/-- TIER_FLOOR and DECL ADAPT of a manifest (R176). -/
def floorOf (m : List Byte) : Nat := fieldAt m 6 1
def declAdapt (m : List Byte) : Bool := fieldAt m 7 1 / 2 % 2 = 1

/-- Records of `n` bytes of a section. -/
def recordsOf (n : Nat) (l : List Byte) : List (List Byte) :=
  (List.range (l.length / n)).map fun i => (l.drop (n * i)).take n

/-! Bundles. -/

/-- A bundle as it stands in a section: its header word and the bundle. -/
structure RawBundle where
  hdr : DWord
  b : Bundle
  deriving DecidableEq, Repr

/-- Slots of a bundle in the order of R197. -/
def slotsFrom (h : DWord) (l : List Byte) : List Nat → Nat → Tab DWord
  | [], _ => []
  | e :: es, a => if bitOf h (63 - e) then (e, dwordAt l a) :: slotsFrom h l es (a + 8) else slotsFrom h l es a

/-- The bundles of a section, or `none` when its length is not the sum of their sizes (R197, R219). -/
def bundlesOf : Nat → List Byte → Option (List RawBundle)
  | 0, l => if l.isEmpty then some [] else none
  | n + 1, l =>
    if l.isEmpty then some []
    else
      let h := dwordAt l 0
      let slots := slotsFrom h l (List.range 6) 8
      let z := 8 * (1 + slots.length)
      if l.length < z then none
      else (bundlesOf n (l.drop z)).map fun r =>
        ⟨h, { delta := fieldOf h 57 40, tag := fieldOf h 39 24, line := fieldOf h 15 0, brk := bitOf h 23,
              chain := bitOf h 22, slots := slots }⟩ :: r

def readBundles (l : List Byte) : Option (List RawBundle) := bundlesOf (l.length / 8 + 1) l

/-- Sections of a type. -/
def ofType (m : List Byte) (t : Nat) : List Sect := (sectsOf m).filter fun x => x.typ = t

/-- The section of a type that core `k` uses under a tiling: that tiling's, or else the common one (R178, R179). -/
def tableSect (m : List Byte) (t k tiling : Nat) : Option Sect :=
  let l := (ofType m t).filter fun x => x.core = k
  (l.find? fun x => x.tiling = tiling).or (l.find? fun x => x.tiling = 0)

/-- Its bytes. -/
def tableOf (m : List Byte) (t k tiling : Nat) : List Byte := (tableSect m t k tiling).elim [] fun x => x.bytes m

/-- SEGMENTS of a core in a manifest (R118, R178). -/
def segmentsIn (m : List Byte) (k : Nat) : Word :=
  word (((ofType m 8).find? fun x => x.core = k).elim 0 fun x => fieldAt (x.bytes m) 0 4)

/-- The cores on which a manifest has sections. -/
def coresIn (m : List Byte) : List Nat := ((sectsOf m).filterMap fun x => if x.core = 0xFFFF then none else some x.core).eraseDups

/-! Translation. -/

/-- What chart memory holds of a section of a core: the bundles of a stream, the bytes of a table (R215). -/
def chartSect (c voyage leg : Nat) (m : List Byte) (x : Sect) : Option ChartSect :=
  if x.typ = 1 then
    some { ctx := c, voyage := voyage, leg := leg, idx := x.idx, bundles := ((readBundles (x.bytes m)).getD []).map (·.b) }
  else if [2, 3, 4, 0x0A, 0x0B].contains x.typ then
    some { ctx := c, voyage := voyage, leg := leg, idx := x.idx, bytes := x.bytes m }
  else none

/-- What the legs of a voyage place in the chart memory of manifest core `k`. -/
def chartSects (c voyage k : Nat) (legs : List (List Byte)) : List ChartSect :=
  (legs.zip (List.range legs.length)).flatMap fun e =>
    ((sectsOf e.1).filter fun x => x.core = k).filterMap (chartSect c voyage e.2 e.1)

namespace State

/-- The manifests of the voyages registered in a context. -/
def manifestsOf (s : State) (c : Nat) : List (List Byte) := (s.getCtx c).voyages.flatMap fun v => v.2.legs

/-- The sections in a core's chart memory change: the words have another native layout, and read as nobody can tell
(R226, log 5, log 8). -/
def relay (s : State) (k : Nat) (f : List ChartSect → List ChartSect) : State :=
  s.modCore k fun x => { x with sects := f x.sects, layout := s.nextId, chart := { gen := 4 * s.nextId + 3 } }

/-- Crew firmware translates a voyage for a core (R215). -/
def translateVoyage (s : State) (c k voyage : Nat) (legs : List (List Byte)) : State :=
  let l := chartSects c voyage (s.getCore k).mindex legs
  if l.isEmpty then s else { s.relay k (· ++ l) with nextId := s.nextId + 1 }

/-- The sections of a voyage leave the chart memory of a core (R317). -/
def untranslateVoyage (s : State) (c k voyage : Nat) : State :=
  if (s.getCore k).sects.any fun y => y.ctx = c && y.voyage = voyage then
    { s.relay k (fun l => l.filter fun y => ¬ (y.ctx = c ∧ y.voyage = voyage)) with nextId := s.nextId + 1 }
  else s

end State

end Sys2Proof.Machine
end

