-- ==== Sys2Proof/Machine/Commit.lean ====
section
/-! DEFINITION. Commit at tide (R190 to R195, R453, R458), what each shadowed page does at its stamp (R116 to R119, R128,
R132, R283 to R285, R381 to R383, R392), the tide samples of the regions (R162), and what manifests a region carries
(R170, R176, R178). -/

namespace Sys2Proof.Machine

/-- The value that a group leaves in a word, by its members' captures. -/
def Group.value (g : Group) (a : Nat) (d : Word) : Word :=
  (((g.members.flatMap (·.vals)).find? fun v => v.1 = a).map (·.2)).getD d

/-- COMMIT_LEAD (R191). -/
def commitLead : Nat := 4096

/-- The turn of R191 for an ARM at tide `a`. -/
def turnAfter (a : Nat) : Nat := (a + commitLead + 1023) / 1024 * 1024

namespace State

/-- The contexts that hold a region. -/
def holders (s : State) (r : Nat) : List Nat := (List.range 16).filter fun c => (s.getCtx c).regions.contains r

/-- The tier index that R381 and R415 give a region for a TIER and a POWER. -/
def tierIndex (s : State) (r tier : Nat) (neap : Bool) : Nat :=
  let i := tier + 4 * neap.toNat
  let cap := fieldOf (s.rd (convoyP + oSTATUS)) 11 8
  match s.convoyCtx with
  | some c => if (s.getCtx c).regions.contains r then max i cap else i
  | none => i

/-- TIER and VREQ of REGION_CLOCK (R381). -/
def regTier (s : State) (r : Nat) : Nat := fieldOf (s.rd (regionP r + 0x40)) 9 8
def regVreq (s : State) (r : Nat) : Nat := fieldOf (s.rd (regionP r + 0x40)) 7 0

/-- Every manifest loaded in a context that holds the region is valid at a tier index (R170). -/
def floorsAdmit (s : State) (r idx : Nat) : Bool :=
  (s.holders r).all fun c => (s.manifestsOf c).all fun m => decide (idx ≤ floorOf m)

/-! Voltage and frequency (R383, R384, R443). -/

/-- A voltage code driven on VREQ_r, or left to wait for the acknowledgement of the change before it (R443, R448). -/
def driveCode (s : State) (r n : Nat) : State :=
  let x := s.getRegion r
  if x.codePending then s.setRegion r { x with want := some n }
  else
    let s := s.wr (regionP r + 0x44) (setBit (setField (s.rd (regionP r + 0x44)) 23 16 n) 27 false)
    s.setRegion r { x with codePending := true, codeAt := s.clk.time, changedAt := s.clk.time, want := none }

/-- The region runs at a row of R169 from now on. -/
def setRow (s : State) (r idx : Nat) : State :=
  let a := regionP r + 0x44
  let s := s.wr a (setBit (setBit (setField (s.rd a) 31 30 (idx % 4)) 29 (decide (4 ≤ idx))) 26 false)
  s.modRegion r fun x => { x with tier := idx, rise := none, changedAt := s.clk.time }

/-- The Spring code of a region as it is driven (R384). -/
def driven (s : State) (vreq : Nat) : Nat := if s.neap then vreq - 20 else vreq

/-- REGION_CLOCK or POWER has changed: frequency and voltage follow in the safe order of R383. -/
def applyClock (s : State) (r : Nat) : State :=
  if s.power r ≠ 2 then s
  else
    let x := s.getRegion r
    let idx := s.tierIndex r (s.regTier r) s.neap
    let code := s.driven (s.regVreq r)
    let now := x.want.getD (fieldOf (s.rd (regionP r + 0x44)) 23 16)
    if x.tier < idx then
      let s := s.setRow r idx
      let s := s.modRegion r fun x => { x with lower := if code < now then some (code, s.rcOf r) else none }
      if now < code then s.driveCode r code else s
    else if idx < x.tier then
      let s := if now < code then s.driveCode r code else s
      let s := s.wr (regionP r + 0x44) (setBit (s.rd (regionP r + 0x44)) 26 true)
      s.modRegion r fun x => { x with rise := some idx, ackAt := s.clk.tide, lower := none }
    else
      let s := if x.rise.isSome then s.setRow r idx else s
      match x.lower with
      | some (_, rc) =>
        let s := s.modRegion r fun x => { x with lower := if code < now then some (code, rc) else none }
        if now < code then s.driveCode r code else s
      | none => if code = now then s else s.driveCode r code

/-! What a commit changes. -/

/-- The active plane of a core after a switch, and its staging plane. -/
def activePlane (x : Core) : Plane := if x.activeB then x.planeB else x.planeA
def stagePlane (x : Core) : Plane := if x.activeB then x.planeA else x.planeB
def setStage (x : Core) (p : Plane) : Core := if x.activeB then { x with planeA := p } else { x with planeB := p }

/-- A `vx.wharf` is in the core's Wharf pipe. -/
def wharfBusy (x : Core) : Bool := x.vx.any fun r => r.pipe = 2 && !r.dead

/-- The bit of PLANE_SEL for a core, in three words. -/
def planeBit (w : Nat → Word) (l : Nat) : Bool := bitOf (w (l / 32)) (l % 32)

/-- PLANE_SEL takes effect core by core; a core with a `vx.wharf` in its pipe waits (R105, R283, R285). -/
def planeApply (s : State) (r : Nat) (vals : List (Nat × Word)) : State :=
  let s := vals.foldl (fun s v => s.wr v.1 v.2) s
  let s := s.event (wharfP r) 1
  (List.range s.build.stride).foldl (fun s l =>
    let k := r * s.build.stride + l
    let x := s.getCore k
    let b := planeBit (fun i => s.rd (wharfP r + 0x50 + 4 * i)) l
    if b = x.activeB then (if x.switchTo.isSome then s.setCore k { x with switchTo := none } else s)
    else if wharfBusy x then s.setCore k { x with switchTo := some b }
    else s.setCore k (usePlane x (s.coreRc k) b)) s

/-- A deferred plane switch (R105, R285). -/
def planeSwitch (s : State) (k : Nat) : State :=
  let x := s.getCore k
  match x.switchTo with
  | none => s
  | some b => if wharfBusy x then s else s.setCore k (usePlane x (s.coreRc k) b)

/-- BERTH_GATE takes effect (R118, R119): what goes off is not ready from now on and awaits the work that was issued before
and touches it; what comes on is readied. -/
def gateApply (s : State) (k : Nat) (v : Word) : State :=
  let old := s.rd (coreP k + 0x44)
  let s := s.wr (coreP k + 0x44) v
  let s := s.wr (coreP k + 0x48) (s.rd (coreP k + 0x48) &&& v)
  let off := (segmentsOf (old &&& ~~~v)).map fun e => (8 * e.1 + e.2, s.segmentWork k e.1 e.2)
  s.modCore k fun x => { x with gating := (x.gating.filter fun g => !bitOf v g.1) ++ off,
                                readying := (x.readying &&& v) ||| (v &&& ~~~old) }

/-- WAY_USE takes effect: a way that leaves CONTEXT or CREW keeps its use until its fills have come; a later value replaces
what such a way is to become (R127, R128). -/
def waysApply (s : State) (r : Nat) (v : Word) : State :=
  let leaves := (List.range 16).filter fun w =>
    (s.wayUse r w = 1 || s.wayUse r w = 2) && s.wayUse r w ≠ fieldOf v (2 * w + 1) (2 * w)
  let now := leaves.foldl (fun (u : Word) w => setField u (2 * w + 1) (2 * w) (s.wayUse r w)) v
  (s.wr (basinP r + 0x40) now).modRegion r fun x => { x with wayTo := leaves.map fun w => (w, fieldOf v (2 * w + 1) (2 * w)) }

/-- MODE_CFG takes effect (R392): RT_SHARE from the next window on, every region's clock follows POWER; CACHE to PIN_ONLY
drops unpinned lines (R132). -/
def modeApply (s : State) (v : Word) : State :=
  let was := s.pinOnly
  let s := if fieldOf v 3 2 = fieldOf (s.rd (modeP + 0x40)) 3 2 then s else { s with rtWas := (s.rtShare, s.clk.tide) }
  let s := s.wr (modeP + 0x40) v
  let s := if s.pinOnly ∧ ¬ was then
      (List.range s.build.regions).foldl (fun s r =>
        s.modRegion r fun x => { x with basin := x.basin.filter (·.pinned) }) s
    else s
  (List.range s.build.regions).foldl (fun s r => s.applyClock r) s

/-- A captured page takes effect. -/
def applyPage (s : State) (m : Commit) : State :=
  let pg := pageOf m.page
  let v := (m.vals.headD (0, 0)).2
  let s := s.wr (m.page + oSEQ) (s.rd (m.page + oSEQ) + 1)
  match pg.1 with
  | 3 => s.modeApply v
  | 0x20 => ((s.wr (regionP pg.2 + 0x40) v).event (regionP pg.2) 0).applyClock pg.2
  | 0x21 => s.waysApply pg.2 v
  | 0x22 => s.planeApply pg.2 m.vals
  | 0x30 => s.gateApply pg.2 v
  | _ => s

/-! The checks of R193. -/

/-- The region that a page belongs to. -/
def pageRegion (s : State) (page : Nat) : Option Nat :=
  let p := pageOf page
  if p.1 = 0x20 ∨ p.1 = 0x21 ∨ p.1 = 0x22 then some p.2
  else if p.1 = 0x30 then some (s.regionOf p.2)
  else none

/-- A Wharf load is in progress in a region. -/
def loading (s : State) (r : Nat) : Bool := s.wload.any fun e => e.2.regions.contains r

/-- A capture is ARMED, FROZEN or RELEASING, and its region (R467). -/
def captureRegion (s : State) : Option Nat :=
  let v := s.rd (captureP + oSTATUS)
  if fieldOf v 31 29 = 0 then none else some (fieldOf v 11 8)

/-- The DIV and LAT that loaded manifests ask of a core (R178, R284). -/
def wharfNeeds (s : State) (k : Nat) : List (Nat × Nat) :=
  (s.holders (s.regionOf k)).flatMap fun c =>
    (s.manifestsOf c).flatMap fun m =>
      (sectsOf m).filterMap fun x =>
        if x.typ = 0x0C ∧ s.physOf c (s.sideOf k) x.core = some k then
          some (fieldAt (x.bytes m) 4 1, fieldAt (x.bytes m) 5 1)
        else none

/-- A plane may become active on a core (R284). -/
def planeFits (s : State) (k : Nat) (p : Plane) : Bool :=
  p.state ≠ 1 && (s.wharfNeeds k).all fun n =>
    n.1 = 0 || (p.state = 2 && p.div = n.1 && p.lat = n.2)

/-- BERTH_GATE of a manifest core: the union over every registered manifest (R118). -/
def segmentUnion (s : State) (c m : Nat) : Word :=
  (s.manifestsOf c).foldl (fun v l => v ||| (segmentsIn l m &&& 0xFFFFFF)) 0

/-- A captured BERTH_GATE is the union of R118, on a core that serves a context. -/
def gateFits (s : State) (k : Nat) (v : Word) : Bool :=
  match (s.getCore k).ctx with
  | some c => v = s.segmentUnion c (s.getCore k).mindex
  | none => true

/-- A member's captured values keep the rules of the manual (R193). -/
def memberFits (s : State) (g : Group) (m : Commit) : Bool :=
  let pg := pageOf m.page
  let v := (m.vals.headD (0, 0)).2
  let held : Bool := match s.captureRegion with
    | some r => s.pageRegion m.page = some r || (pg.1 = 3 && bitOf v 0 ≠ s.neap)
    | none => false
  if fieldOf (s.rd (captureP + oSTATUS)) 31 29 ≠ 3 && held then false
  else match pg.1 with
    | 3 =>
      !(bitOf v 1 && s.build.regions % 2 = 1)
        && !(!bitOf v 6 && (List.range 16).any fun c => (s.manifestsOf c).any declAdapt)
        && (!bitOf v 0 || s.neap || (List.range s.build.regions).all fun r =>
              s.floorsAdmit r (s.tierIndex r (fieldOf (g.value (regionP r + 0x40) (s.rd (regionP r + 0x40))) 9 8) true))
    | 0x20 =>
      let neap := bitOf (g.value (modeP + 0x40) (s.rd (modeP + 0x40))) 0
      decide (150 ≤ fieldOf v 7 0) && decide (fieldOf v 7 0 ≤ 170)
        && s.floorsAdmit pg.2 (s.tierIndex pg.2 (fieldOf v 9 8) neap)
    | 0x21 => (List.range 16).all fun w => s.wayUse pg.2 w ≠ 3 || fieldOf v (2 * w + 1) (2 * w) = 3
    | 0x22 =>
      (List.range s.build.stride).all fun l =>
        let k := pg.2 * s.build.stride + l
        let x := s.getCore k
        let b := planeBit (fun i => g.value (wharfP pg.2 + 0x50 + 4 * i) (s.rd (wharfP pg.2 + 0x50 + 4 * i))) l
        b = x.activeB || s.planeFits k (if b then x.planeB else x.planeA)
    | 0x30 => s.gateFits pg.2 v
    | _ => true

/-- The check of a group (R193). -/
def groupFits (s : State) (g : Group) : Bool := g.members.all fun m => s.memberFits g m

/-! Arming. -/

/-- The addresses of a page's shadowed registers (R458). -/
def shadowed (page : Nat) : List Nat :=
  match (pageOf page).1 with
  | 3 | 0x20 | 0x21 => [page + 0x40]
  | 0x22 => [page + 0x50, page + 0x54, page + 0x58]
  | 0x30 => [page + 0x44]
  | _ => []

/-- A party may write every shadowed register of a page (R193). -/
def mayCommit (page : Nat) (p : Party) : Bool :=
  p = .pilot || (shadowed page).all fun a =>
    match regKind (pageOf page).1 (a % 0x1000 + 0x800) with
    | .rw l => l.contains p
    | _ => false

/-- REFUSED and 0x600 on a page (R193, R194). -/
def refusePage (s : State) (page : Nat) : State := (s.orBits (page + oCOMMIT) 0x20).configFault page

/-- The resumes that wait for a stamp in block tide (R174, R192). -/
def resumesAt (s : State) (want : Nat) : List Nat :=
  (List.range 16).filter fun c =>
    match (s.getCtx c).resume with
    | some e => e.1 = want
    | none => false

/-- The whole group is refused, the resumes in it as well (R174, R193). -/
def refuseGroup (s : State) (g : Group) : State :=
  let s := { s with groups := s.groups.filter fun x => x.want ≠ g.want }
  let s := g.members.foldl (fun s m => ((s.wrField (m.page + oCOMMIT) 2 2 0).refusePage m.page)) s
  (s.resumesAt g.want).foldl (fun s c =>
    (s.modCtx c fun x => { x with resume := none }).configFault (ctxP c)) s

/-- The group that a page's pending commit belongs to. -/
def groupOf (s : State) (page : Nat) : Option Group :=
  s.groups.find? fun g => g.members.any fun m => m.page = page

/-- The page leaves its group, which keeps its own stamp (R192). -/
def leaveGroup (s : State) (page : Nat) : State :=
  let out := fun (g : Group) => ({ g with members := g.members.filter fun m => m.page ≠ page } : Group)
  { s with groups := (s.groups.map out).filter fun g => !g.members.isEmpty }

/-- A capture joins the group of its stamp, which opens if there is none (R192). -/
def joinGroup (s : State) (want : Nat) (m : Commit) : State :=
  match s.groups.find? fun g => g.want = want with
  | some g =>
    let g' : Group := { g with members := g.members ++ [m], stamp := max g.stamp m.stamp }
    let s := { s with groups := s.groups.map fun (x : Group) => if x.want = want then g' else x }
    let s := (s.resumesAt want).foldl (fun s c =>
      s.modCtx c fun x => { x with resume := some (want, g'.stamp) }) s
    let s := s.wrField (m.page + oCOMMIT) 2 2 1
    if s.groupFits g' then s else s.refuseGroup g'
  | none =>
    let stamp := (s.resumesAt want).foldl (fun e c =>
      match (s.getCtx c).resume with
      | some x => max e x.2
      | none => e) m.stamp
    let g : Group := ⟨want, stamp, [m]⟩
    let s := { s with groups := s.groups ++ [g] }
    let s := (s.resumesAt want).foldl (fun s c =>
      s.modCtx c fun x => { x with resume := some (want, stamp) }) s
    let s := s.wrField (m.page + oCOMMIT) 2 2 1
    if s.groupFits g then s else s.refuseGroup g

/-- Values captured for a page with a stamp: the lead and lateness rules of R191, then the group. -/
def armVals (s : State) (page want : Nat) (vals : List (Nat × Word)) : State :=
  let now := s.clk.tide
  let late := want < now + commitLead
  let m : Commit := ⟨page, vals, if late then turnAfter now else want⟩
  let s := if late then (s.orBits (page + oCOMMIT) 0x10).raise page 0x804 else s
  s.joinGroup want m

/-- A capture for a stamp would open a 17th group, once the page has left its own (R192). -/
def noGroup (s : State) (page want : Nat) : Bool :=
  (s.leaveGroup page).groups.all (fun g => g.want ≠ want) && decide (16 ≤ (s.leaveGroup page).groups.length)

/-- An ARM (R190 to R193). One that is refused for its own sake leaves the commit that is pending as it is; one of PLANE_SEL
while a load is in progress in the region refuses its group (R284). -/
def armPage (s : State) (page : Nat) : State :=
  let vals := (shadowed page).map fun a => (a, s.rd (a + 0x800))
  let want := s.rd64 (page + oCTIDE)
  let load : Bool := match pageOf page with
    | (0x22, r) => s.loading r
    | _ => false
  let arm := fun (s : State) =>
    let s := s.armVals page want vals
    match s.groupOf page with
    | some g => if load then s.refuseGroup g else s
    | none => s
  match s.groupOf page with
  | some g =>
    if g.stamp < s.clk.tide + commitLead then s.refuseGroup g
    else if s.noGroup page want then s.refusePage page
    else arm (s.leaveGroup page)
  | none => if s.noGroup page want then s.refusePage page else arm s

/-- A CANCEL (R193). -/
def cancelPage (s : State) (page : Nat) : State :=
  match s.groupOf page with
  | some g => if g.stamp < s.clk.tide + commitLead then s else (s.leaveGroup page).wrField (page + oCOMMIT) 2 2 0
  | none => s

/-- A write of COMMIT (R193, R194, R453): the W1C bits, then CANCEL, then ARM. -/
def writeCommit (s : State) (p : Party) (page : Nat) (v : Word) : State :=
  let a := page + oCOMMIT
  let code := (pageOf page).1
  if s.answers a ∧ mayWrite code oCOMMIT p ∧ pageShadow code ∧ (bitOf v 0 ∨ bitOf v 1) ∧ ¬ mayCommit page p then
    s.refusePage page
  else
    s.write p a fun s =>
      if ¬ pageShadow code then (if bitOf v 0 then none else some s)
      else
        let s := s.wr a (s.rd a &&& ~~~(v &&& 0x38))
        let s := if bitOf v 1 then s.cancelPage page else s
        some (if bitOf v 0 then s.armPage page else s)

/-- A commit that firmware makes by itself for the next turn that COMMIT_LEAD allows: it writes the shadow half and
COMMIT_TIDE, then ARM. -/
def pilotCommit (s : State) (page : Nat) (vals : List (Nat × Word)) : State :=
  let s := vals.foldl (fun s v => s.wr (v.1 + 0x800) v.2) s
  (s.wr64 (page + oCTIDE) (turnAfter s.clk.tide)).armPage page

/-- No commit of a page is pending. -/
def idlePage (s : State) (page : Nat) : Bool := (s.groupOf page).isNone

/-- Every group of an effective stamp is checked again and applies in one tick, or is refused whole (R192, R193); the
Pilot's own rewrites of that stamp apply with them (R363). -/
def commitApply (s : State) (stamp : Nat) : State :=
  if s.clk.tide < stamp then s
  else
    let now := s.groups.filter fun g => g.stamp = stamp
    let s := { s with groups := s.groups.filter fun g => g.stamp ≠ stamp }
    let s := now.foldl (fun s g =>
      if s.groupFits g then
        (g.members.foldl (fun s m =>
          (s.applyPage m).wr (m.page + oCOMMIT) (setBit (setBit (s.rd (m.page + oCOMMIT)) 2 false) 3 true)) s)
      else s.refuseGroup g) s
    let fix := s.pilot.fixes.filter fun f => f.2.2 = stamp
    let s := { s with pilot := { s.pilot with fixes := s.pilot.fixes.filter fun f => f.2.2 ≠ stamp } }
    fix.foldl (fun s f => s.wr f.1 f.2.1) s

end State

/-- A write of ARM to COMMIT (R190). -/
def execCommitArm (party : Party) (page : Nat) (s : State) : Out :=
  act (fun s => s.writeCommit party (page / 0x1000 * 0x1000) 1) s

/-- A write of CANCEL to COMMIT (R193). -/
def execCommitCancel (party : Party) (page : Nat) (s : State) : Out :=
  act (fun s => s.writeCommit party (page / 0x1000 * 0x1000) 2) s

/-- A commit group applies at its stamp (R192). -/
def execCommitApply (stamp : Nat) (s : State) : Out := act (fun s => s.commitApply stamp) s

/-- A deferred plane switch takes effect (R285). -/
def execPlaneSwitch (core : Nat) (s : State) : Out :=
  actCore core (core < s.build.physCores) (fun s => s.planeSwitch core) s

end Sys2Proof.Machine
end

