-- ==== Sys2Proof/Machine/Wharf.lean ====
section
/-! DEFINITION. Wharf bitstreams and their loads (R282 to R298), and the key that binds images to a build (R11). -/

namespace Sys2Proof.Machine

/-- The key of a build at block version 3.`minor` (R11). -/
def keyAt (b : Build) (minor : Nat) : Nat :=
  let l : List Byte := [0x4A, 0x58, 0x44, 0x4B] ++ leBytes 4 (0x0300 + minor) ++ leBytes 4 b.build0.toNat ++ leBytes 4 b.build1.toNat
  leNat ((sha384 l).take 8)

/-- DEVICE_KEY (R11). -/
def deviceKey (b : Build) : Nat := keyAt b 2

/-- The cores that a bitstream header targets (R287). -/
def targetOf (b : Build) (h : List Byte) : List Nat :=
  if fieldAt h 7 1 = 1 then [fieldAt h 18 2]
  else (List.range b.physCores).filter fun k => fieldAt h 16 2 / 2 ^ (b.regionOf k) % 2 = 1

/-- The regions that a bitstream header targets. -/
def targetRegions (b : Build) (h : List Byte) : List Nat :=
  if fieldAt h 7 1 = 1 then [b.regionOf (fieldAt h 18 2)]
  else (List.range b.regions).filter fun r => fieldAt h 16 2 / 2 ^ r % 2 = 1

/-- A record of a body (R288): type, count, FADDR, its length, or none where its header breaks a rule. -/
structure WRecord where
  typ : Nat
  count : Nat
  faddr : Nat
  len : Nat
  deriving DecidableEq, Repr

/-- The record at a place of the body (R288). -/
def recordAt (body : List Byte) (p : Nat) : Option WRecord :=
  let t := fieldAt body p 1
  let n := fieldAt body (p + 2) 2
  let f := fieldAt body (p + 4) 4
  if fieldAt body (p + 1) 1 ≠ 0 then none
  else match t with
    | 1 => if n = 0 then some ⟨t, n, f, 520⟩ else none
    | 2 => if 1 ≤ n ∧ n ≤ 4095 ∧ f = 0 then some ⟨t, n, f, 8 + (n + n % 2) * 4⟩ else none
    | 3 => if n % 8 = 0 ∧ n ≤ 136 ∧ f = 0 then some ⟨t, n, f, 8 + n⟩ else none
    | 4 => if 1 ≤ n ∧ n ≤ 512 then some ⟨t, n, f, 8⟩ else none
    | 0x0F => if n = 0 then some ⟨t, n, f, 8⟩ else none
    | _ => none

namespace State

/-- Checks 1 to 5 of R291 for a load asked for on region `r`; `self` is the load's own key. -/
def wharfHeader (s : State) (r : Nat) (slip : Bool) (self : Nat) (h : List Byte) : Nat :=
  let t := fieldAt h 7 1
  let regs := targetRegions s.build h
  if fieldAt h 0 4 ≠ 0x4657584A ∨ fieldAt h 4 1 ≠ 1 then 0x601
  else if (crc32c (h.take 28)) ≠ fieldAt h 28 4 then 0x602
  else if fieldAt h 8 8 ≠ deviceKey s.build then 0x603
  else if 4 ≤ fieldAt h 5 1 ∨ fieldAt h 6 1 = 0 ∨ 64 < fieldAt h 6 1 then 0x605
  else if 1 < t ∨ (t = 0 ∧ (fieldAt h 16 2 = 0 ∨ 2 ^ s.build.regions ≤ fieldAt h 16 2 ∨ fieldAt h 18 2 ≠ 0))
      ∨ (t = 1 ∧ (fieldAt h 16 2 ≠ 0 ∨ s.build.physCores ≤ fieldAt h 18 2 ∨ slip = true))
      ∨ ¬ regs.contains r
      ∨ (regs.any fun q => s.power q ≠ 2 || (s.groupOf (wharfP q)).isSome
            || s.wload.any fun e => e.1 ≠ self && e.2.regions.contains q) then 0x604
  else 0

/-- WLOAD_STATUS STATE on every region of a load (R296). -/
def wloadState (s : State) (w : WLoad) (st : Nat) : State :=
  w.regions.foldl (fun s r => s.wrField (wharfP r + oSTATUS) 31 29 st) s

/-- The staging planes of a stream's target cores. -/
def stageAll (s : State) (w : WLoad) (f : Plane → Plane) : State :=
  (targetOf s.build w.bytes).foldl (fun s k => s.modCore k fun x => setStage x (f (stagePlane x))) s

/-- A request resolves (R292, R296): USED and both codes, DONE once, GO clear. -/
def wloadResolve (s : State) (key used : Nat) (w : WLoad) : State :=
  let s := { s with wload := Tab.del s.wload key }
  let codeP := if w.golden then w.primary else w.code
  let codeG := if w.golden then w.code else 0
  w.regions.foldl (fun s r =>
    let v := s.rd (wharfP r + oSTATUS)
    let s := s.wr (wharfP r + oSTATUS)
      (word (5 * 2 ^ 29 + used * 2 ^ 27 + (if bitOf v 26 then 2 ^ 26 else 0) + codeP % 2 ^ 12 * 2 ^ 12 + codeG % 2 ^ 12))
    ((s.wrField (wharfP r + oCTRL) 0 0 0).event (wharfP r) 0)) s

/-- A stream is taken up: its header is checked and its target planes become LOADING (R291). The code of the first
check that fails, or 0. -/
def wloadHeader (s : State) (key : Nat) (w : WLoad) : Nat × State :=
  let c := s.wharfHeader key w.slip key w.bytes
  if c ≠ 0 then (c, { s with wload := Tab.put s.wload key { w with code := c } })
  else
    let regs := targetRegions s.build w.bytes
    let w := { w with regions := w.regions ++ regs.filter fun q => !w.regions.contains q }
    let s := { s with wload := Tab.put s.wload key w }
    let s := s.stageAll w fun _ => { state := 1 }
    (0, s.wloadState w (if w.golden then 4 else 2))

/-- A stream is rejected with a code (R291): its planes become EMPTY and the code is logged. -/
def wloadReject (s : State) (w : WLoad) (headed : Bool) (code : Nat) : State :=
  let s := w.regions.foldl (fun s r => (s.raise (wharfP r) code).count (wharfP r + 0x84) 1) s
  if headed then s.stageAll w fun p => if p.state = 1 then {} else p else s

/-- The request of region `r`, whose primary failed with `code`, goes on with its golden image or resolves to none; `regs` are
the regions that report it. A golden stream under way from the same address that targets `r` serves it as well (R292). -/
def wloadGolden (s : State) (code r : Nat) (regs : List Nat) : State :=
  let g := s.rd64 (wharfP r + 0x48) / 8 * 8
  if g = 0 then s.wloadResolve r 0 { regions := regs, slip := false, code := code }
  else if s.wload.any fun e => e.2.golden && e.2.src = g && e.2.regions.contains r then s
  else
    let h := Mem.bytes zeroFill s.hostMem g 128
    let w : WLoad := { regions := regs, slip := false, golden := true, src := g, primary := code,
                       bytes := Mem.bytes zeroFill s.hostMem g (128 + fieldAt h 20 4) }
    match s.wloadHeader r w with
    | (0, s) => s
    | (c, s) => (s.wloadReject w false c).wloadResolve r 0 { w with code := c }

/-- A stream has failed: its golden image is tried, or the request resolves to none (R292). Each region that asked for a
shared slipway stream has a golden image of its own (R439). -/
def wloadFail (s : State) (key : Nat) (w : WLoad) (headed : Bool) (code : Nat) : State :=
  let s := s.wloadReject w headed code
  if w.golden ∨ w.alone ∨ code = 0x60C then s.wloadResolve key 0 { w with code := code }
  else
    let s := { s with wload := Tab.del s.wload key }
    (key :: w.asked).foldl (fun s r =>
      s.wloadGolden code r (if r = key then w.regions.filter fun q => !w.asked.contains q else [r])) s

/-- A stream has come to the loader. -/
def wloadBegin (s : State) (key : Nat) (w : WLoad) : State :=
  match s.wloadHeader key w with
  | (0, s) => s
  | (c, s) => s.wloadFail key w false c

/-- A write of WLOAD_CTRL (R290, R292, R295). -/
def wrWload (r : Nat) (v : Word) (s : State) : Option State :=
  let a := wharfP r + oCTRL
  let s := s.wrField a 1 1 (fieldOf v 1 1)
  if ¬ bitOf v 0 then some s
  else if s.loading r ∨ (s.groupOf (wharfP r)).isSome then
    some ((s.orBits (wharfP r + oSTATUS) (word (2 ^ 26))).configFault (wharfP r))
  else
    let s := s.wrField a 0 0 1
    if bitOf v 1 then
      let w : WLoad := { regions := [r], slip := true, waiting := true }
      some (({ s with wload := Tab.put s.wload r w }).wloadState w 1)
    else
      let p := s.rd64 (wharfP r + 0x40) / 8 * 8
      let h := Mem.bytes zeroFill s.hostMem p 128
      let w : WLoad := { regions := [r], slip := false, src := p,
                         bytes := Mem.bytes zeroFill s.hostMem p (128 + fieldAt h 20 4) }
      some (s.wloadBegin r w)

/-- The load that writes a region. -/
def wloadAt (s : State) (r : Nat) : Option (Nat × WLoad) := s.wload.find? fun e => e.2.regions.contains r && !e.2.waiting

/-- Cores of a broadcast mask. -/
def maskCores (s : State) (m : List Byte) : List Nat :=
  (List.range s.build.physCores).filter fun k => bitOf (m.getD (k / 8) 0) (k % 8)

/-- The cores and the bay that a FADDR names (R289), or none where it breaks a rule. -/
def faddrOf (s : State) (w : WLoad) (f : Nat) : Option (List Nat × Nat) :=
  let core := f / 2 ^ 20
  let bay := f % 512
  if 2 ^ 31 ≤ f ∨ f / 512 % 2 ^ 11 ≠ 0 ∨ s.build.bays ≤ bay then none
  else match w.mask with
    | some m => if core = 0 then some (s.maskCores m, bay) else none
    | none => if (targetOf s.build w.bytes).contains core then some ([core], bay) else none

/-- Frames written to bays of cores: each core's staging plane, and the counter. -/
def frameWrite (s : State) (w : WLoad) (cores : List Nat) (bay : Nat) (data : List Byte) : State :=
  let s := cores.foldl (fun s k => s.modCore k fun x =>
    setStage x { stagePlane x with frames := Tab.put (stagePlane x).frames bay data }) s
  w.regions.foldl (fun s r => s.count (wharfP r + 0x80) 1) s

/-- A readback mismatch stops the load, and its core is a failed core (R291). -/
def readbackFail (s : State) (key : Nat) (w : WLoad) (k : Nat) : State :=
  (s.wloadFail key w true 0x60C).coreFault k 0x60C 0

/-- The frame writes of one record: destinations with the data, until a readback fails. -/
def frameWrites (s : State) (key : Nat) (w : WLoad) (bad : List Nat) : List (List Nat × Nat × List Byte) → State
  | [] => { s with wload := Tab.put s.wload key w }
  | (cores, bay, data) :: l =>
    let s := s.frameWrite w cores bay data
    match cores.find? fun k => bad.contains k with
    | some k => s.readbackFail key w k
    | none => s.frameWrites key { w with frames := w.frames + 1 } bad l

/-- A record arrives (R288, R289, R291 checks 6 and 7). -/
def wharfRecord (s : State) (r : Nat) (bad : List Nat) : State :=
  match s.wloadAt r with
  | none => s
  | some (key, w) =>
    let body := (w.bytes.drop 128).take (fieldAt w.bytes 20 4)
    let size := fieldAt w.bytes 20 4
    if size ≤ w.pos then s
    else
      let fail := fun (c : Nat) => s.wloadFail key w true c
      match recordAt body w.pos with
      | none => fail (if body.length < w.pos + 8 then 0x606 else 0x607)
      | some x =>
        let next := { w with pos := w.pos + x.len }
        if size < w.pos + x.len ∨ body.length < w.pos + x.len then fail 0x606
        else if w.ended then fail 0x607
        else
          let go := fun (l : List (Option (List Nat × Nat) × List Byte)) (w : WLoad) =>
            if l.all fun e => e.1.isSome then
              s.frameWrites key w bad (l.filterMap fun e => e.1.map fun d => (d.1, d.2, e.2))
            else s.wloadFail key w true 0x607
          match x.typ with
          | 1 =>
            let data := (body.drop (w.pos + 8)).take 512
            go [(s.faddrOf w x.faddr, data)] { next with frame := some data }
          | 2 =>
            match w.frame with
            | none => fail 0x607
            | some data =>
              if x.count % 2 = 1 ∧ ¬ zeroAt body (w.pos + 8 + 4 * x.count) 4 then fail 0x607
              else go ((List.range x.count).map fun i => (s.faddrOf w (fieldAt body (w.pos + 8 + 4 * i) 4), data)) next
          | 3 =>
            let m := (body.drop (w.pos + 8)).take x.count
            if x.count = 0 then { s with wload := Tab.put s.wload key { next with mask := none } }
            else if (List.range (8 * x.count)).any (fun k =>
                bitOf (m.getD (k / 8) 0) (k % 8) && !(targetOf s.build w.bytes).contains k) then fail 0x607
            else { s with wload := Tab.put s.wload key { next with mask := some m } }
          | 4 =>
            if s.build.bays < x.faddr % 512 + x.count then fail 0x607
            else go ((List.range x.count).map fun i => (s.faddrOf w (x.faddr + i), List.replicate 512 0)) next
          | _ => { s with wload := Tab.put s.wload key { next with ended := true } }

/-- The checks after the last record (R291 checks 7 to 11): the code of the first that fails, or 0. -/
def wharfFinish (s : State) (w : WLoad) : Nat :=
  let size := fieldAt w.bytes 20 4
  let body := (w.bytes.drop 128).take size
  if (w.slip ∧ w.sent ≠ 128 + size) ∨ w.pos ≠ size then 0x606
  else if ¬ w.ended then 0x608
  else if crc32c (body.take (size - 4)) ≠ fieldAt body (size - 4) 4 then 0x609
  else if w.frames ≠ fieldAt w.bytes 24 4 ∨ w.frames = 0 then 0x60A
  else if ¬ ecdsaVerify (beNat (s.pilot.pubkey.take 48)) (beNat (s.pilot.pubkey.drop 48))
      (sha384 (w.bytes.take 32 ++ body)) (beNat ((w.bytes.drop 32).take 48)) (beNat ((w.bytes.drop 80).take 48)) then 0x60B
  else 0

/-- A stream ends (R291, R292): its planes hold the image, or the golden image is tried. -/
def wloadDone (s : State) (r : Nat) : State :=
  match s.wloadAt r with
  | none => s
  | some (key, w) =>
    if w.pos < fieldAt w.bytes 20 4 then s
    else
      let s := s.wloadState w (if w.golden then 4 else 3)
      match s.wharfFinish w with
      | 0 =>
        let s := s.stageAll w fun p =>
          { p with state := 2, div := 2 ^ (fieldAt w.bytes 5 1 % 4), lat := fieldAt w.bytes 6 1,
                   id := word (leNat ((sha384 w.bytes).take 4)), src := if w.slip then none else some w.src }
        s.wloadResolve key (if w.golden then 2 else 1) w
      | c => s.wloadFail key w true c

/-- A Wharf transfer on the slipway (R291, R439): every region that waits takes it; a region outside the stream's target
rejects it. -/
def wharfSlip (s : State) (payload : List Byte) (whole : Bool) : State :=
  let waits := (s.wload.filter fun e => e.2.waiting).map (·.1)
  let regs := targetRegions s.build payload
  let body := 128 + fieldAt payload 20 4
  let sent := if whole then payload.length else body + 1
  let taken := fun (l : List Nat) =>
    ({ regions := l, asked := l.drop 1, slip := true, bytes := payload.take body, sent := sent } : WLoad)
  let inside := waits.filter fun r => regs.contains r
  let outside := waits.filter fun r => !regs.contains r
  let s := { s with wload := s.wload.filter fun e => !e.2.waiting }
  let s := outside.foldl (fun s r => s.wloadBegin r (taken [r])) s
  match inside with
  | [] => s
  | r :: l => s.wloadBegin r (taken (r :: l))

/-- A region loses its power: its planes are EMPTY, and a stream that targets it is rejected (R285, R298). -/
def wharfPowerLoss (s : State) (r : Nat) : State :=
  let s := s.wload.foldl (fun s e =>
    if e.2.regions.contains r then (s.wloadReject e.2 true 0x604).wloadResolve e.1 0 { e.2 with code := 0x604 } else s) s
  (List.range s.build.stride).foldl (fun s l =>
    s.modCore (r * s.build.stride + l) fun x => { x with planeA := {}, planeB := {}, flops := [], muxLow := [] }) s

end State

/-- A write of WLOAD_CTRL (R292). -/
def execWloadGo (party : Party) (region : Nat) (value : Word) (s : State) : Out :=
  actAt (region < 16) (fun s => s.write party (wharfP region + oCTRL) (State.wrWload region value)) s

/-- A bitstream record arrives (R291). -/
def execWharfRecord (region : Nat) (readbackBad : List Nat) (s : State) : Out :=
  actAt (region < s.build.regions) (fun s => s.wharfRecord region readbackBad) s

/-- A load resolves (R292). -/
def execWloadDone (region : Nat) (s : State) : Out :=
  actAt (region < s.build.regions) (fun s => s.wloadDone region) s

end Sys2Proof.Machine
end

