-- ==== Sys2Proof/Machine/Clocks.lean ====
section
/-! DEFINITION. Region faults (R369), the tide samples of the regions (R162), voltage, frequency and gauges
(R380 to R390, R395, R443), and the Channel's checks, counters and shares (R253 to R270). -/

namespace Sys2Proof.Machine

namespace State

/-- What a region fault does to a context on the region (R369, R376): OUTCOME, and the state after it apart from the
report. Single: LOST. Paired: the region's side is detached; on the lead side of a detached context it ends it. -/
def regionFaultOutcome (s : State) (r c : Nat) : Nat :=
  let y := s.getCtx c
  if ¬ (s.ctxState c = 2 ∨ s.ctxState c = 3) then 0
  else if ¬ y.paired then 4
  else if s.pairState c = 1 then
    match y.detach with
    | some (side, _) => if side = r % 2 then 2 else 4
    | none => 2
  else if fieldOf (s.rd (ctxP c + 0xAC)) 29 29 = r % 2 then 4 else 0

/-- A region fault that concerns one context (R369). -/
def regionFault (s : State) (r code : Nat) (info : Word) (c : Option Nat) : State :=
  match c with
  | none => s.raise (regionP r) code info
  | some c =>
    let out := s.regionFaultOutcome r c
    let s := s.raise (regionP r) code info (some c) out
    if out = 4 then s.loseCtx c code
    else if out = 2 then
      s.modCtx c fun y => { y with detach := some (y.detach.getD (r % 2, s.clk.tide)), lostBy := code }
    else s

/-- A region goes off (R369, R285): every context that holds it becomes LOST, code 0 is asked of its regulator, its
clock stops and its Wharf planes are EMPTY. -/
def regionOff (s : State) (r code : Nat) (info : Word) : State :=
  let s := s.raise (regionP r) code info (s.regionCtx r) 5
  let s := (s.holders r).foldl (fun s c => s.loseCtx c code) s
  let s := s.wrField (regionP r + oSTATUS) 31 30 3
  let s := s.driveCode r 0
  let s := s.wr (regionP r + 0x44) (setBit (s.rd (regionP r + 0x44)) 28 false)
  (s.modRegion r fun x => { x with clockOn := false, rise := none, lower := none, replan := none, requests := [],
                                   fills := [], basin := [] }).wharfPowerLoss r |>.clearNet r

/-- The sample of a region's tide unit changes: the upper bits advance where the low part passes to 0 (R162). -/
def takeSample (s : State) (r sample : Nat) : State :=
  s.modRegion r fun x =>
    { x with tideLow := sample, tideHigh := x.tideHigh + (if sample = 0 ∧ x.tideLow = 2 ^ 20 - 1 then 1 else 0) }

/-- A region's tide unit takes over the whole tide: when the region is brought up or powered on, and in a convoy slew
(R162). -/
def loadTide (s : State) (r : Nat) : State :=
  s.modRegion r fun x => { x with tideLow := s.clk.tide % 2 ^ 20, tideHigh := s.clk.tide / 2 ^ 20 }

/-- A region samples the tide in its cycle (R162, R163): here with no delay (log 66), so that its local tide never steps back
and carries into its upper bits. -/
def sampleTide (s : State) (r : Nat) : State :=
  if s.localTide r < s.clk.tide then s.loadTide r else s

/-- A region's tide unit takes a sample (R162): one that is neither the last sample nor the next after it, or a parity error,
is 0x310. -/
def tideStep (s : State) (r sample : Nat) (parityOk : Bool) : State :=
  let last := (s.getRegion r).tideLow
  if s.power r ≠ 2 ∨ ¬ s.clk.running then s
  else if parityOk ∧ (sample = last ∨ sample = (last + 1) % 2 ^ 20) then s.takeSample r sample
  else s.regionFault r 0x310 0 (s.regionCtx r)

/-! Frequency and voltage. -/

/-- A frequency that waited for its voltage applies at the first turn 5 µs after the acknowledgement (R383). -/
def frequencyRise (s : State) (r : Nat) : State :=
  let x := s.getRegion r
  match x.rise with
  | none => s
  | some idx =>
    if x.codePending ∨ s.clk.tide < (x.ackAt + 3125 + 1023) / 1024 * 1024 then s else s.setRow r idx

/-- A lower code is driven once the region has run 64 rc at its lower frequency (R383). -/
def lowerVreq (s : State) (r : Nat) : State :=
  let x := s.getRegion r
  match x.lower with
  | none => s
  | some (code, rc) =>
    if s.rcOf r < rc + 64 then s else (s.setRegion r { x with lower := none }).driveCode r code

/-- VREQ_ACK is sampled high, 1 µs after the change at the earliest (R443, R448). -/
def vreqAck (s : State) (r : Nat) : State :=
  let x := s.getRegion r
  let up := fun (s : State) => s.wr (regionP r + 0x44) (setBit (s.rd (regionP r + 0x44)) 27 true)
  if x.fallAt.isSome then up (s.setRegion r { x with fallAt := none })
  else if ¬ x.codePending ∨ s.clk.time < x.codeAt + 625 then s
  else
    let s := up (s.setRegion r { x with codePending := false, ackAt := s.clk.tide, want := none, changedAt := s.clk.time })
    match x.want with
    | some n => s.driveCode r n
    | none => s

/-- VREQ_ACK has been low for 1 ms (R383, R395). -/
def vreqTimeout (s : State) (r : Nat) : State :=
  let x := s.getRegion r
  let due : Bool := match x.fallAt with
    | some t => decide (t + 625000 ≤ s.clk.time)
    | none => x.codePending && decide (x.codeAt + 625000 ≤ s.clk.time)
  if s.power r = 2 ∧ due then s.regionOff r 0x322 0 else s

/-- VREQ_ACK falls with no change pending (R395). -/
def vreqAckFall (s : State) (r : Nat) : State :=
  let x := s.getRegion r
  if s.power r ≠ 2 ∨ x.codePending ∨ x.fallAt.isSome then s
  else (s.setRegion r { x with fallAt := some s.clk.time }).wr (regionP r + 0x44)
    (setBit (s.rd (regionP r + 0x44)) 27 false)

/-! The margin plan. -/

/-- A region serves the convoy's context in a FORMED convoy (R415). -/
def inConvoy (s : State) (r : Nat) : Bool :=
  fieldOf (s.rd (convoyP + oSTATUS)) 31 29 = 2 && s.convoyCtx.any fun c => (s.getCtx c).regions.contains r

/-- A region may run at a tier index by every manifest on it, and in a convoy by every member's FLOOR (R389, R415). -/
def tierAdmits (s : State) (r idx : Nat) : Bool := s.floorsAdmit r idx && (!s.inConvoy r || decide (idx ≤ s.convoy.floor))

/-- A re-plan that drops a region of the convoy raises the tier cap to its index at the next turn (R415). -/
def raiseCap (s : State) (r idx : Nat) : State :=
  if s.inConvoy r ∧ fieldOf (s.rd (convoyP + oSTATUS)) 11 8 < idx then
    { s with convoy := { s.convoy with cap := some (idx, turnAfter s.clk.tide) } }
  else s

/-- One step of a re-plan (R389), with the region's MARGIN in ps and the codes raised so far. -/
def replanStep (s : State) (r : Nat) (margin : Int) (n : Nat) : State :=
  let v := s.rd (regionP r + 0x40)
  let code := s.regVreq r
  let tier := s.regTier r
  let mark := fun (s : State) => ({ s with pilot := { s.pilot with ledgerDue := true } } : State)
  if ¬ s.idlePage (regionP r) then s
  else if n < 4 ∧ code < 170 then
    (mark (s.modRegion r fun x => { x with replan := some (n + 1), blocked := false })).pilotCommit (regionP r)
      [(regionP r + 0x40, setField v 7 0 (code + 1))]
  else
    let s := s.modRegion r fun x => { x with replan := none }
    if code < 170 then s
    else if margin < 40 ∧ tier < 3 ∧ s.tierAdmits r (tier + 1 + 4 * s.neap.toNat) then
      ((mark (s.modRegion r fun x => { x with blocked := false })).raiseCap r (tier + 1 + 4 * s.neap.toNat)).pilotCommit (regionP r)
        [(regionP r + 0x40, setField v 9 8 (tier + 1))]
    else
      let m := (BitVec.ofInt 16 margin).toNat
      let s := s.modRegion r fun x => { x with blocked := true }
      let s := ((s.raise (regionP r) 0x340 (word (m * 2 ^ 16 + (tier + 1 + 4 * s.neap.toNat) % 16))).event (regionP r) 1).attn
      if margin ≤ 0 then
        let s : State := { s with pilot := { s.pilot with regionOff := s.pilot.regionOff ++ [r], ledgerDue := true } }
        s.regionOff r 0x341 0
      else s

/-- A re-plan may start or go on: no handover, no capture of the region, no FAIL, and no muster (R353, R388, R420,
R481). -/
def mayReplan (s : State) (r : Nat) : Bool :=
  !s.handing && s.captureRegion ≠ some r && !bitOf (s.rd (regionP r + oSTATUS)) 29
    && fieldOf (s.rd (convoyP + oSTATUS)) 31 29 ≠ 1

/-- A manifest load into a context tries the blocked re-plans of its regions again (R389). -/
def retryPlans (s : State) (c : Nat) : State :=
  ((s.getCtx c).regions.filter fun r => (s.getRegion r).blocked && s.power r = 2 && s.mayReplan r && (s.getRegion r).replan = none).foldl
    (fun s r =>
      let m := (BitVec.ofNat 16 (fieldOf (s.getRegion r).gauge 31 16)).toInt
      (s.modRegion r fun x => { x with blocked := false }).replanStep r m 0) s

/-- The smallest margin of the replicas and its index (R385). -/
def worstMargin (l : List (BitVec 16)) : Int × Nat :=
  (l.zip (List.range l.length)).foldl (fun a e => if e.1.toInt < a.1 then (e.1.toInt, e.2) else a)
    ((l.headD 0).toInt, 0)

/-- The Pilot reads a region's gauges (R385 to R390): a reading within 10 ms of a change is discarded (R395). -/
def gaugeReading (s : State) (r : Nat) (margins : List (BitVec 16)) (hits : Nat) : State :=
  let x := s.getRegion r
  if s.power r ≠ 2 ∨ s.clk.time < x.changedAt + 6250000 then s
  else
    let (m, w) := worstMargin (margins.take 12)
    let g := word ((BitVec.ofInt 16 m).toNat * 2 ^ 16 + w * 2 ^ 12 + fieldOf x.gauge 0 0)
    let s := s.setRegion r { x with gauge := g, replicas := margins.take 12, hits := satAdd x.hits hits, hourHits := x.hourHits || decide (0 < hits) }
    if ¬ s.mayReplan r then s
    else match x.replan with
      | some n => if 40 ≤ m then s.modRegion r fun x => { x with replan := none } else s.replanStep r m n
      | none => if m < 20 ∨ 0 < hits then s.replanStep r m 0 else s

/-- The hourly point of the plan for a region (R388). -/
def hourlyPlan (s : State) (r : Nat) : State :=
  let x := s.getRegion r
  let m := (BitVec.ofNat 16 (fieldOf x.gauge 31 16)).toInt
  let s := s.setRegion r { x with hourHits := false }
  if s.power r = 2 ∧ s.mayReplan r ∧ x.replan = none ∧ x.changedAt + 6250000 ≤ s.clk.time ∧ (m < 40 ∨ x.hourHits ∨ x.blocked) then s.replanStep r m 0
  else s

/-- A synthesizer loses lock (R380): a region's is 0x312; the tide's or the control complex's stops the heartbeat. -/
def synthLoss (s : State) : Synth → State
  | .region r => if s.power r = 2 then s.regionOff r 0x312 0 else s
  | .tide => { s with pilot := { s.pilot with stopped := true } }
  | .control => { s with pilot := { s.pilot with stopped := true } }

/-! The Channel. -/

/-- PART of R257. -/
def partNo : ChPart → Nat
  | .router => 0
  | .borderLock => 1
  | .memoryPort => 2
  | .regionSwitch => 3
  | .blockSwitchLock => 4

/-- The packet whose flit of virtual channel `vc` from core `src` stands foremost at a part of the Channel; `second` asks for
the data flit behind a first one (R253, R257). -/
def flitAt (s : State) (r : Nat) (part : ChPart) (vc gr gc src : Nat) (second : Bool) : Option Packet :=
  ((((s.net.filter fun l => l.endsAt s.build part r gr gc).flatMap fun l => l.flits vc).find? fun f =>
    f.pkt.core = src && (!second || (f.tail && decide (1 < f.pkt.len))))).map (·.pkt)

/-- A packet is discarded and counted (R257, R269, R270). -/
def discardFlit (s : State) (r : Nat) (p : Option Packet) : State :=
  let s := s.count (regionP r + 0xA0) 1
  match p with
  | some p => s.dropPacket p
  | none => s

/-- The check of a flit that has come to a part of the Channel (R253, R257, R269, R270, R482); its way on is the
Channel's own (R260). A flit of traffic that State does not hold as packets is checked as well. -/
def flitArrival (s : State) (r : Nat) (part : ChPart) (vc gr gc src : Nat) (second : Bool) (found : Ecc) : State :=
  let x := s.getRegion r
  let p := s.flitAt r part vc gr gc src second
  if x.frozen ∨ ¬ x.clockOn ∨ s.power r ≠ 2 then s.discardFlit r p
  else
    match found with
    | .clean => s
    | .single => (s.raise (regionP r) 0x106 0 none 1).count (regionP r + 0x9C) 1
    | .double =>
      let where_ := if part = .blockSwitchLock then 0xFFF else gr % 64 * 64 + gc % 64
      let info := word (partNo part * 2 ^ 29 + vc % 8 * 2 ^ 26 + where_ * 2 ^ 12 + src % 2 ^ 12)
      let c := if src < s.build.physCores then (s.getCore src).ctx else s.regionCtx r
      (s.discardFlit r p).regionFault r 0x311 info c

/-- The share of a frame of 64 tt that a context may take at a quay port (R261). -/
def shareOf (s : State) (c : Nat) : Nat := 64 * (s.getCtx c).regions.length / max 1 s.build.regions

/-- The time a demand list leaves each context after the share is granted. -/
def grantFirst (s : State) : List (Nat × Nat) → List (Nat × Nat)
  | [] => []
  | (c, d) :: l => (c, min d (s.shareOf c)) :: s.grantFirst l

/-- Time left in the frame goes to contexts that want more, in order of their numbers (R261). -/
def grantMore : Nat → List (Nat × Nat) → List (Nat × Nat) → List (Nat × Nat) × Nat
  | left, (c, d) :: l, (_, g) :: m =>
    let more := min left (d - g)
    let r := grantMore (left - more) l m
    ((c, g + more) :: r.1, r.2)
  | left, _, _ => ([], left)

/-- One frame of a quay port (R261): what each context's stream traffic and, under number 16, BK traffic was granted. -/
def shareFrame (s : State) (quay : Nat) (demand : List (Nat × Nat)) (bk : Nat) : State :=
  let l := (List.range 16).filterMap fun c =>
    if s.ctxState c = 0 then none else (demand.find? fun d => d.1 = c)
  let first := s.grantFirst l
  let r := grantMore (64 - (first.map (·.2)).sum) l first
  { s with share := Tab.put s.share quay (r.1 ++ [(16, min bk r.2)]) }

end State

/-- A region samples the tide (R162). -/
def execTideStep (region sample : Nat) (parityOk : Bool) (s : State) : Out :=
  actRegion region (region < s.build.regions) (fun s => s.tideStep region sample parityOk) s

/-- A raised frequency applies (R383). -/
def execFrequencyRise (region : Nat) (s : State) : Out :=
  actAt (region < s.build.regions) (fun s => s.frequencyRise region) s

/-- A lower voltage code is driven (R383). -/
def execLowerVreq (region : Nat) (s : State) : Out :=
  actAt (region < s.build.regions) (fun s => s.lowerVreq region) s

/-- VREQ_ACK goes high (R443). -/
def execVreqAck (region : Nat) (s : State) : Out :=
  actAt (region < s.build.regions) (fun s => s.vreqAck region) s

/-- VREQ_ACK stays low for 1 ms (R383). -/
def execVreqTimeout (region : Nat) (s : State) : Out :=
  actAt (region < s.build.regions) (fun s => s.vreqTimeout region) s

/-- VREQ_ACK falls unasked (R395). -/
def execVreqAckFall (region : Nat) (s : State) : Out :=
  actAt (region < s.build.regions) (fun s => s.vreqAckFall region) s

/-- The gauges are read (R387). -/
def execGaugeReading (region : Nat) (margins : List (BitVec 16)) (hits : Nat) (s : State) : Out :=
  actAt (region < s.build.regions) (fun s => s.gaugeReading region margins hits) s

/-- A synthesizer loses lock (R380). -/
def execSynthLockLoss (which : Synth) (s : State) : Out :=
  let present := match which with
    | .region r => decide (r < s.build.regions)
    | .tide => true
    | .control => true
  actAt present (fun s => s.synthLoss which) s

/-- A flit arrives at a router, switch or lock (R257). -/
def execFlitArrival (region : Nat) (part : ChPart) (vc gr gc src : Nat) (dataFlit : Bool) (found : Ecc) (s : State) :
    Out :=
  actAt (partHere s.build part region gr gc) (fun s => s.flitArrival region part vc gr gc src dataFlit found) s

/-- A frame of a quay port ends (R261). -/
def execQuayShareFrame (quay : Nat) (scDemand : List (Nat × Nat)) (bkDemand : Nat) (s : State) : Out :=
  actAt (quay < s.build.quays) (fun s => s.shareFrame quay scDemand bkDemand) s

end Sys2Proof.Machine
end

