-- ==== Sys2Proof/Machine/Recovery.lean ====
section
/-! DEFINITION. Tide hold and resume (R155 to R158, R173 to R175, R303), the pair gate (R361), detach, rebuild and salvage
(R365, R366, R368, R372, R376), the Pilot's mirror (R363), and replay (R371). -/

namespace Sys2Proof.Machine

/-- REBUILD_TICKS of R366: from T_q to T_r. -/
def rebuildTicks : Nat := 11250

namespace State

/-! Hold and resume. -/

/-- A write of HOLD_REQ (R173): outside RUNNING the bit clears at once and 0x600 is recorded. -/
def wrHold (c : Nat) (v : Word) (s : State) : Option State :=
  if ¬ bitOf v 0 then some s
  else if s.ctxState c ≠ 2 then none
  else some ((s.wr (ctxP c + 0x6C) 1).holdCtx c (s.sched c))

/-- The hold reaches a core (R156); HOLD_REQ clears when it has reached every core. -/
def holdArrival (s : State) (k : Nat) : State :=
  match (s.getCore k).ctx with
  | none => s
  | some c =>
    if s.ctxState c ≠ 3 ∧ s.ctxState c ≠ 5 then s
    else
      let s := s.modCore k fun x => { x with held := true }
      if (s.coresOf c).all fun j => (s.getCore j).held then s.wr (ctxP c + 0x6C) 0 else s

/-- A write of RESUME_TIDE_HI arms the resume (R174, R175, R191, R192). -/
def wrResume (c v : Nat) (s : State) : Option State :=
  if s.ctxState c ≠ 3 then none
  else
    let a := ctxP c + 0x88
    let want := v + (s.getCtx c).offset
    let late := v ≤ s.rd64 (ctxP c + 0x80) ∨ want < s.clk.tide + commitLead
    let stamp := if late then turnAfter s.clk.tide else want
    let s := s.wr64 a v
    let s := if late then s.raise (ctxP c) 0x804 else s
    match s.groups.find? fun g => g.want = want with
    | some g =>
      let e := max g.stamp stamp
      let s := { s with groups := s.groups.map fun (x : Group) => if x.want = want then { x with stamp := e } else x }
      let s := (s.resumesAt want).foldl (fun s d => s.modCtx d fun x => { x with resume := some (want, e) }) s
      some (s.modCtx c fun x => { x with resume := some (want, e) })
    | none => some (s.modCtx c fun x => { x with resume := some (want, stamp) })

/-- A stream that halted for a page restarts at its saved line (R157). -/
def wake (x : Stream) : Stream :=
  if x.cause = 1 then { x with halted := false, cause := 0, idxHalt := false } else x

/-- The core resumes. -/
def wakeCore (x : Core) : Core :=
  { x with held := false, loads := x.loads.map fun e => (e.1, wake e.2), stores := x.stores.map fun e => (e.1, wake e.2) }

/-- The legs of a context without the cores of `lost`. -/
def legWithout (lost : List Nat) (g : LegRun) : LegRun :=
  let cores := g.cores.filter fun e => !lost.contains e.1
  { g with cores := cores, inits := g.inits.filter (fun i => !lost.contains i.1), barrier := cores.length,
           flags := g.flags.filter fun f => !lost.contains f.1 }

/-- The legs and the barrier unit forget the cores of a side that has stopped (R365). -/
def legsForget (lost : List Nat) (y : Ctx) : Ctx :=
  let open_ := ((y.legs.filter fun g => g.begun).getLast?).elim 0 fun (g : LegRun) =>
    (g.cores.filter fun e => lost.contains e.1).length
  { y with legs := y.legs.map (legWithout lost), barrierIn := y.barrierIn.filter (fun k => !lost.contains k),
           barrierCount := y.barrierCount - open_ }

/-- The rebuild of a side ends at T_r (R154, R366, R376): every core of the side serves, or the side stays detached. -/
def rebuildEnd (s : State) (c : Nat) : State :=
  let side := 1 - fieldOf (s.rd (ctxP c + 0xAC)) 29 29
  let s := s.modCtx c fun x => { x with rebuildAt := none }
  if (s.coresOf c).all fun k => s.sideOf k ≠ side || ((s.getCore k).state = 1 && s.clocked (s.regionOf k)) then
    let code := (s.getCtx c).lostBy
    let s := s.modCtx c fun x => { x with failed := [], lostBy := 0 }
    (((s.setPairState c 1).count (ctxP c + 0xD0) 1).logEntry (ctxP c) code 0 (some c) 3)
  else
    let lost := (s.coresOf c).filter fun k => s.sideOf k = side
    let s := lost.foldl (fun s k => s.modCore k fun x => { x with state := if x.state = 3 then 3 else 2 }) s
    (s.modCtx c (legsForget lost)).setPairState c 2

/-- T_r is reached (R157): every core resumes, and schedule time is back at T_f. The context enters RUNNING again, so the next
launch runs its prefetch variant (R154, R300). -/
def resumeAt (s : State) (c : Nat) : State :=
  match (s.getCtx c).resume with
  | none => s
  | some (want, stamp) =>
    if s.ctxState c ≠ 3 ∨ s.clk.tide < stamp ∨ s.groups.any (fun g => g.want = want) then s
    else
      let tf := s.rd64 (ctxP c + 0x80)
      let s := s.modCtx c fun x => { x with resume := none, offset := stamp - tf, prefetch := true }
      let s := s.wr64 (ctxP c + 0x70) (stamp - tf)
      let s := (s.coresOf c).foldl (fun s k => s.modCore k wakeCore) s
      let s := s.setCtxState c 2
      if (s.getCtx c).rebuildAt.isSome then s.rebuildEnd c else s

/-- A write of TLB_INVAL (R303). -/
def wrTlbInval (c : Nat) (v : Word) (s : State) : Option State :=
  some (if bitOf v 0 then s.modCtx c fun x => { x with tlb := [] } else s)

/-! The pair gate. -/

/-- Two held requests agree (R361). -/
def gateAgree (a b : GateReq) : Bool :=
  match a.write, b.write with
  | some x, some y => x.pa = y.pa && x.data = y.data
  | none, none => a.op = b.op
  | _, _ => false

/-- A request goes on from the gate, acknowledged to the cores of `l` (R361). -/
def gateForward (s : State) (c : Nat) (g : GateReq) (l : List GateReq) : State :=
  match g.write, g.op with
  | some w, _ =>
    if w.pa / 2 ^ 40 ≠ 0 then s.sendRemote w (l.filterMap (·.write))
    else s.toQuay { id := w.id, quay := 0, pa := w.pa, len := w.len, write := true, source := c, reqs := l.filterMap (·.write),
                    region := w.region, port := .basin w.region }
  | none, some (a, sub, n) => s.bbolLeaves g.core ⟨a, sub, n, false, 0, g.mindex, l.map fun h => (h.core, h.ack)⟩
  | none, none => s

/-- The oldest requests of both twins on one path are compared and forwarded once, or raise 0x960 (R361). -/
def gateMatch (s : State) (c mindex path : Nat) : State :=
  let y := s.getCtx c
  let head := fun (side : Nat) => y.gate.find? fun g => g.mindex = mindex && g.path = path && g.side = side
  match head 0, head 1 with
  | some a, some b =>
    if ¬ (y.paired ∧ s.pairState c = 1) then s
    else if gateAgree a b then
      (s.modCtx c fun y => { y with gate := (y.gate.erase a).erase b }).gateForward c a [a, b]
    else s.ctxFatal c 0x960 (word (path % 8 * 2 ^ 12 + mindex % 2 ^ 12))
  | _, _ => s

/-! Detach, salvage, rebuild. -/

/-- A packet comes from or goes to one of these cores. -/
def ofCores (l : List Nat) (p : Packet) : Bool :=
  let here := fun (x : Port) => match x with
    | .core k | .mem k => l.contains k
    | _ => false
  here p.src || here p.dst

/-- What the Channel holds for some cores is drained, its credits returned (R372). -/
def drainNet (s : State) (l : List Nat) : State :=
  ((s.packetsAt fun _ => true).filter (ofCores l)).foldl (fun s p => s.dropPacket p) s

/-- Salvage of cores (R372): what the Channel holds for them is drained, responses due to them are sunk, fences that await
them are answered, their watched copies are released. -/
def salvage (s : State) (l : List Nat) : State :=
  let keep := fun (r : LineReq) => r.store || !l.contains r.core
  let s := s.drainNet l
  let s := { s with quays := s.quays.map fun (q : QReq) => if q.write then q else { q with reqs := q.reqs.filter keep } }
  let s := (List.range s.build.regions).foldl (fun s r =>
    if (s.getRegion r).requests.isEmpty ∧ (s.getRegion r).fills.isEmpty then s
    else s.modRegion r fun x =>
      { x with requests := x.requests.filter fun q => !l.contains q.core,
               fills := x.fills.map fun f => ({ f.1 with reqs := f.1.reqs.filter keep }, f.2) }) s
  let answer := fun (x : Core) =>
    { x with fences := x.fences.map fun (f : Fence) => { f with probes := f.probes.filter fun p => !l.contains p.1 },
             posted := x.posted.filter fun p => !l.contains p.1 }
  let s := { s with core := s.core.map fun e => (e.1, answer e.2) }
  l.foldl (fun s k => s.modCore k fun x => { x with inbox := [], arrivals := [], watched := [] }) s

/-- A side of a Paired context is detached (R365): its cores stop and are salvaged, the other side leads, the gate drops
the side's requests and forwards the lead side's, the barrier forgets it. -/
def detachSide (s : State) (c : Nat) : State :=
  let y := s.getCtx c
  match y.detach with
  | none => s
  | some (side, _) =>
    if ¬ (y.paired ∧ s.pairState c = 1) ∨ s.handing then s
    else
      let lost := (s.coresOf c).filter fun k => s.sideOf k = side
      let s := lost.foldl (fun s k => s.modCore k fun x => { x with state := if x.state = 3 then 3 else 2 }) s
      let s := s.salvage (lost.filter fun k => !(s.getRegion (s.regionOf k)).frozen)
      let go := y.gate.filter fun g => g.side ≠ side
      let s := s.modCtx c fun y => legsForget lost { y with detach := none, gate := [] }
      let s := go.foldl (fun s g => s.gateForward c g [g]) s
      let s := s.wrField (ctxP c + 0xAC) 29 29 (1 - side)
      (s.setPairState c 2).count (ctxP c + 0xCC) 1

/-- A spare's segments are being powered for a rebuild or a replay. -/
def reserved (s : State) (k : Nat) : Bool := s.ctx.any fun e => e.2.spares.any fun p => p.2 = k

/-- A free spare of a region: it serves nobody, has not failed and is not taken (R366, R371). -/
def spareOf (s : State) (r : Nat) (taken : List Nat) : Option Nat :=
  ((List.range s.build.spares).map fun i => r * s.build.stride + s.build.active + i).find? fun k =>
    !taken.contains k && !s.reserved k && !(s.subst.any fun e => e.2 = k) && (s.getCore k).state = 0 && (s.getCore k).ctx = none && s.power r = 2 && !(s.getRegion r).frozen

/-- A spare can hold a failed core's Wharf image: it does, or the image was recorded with a host address (R294). -/
def imageFits (s : State) (f t : Nat) : Bool :=
  let p := activePlane (s.getCore f)
  p.state ≠ 2 || (activePlane (s.getCore t)).id = p.id || p.src.isSome

/-- A spare for each failed core, or none when one is missing (R366, R368). -/
def sparesFor (s : State) : List Nat → List Nat → Option (List (Nat × Nat))
  | [], _ => some []
  | f :: l, taken =>
    match s.spareOf (s.regionOf f) taken with
    | none => none
    | some t =>
      if s.imageFits f t then (s.sparesFor l (t :: taken)).map fun m => (f, t) :: m else none

/-- The segments of spares are powered to the BERTH_GATE of the cores whose places they take (R118, R366): a commit for each
that differs and has none pending. -/
def powerSpares (s : State) (l : List (Nat × Nat)) : State :=
  l.foldl (fun s e =>
    let v := s.rd (coreP e.1 + 0x44)
    if s.rd (coreP e.2 + 0x44) = v ∨ ¬ s.idlePage (coreP e.2) then s
    else s.pilotCommit (coreP e.2) [(coreP e.2 + 0x44, v)]) s

/-- The segments of spares are ready (R119). -/
def sparesReady (s : State) (l : List (Nat × Nat)) : Bool :=
  l.all fun e => s.rd (coreP e.1 + 0x44) &&& ~~~(s.rd (coreP e.2 + 0x48)) = 0

/-- A spare takes a failed core's place (R294, R355, R366, R371): the image of the failed core's active plane is loaded into its
staging plane, which becomes active unless it has that image already; then a verified staging image follows. The detour is
entered, and the failed core is withdrawn. -/
def placeSpare (s : State) (c f t : Nat) : State :=
  let s := if s.updStage = 1 ∧ s.updKind = 2 ∧ (stagePlane (s.getCore t)).state = 1 then
      (s.wload.foldl (fun s e =>
        if e.2.alone ∧ e.2.regions.contains (s.regionOf t) then
          (s.wloadReject e.2 true 0x604).wloadResolve e.1 0 { e.2 with code := 0x604 }
        else s) s).updFail 0x604
    else s
  let x := s.getCore f
  let y := s.getCore t
  let same := (activePlane x).state ≠ 2 ∨ (activePlane y).id = (activePlane x).id
  let y := if same then y else usePlane (setStage y (activePlane x)) (s.coreRc t) (!y.activeB)
  let y := if (stagePlane x).state = 2 ∧ (stagePlane x).src.isSome then setStage y (stagePlane x) else y
  let s := s.setCore t { y with state := 1, ctx := some c, mindex := x.mindex }
  let sel := wharfP (s.regionOf t) + 0x50 + 4 * (s.build.localOf t / 32)
  let s := s.wr sel (setBit (s.rd sel) (s.build.localOf t % 32) y.activeB)
  let s := s.setCore f { x with state := 3, ctx := none }
  let s := { s with subst := s.subst ++ [(f, t)] }
  s.modCtx c fun z =>
    { z with detours := (z.detours.filter fun e => e.2 ≠ f) ++ [(x.mindex, t)], failed := z.failed.filter (· ≠ f) }

/-- A stream's target on the other side. -/
def mirrorTarget (s : State) (c side : Nat) (x : Stream) : Stream :=
  { x with target := x.target.bind fun k => s.physOf c side (s.getCore k).mindex }

/-- A stream's decisions as a core in another region sees them: made before its clock's present cycle (R216). -/
def settled (p : Prog) : Prog := { p with decisions := p.decisions.map fun d => (d.1, d.2.1, 0) }

/-- The state of a lead core copied to its twin's position (R366): its engines, registers, counters, streams and memories. What
belongs to the place stays: planes, segments, and what is measured in the region's cycles. -/
def copyCore (s : State) (c k t : Nat) : State :=
  let x := s.getCore k
  let y := s.getCore t
  let side := s.sideOf t
  let s := s.setCore t
    { x with state := 1, ctx := y.ctx, mindex := y.mindex, held := true, planeA := y.planeA, planeB := y.planeB,
             activeB := y.activeB, switchTo := y.switchTo, flops := y.flops, muxLow := y.muxLow, lane := {}, gating := y.gating,
             readying := y.readying, digest := 0, inbox := [], acks := [], posted := [], watched := [],
             progs := x.progs.map fun e => (e.1, settled e.2), eng := x.eng.map fun e => (e.1, { e.2 with issueRc := none }),
             ctrOld := x.ctr, cmpOld := x.cmp, cRc := 0, lineRc := [], port := [], brkRc := y.brkRc, brkHold := none,
             lateRef := y.lateRef,
             loads := x.loads.map fun e => (e.1, s.mirrorTarget c side e.2),
             stores := x.stores.map fun e => (e.1, s.mirrorTarget c side e.2) }
  (liveBollards x).foldl (fun s b => s.wr (coreP t + 0x200 + 4 * b) (word (s.bol k b))) s

/-- The Channel holds nothing of a core. -/
def noTraffic (s : State) (k : Nat) : Bool := !((s.packetsAt fun _ => true).any (ofCores [k]))

/-- Nothing of a core is in progress (R156, R366). -/
def quiet_ (s : State) (k : Nat) : Bool :=
  let x := s.getCore k
  x.held && x.mx.all (·.dead) && x.vx.all (·.dead) && x.arrivals.isEmpty && x.inbox.isEmpty && x.acks.isEmpty
    && x.retiring.isEmpty && x.bound.isEmpty && x.fences.isEmpty && x.mxLands.isEmpty && x.vxLands.isEmpty && x.ldLands.isEmpty
    && x.bolOps.isEmpty && x.chartOps.isEmpty && x.dimOps.isEmpty && s.noTraffic k
    && !(s.quays.any fun q => q.reqs.any fun r => r.core = k)
    && !((s.getRegion (s.regionOf k)).requests.any fun r => r.core = k)
    && !(s.remote.any fun r => r.core = k)

/-- A leg gains the twins `twin` of its cores: the streams copied keep their numbers (R366). -/
def legTwins (twin : Nat → Option Nat) (g : LegRun) : LegRun :=
  let cores := g.cores ++ g.cores.filterMap fun e => (twin e.1).map fun k => (k, e.2)
  { g with cores := cores, inits := g.inits ++ g.inits.filterMap (fun i => (twin i.1).map fun k => (k, i.2)),
           barrier := cores.length, flags := g.flags ++ g.flags.filterMap fun f => (twin f.1).map fun k => (k, f.2) }

/-- The copy and the detours of a rebuild, and its resume at T_q + 11,250 tt (R366). -/
def rebuildCopy (s : State) (c : Nat) (spares : List (Nat × Nat)) : State :=
  let lead := fieldOf (s.rd (ctxP c + 0xAC)) 29 29
  let s := spares.foldl (fun s e => s.placeSpare c e.1 e.2) s
  let s := (s.coresOf c).foldl (fun s k =>
    if s.sideOf k = lead then
      match s.physOf c (1 - lead) (s.getCore k).mindex with
      | some t => s.copyCore c k t
      | none => s
    else s) s
  let s := (s.coresOf c).foldl (fun s k => s.modCore k fun x => { x with digest := 0 }) s
  let twin := fun (k : Nat) =>
    if (s.coresOf c).contains k ∧ s.sideOf k = lead then s.physOf c (1 - lead) (s.getCore k).mindex else none
  let s := s.modCtx c fun y =>
    { y with rebuildAt := some 1, spares := [], legs := y.legs.map (legTwins twin), barrierCount := 2 * y.barrierCount,
             barrierIn := y.barrierIn ++ y.barrierIn.filterMap twin }
  let t := s.clk.tide + rebuildTicks
  (s.wr64 (ctxP c + 0x88) (t - (s.getCtx c).offset)).modCtx c fun y => { y with resume := some (t, t) }

/-- The spares that a rebuild has chosen, while they can still serve; else a choice anew (R366, R368). -/
def rebuildSpares (s : State) (c : Nat) (failed : List Nat) : Option (List (Nat × Nat)) :=
  let l := (s.getCtx c).spares
  if l.map (·.1) = failed ∧ l.all (fun e => (s.getCore e.2).state = 0) then some l else s.sparesFor failed []

/-- The rebuild of a detached side (R366, R368): the segments of its spares are powered, then the context is held, then, once
the lead side is quiet, the copy is made. -/
def rebuildSide (s : State) (c : Nat) : State :=
  let y := s.getCtx c
  let side := 1 - fieldOf (s.rd (ctxP c + 0xAC)) 29 29
  let failed := y.failed.filter fun k => s.sideOf k = side
  if ¬ y.paired ∨ s.handing then s
  else if y.rebuildAt = none ∧ s.pairState c = 2 ∧ s.ctxState c = 2 then
    let up := (s.sideRegions c side).all fun r => s.power r = 2 && !(s.getRegion r).frozen
    match s.rebuildSpares c failed with
    | some l =>
      if ¬ up then s
      else if s.sparesReady l then
        ((s.setPairState c 3).modCtx c fun y => { y with rebuildAt := some 0, spares := l }).holdCtx c (s.sched c)
      else (s.modCtx c fun y => { y with spares := l }).powerSpares l
    | none => (s.event faultP 2).attn
  else if y.rebuildAt = some 0 ∧ s.pairState c = 3 ∧ s.ctxState c = 3 then
    if ((s.coresOf c).filter fun k => s.sideOf k ≠ side).all s.quiet_ then
      match s.rebuildSpares c failed with
      | some l => if s.sparesReady l then s.rebuildCopy c l else (s.modCtx c fun y => { y with spares := l }).powerSpares l
      | none => s
    else s
  else s

/-! The mirror. -/

/-- The significant bits of a mirrored register of a region, or none when it is not one (R363, R364). -/
def mirrorMask (s : State) (r a : Nat) : Option Word :=
  if a = basinP r + 0x40 then some 0xFFFFFFFF
  else if a = regionP r + 0x40 then some 0x3FF
  else if a = wharfP r + 0x50 ∨ a = wharfP r + 0x54 then some 0xFFFFFFFF
  else if a = wharfP r + 0x58 then some 0xF
  else if (pageOf a).1 = 0x30 ∧ a % 0x1000 = 0x44 ∧ (pageOf a).2 < s.build.physCores ∧ s.regionOf (pageOf a).2 = r then
    some 0xFFFFFF
  else none

/-- The Pilot compares a region's registers with its mirror (R363): `upset` is a register that does not hold its value. -/
def mirrorCheck (s : State) (r : Nat) : Option (Nat × Word) → State
  | none => s
  | some (a, v) =>
    match s.mirrorMask r a with
    | none => s
    | some m =>
      if s.power r ≠ 2 ∨ (v ^^^ s.rd a) &&& m = 0 then s
      else
        let fix := (a, s.rd a, turnAfter s.clk.tide)
        let s := { s.wr a (v &&& m) with pilot := { s.pilot with fixes := s.pilot.fixes ++ [fix] } }
        s.regionFault r 0x330 0 (s.regionCtx r)

/-! Replay. -/

/-- RESULT of a replay is written and GO clears (R371). -/
def replayResult (s : State) (c n : Nat) : State := (s.wr (ctxP c + 0xB0) (word (n * 16))).event (ctxP c) 4

/-- The contents of a context go: bollards, berths, ways (R128, R371). -/
def wipeCtx (s : State) (c : Nat) : State :=
  let s := (s.coresOf c).foldl (fun s k =>
    let s := (List.range 64).foldl (fun s b => s.wr (coreP k + 0x200 + 4 * b) 0) s
    s.modCore k fun x => { x with wb := {}, ab := {}, pb := {}, bolOps := [] }) s
  let b := (s.rd (ctxP c + 0x90)).toNat
  let n := (s.rd (ctxP c + 0x94)).toNat
  let s := { s with bbol := s.bbol.filter fun e => e.1 < b || decide (b + n ≤ e.1) }
  (s.getCtx c).regions.foldl (fun s r =>
    s.modRegion r fun x => { x with basin := x.basin.filter fun l => l.ctx ≠ c, unpinned := [] }) s

/-- A core forgets what it was doing. -/
def idleCore (x : Core) : Core :=
  { x with held := false, progs := [], last := 0, eng := [], ctr := [], cmp := [], ctrOld := [], cmpOld := [],
           cRc := 0, bolOps := [], chartOps := [], dimOps := [], retiring := [], mx := [], vx := [], mxLands := [], vxLands := [],
           ldLands := [], lane := {}, tile := 0, records := 0, quants := [], loads := [], stores := [], arrivals := [],
           inbox := [], bound := [], fences := [], acks := [], posted := [], watched := [], digest := 0, lineRc := [],
           lastSlot := [], port := [], brkHold := none }

/-- Crew firmware translates the registered voyages for a core (R371). -/
def translateAll (s : State) (c k : Nat) : State :=
  (s.getCtx c).voyages.foldl (fun s v => s.translateVoyage c k v.1 v.2.legs) s

/-- The Pilot begins a replay, or refuses it (R371). -/
def replayBegin (s : State) (c : Nat) : State :=
  let y := s.getCtx c
  if s.ctxState c ≠ 4 then s.replayResult c 2
  else if y.r68 ∨ r68Code y.lostBy ∨ (y.lostBy / 256 = 9 ∧ y.lostBy ≠ 0x950) then s.replayResult c 3
  else if s.pilot.crewDown then s.replayResult c 5
  else if ¬ (y.regions.all fun r => s.power r = 2) then s.replayResult c 4
  else match s.sparesFor y.failed [] with
    | none => s.replayResult c 4
    | some l =>
      let s := s.salvage (s.coresOf c)
      let s := s.wipeCtx c
      let s := l.foldl (fun s e => (s.placeSpare c e.1 e.2).translateAll c e.2) s
      let s := (s.coresOf c).foldl (fun s k => s.modCore k fun x => { idleCore x with state := 1 }) s
      let s := s.modCtx c fun y =>
        { y with prefetch := true, barrierCount := 0, barrierIn := [], gate := [], detach := none, lostBy := 0,
                 failed := [], prevEnd := 0, spares := l, replaying := true }
      let s := if y.paired then (s.setPairState c 1).wrField (ctxP c + 0xAC) 29 29 0 else s
      s.powerSpares l

/-- A replay that waits for the end of a Pilot handover begins (R353); it ends once the segments of its spares are ready:
the context runs, RESULT is written, and GO clears (R371). -/
def replayDue (s : State) (c : Nat) : State :=
  let y := s.getCtx c
  if ¬ y.replaying then (if bitOf (s.rd (ctxP c + 0xB0)) 0 && !s.handing then s.replayBegin c else s)
  else if s.sparesReady y.spares then
    ((s.modCtx c fun y => { y with replaying := false, spares := [] }).setCtxState c 2).replayResult c 1
  else s.powerSpares y.spares

/-- A write of CTX_REPLAY (R371). A refusal answers at once; an accepted replay without spares to power ends at once. -/
def wrReplay (c : Nat) (v : Word) (s : State) : Option State :=
  if ¬ bitOf v 0 ∨ (s.getCtx c).replaying then some s
  else
    let s := s.wr (ctxP c + 0xB0) 1
    if s.handing then some s
    else
      let s := s.replayBegin c
      some (if (s.getCtx c).replaying then s.replayDue c else s)

end State

/-- A write of HOLD_REQ (R173). -/
def execHoldReq (party : Party) (ctx : Nat) (s : State) : Out :=
  actAt (ctx < 16) (fun s => s.write party (ctxP ctx + 0x6C) (State.wrHold ctx 1)) s

/-- The hold reaches a core (R156). -/
def execHoldArrival (core : Nat) (s : State) : Out :=
  actCore core (core < s.build.physCores) (fun s => s.holdArrival core) s

/-- A write of RESUME_TIDE_HI (R174, R454). -/
def execResumeTide (party : Party) (ctx : Nat) (hi : Word) (s : State) : Out :=
  actAt (ctx < 16) (fun s => s.write party (ctxP ctx + 0x8C) (fun s => State.wrResume ctx (s.formed party (ctxP ctx + 0x8C) hi) s)) s

/-- A context resumes (R157). -/
def execResume (ctx : Nat) (s : State) : Out := actAt (ctx < 16) (fun s => s.resumeAt ctx) s

/-- A write of TLB_INVAL (R303). -/
def execTlbInval (party : Party) (ctx : Nat) (s : State) : Out :=
  actAt (ctx < 16) (fun s => s.write party (ctxP ctx + 0x64) (State.wrTlbInval ctx 1)) s

/-- A side is detached (R365). -/
def execCoreFaultDetach (ctx : Nat) (s : State) : Out := actAt (ctx < 16) (fun s => s.detachSide ctx) s

/-- Twin requests meet at the pair gate (R361). -/
def execPairGateMatch (ctx mindex path : Nat) (s : State) : Out :=
  actAt (ctx < 16) (fun s => s.gateMatch ctx mindex path) s

/-- A detached side is rebuilt (R366). -/
def execRebuild (ctx : Nat) (s : State) : Out := actAt (ctx < 16) (fun s => s.rebuildSide ctx) s

/-- The Pilot checks a region against its mirror (R363). -/
def execConfigMirrorCheck (region : Nat) (upset : Option (Nat × Word)) (s : State) : Out :=
  actAt (region < s.build.regions) (fun s => s.mirrorCheck region upset) s

/-- A write of GO to CTX_REPLAY (R371). -/
def execCtxReplay (party : Party) (ctx : Nat) (s : State) : Out :=
  actAt (ctx < 16) (fun s => s.write party (ctxP ctx + 0xB0) (State.wrReplay ctx 1)) s

end Sys2Proof.Machine
end

