-- ==== Sys2Proof/Machine/Contexts.lean ====
section
/-! DEFINITION. Contexts: OPEN, START, DESTROY and teardown (R299 to R301, R326 to R329), and the queues that serve them:
binding, doorbells, item fetch and completion (R305 to R312, R330 to R332), host-quay reads (R427). -/

namespace Sys2Proof.Machine

/-- Regions of a mask form a rectangle of the region grid (R252). -/
def rectangle (b : Build) (l : List Nat) : Bool :=
  let rows := l.map (· / b.gridCols)
  let cols := l.map (· % b.gridCols)
  let r0 := rows.foldl min 16
  let c0 := cols.foldl min 16
  l.length = (rows.foldl max 0 + 1 - r0) * (cols.foldl max 0 + 1 - c0)

/-- The spare that serves in a withdrawn core's place, in the end (R343, R366). -/
def substOf (l : List (Nat × Nat)) : Nat → Nat → Nat
  | 0, k => k
  | n + 1, k => match l.find? fun e => e.1 = k with
    | some e => substOf l n e.2
    | none => k

namespace State

/-! Contexts. -/

/-- RESULT is written and CMD clears (R301, R329). -/
def ctxResult (s : State) (c n : Nat) : State := (s.wr (ctxP c + oCTRL) (word (n * 16))).event (ctxP c) 2

/-- A block-bollard range of `n` bollards that no context holds: the lowest (R236, R301). -/
def bbolRange (s : State) (n : Nat) : Option Nat :=
  ((List.range 64).map (· * 64)).find? fun b =>
    decide (b + n ≤ 4096) && (List.range 16).all fun c =>
      let x := (s.rd (ctxP c + 0x90)).toNat
      let y := (s.rd (ctxP c + 0x94)).toNat
      y = 0 || decide (b + n ≤ x) || decide (x + y ≤ b)

/-- The first check of an OPEN that fails, as its RESULT, or 1 (R301). -/
def openCheck (s : State) (c : Nat) : Nat :=
  let v := s.rd (ctxP c + 0x40)
  let regs := (List.range 16).filter fun r => bitOf v (16 + r)
  let ways := (List.range 16).filter fun w => bitOf v w
  let q := s.rd (ctxP c + 0x44)
  let n := fieldOf q 6 0
  if s.ctxState c ≠ 0 ∨ s.pilot.crewDown then 2
  else if regs.isEmpty ∨ ¬ (regs.all fun r => decide (r < s.build.regions) && s.power r = 2 && !s.regionHeld r)
      ∨ ¬ rectangle s.build regs then 3
  else if s.pairedMode ∧ ¬ (regs.all fun r => regs.contains (r ^^^ 1)) then 4
  else if ways.isEmpty ∨ ¬ (regs.all fun r => ways.all fun w => s.wayUse r w = 0) then 5
  else if n < fieldOf q 13 7 ∨ (s.bbolRange (64 * n)).isNone then 6
  else 1

/-- The cores of a region come to serve a context (R177, R360). -/
def takeRegion (s : State) (c r : Nat) : State :=
  (List.range s.build.active).foldl (fun s l =>
    let home := r * s.build.stride + l
    let k := substOf s.subst 8 home
    match s.mindexOfHome c (r % 2) home with
    | none => s
    | some m =>
      let s := if k = home then s else s.modCtx c fun x => { x with detours := x.detours ++ [(m, k)] }
      s.modCore k fun x => { x with state := if x.state = 3 then 3 else 1, ctx := some c, mindex := m, held := false }) s

/-- An OPEN that is accepted (R301). -/
def openAccept (s : State) (c : Nat) : State :=
  let v := s.rd (ctxP c + 0x40)
  let regs := (List.range 16).filter fun r => bitOf v (16 + r)
  let ways := (List.range 16).filter fun w => bitOf v w
  let q := s.rd (ctxP c + 0x44)
  let n := 64 * fieldOf q 6 0
  let base := (s.bbolRange n).getD 0
  let s := s.setCtx c { regions := regs, ways := fieldOf v 15 0, paired := s.pairedMode }
  let s := regs.foldl (fun s r =>
    let u := ways.foldl (fun (u : Word) w => setField u (2 * w + 1) (2 * w) 1) (s.rd (basinP r + 0x40))
    let s := (s.wr (basinP r + 0x840) u).applyPage ⟨basinP r, [(basinP r + 0x40, u)], s.clk.tide⟩
    let s := s.wrField (regionP r + oSTATUS) 28 24 (2 * c + 1)
    s.takeRegion c r) s
  let s := ((s.wr (ctxP c + 0x90) (word base)).wr (ctxP c + 0x94) (word n)).wr (ctxP c + 0x98) (word (64 * fieldOf q 13 7))
  let s := { s with bbol := s.bbol.filter fun e => e.1 < base || decide (base + n ≤ e.1) }
  let s := (s.wr64 (ctxP c + 0x70) 0).wr (ctxP c + 0xAC) 0
  (s.setCtxState c 1).ctxResult c 1

/-- START (R301, R360, R362). -/
def startCtx (s : State) (c : Nat) : State :=
  let s := if (s.getCtx c).paired then s.setPairState c 1 else s
  let s := (s.coresOf c).foldl (fun s k => s.modCore k fun x => { x with digest := 0, held := false }) s
  let s := s.modCtx c fun x => { x with prefetch := true, started := false }
  (s.setCtxState c 2).ctxResult c 1

/-- A queue goes UNBOUND: its fetched items have ended, nothing of it remains. -/
def unbindQueue (s : State) (q : Nat) : State :=
  let s := s.wr (queueP q + oSTATUS) 0
  s.modQueue q fun x => { x with accepted := [], part := none, stuck := false }

/-- DESTROY begins (R327): CLOSING, every fetched item is ABORTED, the queues are UNBOUND, the engines stop. -/
def destroyCtx (s : State) (c : Nat) : State :=
  let s := if s.updStage = 3 ∧ s.updKind = 3 ∧ s.update.ctx = c then s.updFail 0x902 else s
  let s := s.setCtxState c 5
  let s := (s.queuesOf c).foldl (fun s q =>
    let s := s.endItem q 2 0
    let x := s.getQueue q
    let s := s.setQueue q { x with ended := x.ended ++ x.accepted.map fun i => ⟨i.seq, 2, 0, 0xFFFF⟩ }
    s.unbindQueue q) s
  let s := (s.coresOf c).foldl (fun s k =>
    s.modCore k fun x =>
      { x with held := true, mx := [], vx := [], mxLands := [], vxLands := [], ldLands := [], lane := {}, retiring := [],
               bound := [], fences := [], loads := [], stores := [] }) s
  s.modCtx c fun x =>
    { x with resume := none, launches := [], legs := [], rtWait := [], detach := none, rebuildAt := none, gate := [],
             spares := [], replaying := false }

/-- A write of CTX_CTRL (R301, R329). -/
def wrCtx (c : Nat) (v : Word) (s : State) : Option State :=
  let cmd := fieldOf v 2 0
  if cmd = 0 then some s
  else if fieldOf (s.rd (ctxP c + oCTRL)) 2 0 ≠ 0 then none
  else
    let st := s.ctxState c
    let turned := some (s.wr (ctxP c + oCTRL) (word (2 * 16)))
    if cmd = 1 then
      match s.openCheck c with
      | 1 => some (s.openAccept c)
      | n => some ((s.ctxResult c n).configFault (ctxP c) (word n))
    else if cmd = 2 then (if st = 1 then some (s.startCtx c) else turned)
    else if cmd = 3 then
      (if 1 ≤ st ∧ st ≤ 4 then some ((s.wrField (ctxP c + oCTRL) 2 0 3).destroyCtx c) else turned)
    else turned

/-- Core `k` is given back (R327): its memories are zeroed, its Wharf flip-flops loaded and its segments gated; a withdrawn
core stays so. -/
def freeCore (s : State) (k : Nat) : State :=
  let s := (List.range 64).foldl (fun s b => s.wr (coreP k + 0x200 + 4 * b) 0) s
  let s := ((s.wr (coreP k + 0x44) 0).wr (coreP k + 0x844) 0).wr (coreP k + 0x48) 0
  s.modCore k fun x =>
    { idleCore x with state := if x.state = 3 then 3 else 0, ctx := none, mindex := 0, wb := {}, ab := {}, pb := {},
                      chart := {}, sects := [], layout := 0, gating := [], readying := 0, quants := [],
                      flops := initFlops (activePlane x).frames }

/-- Region `r` is given back: the context's ways are OFF and empty, and requests of it that have not been taken are fenced
out. -/
def freeRegion (s : State) (c r : Nat) : State :=
  let off := fun (v : Word) => (List.range 16).foldl (fun (u : Word) w =>
    if (s.getCtx c).ways / 2 ^ w % 2 = 1 ∧ fieldOf u (2 * w + 1) (2 * w) ≠ 3 then setField u (2 * w + 1) (2 * w) 0 else u) v
  let s := (s.wr (basinP r + 0x40) (off (s.rd (basinP r + 0x40)))).wr (basinP r + 0x840) (off (s.rd (basinP r + 0x840)))
  let s := s.modRegion r fun x =>
    { x with basin := x.basin.filter (fun l => l.ctx ≠ c), unpinned := [], requests := x.requests.filter (fun q => q.ctx ≠ c),
             wayTo := x.wayTo.filter fun e => (s.getCtx c).ways / 2 ^ e.1 % 2 = 0 }
  s.wrField (regionP r + oSTATUS) 28 24 0

/-- No commit of BERTH_GATE or WAY_USE is pending in a context's regions. -/
def commitsDone (s : State) (c : Nat) : Bool :=
  ((s.coresOf c).all fun k => s.idlePage (coreP k)) && (s.getCtx c).regions.all fun r => s.idlePage (basinP r)

/-- Teardown ends (R327): everything is reclaimed and zeroed, EPOCH advances, and the context is FREE. It waits for the
records of aborted items, for what the Channel still carries for its cores, for commits that are pending (R331), and for a
frozen region. -/
def teardown (s : State) (c : Nat) : State :=
  let waits := (List.range 64).any fun q => fieldOf (s.rd (queueP q + 0x50)) 23 20 = c && !(s.getQueue q).ended.isEmpty
  if s.ctxState c ≠ 5 ∨ waits ∨ (s.getCtx c).regions.any (fun r => (s.getRegion r).frozen)
      ∨ ¬ (s.coresOf c).all s.noTraffic ∨ ¬ s.commitsDone c then s
  else
    let b := (s.rd (ctxP c + 0x90)).toNat
    let n := (s.rd (ctxP c + 0x94)).toNat
    let s := (s.coresOf c).foldl (fun s k => s.freeCore k) s
    let s := (s.getCtx c).regions.foldl (fun s r => s.freeRegion c r) s
    let s := { s with bbol := s.bbol.filter fun e => e.1 < b || decide (b + n ≤ e.1) }
    let s := ((s.wr (ctxP c + 0x90) 0).wr (ctxP c + 0x94) 0).wr (ctxP c + 0x98) 0
    let s := s.setCtx c {}
    let s : State := s.wrField (ctxP c + oSTATUS) 31 16 (s.epoch c + 1)
    let s : State := if s.pairState c = 0 then s else s.setPairState c 0
    (s.setCtxState c 0).ctxResult c 1

/-! Queues. -/

/-- QSTATUS STATE, the context, the class, the kind, the consumer (R330). -/
def qState (s : State) (q : Nat) : Nat := fieldOf (s.rd (queueP q + oSTATUS)) 31 30
def qCtx (s : State) (q : Nat) : Nat := fieldOf (s.rd (queueP q + 0x50)) 23 20
def qRt (s : State) (q : Nat) : Bool := bitOf (s.rd (queueP q + 0x50)) 19
def qDevice (s : State) (q : Nat) : Bool := bitOf (s.rd (queueP q + 0x50)) 18
def qTask (s : State) (q : Nat) : Bool := bitOf (s.rd (queueP q + 0x50)) 17
/-- Units of the ring (R306). -/
def qUnits (s : State) (q : Nat) : Nat := 2 ^ (6 + fieldOf (s.rd (queueP q + 0x50)) 11 8)
/-- HEAD, TAIL and their distance. -/
def qHead (s : State) (q : Nat) : Nat := (s.rd (queueP q + 0x48)).toNat
def qTail (s : State) (q : Nat) : Nat := (s.rd (queueP q + 0x40)).toNat
def qWaiting (s : State) (q : Nat) : Nat := (s.qTail q + 2 ^ 32 - s.qHead q) % 2 ^ 32

/-- A QUEUE write that is limited to UNBOUND (R328). -/
def unbound (s : State) (q : Nat) : Bool := s.qState q = 0

/-- EXEC and PARTIAL follow the queue (R330). -/
def qFlags (s : State) (q : Nat) : State :=
  let x := s.getQueue q
  let a := queueP q + oSTATUS
  s.wr a (setBit (setBit (s.rd a) 29 (x.exec.isSome || !x.ended.isEmpty)) 28 x.part.isSome)

/-- The wait that an RT doorbell opened ends for a queue (R319). -/
def rtEnd (s : State) (q : Nat) : State :=
  s.modCtx (s.qCtx q) fun x => { x with rtWait := x.rtWait.filter (· ≠ q) }

/-- A queue fault (R307, R308): only its queue is concerned. -/
def queueFault (s : State) (q code : Nat) : State :=
  let s := s.raise (queueP q) code 0 (some (s.qCtx q)) 0
  ((s.wrField (queueP q + oSTATUS) 31 30 2).event (queueP q) 0).rtEnd q

/-- BIND (R305). -/
def bindQueue (s : State) (q : Nat) : Option State :=
  let v := s.rd (queueP q + 0x50)
  let st := s.ctxState (s.qCtx q)
  if s.qState q ≠ 0 ∨ ¬ (st = 1 ∨ st = 2) ∨ (s.qTask q ∧ ¬ s.qDevice q) ∨ 10 < fieldOf v 11 8 ∨ 12 < fieldOf v 7 4
      ∨ ¬ (s.getQueue q).ended.isEmpty then none
  else
    let last := s.rd (queueP q + 0x4C)
    let s := ((s.wr (queueP q + 0x48) 0).wr (queueP q + 0x40) 0).wr (queueP q + 0x44) last
    let s := s.setQueue q { push := last.toNat }
    some (s.wr (queueP q + oSTATUS) (word (2 ^ 30)))

/-- UNBIND, while nothing executes (R330). -/
def unbindReq (s : State) (q : Nat) : Option State :=
  let x := s.getQueue q
  if s.qState q = 0 ∨ x.exec.isSome ∨ ¬ x.ended.isEmpty ∨ ¬ x.accepted.isEmpty then none
  else some ((s.rtEnd q).unbindQueue q)

/-- RESET (R308): unfetched items are discarded, last is kept, the queue is ACTIVE. -/
def resetQueue (s : State) (q : Nat) : Option State :=
  if s.qState q = 0 then none
  else
    let s := (s.wr (queueP q + 0x48) (s.rd (queueP q + 0x40))).rtEnd q
    some ((s.wrField (queueP q + oSTATUS) 31 30 1).modQueue q fun x => { x with stuck := false })

/-- FLUSH (R312): whole items that have not started are discarded; a producer in the middle of a deposit is told. -/
def flushQueue (s : State) (q : Nat) : Option State :=
  if s.qState q = 0 then none
  else
    let x := s.getQueue q
    let last := match x.accepted with
      | i :: _ => word (i.seq + 2 ^ 32 - 1)
      | [] => s.rd (queueP q + 0x4C)
    let s := ((s.wr (queueP q + 0x48) (s.rd (queueP q + 0x40))).wr (queueP q + 0x4C) last).rtEnd q
    let s := match x.part with
      | none => s
      | some p => s.modQueue p fun y =>
          { y with exec := y.exec.map fun (e : Exec) =>
              { e with deposit := e.deposit.map fun (d : Deposit) => { d with cut := true, done := 0 } } }
    let s := s.modQueue q fun x =>
      { x with accepted := [], part := none, push := if s.qDevice q then last.toNat else x.push }
    some (s.qFlags q)

/-- A write of QCTRL: FLUSH, RESET, UNBIND, BIND in this order (R330). -/
def wrQctrl (q : Nat) (v : Word) (s : State) : Option State :=
  let s1 := if bitOf v 3 then s.flushQueue q else some s
  let s2 := if bitOf v 2 then s1.bind fun s => s.resetQueue q else s1
  let s3 := if bitOf v 1 then s2.bind fun s => s.unbindReq q else s2
  if bitOf v 0 then s3.bind fun s => s.bindQueue q else s3

/-- A normal leg whose BASE has not arrived is taken back, and its lead is to be done again (R319). -/
def deferLeg (s : State) (c : Nat) : State :=
  match (s.getCtx c).legs.getLast? with
  | none => s
  | some g =>
    if g.rt ∨ g.begun ∨ g.base ≤ s.sched c then s
    else
      let s := g.cores.foldl (fun s e =>
        s.modCore e.1 fun x =>
          { x with progs := Tab.del x.progs e.2, last := x.last - 1,
                   eng := x.eng.map fun n => if n.2.stream = e.2 then (n.1, { n.2 with live := false, stream := e.2 - 1, queue := [] }) else n }) s
      s.modCtx c fun x =>
        { x with legs := x.legs.dropLast, prevEnd := g.prev,
                 launches := x.launches.map fun l => if l.id = g.launch then { l with leg := g.leg, ready := none } else l }

/-- An RT doorbell reaches the Dispatcher (R319): normal legs wait, leads that had been done are repeated. -/
def rtOpen (s : State) (q : Nat) : State :=
  let c := s.qCtx q
  let s := (s.getCtx c).legs.foldl (fun s _ => s.deferLeg c) s
  s.modCtx c fun x =>
    { x with rtWait := if x.rtWait.contains q then x.rtWait else x.rtWait ++ [q],
             launches := x.launches.map fun l => if l.rt then l else { l with ready := none } }

/-- A write of DOORBELL (R307, R319, R331). -/
def wrDoorbell (q : Nat) (v : Word) (s : State) : Option State :=
  if s.qState q = 0 then some (s.count (queueP q + 0x88) 1)
  else if s.qDevice q then some s
  else if s.rd (queueP q + 0x40) = v then some s
  else if s.qUnits q < (v.toNat + 2 ^ 32 - s.qHead q) % 2 ^ 32 then
    some ((s.wr (queueP q + 0x40) v).queueFault q 0x941)
  else
    let s := s.wr (queueP q + 0x40) v
    some (if s.qRt q ∧ s.ctxState (s.qCtx q) ≠ 0 then s.rtOpen q else s)

/-! Memory for commands (R304, R495). -/

/-- How a command's access ends: done, or a status with a state that has recorded it. -/
inductive Acc (α : Type) where
  | ok (v : α) (s : State)
  | fail (status : Nat) (s : State)

/-- A translation for a command (R495): one page. `must` marks rings and records, which must be present. -/
def cmdPage (s : State) (c va : Nat) (write must : Bool) : Acc Nat :=
  match s.translate c va write with
  | (.ok pa, s) =>
    if 2 ^ 40 ≤ pa then .fail 1 (s.ctxFatal c 0x914)
    else if s.behindQuay pa then .ok pa s
    else .fail 1 (s.quayFail 0x401 pa write true c)
  | (.absent, s) =>
    if must then .fail 1 (s.ctxFatal c 0x911)
    else .fail 0x0B ((s.raise (ctxP c) 0x916 0 (some c) 0).wr64 (ctxP c + 0xB4) va)
  | (.refused code, s) => .fail 1 (s.ctxFatal c code)

/-- The runs of a range that lie in one 64 KiB page each. -/
def pageRuns : Nat → Nat → Nat → List (Nat × Nat)
  | 0, _, _ => []
  | f + 1, va, n =>
    let m := min n (65536 - va % 65536)
    if n = 0 then [] else (va, m) :: pageRuns f (va + m) (n - m)

def runsOf (va n : Nat) : List (Nat × Nat) := pageRuns (n / 65536 + 2) va n

/-- Lines of 128 bytes that hold `[a, a + n)`. -/
def linesOf (a n : Nat) : Nat := if n = 0 then 0 else (a + n - 1) / 128 - a / 128 + 1

/-- The lines of an access within one page are counted as requests of its quay (R434). -/
def quayLines (s : State) (pa n : Nat) (write : Bool) : State :=
  s.count (quayP (s.quayOf pa).1 + (if write then 0x84 else 0x80)) (linesOf pa n)

/-- Bytes of a context's device memory, for a command; `asked`: the requests are out already. -/
def cmdRead (s : State) (c : Nat) (must asked : Bool) : List (Nat × Nat) → List Byte → Acc (List Byte)
  | [], acc => .ok acc s
  | (va, n) :: l, acc =>
    match s.cmdPage c va false must with
    | .ok pa s => (if asked then s else s.quayLines pa n false).cmdRead c must asked l (acc ++ s.memRead pa n)
    | .fail st s => .fail st s

/-- Basin lines that hold bytes of a range are dropped (R126). -/
def evict (s : State) (c pa n : Nat) : State :=
  (s.getCtx c).regions.foldl (fun s r =>
    s.modRegion r fun x => { x with basin := x.basin.filter fun l =>
      ¬ (l.ctx = c ∧ pa / 128 ≤ l.la ∧ l.la ≤ (pa + n - 1) / 128) }) s

/-- Bytes written for a command, page by page, until one is refused. -/
def cmdWrite (s : State) (c : Nat) (must asked : Bool) : List (Nat × Nat) → List Byte → Acc Unit
  | [], _ => .ok () s
  | (va, n) :: l, data =>
    match s.cmdPage c va true must with
    | .ok pa s =>
      (((if asked then s else s.quayLines pa n true).evict c pa n).memWrite pa (data.take n)).cmdWrite c must asked l
        (data.drop n)
    | .fail st s => .fail st s

/-! Items. -/

/-- Bytes of the ring of a queue from unit `u`. -/
def ringRuns (s : State) (q u n : Nat) : List (Nat × Nat) :=
  (List.range n).map fun i => (s.rd64 (queueP q + 0x58) / 64 * 64 + 64 * ((u + i) % s.qUnits q), 64)

/-- `n` units of the ring read at unit `u`. -/
def ringRead (s : State) (q u n : Nat) : Acc (List Byte) :=
  if s.qDevice q then s.cmdRead (s.qCtx q) true false (s.ringRuns q u n) []
  else .ok ((s.ringRuns q u n).flatMap fun r => Mem.bytes zeroFill s.hostMem r.1 r.2) s

/-- An item that has been read and keeps the format is judged by its SEQ (R308). -/
def takeItem (s : State) (q units : Nat) (l : List Byte) : State :=
  let seq := fieldAt l 0 4
  let d := (seq + 2 ^ 32 - (s.rd (queueP q + 0x4C)).toNat) % 2 ^ 32
  let s1 := s.wr (queueP q + 0x48) (word (s.qHead q + units))
  if d = 1 then
    let s := s1.wr (queueP q + 0x4C) (word seq)
    if s.ctxState (s.qCtx q) = 4 then
      ((s.modQueue q fun x => { x with ended := x.ended ++ [⟨seq, 1, 0, 0xFFFF⟩] }).rtEnd q).qFlags q
    else s.modQueue q fun x => { x with accepted := x.accepted ++ [⟨seq, l⟩] }
  else if d = 0 ∨ 2 ^ 31 ≤ d then (s1.count (queueP q + 0x80) 1).rtEnd q
  else s.queueFault q 0x940

/-- The Dispatcher reads the item at HEAD and checks it (R306 to R308). -/
def fetchItem (s : State) (q : Nat) : State :=
  let c := s.qCtx q
  let st := s.ctxState c
  if s.qState q ≠ 1 ∨ s.qWaiting q = 0 ∨ (s.getQueue q).stuck ∨ ¬ (st = 2 ∨ st = 3 ∨ st = 4) then s
  else match s.ringRead q (s.qHead q) 1 with
    | .fail _ s => s
    | .ok h s =>
      let units := fieldAt h 4 2
      if units = 0 ∨ 64 < units ∨ s.qWaiting q < units ∨ ¬ zeroAt h 6 10 then s.queueFault q 0x941
      else match s.ringRead q (s.qHead q) units with
        | .fail _ s => s
        | .ok l s => s.takeItem q units l

/-- The completion record of an item, then COMPLETE_SEQ (R310). -/
def writeRecord (s : State) (q : Nat) (e : Ended) : State :=
  let a := s.rd64 (queueP q + 0x60) / 16 * 16 + 16 * (e.seq % 2 ^ (4 + fieldOf (s.rd (queueP q + 0x50)) 7 4))
  let l := leBytes 4 e.seq ++ leBytes 1 e.status ++ leBytes 1 e.detail ++ leBytes 2 e.cmd ++ leBytes 8 s.clk.tide
  let done := fun (s : State) => (s.wr (queueP q + 0x44) (word e.seq)).count (queueP q + 0x84) 1
  if s.qDevice q then
    match s.cmdWrite (s.qCtx q) true false (runsOf a 16) l with
    | .ok _ s => done s
    | .fail _ s => s
  else done { s with hostMem := Mem.putBytes zeroFill s.hostMem a l }

end State

/-- OPEN (R301). -/
def execOpenCtx (party : Party) (ctx : Nat) (s : State) : Out :=
  actAt (ctx < 16) (fun s => s.write party (ctxP ctx + oCTRL) (State.wrCtx ctx 1)) s

/-- START (R301). -/
def execStart (party : Party) (ctx : Nat) (s : State) : Out :=
  actAt (ctx < 16) (fun s => s.write party (ctxP ctx + oCTRL) (State.wrCtx ctx 2)) s

/-- DESTROY (R327). -/
def execDestroy (party : Party) (ctx : Nat) (s : State) : Out :=
  actAt (ctx < 16) (fun s => s.write party (ctxP ctx + oCTRL) (State.wrCtx ctx 3)) s

/-- The end of a teardown (R327). -/
def execTeardownComplete (ctx : Nat) (s : State) : Out := actAt (ctx < 16) (fun s => s.teardown ctx) s

/-- BIND (R305). -/
def execBind (party : Party) (q : Nat) (s : State) : Out :=
  actAt (q < 64) (fun s => s.write party (queueP q + oCTRL) (State.wrQctrl q 1)) s

/-- UNBIND (R330). -/
def execUnbind (party : Party) (q : Nat) (s : State) : Out :=
  actAt (q < 64) (fun s => s.write party (queueP q + oCTRL) (State.wrQctrl q 2)) s

/-- RESET (R308). -/
def execReset (party : Party) (q : Nat) (s : State) : Out :=
  actAt (q < 64) (fun s => s.write party (queueP q + oCTRL) (State.wrQctrl q 4)) s

/-- FLUSH (R312). -/
def execFlush (party : Party) (q : Nat) (s : State) : Out :=
  actAt (q < 64) (fun s => s.write party (queueP q + oCTRL) (State.wrQctrl q 8)) s

/-- DOORBELL (R307). -/
def execDoorbell (party : Party) (q : Nat) (value : Word) (s : State) : Out :=
  actAt (q < 64) (fun s => s.write party (queueP q + 0x40) (State.wrDoorbell q value)) s

/-- The Dispatcher reads an item (R307, R308), unless it finds an error of its own (R359). -/
def execItemFetch (u : AtUnit) (s : State) : Out :=
  actAt (u.index < 64) (fun s => if ¬ u.ue then s.fetchItem u.index else
    if s.qState u.index = 0 ∨ s.qDevice u.index then s else s.controlUe (s.qCtx u.index) 5) s

end Sys2Proof.Machine
end

