-- ==== Sys2Proof/Machine/Bundles.lean ====
section
/-! DEFINITION. The words of a bundle stream and their legal values (R197 to R213), the paths through a stream (R203 to
R205), and the streams of a manifest as its checks see them (R178, R215). -/

namespace Sys2Proof.Machine

/-- Where a check fails: in the header, or in a section at a core. -/
inductive Where where
  | header
  | sect (idx core : Nat)
  deriving DecidableEq, Repr

/-- A refusal: REASON and place. -/
structure Refused where
  reason : Nat
  place : Where
  deriving DecidableEq, Repr

/-- FAULT_INFO of code 0x920 (R184). -/
def Refused.info (r : Refused) : Word :=
  match r.place with
  | .header => word (r.reason * 2 ^ 24 + 2 ^ 23 + 0x7FF)
  | .sect i c => word (r.reason * 2 ^ 24 + i % 4096 * 2 ^ 11 + c % 2048)

/-- The place that is reported of several (R184). -/
def firstPlace : List Where → Option Where
  | [] => none
  | w :: l => match firstPlace l with
    | none => some w
    | some v => match w, v with
      | .header, _ => some w
      | _, .header => some v
      | .sect i c, .sect j d => if i < j ∨ (i = j ∧ c ≤ d) then some w else some v

/-! Bundles. -/

/-- Bits `hi` to `lo` are zero. -/
def clear (w : DWord) (hi lo : Nat) : Bool := fieldOf w hi lo = 0

/-- A counter field of four bits whose number is 0 when it is not enabled (R143, R209). -/
def optOk (x : Nat) : Bool := 8 ≤ x || x = 0

/-- The legal words of a sequencer slot (R201 to R205). -/
def sqLegal (w : DWord) : Bool :=
  match opOf w with
  | 0x01 | 0x04 => clear w 52 32
  | 0x02 | 0x03 => clear w 52 0
  | 0x08 => clear w 42 32 && fieldOf w 50 48 ≤ 5 && (if bitOf w 46 then clear w 31 0 else clear w 45 43)
  | 0x10 => clear w 52 44 && clear w 31 0 && !clear w 43 32
  | 0x11 => clear w 52 44 && clear w 31 16 && !clear w 43 32
  | _ => false

/-- The legal words of a matrix slot (R207). -/
def mxLegal (w : DWord) : Bool :=
  match opOf w with
  | 0x01 | 0x02 => clear w 44 0 && (bitOf w 48 || clear w 47 45)
  | 0x08 => clear w 27 0
  | _ => false

/-- The operation of a vector slot is in the table of R208. -/
def vxKnown (op : Nat) : Bool :=
  (1 ≤ op && op ≤ 6) || isCmp op || op = vCvt || op = vQuant || isRed op || op = vCompress || op = vExpand || op = vMset
    || isMlogic op || op = vWharf || op = vSent

/-- A specifier of a kind that its field allows (R87). -/
def specLegal (spec : Nat) : Kind → Bool
  | .none_ => spec = 0
  | .any => true
  | .mask => 0x20 ≤ spec && spec < 0x28
  | .value => (0x10 ≤ spec && spec < 0x20) || 0x80 ≤ spec
  | .desc | .quant | .count => 0x80 ≤ spec
  | .sentinel => spec < 0x80

/-- The legal words of a vector slot (R208, R209). -/
def vxLegal (w : DWord) : Bool :=
  let v := VOp.of w
  let specs := [v.dst, v.sa, v.sb, v.sc].zip (kindsOf v.op)
  vxKnown v.op && classOk v.op v.cls && (specs.all fun f => specLegal f.1 f.2)
    && (if v.op = vMset then clear w 47 24 && clear w 23 19
        else if isMlogic v.op then clear w 31 0
        else if v.op = vSent then clear w 39 39
        else optOk v.mask && optOk v.octr)

/-- The legal words of a load or store slot (R210). -/
def lsLegal (store : Bool) (w : DWord) : Bool :=
  let op := opOf w
  1 ≤ op && op ≤ (if store then 4 else 2) && clear w 38 0 && ((store && op = 3) || clear w 40 39)
    && optOk (fieldOf w 48 45) && optOk (fieldOf w 44 41)

/-- The legal words of a sync slot (R211), but for the bollard it names. -/
def syLegal (w : DWord) : Bool :=
  match opOf w with
  | 0x01 => clear w 33 32 && (bitOf w 37 || clear w 36 34)
  | 0x02 | 0x03 => clear w 37 32
  | 0x04 => clear w 50 50
  | 0x08 | 0x10 => clear w 50 0
  | _ => false

def slotLegal (e : Nat) (w : DWord) : Bool :=
  match e with
  | 0 => sqLegal w
  | 1 => mxLegal w
  | 2 => vxLegal w
  | 3 => lsLegal false w
  | 4 => lsLegal true w
  | _ => syLegal w

/-- Number of lead bundles in a row from bundle `i`, and the bundle they lead (R213). -/
def leadRun (bs : List Bundle) : Nat → Nat → Nat × Nat
  | 0, i => (0, i)
  | n + 1, i =>
    match bs[i]? with
    | some b => if b.isLead then let r := leadRun bs n (i + 1); (r.1 + 1, r.2) else (0, i)
    | none => (0, i)

/-- The ranges that skips and loops cover: number of the deciding bundle, last bundle, is a loop. -/
def coverOf (bs : List Bundle) : List (Nat × Nat × Bool) :=
  (List.range bs.length).filterMap fun i =>
    match bs[i]? with
    | none => none
    | some b => match b.skip, b.loop with
      | some n, _ => some (i, i + n, false)
      | none, some (n, _) => some (i, i + n, true)
      | none, none => none

/-- The nesting rules of R205. -/
def nested (bs : List Bundle) : Bool :=
  let rs := coverOf bs
  let inside := fun (r : Nat × Nat × Bool) (i : Nat) => decide (r.1 < i) && decide (i ≤ r.2.1)
  (rs.all fun r =>
      decide (r.2.1 < bs.length) && (rs.all fun o => !inside o r.1 || decide (r.2.1 ≤ o.2.1))
        && (!r.2.2 || decide ((rs.filter fun o => o.2.2 && inside o r.1).length < 4)))
    && (List.range bs.length).all fun i => match bs[i]? with
      | some b => !b.isLead ||
          (let t := leadRun bs bs.length i
           decide (t.2 < bs.length) && rs.all fun r => inside r i == inside r t.2)
      | none => true

/-- ATTACH of a bundle names slots that are present in its target (R212, R213). -/
def attachOk (bs : List Bundle) (i : Nat) (b : Bundle) : Bool :=
  match b.slot 5 with
  | none => true
  | some w =>
    match (if b.isLead then bs[(leadRun bs bs.length i).2]? else some b) with
    | none => false
    | some t => (List.range 5).all fun e => !attaches w e || (t.slot e).isSome

/-- The rules of REASON 0x04 for the bundles of a section (R197, R219). -/
def bundlesLegal (raw : List RawBundle) : Bool :=
  let bs := raw.map (·.b)
  nested bs && (List.range raw.length).all fun i => match raw[i]? with
    | none => true
    | some r =>
      clear r.hdr 21 16 && (!r.b.chain || (i ≠ 0 && !r.b.isLead)) && (r.b.slots.all fun x => slotLegal x.1 x.2)
        && attachOk bs i r.b && decide ((leadRun bs bs.length i).1 ≤ 3)

/-! Paths. -/

/-- What a core may execute: a bundle instance with its stamp counted from BASE, the range of a skip, or the passes of
a loop (R203, R204). -/
inductive Flow where
  | leaf (i : Inst) (stamp : Nat) (b : Bundle)
  | range (l : List Flow)
  | passes (l : List (List Flow))

/-- The flow of the bundles from number `i`, after the stamp sum `t`, under the passes of the loops around them. -/
def flowOf : Nat → Nat → Nat → List Nat → List Bundle → List Flow
  | 0, _, _, _, _ => []
  | _, _, _, _, [] => []
  | n + 1, i, t, ps, b :: l =>
    let t := t + b.delta
    let here := Flow.leaf ⟨i, ps⟩ t b
    match b.skip, b.loop with
    | some c, _ =>
      here :: .range (flowOf n (i + 1) t ps (l.take c)) ::
        flowOf n (i + 1 + c) (t + spanOf (c + 1) (l.take c)) ps (l.drop c)
    | none, some (body, m) =>
      let len := spanOf (body + 1) (l.take body)
      here :: .passes ((List.range (m + 1)).map fun p => flowOf n (i + 1) (t + p * len) (p :: ps) (l.take body)) ::
        flowOf n (i + 1 + body) (t + (m + 1) * len) ps (l.drop body)
    | none, none => here :: flowOf n (i + 1) t ps l

mutual
/-- Every instance, in path order with every pass active and no skip taken. -/
def Flow.leaves : Flow → List (Inst × Nat × Bundle)
  | .leaf i t b => [(i, t, b)]
  | .range l => Flow.leavesList l
  | .passes l => Flow.leavesPasses l
def Flow.leavesList : List Flow → List (Inst × Nat × Bundle)
  | [] => []
  | f :: l => f.leaves ++ Flow.leavesList l
def Flow.leavesPasses : List (List Flow) → List (Inst × Nat × Bundle)
  | [] => []
  | p :: l => Flow.leavesList p ++ Flow.leavesPasses l
end

mutual
/-- The least sum of `g` over the instances of a path that executes `x`, where one is named, and whether `x` lies
here: a skip drops its whole range, a loop a tail of its passes. -/
def Flow.low (g : Inst → Nat → Bundle → Int) (x : Option Inst) : Flow → Int × Bool
  | .leaf i t b => (g i t b, x == some i)
  | .range l =>
    let r := Flow.lowList g x l
    (if r.2 then r.1 else min 0 r.1, r.2)
  | .passes l => Flow.lowPasses g x l
def Flow.lowList (g : Inst → Nat → Bundle → Int) (x : Option Inst) : List Flow → Int × Bool
  | [] => (0, false)
  | f :: l =>
    let a := f.low g x
    let b := Flow.lowList g x l
    (a.1 + b.1, a.2 || b.2)
def Flow.lowPasses (g : Inst → Nat → Bundle → Int) (x : Option Inst) : List (List Flow) → Int × Bool
  | [] => (0, false)
  | p :: l =>
    let a := Flow.lowList g x p
    let b := Flow.lowPasses g x l
    let h := a.2 || b.2
    (if h then a.1 + b.1 else min 0 (a.1 + b.1), h)
end

/-- Least and greatest sum over the paths of a flow. -/
def lowSum (g : Inst → Nat → Bundle → Int) (x : Option Inst) (f : List Flow) : Int := (Flow.lowList g x f).1
def highSum (g : Inst → Nat → Bundle → Int) (x : Option Inst) (f : List Flow) : Int :=
  -(Flow.lowList (fun i t b => -(g i t b)) x f).1

/-- Every path that executes `x` executes `y`. -/
def forced (f : List Flow) (x y : Inst) : Bool :=
  lowSum (fun i _ _ => if i = y then 1 else 0) (some x) f = 1

/-- Bounds of a sequencer counter. -/
abbrev Bounds := Nat × Nat

/-- A counter after an addition, within 2^32. -/
def addBounds (b : Bounds) (n : Nat) : Bounds :=
  if b.1 + n < 2 ^ 32 ∧ b.2 + n < 2 ^ 32 then (b.1 + n, b.2 + n)
  else if 2 ^ 32 ≤ b.1 + n ∧ 2 ^ 32 ≤ b.2 + n then (b.1 + n - 2 ^ 32, b.2 + n - 2 ^ 32)
  else (0, 2 ^ 32 - 1)

/-- The counters after a bundle; a patched immediate may have any value (R494). -/
def sqBounds (patched : Nat → Bool) (i : Inst) (b : Bundle) (c : List Bounds) : List Bounds :=
  match b.slot 0 with
  | none => c
  | some w =>
    let k := fieldOf w 55 53
    let v := c.getD k (0, 0)
    let imm := fieldOf w 31 0
    match opOf w with
    | 1 => c.set k (if patched i.bundle then (0, 2 ^ 32 - 1) else (imm, imm))
    | 2 => c.set k (addBounds v 1)
    | 3 => c.set k (addBounds v (2 ^ 32 - 1))
    | 4 => c.set k (addBounds v imm)
    | _ => c

def joinBounds (a b : List Bounds) : List Bounds := (a.zip b).map fun p => (min p.1.1 p.2.1, max p.1.2 p.2.2)

mutual
/-- The bounds of the counters at each instance, before its own SQ entry, and after the flow. -/
def Flow.bounds (pt : Nat → Bool) (c : List Bounds) : Flow → List (Inst × List Bounds) × List Bounds
  | .leaf i _ b => ([(i, c)], sqBounds pt i b c)
  | .range l =>
    let r := Flow.boundsList pt c l
    (r.1, joinBounds c r.2)
  | .passes l => Flow.boundsPasses pt c c l
def Flow.boundsList (pt : Nat → Bool) (c : List Bounds) : List Flow → List (Inst × List Bounds) × List Bounds
  | [] => ([], c)
  | f :: l =>
    let a := f.bounds pt c
    let b := Flow.boundsList pt a.2 l
    (a.1 ++ b.1, b.2)
def Flow.boundsPasses (pt : Nat → Bool) (c out : List Bounds) : List (List Flow) → List (Inst × List Bounds) × List Bounds
  | [] => ([], out)
  | p :: l =>
    let a := Flow.boundsList pt c p
    let b := Flow.boundsPasses pt a.2 (joinBounds out a.2) l
    (a.1 ++ b.1, b.2)
end

/-! Sections of a core. -/

/-- The stream of a core from a BUNDLES section with the tables of a tiling (R215). -/
def progFor (c launch leg base : Nat) (m : List Byte) (x : Sect) (tiling : Nat) : Prog :=
  { ctx := c, launch := launch, leg := leg, mindex := x.core, variant := x.variant, base := base,
    bundles := ((readBundles (x.bytes m)).getD []).map (·.b),
    mxd := tableOf m 2 x.core tiling, vxd := tableOf m 3 x.core tiling, lsd := tableOf m 4 x.core tiling,
    sentinels := tableOf m 0x0B x.core tiling, budgets := tableOf m 0x0A x.core tiling,
    full := fieldAt m 7 1 % 2 = 1, barrierBol := fieldAt m 38 1 }

/-- A BUNDLES section in the form the checks use, with the tiling under which it runs. -/
structure Scan where
  x : Sect
  tiling : Nat
  raw : List RawBundle
  p : Prog
  flow : List Flow
  cb : List (Inst × List Bounds)

/-- SQ_IMM patches of a core and tiling by bundle (R180, R217). -/
def patchedIn (m : List Byte) (core tiling : Nat) (i : Nat) : Bool :=
  (ofType m 9).any fun x => (recordsOf 12 (x.bytes m)).any fun r =>
    fieldAt r 2 1 = 0 && fieldAt r 4 2 = core && (fieldAt r 6 1 = 0 || fieldAt r 6 1 = tiling) && fieldAt r 8 4 = i

/-- LSD_FIELD patches of a descriptor. -/
def patchedLsd (m : List Byte) (core desc off : Nat) : Bool :=
  (ofType m 9).any fun x => (recordsOf 12 (x.bytes m)).any fun r =>
    fieldAt r 2 1 = 1 && fieldAt r 4 2 = core && fieldAt r 8 4 = desc * 256 + off

/-- The tilings under which a BUNDLES section runs: its own; a common one runs also under each tiling of its core that
brings no stream of its own (R179). -/
def tilingsFor (m : List Byte) (x : Sect) : List Nat :=
  if x.tiling ≠ 0 then [x.tiling]
  else
    let mine := (sectsOf m).filter fun y => y.core = x.core && y.tiling ≠ 0
    0 :: (((mine.map (·.tiling)).eraseDups).filter fun t => !(mine.any fun y => y.typ = 1 && y.tiling = t))

def scansOf (m : List Byte) : List Scan :=
  (ofType m 1).flatMap fun x =>
    let raw := (readBundles (x.bytes m)).getD []
    (tilingsFor m x).map fun t =>
      let p := progFor 0 0 0 0 m x t
      let f := flowOf (p.bundles.length + 1) 0 0 [] p.bundles
      { x := x, tiling := t, raw := raw, p := p, flow := f,
        cb := (Flow.boundsList (patchedIn m x.core t) (List.replicate 8 (0, 0)) f).1 }

/-- Slots of an engine in a stream. -/
def slotsIn (sc : Scan) (e : Nat) : List DWord := sc.p.bundles.filterMap fun b => b.slot e

/-- What a check of one stream answers, as a place. -/
def atScan (sc : Scan) : Where := .sect sc.x.idx sc.x.core

end Sys2Proof.Machine
end

