-- ==== Sys2Proof/Machine/Orders.lean ====
section
/-! DEFINITION. What the manifest check asks of order: the barrier (R493), bollards (R494), counters and decisions (R202), and
what passes through berths and memory (R172). -/

namespace Sys2Proof.Machine

/-! Waits and arrivals. -/

/-- A bollard: of a manifest core, or the context's block bollard (core 0xFFFF). -/
abbrev BKey := Nat × Nat

/-- The waits that an entry of engine `e` in bundle `i` carries: its own SY slot's and those of the leads before it
(R212, R213). -/
def waitsOf (bs : List Bundle) (i e : Nat) : List DWord :=
  let own := match bs[i]? with
    | none => []
    | some b => match b.slot 5 with
      | some w => if opOf w = 1 ∧ (if e = 5 then attachOf w = 0 else attaches w e) then [w] else []
      | none => []
  let leads := (List.range 3).filterMap fun j =>
    if j + 1 ≤ i ∧ (leadRun bs 4 (i - (j + 1))).2 = i then
      match (bs[i - (j + 1)]?).bind fun b => b.slot 5 with
      | some w => if opOf w = 1 ∧ attaches w e then some w else none
      | none => none
    else none
  own ++ leads

/-- The bollard of a wait, add or sub of a core (R211). -/
def waitKey (core : Nat) (w : DWord) : BKey := (if bitOf w 50 then 0xFFFF else core, fieldOf w 49 38)

/-- The least and greatest threshold of a wait at an instance (R211). -/
def waitLevel (sc : Scan) (i : Inst) (w : DWord) : Bounds :=
  let v := fieldOf w 31 0
  if bitOf w 37 then
    let c := (((sc.cb.find? fun e => e.1 = i).map (·.2)).getD []).getD (fieldOf w 36 34) (0, 0)
    (min (v + c.1) (2 ^ 32 - 1), min (v + c.2) (2 ^ 32 - 1))
  else (v, v)

/-- The descriptor of a load or store slot. -/
def lsOf (sc : Scan) (w : DWord) : Option LsDesc := (State.lsdAt sc.p (fieldOf w 55 49)).map LsDesc.of

/-- Engines that a bundle's arrivals at the barrier belong to (R152): the sync engine, or the entries to which the
arrival is bound; a stream with BARRIER_END. -/
def arrivalsOf (sc : Scan) (b : Bundle) : List (List Nat) :=
  (match b.slot 5 with
    | some w => if opOf w = 0x10 then
        [if attachOf w = 0 then [5] else (List.range 5).filter fun e => attaches w e] else []
    | none => [])
  ++ [3, 4].filterMap fun e => match (b.slot e).bind (lsOf sc) with
    | some d => if d.barrierEnd then some [e] else none
    | none => none

/-- INIT of a bollard (R181). -/
def initOf (m : List Byte) (key : BKey) : Nat :=
  match ((ofType m 6).flatMap fun x => recordsOf 8 (x.bytes m)).find? fun r => (fieldAt r 0 2, fieldAt r 2 2) = key with
  | some r => fieldAt r 4 4
  | none => 0

/-- BARRIER_BOL of a manifest (R176). -/
def barrierBolOf (m : List Byte) : Nat := fieldAt m 38 1

/-! The barrier (R493). -/

mutual
/-- What a walk gathers along every path: a skip's range is taken or not, and a loop runs any number of its passes. -/
def Flow.walk {σ : Type} (step : Inst → Bundle → σ → σ) (prune : List σ → List σ) (l : List σ) : Flow → List σ
  | .leaf i _ b => prune (l.map (step i b))
  | .range f => prune (l ++ Flow.walkList step prune l f)
  | .passes ps => Flow.walkPasses step prune l l ps
def Flow.walkList {σ : Type} (step : Inst → Bundle → σ → σ) (prune : List σ → List σ) (l : List σ) : List Flow → List σ
  | [] => l
  | f :: fs => Flow.walkList step prune (f.walk step prune l) fs
def Flow.walkPasses {σ : Type} (step : Inst → Bundle → σ → σ) (prune : List σ → List σ) (out l : List σ) :
    List (List Flow) → List σ
  | [] => out
  | p :: ps =>
    let l := Flow.walkList step prune l p
    Flow.walkPasses step prune (prune (out ++ l)) l ps
end

/-- A place on a path as R493 judges it: the sequencer's counters, the arrivals so far, for each engine the highest threshold
on the barrier bollard that an entry of its stream has carried, and whether an arrival was out of order. -/
structure BarrierWalk where
  ctr : List Nat := List.replicate 8 0
  arrived : Nat := 0
  level : List Nat := List.replicate 6 0
  bad : Bool := false
  deriving DecidableEq, Repr

/-- A counter after an SQ entry, with every patched immediate taken as 0 (R201, R493). -/
def sqValue (patched : Nat → Bool) (i : Inst) (b : Bundle) (c : List Nat) : List Nat :=
  match b.slot 0 with
  | none => c
  | some w =>
    let k := fieldOf w 55 53
    let v := c.getD k 0
    match opOf w with
    | 1 => c.set k (if patched i.bundle then 0 else fieldOf w 31 0)
    | 2 => c.set k ((v + 1) % 2 ^ 32)
    | 3 => c.set k ((v + (2 ^ 32 - 1)) % 2 ^ 32)
    | 4 => c.set k ((v + fieldOf w 31 0) % 2 ^ 32)
    | _ => c

/-- The threshold of the highest wait on the barrier bollard that engine `e`'s entry of a bundle carries. -/
def barrierLevel (m : List Byte) (sc : Scan) (i : Inst) (b : Bundle) (c : List Nat) (e : Nat) : Nat :=
  if (b.entry e).isNone then 0
  else (((waitsOf sc.p.bundles i.bundle e).filter fun w => waitKey sc.x.core w = (sc.x.core, barrierBolOf m)).map fun w =>
    min (fieldOf w 31 0 + (if bitOf w 37 then c.getD (fieldOf w 36 34) 0 else 0)) (2 ^ 32 - 1)).foldl max 0

/-- One bundle: its waits count for its own arrivals, of which each but the first must come after a release (R493). -/
def barrierStep (m : List Byte) (sc : Scan) (i : Inst) (b : Bundle) (x : BarrierWalk) : BarrierWalk :=
  let level := (List.range 6).map fun e => max (x.level.getD e 0) (barrierLevel m sc i b x.ctr e)
  let init := initOf m (sc.x.core, barrierBolOf m)
  let ordered := fun (k : Nat) (l : List Nat) =>
    k = 0 || (barrierBolOf m ≠ 0xFF && l.any fun e => decide (init + k ≤ level.getD e 0))
  let a := (arrivalsOf sc b).foldl (fun (a : Nat × Bool) l => (a.1 + 1, a.2 || !ordered a.1 l)) (x.arrived, x.bad)
  { ctr := sqValue (patchedIn m sc.x.core sc.tiling) i b x.ctr, arrived := a.1, level := level, bad := a.2 }

/-- Whatever follows, `y` fails where `x` does. -/
def BarrierWalk.covers (y x : BarrierWalk) : Bool :=
  y.bad || (!x.bad && x.ctr = y.ctr && decide (x.arrived ≤ y.arrived) && (x.arrived = 0) == (y.arrived = 0)
    && (List.range 6).all fun e => decide (y.level.getD e 0 ≤ x.level.getD e 0))

/-- The places that no other one covers. -/
def BarrierWalk.prune (l : List BarrierWalk) : List BarrierWalk :=
  l.foldl (fun acc x => if acc.any fun y => y.covers x then acc else x :: acc.filter fun y => !x.covers y) []

/-- REASON 0x08 (R493). -/
def checkBarrier (m : List Byte) (scs : List Scan) : List Where :=
  scs.filterMap fun sc =>
    if (Flow.walkList (barrierStep m sc) BarrierWalk.prune [{}] sc.flow).any (·.bad) then some (atScan sc) else none

/-! Times under R171. -/

/-- Region clock of a tier floor, as region cycles in 125 tide ticks (R169). -/
def floorRate (f : Nat) : Nat := [280, 266, 252, 238, 210, 200, 190, 180].getD f 180

/-- A time: region cycles and picoseconds, budgeted together under R171, and tide ticks. -/
structure Span where
  rc : Nat := 0
  ps : Nat := 0
  tt : Nat := 0
  deriving DecidableEq, Repr

/-- The budget of R171 for x region cycles and picoseconds, in tide ticks. -/
def budgetTt (floor x ps : Nat) : Nat :=
  let n := (x + 1) * 125 * 1600 + ps * floorRate floor
  (n + floorRate floor * 1600 - 1) / (floorRate floor * 1600)

def Span.budget (floor : Nat) (x : Span) : Nat := x.tt + budgetTt floor x.rc x.ps
def Span.add (x y : Span) : Span := ⟨x.rc + y.rc, x.ps + y.ps, x.tt + y.tt⟩

/-- The longest of several times. -/
def longest (floor : Nat) (l : List Span) : Span := l.foldl (fun a x => if a.budget floor < x.budget floor then x else a) {}

/-- The guard of R172. -/
def guardTt (floor : Nat) : Nat := if floor ≤ 2 then 2 else 3

/-- The path of a message between two cores without other traffic (R264). -/
def meshPath (b : Build) (f t : Nat) : Span :=
  let p := b.globalPos f
  let q := b.globalPos t
  let gap := fun (x y : Nat) => max x y - min x y
  { rc := gap p.1 q.1 + gap p.2 q.2 + 4,
    ps := 430 + 6400 * (gap (p.1 / b.regionRows) (q.1 / b.regionRows) + gap (p.2 / b.regionCols) (q.2 / b.regionCols)) }

/-- A round trip from a core to a quay whose clock has the period `t` in ps (R256, R264): a lock into a clock below 0.90 GHz
takes 1 ns and four of its cycles, one out of it one of its cycles and 4 ns. -/
def quayTrip (t : Nat) : Span :=
  let locks := if 10000 < 9 * t then 1000 + 4 * t + (t + 4000) else 2 * 6400
  { rc := 13, ps := 2 * 12400 + locks + 2 * t }

/-- Planes of a stream entry, 2^24 where their number comes from a counter (R494). -/
def planesIn (d : LsDesc) (w : DWord) : Nat := if bitOf w 44 then 2 ^ 24 else d.planes

/-- Chunks of a stream entry. -/
def chunksIn (d : LsDesc) (w : DWord) : Nat := (planesIn d w + d.chunk - 1) / d.chunk

/-- Region cycles in which a link of 64 bytes per cycle carries a chunk. -/
def chunkRc (d : LsDesc) : Nat := ((d.row + (if d.aux then d.arow else 0)) * d.rows * d.chunk + 63) / 64

/-- Occupancy and latency of an `mx.` product, with every dimension that an `mx.setdim` of the stream sets at its maximum (R65,
R75). -/
def mxTime (sc : Scan) (desc : Nat) : Nat :=
  match State.mxdAt sc.p desc with
  | none => 0
  | some l =>
    let set := fun (l : List Byte) (w : DWord) =>
      if opOf w = 8 ∧ fieldOf w 55 49 = desc then
        let f := State.dimField (fieldOf w 48 47)
        patchAt l f.1 (leBytes 2 (f.2 - 1))
      else l
    let d := MxDesc.of ((slotsIn sc 1).foldl set l)
    d.rowCount + d.delay

/-- A state in which the issue checks judge a stream of the manifest: one core with an active Wharf plane and the
segments of a SEGMENTS value ready. -/
def probe (b : Build) (ready : Word) (flagBase : Word) : State :=
  { ({} : State) with build := b, core := [(0, { planeA := { state := 2 } })],
                      reg := [(coreP 0 + 0x48, ready), (coreP 0 + 0x50, flagBase)] }

/-- The head that an instruction would be. -/
def headOf (p : Prog) (b : Bundle) (w : DWord) : Head :=
  { num := 1, prog := p, cur := {}, bundle := b, stamp := 0, word := w, conds := [] }

/-- Occupancy and latency of a `vx.` instruction; the Wharf's groups at the plane of CORE_CONFIG (R99, R104). -/
def vxTime (b : Build) (m : List Byte) (sc : Scan) (bn : Bundle) (w : DWord) : Nat :=
  match (probe b 0xFFFFFF 0).vxPlan 0 (headOf sc.p bn w) with
  | .error _ => 0
  | .ok p =>
    if p.v.op = vWharf then
      let l := tableOf m 0x0C sc.x.core 0
      (p.v.n + 15) / 16 * fieldAt l 4 1 + fieldAt l 5 1 * fieldAt l 4 1 + 8
    else p.occupancy true + p.latency

namespace State

/-- The home of a manifest core of a context (R177). -/
def homeIn (s : State) (c m : Nat) : Nat := (s.homeOf c 0 m).getD 0

/-- The manifest core that a halo reaches (R149). -/
def haloCore (s : State) (c m dir : Nat) : Option Nat :=
  (s.neighbour c 0 dir 64 (s.build.globalPos (s.homeIn c m))).bind fun k => s.mindexOfHome c 0 k

/-- The quays' own service time, the largest QUAY_LATENCY_BOUND of the build (R264, R431). -/
def serviceTt (s : State) : Nat := ((List.range s.build.quays).map fun m => fieldOf (s.rd (quayP m + 0x40)) 11 0).foldl max 0

/-- A request to memory and its answer (R264). -/
def memoryTrip (s : State) : Span := (quayTrip s.quayPs).add { tt := s.serviceTt }

/-- The way of one chunk of a stream from its start, without the link's time: to memory and back, on a neighbour link, or over
the mesh (R148, R149, R151). -/
def chunkWay (s : State) (c : Nat) (sc : Scan) (e : Nat) (w : DWord) (d : LsDesc) : Span :=
  let home := s.homeIn c sc.x.core
  if e = 4 ∧ opOf w = 3 then
    match s.haloCore c sc.x.core (fieldOf w 40 39) with
    | some t => { rc := 3, ps := if s.regionOf (s.homeIn c t) = s.regionOf home then 0 else 6400 }
    | none => {}
  else if e = 4 ∧ opOf w = 4 then meshPath s.build home (s.homeIn c (d.xaddr / 2 ^ 34 % 4096))
  else if d.indexed ∧ d.idxMem then s.memoryTrip.add s.memoryTrip
  else s.memoryTrip

/-- From the stamp of an engine's entry to its retirement (R75, R99, R148, R223). -/
def entrySpan (s : State) (c : Nat) (m : List Byte) (sc : Scan) (b : Bundle) (e : Nat) : Span :=
  match b.slot e with
  | none => {}
  | some w =>
    match e with
    | 1 => { rc := if opOf w = 8 then 1 else mxTime sc (fieldOf w 55 49) }
    | 2 => { rc := vxTime s.build m sc b w }
    | 3 | 4 => match lsOf sc w with
      | some d => (s.chunkWay c sc e w d).add { rc := chunksIn d w * chunkRc d }
      | none => {}
    | _ => { rc := 1 }

/-! Updates of bollards (R494). -/

end State

/-- What a bundle instance does to a bollard: `count` times an amount, whether it subtracts, the engines whose entries perform
it, the way of the first of them from the stamp, and the region cycles from one to the next. -/
structure BolAct where
  key : BKey
  amount : Nat
  sub : Bool
  engines : List Nat
  count : Nat := 1
  way : Span := { rc := 1 }
  step : Nat := 0
  deriving DecidableEq, Repr

/-- All that an act adds or subtracts. -/
def BolAct.total (a : BolAct) : Nat := a.amount * a.count

namespace State

/-- The engines of an operation of the SY slot, and the time until it is performed: at its entry's issue, or in the region cycle
after the last retirement (R212). -/
def syWay (s : State) (c : Nat) (m : List Byte) (sc : Scan) (b : Bundle) (w : DWord) : List Nat × Span :=
  if attachOf w = 0 then ([5], { rc := 1 })
  else
    let en := (List.range 5).filter fun e => attaches w e
    (en, (longest (floorOf m) (en.map (s.entrySpan c m sc b))).add { rc := 1 })

/-- The bollard updates of a bundle (R494). A block bollard is 96 tt away, its watcher included (R238). -/
def actsOf (s : State) (c : Nat) (m : List Byte) (sc : Scan) (b : Bundle) : List BolAct :=
  let core := sc.x.core
  let sy := match b.slot 5 with
    | none => []
    | some w =>
      let t := s.syWay c m sc b w
      if opOf w = 2 ∨ opOf w = 3 then
        [{ key := waitKey core w, amount := fieldOf w 31 0, sub := opOf w = 3, engines := t.1,
           way := if bitOf w 50 then t.2.add { tt := 96 } else t.2 : BolAct }]
      else if opOf w = 4 then
        [{ key := (fieldOf w 43 32, fieldOf w 49 44), amount := fieldOf w 31 0, sub := false, engines := t.1,
           way := t.2.add (meshPath s.build (s.homeIn c core) (s.homeIn c (fieldOf w 43 32))) : BolAct }]
      else []
  let ls := [3, 4].filterMap fun e => match b.slot e with
    | none => none
    | some w => match lsOf sc w with
      | none => none
      | some d => d.doneBol.bind fun bol =>
        let dest : Option Nat := if e = 4 ∧ opOf w = 3 then s.haloCore c core (fieldOf w 40 39)
          else if e = 4 ∧ opOf w = 4 then some (d.xaddr / 2 ^ 34 % 4096) else some core
        dest.map fun t => { key := (t, bol), amount := 1, sub := false, engines := [e], count := chunksIn d w,
                            way := (s.chunkWay c sc e w d).add { rc := chunkRc d }, step := chunkRc d : BolAct }
  sy ++ ls

/-- The arrivals of a bundle as acts on the barrier: each counts once its entries have retired (R152). -/
def arriveActs (s : State) (c : Nat) (m : List Byte) (sc : Scan) (b : Bundle) : List BolAct :=
  (arrivalsOf sc b).map fun en =>
    { key := (sc.x.core, barrierBolOf m), amount := 1, sub := false, engines := en,
      way := (longest (floorOf m) (en.map (s.entrySpan c m sc b))).add { rc := 1 } : BolAct }

end State

/-- Instances before `x` in path order. -/
def before (f : List Flow) (x : Inst) : List (Inst × Nat × Bundle) :=
  (Flow.leavesList f).takeWhile fun e => e.1 ≠ x

/-- An update can have taken effect by a point: it is stamped no later, or chained (R494). -/
def canBy (t stamp : Nat) (b : Bundle) : Bool := decide (stamp ≤ t) || b.chain

/-- How many of the updates of an act must have taken effect by `t`: stamp, way and guard lie before it (R171, R494). -/
def BolAct.mustBy (a : BolAct) (floor guard t stamp : Nat) : Nat :=
  let room := (t - (stamp + a.way.tt + guard)) * floorRate floor * 1600 - a.way.ps * floorRate floor
  let cycles := room / 200000
  if t < stamp + a.way.tt + guard ∨ cycles ≤ a.way.rc then 0
  else if a.step = 0 then a.count
  else min a.count ((cycles - 1 - a.way.rc) / a.step + 1)

/-- The streams of a check, one for each core, with what the check knows of them: the context, the image. -/
structure Orders where
  ctx : Nat
  m : List Byte
  scs : List Scan

/-- An entry that must have issued: its manifest core, its instance, its engine. -/
abbrev Entry := Nat × Inst × Nat

namespace Orders

def scan? (o : Orders) (core : Nat) : Option Scan := o.scs.find? fun sc => sc.x.core = core

/-- Every add that some path can make to a key, releases of the barrier apart. -/
def allAdds (o : Orders) (s : State) (key : BKey) : Nat :=
  (o.scs.map fun sc => (highSum (fun _ _ b =>
    (((s.actsOf o.ctx o.m sc b).filter fun a => a.key = key && !a.sub).map fun a => (a.total : Int)).sum) none sc.flow).toNat).sum

/-- The arrivals of a core on its longest path. -/
def arrivals (sc : Scan) : Nat := (highSum (fun _ _ b => ((arrivalsOf sc b).length : Int)) none sc.flow).toNat

/-- A key is the barrier bollard of a core. -/
def isBarrier (o : Orders) (key : BKey) : Bool := key.1 ≠ 0xFFFF && barrierBolOf o.m ≠ 0xFF && key.2 = barrierBolOf o.m

/-- The releases that a core's own path can complete (R494). -/
def releases (o : Orders) (key : BKey) : Nat :=
  if o.isBarrier key then (o.scan? key.1).elim 0 arrivals else 0

/-- The entries of an engine before an instance, on every path that reaches it; with the instance itself where `own` says. -/
def upTo (sc : Scan) (own : Bool) (x : Inst) (e : Nat) : List Entry :=
  let ys := (before sc.flow x).filter fun y => (y.2.2.entry e).isSome && forced sc.flow x y.1
  (ys.map fun y => (sc.x.core, y.1, e)) ++ if own then [(sc.x.core, x, e)] else []

/-- The waits of entries that have issued: bollard and least threshold. -/
def held (o : Orders) (l : List Entry) : List (BKey × Nat) :=
  l.flatMap fun x => (o.scan? x.1).elim [] fun sc =>
    (waitsOf sc.p.bundles x.2.1.bundle x.2.2).map fun w => (waitKey sc.x.core w, (waitLevel sc x.2.1 w).1)

/-- What the waits leave to an act that can bring `total` to its bollard: what it must have brought (R494). -/
def mustAct (o : Orders) (s : State) (waits : List (BKey × Nat)) (key : BKey) (total : Nat) : Nat :=
  let top := ((waits.filter fun w => w.1 = key).map (·.2)).foldl max 0
  min total (top + total - (initOf o.m key + o.allAdds s key + o.releases key))

/-- The releases that the waits leave to the barrier. -/
def mustRelease (o : Orders) (s : State) (waits : List (BKey × Nat)) (key : BKey) : Nat :=
  let top := ((waits.filter fun w => w.1 = key).map (·.2)).foldl max 0
  top - (initOf o.m key + o.allAdds s key)

/-- The entries without which the waits could not have been met, and the entries before those. -/
def needed (o : Orders) (s : State) (waits : List (BKey × Nat)) : List Entry :=
  let rel := ((waits.map (·.1)).filter o.isBarrier).map (o.mustRelease s waits) |>.foldl max 0
  o.scs.flatMap fun sc => (Flow.leavesList sc.flow).flatMap fun l =>
    let acts := (s.actsOf o.ctx o.m sc l.2.2).filter fun a =>
      !a.sub && (waits.any fun w => w.1 = a.key) && decide (0 < o.mustAct s waits a.key a.total)
    let arr := if 0 < rel ∧ arrivals sc ≤ rel then (arrivalsOf sc l.2.2).flatten else []
    ((acts.flatMap (·.engines)) ++ arr).eraseDups.flatMap fun e => upTo sc true l.1 e

/-- All entries that must have issued before a point, through waits on waits (R494). -/
def closure (o : Orders) (s : State) : Nat → List Entry → List Entry
  | 0, l => l
  | n + 1, l =>
    let l' := (l ++ o.needed s (o.held l)).eraseDups
    if l'.length = l.length then l else o.closure s n l'

/-- Entries of all streams, the bound of the closure. -/
def size (o : Orders) : Nat := 6 * (o.scs.map fun sc => (Flow.leavesList sc.flow).length).sum

/-- The waits that must hold before a point of a stream: an entry of engine `e`, itself among them where `own` says. -/
def waitsBefore (o : Orders) (s : State) (sc : Scan) (own : Bool) (x : Inst) (l : List Nat) : List (BKey × Nat) :=
  o.held (o.closure s (o.size + 1) ((l.flatMap (upTo sc own x)).eraseDups))

/-- The guard between the stream of `sc` and whoever looks at a bollard from stream `at_` (R172). -/
def guard (o : Orders) (s : State) (at_ sc : Scan) (key : BKey) : Nat :=
  let consumer := if key.1 = 0xFFFF then at_.x.core else key.1
  if s.regionOf (s.homeIn o.ctx consumer) = s.regionOf (s.homeIn o.ctx sc.x.core) then 0 else guardTt (floorOf o.m)

/-- The sum of the updates of a key over the paths of a stream, by what counts of an act. -/
def sumActs (o : Orders) (s : State) (sc : Scan) (key : BKey) (add sub : Nat → Bundle → BolAct → Nat) (_ : Inst) (t : Nat)
    (b : Bundle) : Int :=
  (((s.actsOf o.ctx o.m sc b).filter fun a => a.key = key).map fun a =>
    if a.sub then -(sub t b a : Int) else (add t b a : Int)).sum

/-- The releases that must have come by `t`: every core's arrivals, 96 tt after the last (R153). -/
def releasesBy (o : Orders) (s : State) (at_ : Scan) (x : Inst) (t : Nat) (key : BKey) : Nat :=
  let floor := floorOf o.m
  let of := fun (sc : Scan) => (lowSum (fun _ st b =>
    ((s.arriveActs o.ctx o.m sc b).map fun a =>
      ((({ a with way := a.way.add { tt := 96 } }).mustBy floor (o.guard s at_ sc key) t st : Nat) : Int)).sum)
      (if sc.x.core = at_.x.core then some x else none) sc.flow).toNat
  match o.scs.map of with
  | [] => 0
  | n :: l => l.foldl min n

/-- The least value of a bollard at a point of stream `sc`: INIT plus the adds that must have taken effect, less the
subs that can have (R494). -/
def leastAt (o : Orders) (s : State) (sc : Scan) (x : Inst) (t : Nat) (key : BKey) (waits : List (BKey × Nat)) : Int :=
  let must := fun (y : Scan) (st : Nat) (_ : Bundle) (a : BolAct) =>
    max (a.amount * a.mustBy (floorOf o.m) (o.guard s sc y key) t st) (o.mustAct s waits key a.total)
  let can := fun (st : Nat) (b : Bundle) (a : BolAct) => if canBy t st b then a.total else 0
  let rel := if o.isBarrier key then max (o.mustRelease s waits key) (o.releasesBy s sc x t key) else 0
  (initOf o.m key + rel : Nat) + (o.scs.map fun y =>
    lowSum (o.sumActs s y key (must y) can) (if y.x.core = sc.x.core then some x else none) y.flow).sum

/-- The greatest value of a bollard at a point: INIT plus the adds that can have taken effect, less the subs that
must have. -/
def mostAt (o : Orders) (s : State) (sc : Scan) (x : Inst) (t : Nat) (key : BKey) : Int :=
  let must := fun (y : Scan) (st : Nat) (_ : Bundle) (a : BolAct) => a.amount * a.mustBy (floorOf o.m) (o.guard s sc y key) t st
  let can := fun (st : Nat) (b : Bundle) (a : BolAct) => if canBy t st b then a.total else 0
  let rel : Int := if o.isBarrier key then (o.scan? key.1).elim 0 fun y =>
      highSum (fun _ st b => if canBy t st b then ((arrivalsOf y b).length : Int) else 0)
        (if y.x.core = sc.x.core then some x else none) y.flow
    else 0
  (initOf o.m key : Int) + rel + (o.scs.map fun y =>
    highSum (o.sumActs s y key can (must y)) (if y.x.core = sc.x.core then some x else none) y.flow).sum

/-- The bollards of a stream keep R494 at every wait, add and sub of an instance. -/
def bollardsOk (o : Orders) (s : State) (launch : Nat) (sc : Scan) : Bool :=
  let judged := fun (k : BKey) => k.1 ≠ 0xFFFF || decide (k.2 < launch)
  (Flow.leavesList sc.flow).all fun l =>
    ((List.range 6).all fun e =>
      (l.2.2.entry e).isNone || (waitsOf sc.p.bundles l.1.bundle e).all fun w =>
        let key := waitKey sc.x.core w
        !judged key || decide (((waitLevel sc l.1 w).2 : Int)
          ≤ o.leastAt s sc l.1 l.2.1 key (o.waitsBefore s sc false l.1 [e])))
    && (s.actsOf o.ctx o.m sc l.2.2).all fun a =>
      !judged a.key ||
        (if a.sub then decide (0 ≤ o.leastAt s sc l.1 l.2.1 a.key (o.waitsBefore s sc true l.1 a.engines))
         else decide (o.mostAt s sc l.1 l.2.1 a.key ≤ 2 ^ 32 - 1))

end Orders

namespace State

/-- A core of the manifest's regions, not at a spare position (R8, R177). -/
def coreFits (s : State) (m : List Byte) (k : Nat) : Bool :=
  decide (k / s.build.stride < fieldAt m 36 1) && decide (k % s.build.stride < s.build.active)

/-- The bollards that a slot names exist (R211, R236). -/
def bollardNamed (s : State) (c : Nat) (m : List Byte) (sc : Scan) : Bool :=
  (slotsIn sc 5).all fun w =>
    match opOf w with
    | 1 | 2 | 3 =>
      if bitOf w 50 then decide (fieldOf w 49 38 < (s.rd (ctxP c + 0x94)).toNat) else decide (fieldOf w 49 38 < 64)
    | 4 => s.coreFits m (fieldOf w 43 32)
    | _ => true

/-- Streams that run together with a stream: its variant, and its own tiling where a core has that tiling (R494). -/
def beside (scs : List Scan) (sc : Scan) (v : Nat) : List Scan :=
  scs.filter fun o =>
    (o.x.idx = sc.x.idx && o.tiling = sc.tiling) || (o.x.core ≠ sc.x.core && (o.x.variant = 0 || o.x.variant = v) &&
      (o.tiling = 0 || o.tiling = sc.tiling || !(scs.any fun y => y.x.core = o.x.core && y.tiling = sc.tiling)))

/-- One stream for each other core, in every way to choose it. -/
def choices (l : List Scan) : List Nat → List (List Scan)
  | [] => [[]]
  | k :: ks =>
    let mine := l.filter fun o => o.x.core = k
    (choices l ks).flatMap fun r => mine.map fun o => o :: r

/-- The streams that may run together with one, in every combination. -/
def together (c : Nat) (m : List Byte) (scs : List Scan) (sc : Scan) : List Orders :=
  (if sc.x.variant = 0 then [1, 2] else [sc.x.variant]).flatMap fun v =>
    let l := beside scs sc v
    let others := ((l.map (·.x.core)).eraseDups).filter fun k => k ≠ sc.x.core
    (choices l others).map fun r => ⟨c, m, sc :: r⟩

/-- The first failing place of a list of records, the one of the lowest manifest index (R184). -/
def lowestCore (idx : Nat) (l : List Nat) : Option Where :=
  match l with
  | [] => none
  | k :: l => some (.sect idx (l.foldl min k))

/-- REASON 0x09. -/
def checkBollards (s : State) (c : Nat) (m : List Byte) (scs : List Scan) : List Where :=
  let bol := barrierBolOf m
  let launch := (s.rd (ctxP c + 0x98)).toNat
  let recs := (ofType m 6).filterMap fun x =>
    lowestCore x.idx (((recordsOf 8 (x.bytes m)).filter fun r =>
      if fieldAt r 0 2 = 0xFFFF then decide (launch ≤ fieldAt r 2 2)
      else decide (63 < fieldAt r 2 2) || !s.coreFits m (fieldAt r 0 2)).map fun r => fieldAt r 0 2 % 2048)
  (if 63 < bol ∧ bol ≠ 0xFF then [Where.header] else []) ++ recs ++ scs.filterMap fun sc =>
    if s.bollardNamed c m sc && (together c m scs sc).all fun o => o.bollardsOk s launch sc then none else some (atScan sc)

end State

/-! Counters and decisions (R202). -/

/-- The counters that the entries of a bundle read at issue, those of their attached waits among them (R201, R212). -/
def readsOf (bs : List Bundle) (i : Nat) (b : Bundle) : List Nat :=
  let f := fun (e : Nat) (g : DWord → List Nat) => (b.slot e).elim [] g
  let opt := fun (x : Nat) => if 8 ≤ x then [x % 8] else []
  f 1 (fun w => if opOf w = 8 then [fieldOf w 46 44] else if bitOf w 48 then [fieldOf w 47 45] else [])
    ++ f 2 (fun w =>
      let v := VOp.of w
      if v.op = vMset then [fieldOf w 18 16] else if v.op = vSent || isMlogic v.op then [] else opt v.octr)
    ++ f 3 (fun w => opt (fieldOf w 48 45) ++ opt (fieldOf w 44 41))
    ++ f 4 (fun w => opt (fieldOf w 48 45) ++ opt (fieldOf w 44 41))
    ++ (List.range 6).flatMap fun e =>
      if (b.entry e).isNone then []
      else ((waitsOf bs i e).filter fun w => bitOf w 37).map fun w => fieldOf w 36 34

/-- Progress of the sequencer along a path: the stamp and the region cycles after it of the last issue point, the points
at which counters and decisions are visible. -/
structure SeqWalk where
  last : Option (Nat × Nat) := none
  ctr : Tab Nat := []
  dec : Tab (Nat × Nat) := []
  ok : Bool := true

/-- One instance: its readers must not be stamped before what they read is visible; its SQ entry issues one region
cycle after the one before it, or at its stamp (R202). -/
def seqStep (floor : Nat) (bs : List Bundle) (a : SeqWalk) (l : Inst × Nat × Bundle) : SeqWalk :=
  let t := l.2.1
  let b := l.2.2
  let reads := (readsOf bs l.1.bundle b).all fun r => decide (Tab.get 0 a.ctr r ≤ t)
  let governed := a.dec.all fun d => !(decide (d.1 < l.1.bundle) && decide (l.1.bundle ≤ d.2.1)) || decide (d.2.2 ≤ t)
    || (List.range 5).all fun e => (b.entry (e + 1)).isNone
  let a := { a with ok := a.ok && reads && governed }
  match b.slot 0 with
  | none => a
  | some w =>
    let p : Nat × Nat := match a.last with
      | none => (t, 0)
      | some (u, x) => if (t - u) * floorRate floor ≥ (x + 1) * 125 then (t, 0) else (u, x + 1)
    let vis := p.1 + budgetTt floor (p.2 + 1) 0
    let a := { a with last := some p }
    match opOf w with
    | 0x10 | 0x11 => { a with dec := Tab.put a.dec l.1.bundle (l.1.bundle + fieldOf w 43 32, vis) }
    | 0x08 => a
    | _ => { a with ctr := Tab.put a.ctr (fieldOf w 55 53) vis }

/-! Berths and memory (R172). -/

/-- A use of bytes by an entry: who holds them (a manifest core's berth, or memory: core 0xFFFF), where, the stamp, and for a
write the ticks after its stamp until they can be used. -/
structure Use where
  core : Nat
  space : Nat
  first : Int
  len : Nat
  stamp : Nat
  after : Nat := 0
  deriving DecidableEq, Repr

/-- The bytes meet. -/
def Use.meets (x y : Use) : Bool :=
  x.core = y.core && x.space = y.space && decide (x.first < y.first + y.len) && decide (y.first < x.first + x.len)

/-- A stream entry whose addresses the manifest fixes: no counter, no index, no patch. -/
def fixedStream (m : List Byte) (sc : Scan) (w : DWord) (d : LsDesc) : Bool :=
  !bitOf w 48 && !bitOf w 44 && !d.indexed && !patchedLsd m sc.x.core (fieldOf w 55 49) 16
    && !(d.aux && patchedLsd m sc.x.core (fieldOf w 55 49) 64)

namespace State

/-- The bytes that an instance writes for another core (R148, R149, R150): into a berth by a halo or post, or into memory. -/
def sends (s : State) (c : Nat) (m : List Byte) (sc : Scan) (l : Inst × Nat × Bundle) : List Use :=
  match l.2.2.slot 4 with
  | none => []
  | some w => match lsOf sc w with
    | none => []
    | some d =>
      if ¬ fixedStream m sc w d then []
      else
        let at_ := fun (j : Nat) =>
          ((s.chunkWay c sc 4 w d).add { rc := (j / d.chunk + 1) * chunkRc d }).budget (floorOf m)
        let dest : Option (Nat × Nat) := match opOf w with
          | 1 => some (0xFFFF, 0)
          | 3 => (s.haloCore c sc.x.core (fieldOf w 40 39)).map fun t => (t, d.berth)
          | 4 => some (d.xaddr / 2 ^ 34 % 4096, d.xaddr / 2 ^ 32 % 4)
          | _ => none
        dest.elim [] fun t => (d.rowList d.planes).map fun r =>
          { core := t.1, space := t.2, len := d.rowLen r.1, stamp := l.2.1, after := at_ r.2.1,
            first := if t.1 = 0xFFFF then d.extAt r.1 r.2.1 r.2.2 else d.targetAt r.1 r.2.1 r.2.2 : Use }

/-- The bytes that an instance reads of its own berths and of memory, where no counter moves them. -/
def takes (s : State) (m : List Byte) (sc : Scan) (l : Inst × Nat × Bundle) : List Use :=
  let own := fun (sp : Nat) (a : Int) (n : Nat) => ({ core := sc.x.core, space := sp, first := a, len := n, stamp := l.2.1 } : Use)
  let dims := (slotsIn sc 1).filterMap fun w => if opOf w = 8 then some (fieldOf w 55 49) else none
  (match l.2.2.slot 1 with
    | some w =>
      if opOf w = 8 ∨ bitOf w 48 ∨ dims.contains (fieldOf w 55 49) then []
      else match mxdAt sc.p (fieldOf w 55 49) with
        | some r =>
          let d := MxDesc.of r
          (List.range d.b).flatMap fun i => ((d.ranges i).filter fun g => g.2.2.2.1 ≠ 0).map fun g =>
            own g.2.1 (g.2.2.1 : Nat) g.2.2.2.1
        | none => []
    | none => [])
  ++ (match l.2.2.slot 2 with
    | some w =>
      if 8 ≤ (VOp.of w).octr ∨ (VOp.of w).op = vSent then []
      else match (probe s.build 0xFFFFFF 0).vxPlan 0 (headOf sc.p l.2.2 w) with
        | .ok p => (p.srcs.filter fun g => g.1 < 3).map fun g => own g.1 (g.2.1 : Nat) g.2.2
        | .error _ => []
    | none => [])
  ++ (match l.2.2.slot 4 with
    | some w => match lsOf sc w with
      | some d => if bitOf w 48 ∨ bitOf w 44 then []
          else (d.rowList d.planes).map fun r => own d.berth (d.berthAt r.1 0 r.2.1 r.2.2) (d.rowLen r.1)
      | none => []
    | none => [])
  ++ (match l.2.2.slot 3 with
    | some w => match lsOf sc w with
      | some d => if ¬ fixedStream m sc w d then []
          else (d.rowList d.planes).map fun r =>
            { core := 0xFFFF, space := 0, first := d.extAt r.1 r.2.1 r.2.2, len := d.rowLen r.1, stamp := l.2.1 : Use }
      | none => []
    | none => [])

/-- Every read of another core's bytes after their write begins comes after they have arrived, with the guard between regions
(R172). -/
def passesOk (s : State) (o : Orders) (sc : Scan) : Bool :=
  let reads := (Flow.leavesList sc.flow).flatMap (s.takes o.m sc)
  o.scs.all fun y => y.x.core = sc.x.core || (
    let far := s.regionOf (s.homeIn o.ctx y.x.core) ≠ s.regionOf (s.homeIn o.ctx sc.x.core)
    let guard := if far then guardTt (floorOf o.m) else 0
    ((Flow.leavesList y.flow).flatMap (s.sends o.ctx o.m y)).all fun w => reads.all fun r =>
      !w.meets r || decide (r.stamp ≤ w.stamp) || decide (w.stamp + w.after + guard ≤ r.stamp))

/-- REASON 0x0A: R202, and R172 for what passes through berths and memory; what bollards order lies in R494. -/
def checkReaders (s : State) (c : Nat) (m : List Byte) (scs : List Scan) : List Where :=
  scs.filterMap fun sc =>
    if ((Flow.leavesList sc.flow).foldl (seqStep (floorOf m) sc.p.bundles) {}).ok
        && (together c m scs sc).all fun o => s.passesOk o sc then none
    else some (atScan sc)

end State

end Sys2Proof.Machine
end

