-- ==== Sys2Proof/Machine/Manifest.lean ====
section
/-! DEFINITION. The manifest check (R176 to R184, R218, R219) in the order of REASON. Each check answers the places that fail
it, as directory index and manifest core; core 0x7FF is none. -/

namespace Sys2Proof.Machine

/-! The checks that need the image only. -/

/-- Bytes of one record by section type, where the content is a list of records. -/
def recordSize (t : Nat) : Nat := [1, 8, 64, 32, 128, 16, 8, 16, 4, 12, 8, 12, 8].getD t 1

/-- REASON 0x01. -/
def checkFormat (m : List Byte) : List Where :=
  let body := (m.drop 128).take (fieldAt m 28 4)
  let sects := sectsOf m
  let low := 128 + 16 * fieldAt m 18 2
  let high := 128 + fieldAt m 28 4
  let bad := m.length < 128 || fieldAt m 0 4 ≠ 0x464D584A || crc32c (m.take 124) ≠ fieldAt m 124 4 || m.length < high
    || high < low || crc32c body ≠ fieldAt m 32 4 || sha384 body ≠ (m.drop 40).take 48
  if bad then [.header]
  else sects.filterMap fun (x : Sect) =>
    let apart : Bool := sects.all fun y => x.idx = y.idx || x.len = 0 || y.len = 0 || decide (x.off + x.len ≤ y.off)
      || decide (y.off + y.len ≤ x.off)
    let broken : Bool := x.typ = 1 && (readBundles (x.bytes m)).isNone
    if x.off < low ∨ high < x.off + x.len ∨ x.off % 8 ≠ 0 ∨ broken = true ∨ apart = false then
      some (Where.sect x.idx (x.core % 2048))
    else none

/-- Reserved bytes and values of the header (R176). -/
def headerReserved (m : List Byte) : Bool :=
  let f := fun (a n : Nat) => fieldAt m a n
  decide (7 < f 6 1) || decide (7 < f 7 1) || f 39 1 ≠ 0 || !zeroAt m 88 36 || f 16 2 = 0 || f 18 2 = 0
    || decide (4096 < f 18 2) || f 20 4 = 0 || decide (1024 < f 24 4) || f 24 4 % 4 ≠ 0 || f 36 1 = 0
    || decide (16 < f 36 1) || f 37 1 = 0 || decide (16 < f 37 1)

/-- A numeric descriptor with a reserved format or scale code (R18, R21). -/
def ndReserved (b : Nat) : Bool := decide (9 < b % 16) || b / 16 % 4 = 3

/-- Reserved bytes, bits and codes of a section's content (R18, R21, R61, R88, R140, R178 to R182). -/
def contentReserved (x : Sect) (l : List Byte) : Bool :=
  let any := fun (n : Nat) (p : List Byte → Bool) => (recordsOf n l).any p
  match x.typ with
  | 1 => match readBundles l with
    | some raw => !bundlesLegal raw
    | none => true
  | 2 => any 64 fun d => mxReserved d || ndReserved (fieldAt d 6 1) || ndReserved (fieldAt d 7 1)
  | 3 => any 32 fun d => if fieldAt d 0 1 % 4 = 1 then (QDesc.of d).reserved
      else (VDesc.of d).reserved || fieldAt d 0 1 % 4 ≠ 0 || ndReserved (fieldAt d 2 1)
  | 4 => any 128 lsReserved
  | 5 => any 16 fun r => !zeroAt r 13 3
  | 7 => any 16 fun r => !zeroAt r 2 2
  | 8 => any 4 fun r => !zeroAt r 3 1
  | 9 => any 12 fun r => !zeroAt r 7 1
  | 0x0A => any 8 fun r => !zeroAt r 1 1
  | 0x0B => any 12 fun r => !zeroAt r 1 1 || decide (12 < fieldAt r 0 1) || decide (2 ^ fieldAt r 0 1 ≤ fieldAt r 2 2)
  | 0x0C => any 8 fun r => !zeroAt r 6 2
  | _ => false

/-- Sections of the whole manifest: ATLAS, BOLLARDS, PINS, PATCHES (R178). -/
def wholeType (t : Nat) : Bool := [5, 6, 7, 9].contains t

/-- Sections that exist per tiling: BUNDLES, MXD, VXD, LSD, BUDGETS, SENTINELS (R178). -/
def tiledType (t : Nat) : Bool := [1, 2, 3, 4, 0x0A, 0x0B].contains t

/-- What R178 says of a section's key and size: VARIANT for BUNDLES only, TILING for the types that exist per tiling, one
section for each core, tiling and variant, whole records, and one record in SEGMENTS and CORE_CONFIG (log 31). -/
def keyReserved (m : List Byte) (x : Sect) : Bool :=
  (x.variant ≠ 0 && x.typ ≠ 1) || (x.tiling ≠ 0 && !tiledType x.typ)
    || (!wholeType x.typ && (sectsOf m).any fun y => decide (y.idx < x.idx) && y.typ = x.typ && y.core = x.core
          && y.tiling = x.tiling && y.variant = x.variant)
    || (decide (5 ≤ x.typ) && x.len % recordSize x.typ ≠ 0)
    || ((x.typ = 8 || x.typ = 0x0C) && x.len ≠ recordSize x.typ)

/-- REASON 0x04. -/
def checkReserved (m : List Byte) : List Where :=
  (if headerReserved m then [Where.header] else []) ++ (sectsOf m).filterMap fun x =>
    let a := 128 + 16 * x.idx
    if x.typ = 0 ∨ 0x0D ≤ x.typ ∨ 2 < x.variant ∨ ¬ zeroAt m (a + 3) 1 ∨ ¬ zeroAt m (a + 6) 2
        ∨ ((x.core = 0xFFFF) ≠ (wholeType x.typ = true)) ∨ keyReserved m x ∨ contentReserved x (x.bytes m)
    then some (.sect x.idx (x.core % 2048)) else none

/-- A use of an MX descriptor that breaks R22 or R54; the class of a SPILL operand is the issue check's (R66). -/
def mxUseBad (p : Prog) (i : Nat) : Bool :=
  match State.mxdAt p i with
  | some l => !(MxDesc.of l).ndOk || !(MxDesc.of l).pairOk
  | none => false

/-- The rules of R84, R88 and R98 for one use of an operand descriptor: `dst` the DST field, `k` what its field admits. -/
def operandUseBad (v : VOp) (dst : Bool) (k : Kind) (d : VDesc) : Bool :=
  let o : Opnd := .mem d 0 0
  if v.op = vSent then d.nd ≠ ⟨false, false, 0, 7⟩ || d.berth = 3 || d.aux ≠ 0
  else if d.pitch ≠ 0 then true
  else if k = .count then !countOk (some o)
  else if dst && v.op = vQuant then
    !d.nd.legal true || (decide (d.fmt.bits < 8) && decide (1 < d.estride)) || (d.nd.scale = 1 && d.estride ≠ 1)
      || (d.nd.scale ≠ 1 && d.aux ≠ 0)
  else if dst then !dstFormatOk v.cls o
  else !srcFormatOk v.cls o

/-- A use of the bytes of a VX descriptor that breaks R84, R88 or R98. -/
def vxUseBad (v : VOp) (dst : Bool) (k : Kind) (l : List Byte) : Bool :=
  if k = .quant then fieldAt l 0 1 % 4 ≠ 1
  else fieldAt l 0 1 % 4 ≠ 0 || operandUseBad v dst k (VDesc.of l)

/-- The uses that a VX slot makes of descriptors, and its ROWSUM (R84, R88, R98). -/
def vxFormatsBad (p : Prog) (w : DWord) : Bool :=
  let v := VOp.of w
  let fields := ((List.range 4).zip [v.dst, v.sa, v.sb, v.sc]).zip (kindsOf v.op)
  let desc := fun (spec : Nat) => if 0x80 ≤ spec then vxdAt p (spec - 0x80) else none
  let names := fun (k : Kind) => k = .value || k = .desc || k = .quant || k = .count
  let uses := fields.any fun f =>
    names f.2 && match desc f.1.2 with
      | some l => vxUseBad v (f.1.1 = 0) f.2 l
      | none => false
  let rows := v.op = vQuant && match desc v.dst, desc v.sb with
    | some d, some q =>
      let f := (VDesc.of d).fmt
      (QDesc.of q).rowsum && !((f = .int8 || f = .int4 || f = .int2) && (VDesc.of d).nd.scale = 0)
    | _, _ => false
  uses || rows

/-- REASON 0x05: the format rules for every use that an instruction makes of a descriptor, in the section that holds the
descriptor; the other rules of a descriptor are the issue check's. -/
def checkFormats (m : List Byte) (scs : List Scan) : List Where :=
  scs.flatMap fun sc =>
    let at_ := fun (t : Nat) => Where.sect ((tableSect m t sc.x.core sc.tiling).elim sc.x.idx (·.idx)) sc.x.core
    let sent := (slotsIn sc 2).any fun w => (VOp.of w).op = vSent && mxUseBad sc.p (fieldOf w 38 32)
    (if sent || (slotsIn sc 1).any fun w => opOf w ≠ 8 && mxUseBad sc.p (fieldOf w 55 49) then [at_ 2] else [])
      ++ (if (slotsIn sc 2).any (vxFormatsBad sc.p) then [at_ 3] else [])

/-- An instruction that carries RND 1 (R92). -/
def rndOf (b : Bundle) : Bool :=
  match b.slot 2 with
  | none => false
  | some w =>
    let v := VOp.of w
    v.rnd && !(v.op = vMset || v.op = vSent || isMlogic v.op)

/-- REASON 0x07: two RND 1 entries share a stamp (R103). -/
def checkStamps (scs : List Scan) : List Where :=
  scs.filterMap fun sc =>
    let l := ((Flow.leavesList sc.flow).filter fun e => rndOf e.2.2).map fun e => e.2.1
    if l.Nodup then none else some (atScan sc)

/-- The footprint of a core, without the 2,048 bytes of R218. -/
def footprint (m : List Byte) (k : Nat) : Nat :=
  ((sectsOf m).map fun x =>
    if x.core ≠ k then 0
    else if x.typ = 1 then
      (((readBundles (x.bytes m)).getD []).map fun r =>
        8 * r.b.slots.length + (match r.b.slot 5 with
          | some w => 8 * ((List.range 5).filter fun e => attaches w e).length
          | none => 0) + (if r.b.skip.isSome || r.b.loop.isSome then 16 else 0)).sum
    else if [2, 3, 4, 0x0A, 0x0B].contains x.typ then x.len else 0).sum

/-- REASON 0x0C; `used` is what earlier legs and voyages take of a core's chart memory (R218, R316). -/
def checkFootprint (m : List Byte) (used : Nat → Nat) : List Where :=
  (coresIn m).filterMap fun k =>
    if 65536 < used k + footprint m k + 2048 then
      ((sectsOf m).find? fun x => x.core = k).map fun x => Where.sect x.idx k
    else none

/-- What leaves a stage at its stamp: slots of the store engine, arrivals at the barrier, block-bollard operations; and
the waits, of entries and of chunks, on bollards that are advanced from outside (R179). -/
def leaving (outside : BKey → Bool) (sc : Scan) : List (Nat × Nat × Nat × BKey) :=
  (Flow.leavesList sc.flow).flatMap fun l =>
    ((l.2.2.slot 4).elim [] fun w => [(l.2.1, 4, opOf w, (0, 0))])
    ++ ((arrivalsOf sc l.2.2).map fun _ => (l.2.1, 6, 0, (0, 0)))
    ++ ([3, 4].filterMap fun e => ((l.2.2.slot e).bind (lsOf sc)).bind fun d => d.waitBol.bind fun b =>
      if outside (sc.x.core, b) then some (l.2.1, 7, e, (sc.x.core, b)) else none)
    ++ ((l.2.2.slot 5).elim [] fun w =>
      let key := waitKey sc.x.core w
      if (opOf w = 2 ∨ opOf w = 3) ∧ bitOf w 50 then [(l.2.1, 5, opOf w, key)]
      else if opOf w = 1 ∧ outside key then [(l.2.1, 5, 1, key)] else [])

/-- Entries of the atlas: stage, word, low and high key, tiling, in order, with their section. -/
def atlasOf (m : List Byte) : List (Nat × Nat × Nat × Nat × Nat × Nat) :=
  (ofType m 5).flatMap fun x => (recordsOf 16 (x.bytes m)).map fun r =>
    (x.idx, fieldAt r 0 2, fieldAt r 2 2, fieldAt r 4 4, fieldAt r 8 4, fieldAt r 12 1)

/-- The least key that no entry of a list covers, from `k` on. -/
def uncovered : Nat → Nat → List (Nat × Nat) → Nat
  | 0, k, _ => k
  | n + 1, k, l => match l.find? fun r => decide (r.1 ≤ k) && decide (k ≤ r.2) with
    | some r => uncovered n (r.2 + 1) l
    | none => k

/-- A bollard is advanced from outside a stage: by a stream of a core without one of its tilings, by the barrier, or, an
event bollard, by any party (R152, R179, R236). -/
def State.outsideStage (s : State) (c : Nat) (m : List Byte) (scs : List Scan) (tilings : List Nat) (key : BKey) : Bool :=
  let inside := (scs.filter fun sc => tilings.contains sc.tiling).map (·.x.core)
  (key.1 = 0xFFFF && decide ((s.rd (ctxP c + 0x98)).toNat ≤ key.2)) || (key.1 ≠ 0xFFFF && key.2 = fieldAt m 38 1)
    || scs.any fun o => !inside.contains o.x.core && o.p.bundles.any fun b => (s.actsOf c m o b).any fun a => a.key = key

/-- REASON 0x0D (R179). -/
def State.checkAtlas (s : State) (c : Nat) (m : List Byte) (scs : List Scan) : List Where :=
  let es := atlasOf m
  let bad := fun (e : Nat × Nat × Nat × Nat × Nat × Nat) =>
    let stage := es.filter fun f => f.2.1 = e.2.1
    let tilings := ((stage.map fun f => f.2.2.2.2.2).eraseDups).filter fun t => t ≠ 0
    let cover := fun (t : Nat) => scs.filter fun sc => sc.tiling = t
    let out := s.outsideStage c m scs tilings
    decide (fieldAt m 24 4 / 4 ≤ e.2.2.1) || decide (uncovered (stage.length + 1) 0 (stage.map fun f => (f.2.2.2.1, f.2.2.2.2.1)) < 2 ^ 32)
      || tilings.any fun t => (cover t).isEmpty || tilings.any fun u => (cover t).any fun a =>
        match (cover u).find? fun b => b.x.core = a.x.core && b.x.variant = a.x.variant with
        | none => true
        | some b => spanOf (a.p.bundles.length + 1) a.p.bundles ≠ spanOf (b.p.bundles.length + 1) b.p.bundles
            || leaving out a ≠ leaving out b
  (es.filter bad).map fun e => .sect e.1 0x7FF

/-- REASON 0x0E (R180, R217). -/
def checkPatches (m : List Byte) : List Where :=
  (ofType m 9).flatMap fun x => (recordsOf 12 (x.bytes m)).filterMap fun r =>
    let k := fieldAt r 4 2
    let t := fieldAt r 6 1
    let target := fieldAt r 8 4
    let own := (ofType m 1).filter fun y => y.core = k && (t = 0 || y.tiling = t)
    let mine := if own.isEmpty then (ofType m 1).filter fun y => y.core = k && y.tiling = 0 else own
    let known := t = 0 || (sectsOf m).any fun y => y.core = k && y.tiling = t
    let tables := (ofType m 4).filter fun y => y.core = k && (t = 0 || y.tiling = t || y.tiling = 0)
    let ok := decide (fieldAt r 0 2 < fieldAt m 24 4 / 4) && (coresIn m).contains k && known &&
      (if fieldAt r 2 1 = 0 then
        fieldAt r 3 1 = 4 && !mine.isEmpty && mine.all fun y =>
          match ((readBundles (y.bytes m)).getD [])[target]? with
          | some b => (b.b.slot 0).any fun w => opOf w = 1
          | none => false
      else if fieldAt r 2 1 = 1 then
        fieldAt r 3 1 = 8 && decide (target < 2 ^ 16) && [16, 56, 64].contains (target % 256) && !tables.isEmpty
          && tables.all fun y => decide (128 * (target / 256 + 1) ≤ y.len)
      else false)
    if ok then none else some (.sect x.idx (k % 2048))

/-- The ranges of berths that the instructions of a bundle name without a counter: space, first byte, length; `none` for
one that breaks the rules of R67, R101 or R144; with the type of the section that holds the descriptor. -/
def rangesOf (b : Build) (m : List Byte) (sc : Scan) (bn : Bundle) : List (Nat × Option (Nat × Int × Nat)) :=
  let t := probe b 0xFFFFFF (word (fieldAt (tableOf m 0x0C sc.x.core 0) 0 4))
  let dims := (slotsIn sc 1).filterMap fun w => if opOf w = 8 then some (fieldOf w 55 49) else none
  let size := fun (sp : Nat) => if sp < 3 then b.berthBytes sp else 2 ^ 32
  let judge := fun (sp : Nat) (a : Int) (n : Nat) (ok : Bool) =>
    if ok && insideBerth (size sp) a n then some (sp, a, n) else none
  let of := fun (t : Nat) (l : List (Option (Nat × Int × Nat))) => l.map fun r => (t, r)
  of 2 (match bn.slot 1 with
    | some w =>
      let desc := fieldOf w 55 49
      if opOf w = 8 ∨ bitOf w 48 ∨ dims.contains desc then []
      else match State.mxdAt sc.p desc with
        | some l =>
          let d := MxDesc.of l
          [0, d.b - 1].flatMap fun i => (d.ranges i).map fun r => judge r.2.1 r.2.2.1 r.2.2.2.1 r.2.2.2.2
        | none => []
    | none => [])
  ++ of 3 (match bn.slot 2 with
    | some w =>
      let v := VOp.of w
      let common := !(v.op = vMset || v.op = vSent || isMlogic v.op)
      let rec_ : List VRange := if common && v.fw then
          let f := (t.rd (coreP 0 + 0x50)).toNat
          [(4, 1, (f : Int), 8, decide (f % 4 = 0))] else []
      if 8 ≤ v.octr ∧ common then rec_.map fun r => judge r.2.1 r.2.2.1 r.2.2.2.1 r.2.2.2.2
      else (descRanges sc.p v 0 (t.fullLevel sc.p) ++ rec_).map fun r => judge r.2.1 r.2.2.1 r.2.2.2.1 r.2.2.2.2
    | none => [])
  ++ of 4 ([3, 4].flatMap fun e => match bn.slot e with
    | some w =>
      if bitOf w 48 ∨ bitOf w 44 then []
      else match lsOf sc w with
        | some d =>
          let ok := d.misaligned.isNone
          (LsDesc.rowList d d.planes).flatMap fun r =>
            judge d.berth (d.berthAt r.1 0 r.2.1 r.2.2) (d.rowLen r.1) ok ::
              (if e = 4 ∧ 3 ≤ opOf w ∧ ¬ patchedLsd m sc.x.core (fieldOf w 55 49) 16 ∧
                  insideBerth (b.berthBytes (if opOf w = 3 then d.berth else d.xaddr / 2 ^ 32 % 4))
                    (d.targetAt r.1 r.2.1 r.2.2) (d.rowLen r.1) = false
                then [none] else [])
        | none => []
    | none => [])

/-- REASON 0x0F. -/
def checkRanges_ (b : Build) (m : List Byte) (scs : List Scan) : List Where :=
  scs.flatMap fun sc => sc.p.bundles.flatMap fun bn => (rangesOf b m sc bn).filterMap fun r =>
    if r.2.isSome then none
    else some (.sect ((tableSect m r.1 sc.x.core sc.tiling).elim sc.x.idx (·.idx)) sc.x.core)

namespace State

/-- REASON 0x12. -/
def checkFit (s : State) (c : Nat) (m : List Byte) (scs : List Scan) : List Where :=
  let x := s.getCtx c
  let regions := (s.sideRegions c 0).length
  let ways := ((List.range 16).filter fun w => x.ways / 2 ^ w % 2 = 1).length
  (if regions * s.build.active < fieldAt m 16 2 ∨ regions < fieldAt m 36 1 ∨ ways < fieldAt m 37 1 then [Where.header] else [])
  ++ ((sectsOf m).filterMap fun y =>
    let n := y.len / recordSize y.typ
    if (y.core ≠ 0xFFFF ∧ ¬ s.coreFits m y.core) ∨ ((y.typ = 2 ∨ y.typ = 3 ∨ y.typ = 4) ∧ (n = 0 ∨ 128 < n ∨ y.len % recordSize y.typ ≠ 0)) then
      some (.sect y.idx (y.core % 2048)) else none)
  ++ scs.filterMap fun sc =>
    let seg := segmentsIn m sc.x.core
    let gated := sc.p.bundles.any fun bn => (rangesOf s.build m sc bn).any fun r => match r.2 with
      | some (sp, a, n) => decide (sp < 3) && decide (0 < n) && (List.range 8).any fun g =>
          let z := s.segBytes sp
          !bitOf seg (8 * sp + g) && decide ((g * z : Nat) < a + n) && decide (a < ((g + 1) * z : Nat))
      | none => false
    if gated then some (.sect (((ofType m 8).find? fun y => y.core = sc.x.core).elim sc.x.idx (·.idx)) sc.x.core) else none

/-- REASON 0x10, for the plane that is active on a core; a core without `vx.wharf` may have 0 in both fields (R178). -/
def checkWharf (s : State) (c : Nat) (m : List Byte) : List Where :=
  (ofType m 0x0C).filterMap fun x =>
    let asked := (fieldAt (x.bytes m) 4 1, fieldAt (x.bytes m) 5 1)
    let uses := (ofType m 1).any fun y => y.core = x.core && ((readBundles (y.bytes m)).getD []).any fun r =>
      (r.b.slot 2).any fun w => (VOp.of w).op = vWharf
    let fits := fun (side : Nat) => match s.physOf c side x.core with
      | none => true
      | some k =>
        let p := (s.getCore k).plane
        asked = if p.state = 2 then (p.div, p.lat) else (0, 0)
    if (!uses && asked = (0, 0)) || (fits 0 && (!(s.getCtx c).paired || fits 1)) then none else some (.sect x.idx x.core)

/-- REASON 0x0B: a region runs above the floor (R170). -/
def checkTier (s : State) (c : Nat) (m : List Byte) : List Where :=
  if (s.getCtx c).regions.any fun r => decide (floorOf m < (s.getRegion r).tier) then [.header] else []

/-- A shadowed word as it will stand at a stamp, by the commits that are pending. -/
def wordBy (s : State) (stamp a : Nat) : Word :=
  (((s.groups.filter fun g => decide (g.stamp ≤ stamp)).flatMap fun g => g.members.flatMap (·.vals)).find? fun v =>
    v.1 = a).elim (s.rd a) (·.2)

/-- The tier indices that a region will take by changes already pending: commits, and the tier cap of a convoy (R195, R415). -/
def tiersAhead (s : State) (c r : Nat) : List Nat :=
  let stamps := s.groups.map (·.stamp) ++ (s.convoy.cap.elim [] fun x => [x.2])
  stamps.map fun t =>
    let own := fieldOf (s.wordBy t (regionP r + 0x40)) 9 8 + 4 * (bitOf (s.wordBy t (modeP + 0x40)) 0).toNat
    let cap := match s.convoy.cap with
      | some (n, u) => if u ≤ t then n else fieldOf (s.rd (convoyP + oSTATUS)) 11 8
      | none => fieldOf (s.rd (convoyP + oSTATUS)) 11 8
    if s.convoyCtx = some c then max own cap else own

/-- REASON 0x0B at load: also a change that is pending (R195). -/
def checkTiers (s : State) (c : Nat) (m : List Byte) : List Where :=
  if (s.getCtx c).regions.any fun r => (s.tiersAhead c r).any fun i => decide (floorOf m < i) then [.header]
  else s.checkTier c m

/-- One line of the pin plan after another, in one region; whether a pin was refused (R130). -/
def pinLines (r c : Nat) : Nat → Nat → State → Bool × State
  | 0, _, s => (false, s)
  | n + 1, va, s =>
    match s.translate c va false with
    | (.ok pa, s) =>
      let a := s.rangeLine r c 1 pa
      let b := pinLines r c n (va + 128) a.2
      (a.1 || b.1, b.2)
    | (_, s) => (false, s)

/-- The pin plan of a manifest (R129, R178): the first PINS section with a refused pin, and the lines pinned. -/
def pinPlan (s : State) (c : Nat) (m : List Byte) : Option Where × State :=
  (ofType m 7).foldl (fun (a : Option Where × State) x =>
    (recordsOf 16 (x.bytes m)).foldl (fun (a : Option Where × State) p =>
      let sides := if (s.getCtx c).paired then [0, 1] else [0]
      (sides.filterMap fun side => (s.sideRegions c side)[fieldAt p 0 2]?).foldl (fun (a : Option Where × State) r =>
        let b := pinLines r c (fieldAt p 4 4) (fieldAt p 8 8 % 2 ^ 48) a.2
        (if a.1.isNone ∧ b.1 then some (.sect x.idx 0x7FF) else a.1, b.2)) a) a) (none, s)

/-- REASON 0x06 (R42). -/
def checkAdapt (s : State) (m : List Byte) (scs : List Scan) : List Where :=
  (if declAdapt m && !s.adapt then [Where.header] else []) ++
    if declAdapt m then [] else scs.filterMap fun sc => if sc.p.bundles.any rndOf then some (atScan sc) else none

end State

/-- REASON 0x13: a descriptor waits under a tiling that gives it no budget (R182), or a stamp sum is too large. -/
def checkBudgets (m : List Byte) (scs : List Scan) : List Where :=
  (scs.filterMap fun sc =>
    if 2 ^ 64 ≤ spanOf (sc.p.bundles.length + 1) sc.p.bundles then some (atScan sc) else none)
  ++ (ofType m 4).filterMap fun x =>
    let under := (scs.filter fun sc => sc.x.core = x.core && (tableSect m 4 x.core sc.tiling).any fun y => y.idx = x.idx).map (·.tiling)
    let ds := recordsOf 128 (x.bytes m)
    let lacks := fun (t : Nat) =>
      let bud := (recordsOf 8 (tableOf m 0x0A x.core t)).map fun r => fieldAt r 0 1
      (List.range ds.length).any fun i => (LsDesc.of (ds.getD i [])).waitBol.isSome && !bud.contains i
    if (if under.isEmpty then [x.tiling] else under).any lacks then some (.sect x.idx x.core) else none

/-- The first check of a list that fails (R184). -/
def firstRefused : List (Nat × (Unit → List Where)) → Option Refused
  | [] => none
  | (n, f) :: l => match firstPlace (f ()) with
    | some w => some ⟨n, w⟩
    | none => firstRefused l

/-- The manifest check at load (R183); `used` as in `checkFootprint`. DEVICE_KEY is the block's, or that of the minor version
the manifest was built for, by which R10 lets it run (log 75, DESIGN CHOICE: R183 names the block's own alone). -/
def State.manifestCheck (s : State) (c : Nat) (m : List Byte) (used : Nat → Nat) : Option Refused :=
  match firstPlace (checkFormat m) with
  | some w => some ⟨1, w⟩
  | none =>
    let scs := scansOf m
    let hdr := fun (b : Bool) => if b then [Where.header] else []
    firstRefused
      [(2, fun _ => hdr (fieldAt m 4 1 ≠ 3 || decide (2 < fieldAt m 5 1))),
       (3, fun _ => hdr (fieldAt m 8 8 ≠ deviceKey s.build ∧ fieldAt m 8 8 ≠ keyAt s.build (fieldAt m 5 1))),
       (4, fun _ => checkReserved m),
       (5, fun _ => checkFormats m scs),
       (6, fun _ => s.checkAdapt m scs),
       (7, fun _ => checkStamps scs),
       (8, fun _ => checkBarrier m scs),
       (9, fun _ => s.checkBollards c m scs),
       (0x0A, fun _ => s.checkReaders c m scs),
       (0x0B, fun _ => s.checkTiers c m),
       (0x0C, fun _ => checkFootprint m used),
       (0x0D, fun _ => s.checkAtlas c m scs),
       (0x0E, fun _ => checkPatches m),
       (0x0F, fun _ => checkRanges_ s.build m scs),
       (0x10, fun _ => s.checkWharf c m),
       (0x11, fun _ => (s.pinPlan c m).1.toList),
       (0x12, fun _ => s.checkFit c m scs),
       (0x13, fun _ => checkBudgets m scs)]

end Sys2Proof.Machine
end

