-- ==== Sys2Proof/Machine/Commands.lean ====
section
/-! DEFINITION. Items and their commands (R309 to R318, R321, R495): how an item is read as commands, the commands
themselves, voyages and their registration, and the completion of items. -/

namespace Sys2Proof.Machine

/-- Operand words of a command (R313). -/
def opWords (op : Nat) : Option Nat :=
  match op with
  | 0x00 | 0x09 | 0x11 => some 0
  | 0x01 => some 4
  | 0x02 | 0x06 | 0x07 => some 3
  | 0x03 | 0x05 | 0x08 => some 2
  | 0x04 | 0x0A | 0x0B | 0x10 => some 1
  | _ => none

/-- The commands of a buffer, up to END or its end (R306, R313). Bytes after END that are not zero show as an operand of
END, and operands that the buffer cuts off are missing; `cmdOk` refuses both. -/
def cmdsOf : Nat → List Byte → List Cmd
  | 0, _ => []
  | n + 1, l =>
    if l.length < 8 then []
    else
      let h := dwordAt l 0
      let op := opOf h
      let mk := fun (k : Nat) => ({ op := op, arg := fieldOf h 31 0, hdr := h,
                                    words := (List.range k).map fun i => dwordAt l (8 + 8 * i) } : Cmd)
      if op = 0 then [mk (if zeroAt l 8 l.length then 0 else 1)]
      else match opWords op with
        | none => [mk 0]
        | some k => if l.length < 8 + 8 * k then [mk 0] else mk k :: cmdsOf n (l.drop (8 + 8 * k))

/-- An operand word of a command. -/
def Cmd.word (c : Cmd) (i : Nat) : DWord := c.words.getD i 0

/-- The fields of COND (R313). -/
def condOk (c : Cmd) : Bool :=
  let a := word c.arg
  fieldOf a 25 12 = 0 && fieldOf a 30 28 ≤ 5 && (c.op = 7 || !bitOf a 26)
    && (if bitOf a 31 then fieldOf a 11 0 = 0 else c.word 0 = 0) && fieldOf (c.word 1) 63 32 = 0

/-- Header, ARG, operands and lengths of a command are legal (R313). -/
def cmdOk (c : Cmd) : Bool :=
  let a := word c.arg
  let w := c.word
  let last := (w (c.words.length - 1)).toNat
  opWords c.op = some c.words.length && fieldOf c.hdr 55 32 = 0 &&
    match c.op with
    | 0x01 => fieldOf a 7 6 = 0 && fieldOf a 31 9 = 0 && fieldOf (w 1) 63 11 = 0 && (w 1).toNat % 4 = 0
    | 0x02 => c.arg = 0 && last % 4 = 0 && decide (4 ≤ last) && decide (last ≤ 2 ^ 40)
    | 0x03 => last % 4 = 0 && decide (4 ≤ last) && decide (last ≤ 2 ^ 40)
    | 0x04 => fieldOf a 31 13 = 0 && fieldOf (w 0) 63 32 = 0
    | 0x05 => condOk c
    | 0x06 => condOk c && fieldOf (w 2) 63 12 = 0 && w 2 ≠ 0
    | 0x07 => condOk c && fieldOf (w 2) 63 44 = 0 && fieldOf (w 2) 43 32 ≠ 0 && fieldOf (w 2) 31 0 ≠ 0
    | 0x08 => c.arg = 0 && last % 8 = 0 && decide (last ≤ 65536)
    | 0x0B | 0x10 | 0x11 => fieldOf a 31 6 = 0
    | _ => c.arg = 0

/-- Addresses from here on name bytes of the item itself (R321). -/
def itemAddr : Nat := 2 ^ 60

/-- PRED of COND over words (R313). -/
def condPred (a : Word) (x y : Word) : Bool :=
  let s := bitOf a 27
  let lt := if s then decide (x.toInt < y.toInt) else decide (x.toNat < y.toNat)
  match fieldOf a 30 28 with
  | 0 => x == y
  | 1 => x != y
  | 2 => lt
  | 3 => lt || x == y
  | 4 => !lt && x != y
  | _ => !lt

namespace State

/-- The executing item of a queue. -/
def execOf (s : State) (q : Nat) : Option Exec := (s.getQueue q).exec

def modExec (s : State) (q : Nat) (f : Exec → Exec) : State :=
  s.modQueue q fun x => { x with exec := x.exec.map f }

/-- Place in its item of the command that runs: in a CALL, that of the CALL (R310). -/
def cmdIndex (e : Exec) : Nat :=
  match e.stack.getLast? with
  | some f => if 1 < e.stack.length then f.pc - 1 else f.pc
  | none => 0xFFFF

/-- The command fails (R309): the rest of its item is skipped. A context that the failure ended has ended the item. -/
def failCmd (s : State) (q status detail at_ : Nat) : State :=
  let s := s.modExec q fun e =>
    { e with failed := some (e.failed.getD (status, detail, at_)), waiting := false, deposit := none }
  if s.qRt q then s.rtEnd q else s

def failHere (s : State) (q status : Nat) : State :=
  match s.execOf q with
  | some e => s.failCmd q status 0 (cmdIndex e)
  | none => s

/-! References (R304, R321). -/

/-- The address that a REF for `len` bytes names in the handle table of a context. -/
def relocHandle (s : State) (c : Nat) (ref : DWord) (len : Nat) : Acc Nat :=
  let h := fieldOf ref 63 40
  let off := fieldOf ref 39 0
  if (s.rd (ctxP c + 0x60)).toNat ≤ h then .fail 4 s
  else match s.cmdRead c false false (runsOf (s.rd64 (ctxP c + 0x58) + 16 * h) 16) [] with
    | .fail st s => .fail st s
    | .ok l s =>
      let size := fieldAt l 8 8
      if size = 0 ∨ size < off + len then .fail 4 s else .ok (fieldAt l 0 6 + off) s

/-- The address that a REF for `len` bytes names in a command of a queue. -/
def reloc (s : State) (q : Nat) (ref : DWord) (len : Nat) : Acc Nat :=
  match s.execOf q with
  | none => .fail 4 s
  | some e =>
    if e.task ∧ fieldOf ref 63 40 = 0xFFFFFF then
      let off := fieldOf ref 39 0
      if off + len ≤ e.item.bytes.length then .ok (itemAddr + off) s else .fail 4 s
    else s.relocHandle (s.qCtx q) ref len

/-- Bytes that a command reads, and writes, at an address from `reloc`; `asked`: the requests are out already. -/
def readLoc (s : State) (q a n : Nat) (asked : Bool := false) : Acc (List Byte) :=
  if itemAddr ≤ a then
    .ok ((((s.execOf q).elim [] fun (e : Exec) => e.item.bytes).drop (a - itemAddr)).take n) s
  else s.cmdRead (s.qCtx q) false asked (runsOf a n) []

def writeLoc (s : State) (q a : Nat) (l : List Byte) (asked : Bool := false) : Acc Unit :=
  if itemAddr ≤ a then
    .ok () (s.modExec q fun e => { e with item := { e.item with bytes := patchAt e.item.bytes (a - itemAddr) l } })
  else s.cmdWrite (s.qCtx q) false asked (runsOf a l.length) l

/-- A condition (R313): a block bollard below BBOL_COUNT, or a word of memory. -/
def condValue (s : State) (q : Nat) (cond : Nat) (ref value : DWord) : Acc Bool :=
  let a := word cond
  let y := word value.toNat
  if bitOf a 31 then
    match s.reloc q ref 4 with
    | .fail st s => .fail st s
    | .ok va s => match s.readLoc q va 4 with
      | .fail st s => .fail st s
      | .ok l s => .ok (condPred a (word (leNat l)) y) s
  else if (s.rd (ctxP (s.qCtx q) + 0x94)).toNat ≤ fieldOf a 11 0 then .fail 5 s
  else .ok (condPred a (Tab.get 0 s.bbol (s.bbolAbs (s.qCtx q) (fieldOf a 11 0))) y) s

/-! Running commands. -/

/-- The top buffer changed. -/
def modTop (s : State) (q : Nat) (f : CFrame → CFrame) : State :=
  s.modExec q fun e => match e.stack with
    | [] => e
    | t :: l => { e with stack := f t :: l }

/-- Ends of loop passes and of buffers behind the command that has just run (R313). UNTIL is judged at the end of a
pass; its failure is that of the LOOP. -/
def settle : Nat → Nat → State → State
  | 0, _, s => s
  | n + 1, q, s =>
    match s.execOf q with
    | none => s
    | some e =>
      if e.failed.isSome ∨ e.waiting then s
      else match e.stack with
        | [] => s
        | f :: fs =>
          match f.loops with
          | [] => if f.pc < f.cmds.length then s else settle n q (s.modExec q fun e => { e with stack := fs })
          | lp :: ls =>
            if f.pc < lp.stop then s
            else
              let pop := fun (s : State) => settle n q (s.modTop q fun t => { t with loops := ls })
              let again := fun (s : State) =>
                s.modTop q fun t => { t with pc := lp.first, loops := { lp with left := lp.left - 1 } :: ls }
              if lp.left ≤ 1 then pop s
              else if bitOf (word lp.cond) 26 then
                match s.condValue q lp.cond lp.ref lp.value with
                | .ok true s => pop s
                | .ok false s => again s
                | .fail st s => s.failCmd q st 0 (if fs.isEmpty then lp.first - 1 else cmdIndex e)
              else again s

/-- The command has completed or counts as done: the next one follows. -/
def advance (s : State) (q : Nat) : State :=
  settle 16 q ((s.modExec q fun e => { e with waiting := false, deposit := none }).modTop q fun t => { t with pc := t.pc + 1 })

/-- The task buffer of a queue (R321). -/
def taskBuffer (s : State) (q : Nat) : Acc (List Byte) :=
  let n := (s.rd (queueP q + 0x70)).toNat
  match s.reloc q (BitVec.ofNat 64 (s.rd64 (queueP q + 0x68))) n with
  | .fail st s => .fail st s
  | .ok va s => s.readLoc q va n

/-- The next accepted item begins, when no other executes (R309). -/
def begin_ (s : State) (q : Nat) : State :=
  let x := s.getQueue q
  match x.exec, x.accepted with
  | none, i :: l =>
    if s.ctxState (s.qCtx q) = 2 ∧ x.ended.isEmpty then
      let cmds := cmdsOf 512 (i.bytes.drop 16)
      let s := s.setQueue q { x with accepted := l, exec := some { item := i, stack := [{ cmds := cmds }], task := s.qTask q } }
      let s := s.qFlags q
      if s.qTask q then
        match s.taskBuffer q with
        | .ok l s => settle 16 q (s.modExec q fun e => { e with stack := [{ cmds := cmdsOf 8192 l }] })
        | .fail st s => s.failCmd q st 0 0xFFFF
      else settle 16 q s
    else s
  | _, _ => s

/-- The command that may start now: the context runs, nothing before it is in progress (R300, R309). -/
def nextCmd (s : State) (q : Nat) : Option Cmd :=
  match s.execOf q with
  | none => none
  | some e =>
    if s.ctxState (s.qCtx q) ≠ 2 ∨ e.waiting ∨ e.failed.isSome then none
    else match e.stack with
      | [] => none
      | f :: _ => f.cmds[f.pc]?

/-- A command of an item: its occasion is that the next command of the queue is one of its OP; an RT item whose first
command is no LAUNCH ends the wait it opened (R319); an illegal command, or one that a task may not use, fails. -/
def command (op : Nat) (f : Nat → Cmd → State → State) (q : Nat) (s : State) : State :=
  let t := s.begin_ q
  match t.nextCmd q with
  | none => s
  | some c =>
    if c.op ≠ op then s
    else
      let t := if t.qRt q ∧ op ≠ 1 then t.rtEnd q else t
      let t := t.modExec q fun e => { e with start := t.sched (t.qCtx q) }
      let task : Bool := match t.execOf q with
        | some e => e.task
        | none => false
      if ¬ cmdOk c ∨ (task ∧ (op = 1 ∨ op = 0x10 ∨ op = 0x11)) then t.failHere q 5 else f q c t

/-- Commands from the present one on, `n` of them, lie within the buffer (R313). -/
def fits (s : State) (q n : Nat) : Bool :=
  match (s.execOf q).bind fun e => e.stack.head? with
  | none => false
  | some f =>
    let size := f.cmds.length - (if (f.cmds.getLast?).any fun c => c.op = 0 then 1 else 0)
    decide (f.pc + 1 + n ≤ size)

/-- LOOP and CALL around the present command (R313). -/
def depth (s : State) (q : Nat) : Nat :=
  match s.execOf q with
  | none => 0
  | some e => e.stack.length - 1 + (e.stack.map fun f => f.loops.length).sum

/-- END: the buffer ends. -/
def cmdEnd (q : Nat) (_ : Cmd) (s : State) : State :=
  settle 16 q (s.modExec q fun e => { e with stack := e.stack.tail })

/-- Requests for `n` lines from the line `la` on leave for their quay, for a COPY or FILL of queue `q` (R429). -/
def askLines (q : Nat) (write : Bool) : Nat → Nat → State → State
  | 0, _, s => s
  | n + 1, la, s =>
    let c := s.qCtx q
    let (id, s) := s.freshId
    askLines q write n (la + 1)
      (s.toQuay { id := id, quay := 0, pa := 128 * la, len := 128, write := write, source := c, reqs := [],
                  region := s.build.regions, copy := some (q, s.epoch c) })

/-- The requests of a transfer page by page, up to a page that is refused; the bytes before it (R495). -/
def askRuns (q : Nat) (write : Bool) : List (Nat × Nat) → Nat → State → Nat × State
  | [], done, s => (done, s)
  | (va, n) :: l, done, s =>
    match s.translate (s.qCtx q) va write with
    | (.ok pa, s) =>
      if s.behindQuay (pa + n - 1) then askRuns q write l (done + n) (askLines q write (linesOf pa n) (pa / 128) s) else (done, s)
    | (_, s) => (done, s)

/-- The requests of a transfer leave; bytes in the item itself need none. -/
def askMove (s : State) (q : Nat) (t : Transfer) : State :=
  let (n, s) := if t.fill ∨ itemAddr ≤ t.src then (t.len, s) else askRuns q false (runsOf t.src t.len) 0 s
  if itemAddr ≤ t.dst then s else (askRuns q true (runsOf t.dst n) 0 s).2

/-- A transfer starts in the background: its requests leave for the quays. -/
def startTransfer (s : State) (q : Nat) (t : Transfer) : State :=
  ((s.askMove q t).modExec q fun e =>
    { e with transfers := e.transfers ++ [{ t with cmd := cmdIndex e, start := e.start }] }).advance q

/-- Requests of the queue's transfers are outstanding at the quays. -/
def moving (s : State) (q : Nat) : Bool := s.quays.any fun o => o.copy = some (q, s.epoch (s.qCtx q))

/-- COPY and FILL: both references are relocated, then the transfer runs in the background (R309). -/
def cmdCopy (q : Nat) (c : Cmd) (s : State) : State :=
  let n := (c.word 2).toNat
  match s.reloc q (c.word 0) n with
  | .fail st s => s.failHere q st
  | .ok src s => match s.reloc q (c.word 1) n with
    | .fail st s => s.failHere q st
    | .ok dst s => s.startTransfer q { fill := false, src := src, dst := dst, len := n, value := 0, cmd := 0, start := 0 }

def cmdFill (q : Nat) (c : Cmd) (s : State) : State :=
  let n := (c.word 1).toNat
  match s.reloc q (c.word 0) n with
  | .fail st s => s.failHere q st
  | .ok dst s => s.startTransfer q { fill := true, src := 0, dst := dst, len := n, value := word c.arg, cmd := 0, start := 0 }

/-- The bytes of a transfer move page by page, in order (R495). -/
def moveBytes (q : Nat) (t : Transfer) : Nat → Nat → State → Acc Unit
  | 0, _, s => .ok () s
  | f + 1, at_, s =>
    if t.len ≤ at_ then .ok () s
    else
      let src := t.src + at_
      let dst := t.dst + at_
      let m := min (t.len - at_) (65536 - dst % 65536)
      let m := if t.fill then m else min m (65536 - src % 65536)
      let data : Acc (List Byte) :=
        if t.fill then .ok ((List.range m).map fun i => (leBytes 4 t.value.toNat).getD ((at_ + i) % 4) 0) s
        else s.readLoc q src m true
      match data with
      | .fail st s => .fail st s
      | .ok l s => match s.writeLoc q dst l true with
        | .fail st s => .fail st s
        | .ok _ s => moveBytes q t f (at_ + m) s

/-- SIGNAL: the Dispatcher updates a block bollard of the context (R240); the command is done once the updates of
the tick have been applied (R231). -/
def cmdSignal (q : Nat) (c : Cmd) (s : State) : State :=
  let ctx := s.qCtx q
  let a := word c.arg
  let i := fieldOf a 11 0
  if (s.rd (ctxP ctx + 0x94)).toNat ≤ i then s.failHere q 5
  else (s.bbolJoin { bol := s.bbolAbs ctx i, sub := bitOf a 12, amount := (c.word 0).toNat, source := 3 }).modExec q fun e =>
    { e with waiting := true }

/-- WAIT: done when its condition holds, evaluated now and while it waits. -/
def cmdWait (q : Nat) (c : Cmd) (s : State) : State :=
  match s.condValue q c.arg (c.word 0) (c.word 1) with
  | .ok true s => s.advance q
  | .ok false s => s.modExec q fun e => { e with waiting := true }
  | .fail st s => s.failHere q st

/-- IF: skips commands when its condition holds. -/
def cmdIf (q : Nat) (c : Cmd) (s : State) : State :=
  let n := (c.word 2).toNat
  if ¬ s.fits q n then s.failHere q 5
  else match s.condValue q c.arg (c.word 0) (c.word 1) with
    | .ok b s => (if b then s.modTop q fun t => { t with pc := t.pc + n } else s).advance q
    | .fail st s => s.failHere q st

/-- LOOP: its body begins its first pass. -/
def cmdLoop (q : Nat) (c : Cmd) (s : State) : State :=
  let n := fieldOf (c.word 2) 43 32
  if ¬ s.fits q n ∨ 4 ≤ s.depth q then s.failHere q 5
  else
    let bad : Bool := !bitOf (word c.arg) 31 && bitOf (word c.arg) 26 &&
      decide ((s.rd (ctxP (s.qCtx q) + 0x94)).toNat ≤ fieldOf (word c.arg) 11 0)
    if bad then s.failHere q 5
    else
      let l := fun (t : CFrame) =>
        { t with loops := (⟨t.pc + 1, t.pc + 1 + n, fieldOf (c.word 2) 31 0, c.arg, c.word 0, c.word 1⟩ : LoopFrame) :: t.loops }
      (s.modTop q l).advance q

/-- CALL: the buffer at REF runs, then the commands behind. -/
def cmdCall (q : Nat) (c : Cmd) (s : State) : State :=
  let n := (c.word 1).toNat
  if 4 ≤ s.depth q then s.failHere q 5
  else match s.reloc q (c.word 0) n with
    | .fail st s => s.failHere q st
    | .ok va s => match s.readLoc q va n with
      | .fail st s => s.failHere q st
      | .ok l s =>
        let s := s.modTop q fun t => { t with pc := t.pc + 1 }
        settle 16 q (s.modExec q fun e => { e with stack := { cmds := cmdsOf 8192 l } :: e.stack })

/-- FENCE: done when every earlier command has completed. -/
def cmdFence (q : Nat) (_ : Cmd) (s : State) : State :=
  match s.execOf q with
  | some e => if e.transfers.isEmpty ∧ e.launches.isEmpty then s.advance q else s.modExec q fun e => { e with waiting := true }
  | none => s

/-- TIMESTAMP: the block tide is written. -/
def cmdTimestamp (q : Nat) (c : Cmd) (s : State) : State :=
  match s.reloc q (c.word 0) 8 with
  | .fail st s => s.failHere q st
  | .ok va s => match s.writeLoc q va (leBytes 8 s.clk.tide) with
    | .fail st s => s.failHere q st
    | .ok _ s => s.advance q

/-! ENQUEUE (R312). -/

/-- One unit of an item goes into the ring of its target; the first carries the push count plus 1 as its SEQ. The last
shows the item to the consumer. -/
def depositUnit (s : State) (q : Nat) (d : Deposit) : State :=
  let t := d.target
  let x := s.getQueue t
  let units := d.bytes.length / 64
  let unit := (d.bytes.drop (64 * d.done)).take 64
  let unit := if d.done = 0 then patchAt unit 0 (leBytes 4 ((x.push + 1) % 2 ^ 32)) else unit
  match s.cmdWrite (s.qCtx q) true false (s.ringRuns t (s.qTail t + d.done) 1) unit with
  | .fail st s => s.failHere q st
  | .ok _ s =>
    if d.done + 1 < units then
      ((s.modQueue t fun x => { x with part := some q }).qFlags t).modExec q fun e =>
        { e with waiting := true, deposit := some { d with done := d.done + 1 } }
    else
      let s := s.modQueue t fun x => { x with part := none, push := (x.push + 1) % 2 ^ 32 }
      let s := s.wr (queueP t + 0x40) (word (s.qTail t + units))
      (s.qFlags t).advance q

/-- The deposit begins, waits for another producer's partial item, or fails. -/
def depositFirst (s : State) (q : Nat) (d : Deposit) : State :=
  let t := d.target
  if s.qState t = 0 ∨ ¬ s.qDevice t ∨ s.qCtx t ≠ s.qCtx q then s.failHere q 5
  else if s.qState t = 2 then s.failHere q 0x0A
  else match (s.getQueue t).part with
    | some _ => s.modExec q fun e => { e with waiting := true, deposit := some { d with done := 0, cut := false } }
    | none =>
      if s.qUnits t < s.qWaiting t + d.bytes.length / 64 then s.failHere q 6
      else s.depositUnit q { d with done := 0, cut := false }

def cmdEnqueue (q : Nat) (c : Cmd) (s : State) : State :=
  let t := c.arg
  if s.qState t = 0 ∨ ¬ s.qDevice t ∨ s.qCtx t ≠ s.qCtx q then s.failHere q 5
  else if s.qState t = 2 then s.failHere q 0x0A
  else match s.reloc q (c.word 0) 16 with
    | .fail st s => s.failHere q st
    | .ok va s => match s.readLoc q va 16 with
      | .fail st s => s.failHere q st
      | .ok h s =>
        let units := fieldAt h 4 2
        if units = 0 ∨ 64 < units ∨ ¬ zeroAt h 6 10 then s.failHere q 5
        else match s.reloc q (c.word 0) (64 * units) with
          | .fail st s => s.failHere q st
          | .ok va s => match s.readLoc q va (64 * units) with
            | .fail st s => s.failHere q st
            | .ok l s => s.depositFirst q { target := t, bytes := l }

/-- A deposit goes on: the next unit; a first one when the partial item of another producer has finished; a restart
after a FLUSH, once (R312). -/
def enqueueDeposit (s : State) (q : Nat) : State :=
  match (s.execOf q).bind fun e => e.deposit with
  | none => s
  | some d =>
    if s.ctxState (s.qCtx q) ≠ 2 ∧ s.ctxState (s.qCtx q) ≠ 3 then s
    else if d.cut then
      if 1 ≤ d.cuts then s.failHere q 7 else s.depositFirst q { d with cuts := d.cuts + 1 }
    else if d.done = 0 then
      (if (s.getQueue d.target).part.isSome then s else s.depositFirst q d)
    else s.depositUnit q d

/-! Voyages (R316, R317). -/

/-- The cores of a context whose BERTH_GATE differs from the union of R118, with it. -/
def gateChanges (s : State) (c : Nat) : List (Nat × Word) :=
  (s.coresOf c).filterMap fun k =>
    let v := s.segmentUnion c (s.getCore k).mindex
    if s.rd (coreP k + 0x44) = v then none else some (k, v)

/-- No BERTH_GATE commit of a core of the context is pending. -/
def gatesIdle (s : State) (c : Nat) : Bool := (s.coresOf c).all fun k => s.idlePage (coreP k)

/-- Crew firmware commits the unions (R118). -/
def commitGates (s : State) (c : Nat) : State :=
  (s.gateChanges c).foldl (fun s e => s.pilotCommit (coreP e.1) [(coreP e.1 + 0x44, e.2)]) s

/-- Every segment of the unions is ready. -/
def gatesReady (s : State) (c : Nat) : Bool :=
  (s.coresOf c).all fun k => s.segmentUnion c (s.getCore k).mindex &&& ~~~(s.rd (coreP k + 0x48)) = 0

/-- What registered manifests take of a manifest core's chart memory (R218). -/
def chartUsed (s : State) (c k : Nat) : Nat := ((s.manifestsOf c).map fun m => footprint m k).sum

/-- The legs of a descriptor, checked one by one (R316): a status, or the images. -/
def readLegs (q c params : Nat) : List (List Byte) → List (List Byte) → State → Acc (List (List Byte))
  | [], acc, s => .ok acc s
  | e :: l, acc, s =>
    let n := fieldAt e 8 4
    match s.reloc q (dwordAt e 0) n with
    | .fail st s => .fail st s
    | .ok va s => match s.readLoc q va n with
      | .fail st s => .fail st s
      | .ok m s =>
        if 128 ≤ n ∧ params < fieldAt m 24 4 then .fail 5 s
        else match s.manifestCheck c m fun k => s.chartUsed c k + (acc.map fun a => footprint a k).sum with
          | some r => .fail (0x300 + r.reason) (s.raise (ctxP c) 0x920 r.info (some c) 0)
          | none => readLegs q c params l (acc ++ [m]) s

/-- A failure of REGISTER: REFUSED carries its REASON. -/
def failRegister (s : State) (q st : Nat) : State :=
  match s.execOf q with
  | none => s
  | some e => if 0x300 ≤ st then s.failCmd q 3 (st - 0x300) (cmdIndex e) else s.failCmd q st 0 (cmdIndex e)

/-- REGISTER starts only while no leg of the context runs (R316): Crew firmware translates the voyage into the chart memory of
its cores (R215); it completes when the segments are ready (R118). -/
def cmdRegister (q : Nat) (c : Cmd) (s : State) : State :=
  let x := s.qCtx q
  if (s.getCtx x).voyages.any fun v => v.1 = c.arg then s.failHere q 8
  else match s.reloc q (c.word 0) 16 with
    | .fail st s => s.failHere q st
    | .ok va s => match s.readLoc q va 16 with
      | .fail st s => s.failHere q st
      | .ok h s =>
        let legs := fieldAt h 4 1
        let params := fieldAt h 8 2
        if fieldAt h 0 4 ≠ 0x5956584A ∨ legs = 0 ∨ 64 < legs ∨ ¬ zeroAt h 5 3 ∨ params % 4 ≠ 0 ∨ 1024 < params
            ∨ ¬ zeroAt h 10 6 then s.failHere q 5
        else match s.reloc q (c.word 0) (16 + 16 * legs) with
          | .fail st s => s.failHere q st
          | .ok va s => match s.readLoc q va (16 + 16 * legs) with
            | .fail st s => s.failHere q st
            | .ok d s =>
              let es := recordsOf 16 (d.drop 16)
              if es.any fun e => fieldAt e 8 4 = 0 || !zeroAt e 12 4 then s.failHere q 5
              else match readLegs q x params es [] s with
                | .fail st s => s.failRegister q st
                | .ok ms s =>
                  let s := s.modCtx x fun y => { y with voyages := Tab.put y.voyages c.arg ⟨params, ms⟩ }
                  let s := (((s.coresOf x).foldl (fun s k => s.translateVoyage x k c.arg ms) s).commitGates x).retryPlans x
                  if s.gatesReady x then s.advance q else s.modExec q fun e => { e with waiting := true }

/-- RELEASE (R317). -/
def cmdRelease (q : Nat) (c : Cmd) (s : State) : State :=
  let x := s.qCtx q
  if (s.getCtx x).voyages.all fun v => v.1 ≠ c.arg then s.failHere q 8
  else
    let s := s.modCtx x fun y => { y with voyages := Tab.del y.voyages c.arg }
    let s := (s.coresOf x).foldl (fun s k => s.untranslateVoyage x k c.arg) s
    (s.commitGates x).advance q

/-- LAUNCH: the parameter block is read and relocated, and the launch starts (R315). -/
def relocBlock (q : Nat) (bits : Nat) : List Nat → List Byte → State → Acc (List Byte)
  | [], l, s => .ok l s
  | i :: is, l, s =>
    if bits / 2 ^ i % 2 = 0 then relocBlock q bits is l s
    else if l.length < 8 * (i + 1) then .fail 5 s
    else match s.reloc q (dwordAt l (8 * i)) 1 with
      | .fail st s => .fail st s
      | .ok va s => relocBlock q bits is (patchAt l (8 * i) (leBytes 8 va)) s

def cmdLaunch (q : Nat) (c : Cmd) (s : State) : State :=
  let x := s.qCtx q
  let id := c.arg % 64
  let n := (c.word 1).toNat
  match (s.getCtx x).voyages.find? fun v => v.1 = id with
  | none => s.failHere q 8
  | some v =>
    if v.2.paramBytes < n then s.failHere q 5
    else
      let got : Acc (List Byte) := if n = 0 then .ok [] s else match s.reloc q (c.word 0) n with
        | .fail st s => .fail st s
        | .ok va s => s.readLoc q va n
      match got with
      | .fail st s => s.failHere q st
      | .ok l s =>
        match relocBlock q ((c.word 2).toNat + (c.word 3).toNat * 2 ^ 64) (List.range 128) l s with
        | .fail st s => s.failHere q st
        | .ok l s =>
          match s.execOf q with
          | none => s
          | some e =>
            let num := (s.getCtx x).nextLaunch
            let launch : Launch := { id := num, queue := q, seq := e.item.seq, voyage := id, params := l,
                                     test := bitOf (word c.arg) 8, rt := s.qRt q, cmd := cmdIndex e }
            let s := s.modCtx x fun y => { y with launches := y.launches ++ [launch], nextLaunch := num + 1, started := true }
            let s := s.count (ctxP x + 0xC0) 1
            (s.modExec q fun e => { e with launches := e.launches ++ [num] }).advance q

/-! What ends later. -/

/-- A waiting command goes on when what it waits for has come; a word of memory is read only when `mem` holds. -/
def pollQueue (s : State) (mem : Bool) (q : Nat) : State :=
  match s.execOf q with
  | none => s
  | some e =>
    let st := s.ctxState (s.qCtx q)
    if ¬ e.waiting ∨ e.deposit.isSome ∨ e.failed.isSome ∨ ¬ (st = 2 ∨ st = 3) then s
    else match e.stack.head?.bind fun f => f.cmds[f.pc]? with
      | none => s
      | some c =>
        if c.op = 4 then (if s.bbolNow.isEmpty then s.advance q else s)
        else if c.op = 5 then
          if bitOf (word c.arg) 31 ∧ ¬ mem then s
          else match s.condValue q c.arg (c.word 0) (c.word 1) with
            | .ok true s => s.advance q
            | .ok false s => s
            | .fail st s => s.failHere q st
        else if c.op = 9 then (if e.transfers.isEmpty ∧ e.launches.isEmpty then s.advance q else s)
        else if c.op = 0x10 then (if s.gatesReady (s.qCtx q) then s.advance q else s)
        else s

/-- A COPY or FILL finishes, once the quays have answered (R309). -/
def copyComplete (s : State) (q : Nat) : State :=
  if s.moving q then s
  else match s.execOf q with
  | none => s
  | some e =>
    match e.transfers with
    | [] => s
    | t :: l =>
      let s := match moveBytes q t (2 * (t.len / 65536) + 4) 0 s with
        | .ok _ s => s
        | .fail st s => s.failCmd q st 0 t.cmd
      (s.modExec q fun e => { e with transfers := l }).pollQueue false q

/-- An executing item has nothing left to run: its status, DETAIL and command index (R309). A command whose OP is
reserved has no occasion of its own; it fails here. -/
def itemOver (s : State) (q : Nat) (e : Exec) : Option (Nat × Nat × Nat) :=
  if ¬ e.transfers.isEmpty ∨ ¬ e.launches.isEmpty then none
  else match e.failed with
    | some f => some f
    | none =>
      if e.stack.isEmpty then some (0, 0, 0xFFFF)
      else match s.nextCmd q with
        | some c => if (opWords c.op).isNone then some (5, 0, cmdIndex e) else none
        | none => none

/-- The next completion of a queue (R309, R310); the RT item behind opens its wait (R319). -/
def completeItem (s : State) (q : Nat) : State :=
  let t := s.begin_ q
  let t : State := match t.execOf q with
    | some e => match t.itemOver q e with
      | some f => t.modQueue q fun x => { x with exec := none, ended := x.ended ++ [(⟨e.item.seq, f.1, f.2.1, f.2.2⟩ : Ended)] }
      | none => s
    | none => s
  match (t.getQueue q).ended with
  | [] => s
  | e :: l =>
    let t := if t.qRt q then t.rtEnd q else t
    let t := ((t.modQueue q fun x => { x with ended := l }).writeRecord q e).qFlags q
    if t.qRt q ∧ ¬ (t.getQueue q).accepted.isEmpty ∧ t.qState q = 1 then t.rtOpen q else t

end State

/-- An item completes (R309, R310). -/
def execItemComplete (q : Nat) (s : State) : Out := actAt (q < 64) (fun s => s.completeItem q) s

/-- END (R313). -/
def execCmdEnd (q : Nat) (s : State) : Out := actAt (q < 64) (State.command 0x00 State.cmdEnd q) s
/-- A REGISTER of the context has its turn in a queue and has not completed: later launches wait for it (R316). -/
def State.registering (s : State) (c : Nat) : Bool :=
  (s.queuesOf c).any fun q => ((s.execOf q).bind fun e => e.stack.head?.bind fun f => f.cmds[f.pc]?).any fun k => k.op = 0x10

/-- LAUNCH (R315). -/
def execCmdLaunch (q : Nat) (s : State) : Out :=
  actAt (q < 64) (when (!s.registering (s.qCtx q)) (State.command 0x01 State.cmdLaunch q)) s
/-- COPY (R313). -/
def execCmdCopy (q : Nat) (s : State) : Out := actAt (q < 64) (State.command 0x02 State.cmdCopy q) s
/-- FILL (R313). -/
def execCmdFill (q : Nat) (s : State) : Out := actAt (q < 64) (State.command 0x03 State.cmdFill q) s
/-- The end of a COPY or FILL (R309). -/
def execCopyComplete (q : Nat) (s : State) : Out := actAt (q < 64) (fun s => s.copyComplete q) s
/-- SIGNAL (R313). -/
def execCmdSignal (q : Nat) (s : State) : Out := actAt (q < 64) (State.command 0x04 State.cmdSignal q) s
/-- WAIT (R313). -/
def execCmdWait (q : Nat) (s : State) : Out := actAt (q < 64) (State.command 0x05 State.cmdWait q) s
/-- IF (R313). -/
def execCmdIf (q : Nat) (s : State) : Out := actAt (q < 64) (State.command 0x06 State.cmdIf q) s
/-- LOOP (R313). -/
def execCmdLoop (q : Nat) (s : State) : Out := actAt (q < 64) (State.command 0x07 State.cmdLoop q) s
/-- A waited-on word of memory is read again (R313). -/
def execCondPoll (q : Nat) (s : State) : Out := actAt (q < 64) (fun s => s.pollQueue true q) s
/-- CALL (R313). -/
def execCmdCall (q : Nat) (s : State) : Out := actAt (q < 64) (State.command 0x08 State.cmdCall q) s
/-- FENCE (R313). -/
def execCmdFence (q : Nat) (s : State) : Out := actAt (q < 64) (State.command 0x09 State.cmdFence q) s
/-- TIMESTAMP (R313). -/
def execCmdTimestamp (q : Nat) (s : State) : Out := actAt (q < 64) (State.command 0x0A State.cmdTimestamp q) s
/-- ENQUEUE (R312). -/
def execCmdEnqueue (q : Nat) (s : State) : Out := actAt (q < 64) (State.command 0x0B State.cmdEnqueue q) s
/-- A deposit goes on (R312). -/
def execEnqueueDeposit (q : Nat) (s : State) : Out := actAt (q < 64) (fun s => s.enqueueDeposit q) s
/-- REGISTER or RELEASE may start: no leg of the context runs, and no BERTH_GATE commit of its cores is pending (R118, R316,
R317). -/
def State.mayRegister (s : State) (q : Nat) : Bool := (s.getCtx (s.qCtx q)).legs.isEmpty && s.gatesIdle (s.qCtx q)

/-- REGISTER (R316). -/
def execCmdRegister (q : Nat) (s : State) : Out :=
  actAt (q < 64) (when (s.mayRegister q) (State.command 0x10 State.cmdRegister q)) s
/-- RELEASE (R317). -/
def execCmdRelease (q : Nat) (s : State) : Out :=
  actAt (q < 64) (when (s.mayRegister q) (State.command 0x11 State.cmdRelease q)) s

end Sys2Proof.Machine
end

