-- ==== Sys2Proof/Machine/Launches.lean ====
section
/-! DEFINITION. Launches (R154, R177 to R181, R315, R318 to R322): the Crew's lead, the BASE of a leg and what starts at
it, the end of a leg, and the queue timeout. -/

namespace Sys2Proof.Machine

/-- The tiling that an atlas selects for each stage (R179). -/
def selectTilings (m params : List Byte) : Tab Nat :=
  (atlasOf m).foldl (fun (t : Tab Nat) e =>
    let key := fieldAt params (4 * e.2.2.1) 4
    if (t.all fun x => x.1 ≠ e.2.1) ∧ e.2.2.2.1 ≤ key ∧ key ≤ e.2.2.2.2.1 then t ++ [(e.2.1, e.2.2.2.2.2)] else t) []

/-- The BUNDLES section of a core for a variant and the chosen tilings (R178, R179): a chosen tiling's before a common
one, the variant's before a common one. -/
def sectionFor (m : List Byte) (k variant : Nat) (tilings : List Nat) : Option Sect :=
  let l := (ofType m 1).filter fun x => x.core = k && (x.variant = 0 || x.variant = variant)
  let chosen := l.filter fun (x : Sect) => x.tiling ≠ 0 && tilings.contains x.tiling
  let mine : List Sect := if chosen.isEmpty then l.filter fun x => x.tiling = 0 else chosen
  match mine.find? fun (x : Sect) => x.variant = variant with
  | some x => some x
  | none => mine.head?

/-- The chosen tiling that a core has sections of, else 0 (R179). -/
def coreTiling (m : List Byte) (k : Nat) (tilings : List Nat) : Nat :=
  (tilings.find? fun t => t ≠ 0 && (sectsOf m).any fun x => x.core = k && x.tiling = t).getD 0

/-- The stream of a core for a leg: the sections that it selects in chart memory, and the patches of the launch (R180, R215,
R217). -/
def installed (c launch leg voyage base : Nat) (m params : List Byte) (x : Sect) (tiling : Nat) : Prog :=
  let recs := ((ofType m 9).flatMap fun x => recordsOf 12 (x.bytes m)).filter fun r =>
    let t := fieldAt r 6 1
    fieldAt r 4 2 = x.core && (t = 0 || t = tiling)
  let word := fun (r : List Byte) => 4 * fieldAt r 0 2
  let target := fun (r : List Byte) => fieldAt r 8 4
  { ctx := c, launch := launch, leg := leg, mindex := x.core, voyage := voyage, variant := x.variant, base := base,
    sects := (1, x.idx) :: [2, 3, 4, 0x0A, 0x0B].filterMap fun t => (tableSect m t x.core tiling).map fun y => (t, y.idx),
    imms := (recs.filter fun r => fieldAt r 2 1 = 0).foldl (fun l r => Tab.put l (target r) (fieldAt params (word r) 4)) [],
    fields := (recs.filter fun r => fieldAt r 2 1 ≠ 0).foldl (fun l r =>
      Tab.put l (128 * (target r / 256) + target r % 256) (leBytes 8 (fieldAt params (word r) 8))) [],
    full := fieldAt m 7 1 % 2 = 1, barrierBol := fieldAt m 38 1 }

namespace State

/-- The manifest of a leg. -/
def legImage (s : State) (c voyage leg : Nat) : List Byte :=
  match (s.getCtx c).voyages.find? fun v => v.1 = voyage with
  | some v => v.2.legs.getD leg []
  | none => []

def legCount (s : State) (c voyage : Nat) : Nat :=
  match (s.getCtx c).voyages.find? fun v => v.1 = voyage with
  | some v => v.2.legs.length
  | none => 0

/-- The launch whose lead or BASE comes next: RT before normal, in the order of their starts (R319). -/
def nextLaunch (s : State) (c : Nat) : Option Launch :=
  let l := (s.getCtx c).launches
  ((l.filter fun x => x.rt) ++ l.filter fun x => !x.rt).find? fun x => decide (x.leg < s.legCount c x.voyage)

/-- Ticks that the lead pause in progress has lasted (R348). -/
def pausedFor (s : State) : Nat := s.pilot.pause.elim 0 fun p => min s.clk.time p.2 - p.1

/-- The lead pause holds up the next lead of launch `l` of a context (R348). -/
def leadDelayed (s : State) (c : Nat) (l : Launch) : Bool :=
  l.ready.isNone && (s.nextLaunch c).any fun y => y.id = l.id

/-- A lead pause begins; one in progress covers both (R348, R355). `limit` bounds it in ticks (R347, R350). -/
def pauseLeads (s : State) (limit : Nat) : State :=
  let until_ := s.clk.time + limit
  { s with pilot := { s.pilot with pause := some (s.pilot.pause.elim (s.clk.time, until_) fun p => (p.1, max p.2 until_)) } }

/-- The lead pause ends: it moves the due point of every launch whose next lead it has delayed (R348). -/
def resumeLeads (s : State) : State :=
  let n := s.pausedFor
  if s.pilot.pause.isNone then s
  else
    let s := (List.range 16).foldl (fun s c => s.modCtx c fun x =>
      { x with launches := x.launches.map fun (l : Launch) =>
          if s.leadDelayed c l then { l with due := l.due.map (· + n) } else l }) s
    { s with pilot := { s.pilot with pause := none } }

/-- The lead pause has lasted as long as it may (R347, R350). -/
def pauseDue (s : State) : State :=
  if s.pilot.pause.any fun p => decide (p.2 ≤ s.clk.time) then s.resumeLeads else s

def modLaunch (s : State) (c id : Nat) (f : Launch → Launch) : State :=
  s.modCtx c fun x => { x with launches := x.launches.map fun l => if l.id = id then f l else l }

/-- A launch leaves its context and its item. -/
def dropLaunch (s : State) (c : Nat) (l : Launch) : State :=
  let s := s.modCtx c fun x => { x with launches := x.launches.filter fun y => y.id ≠ l.id }
  s.modExec l.queue fun e => { e with launches := e.launches.filter fun n => n ≠ l.id }

/-- The commands that an executing item has before it, the bodies of its loops with passes left among them. -/
def cmdsAhead (e : Exec) : List Cmd :=
  e.stack.flatMap fun f => f.cmds.drop f.pc
    ++ (f.loops.filter fun l => decide (1 < l.left)).flatMap fun l => (f.cmds.take l.stop).drop l.first

/-- The buffer of a CALL as it stands in memory now. -/
def callBuffer (s : State) (c : Nat) (k : Cmd) : List Cmd :=
  match s.relocHandle c (k.word 0) (k.word 1).toNat with
  | .fail _ _ => []
  | .ok va s => match s.cmdRead c false true (runsOf va (k.word 1).toNat) [] with
    | .fail _ _ => []
    | .ok l _ => cmdsOf 8192 l

/-- Commands hold a LAUNCH of a voyage, in their CALLs as well (R313). -/
def launchIn (s : State) (c voyage : Nat) : Nat → List Cmd → Bool
  | 0, _ => false
  | n + 1, l => l.any fun k =>
    (k.op = 1 && k.arg % 64 = voyage) || (k.op = 8 && s.launchIn c voyage n (s.callBuffer c k))

/-- A further LAUNCH of a voyage waits (R154): one that has started and has no BASE, one ahead in an executing item, or one in
an accepted item. -/
def launchWaits (s : State) (c id voyage : Nat) : Bool :=
  ((s.getCtx c).launches.any fun l => l.id ≠ id && l.voyage = voyage && l.leg = 0 && !l.based)
  || (s.queuesOf c).any fun q => !s.qTask q &&
    (((s.execOf q).any fun e => s.launchIn c voyage 5 (cmdsAhead e))
      || (s.getQueue q).accepted.any fun i => s.launchIn c voyage 5 (cmdsOf 512 (i.bytes.drop 16)))

/-- The variant of a launch (R154): 2 prefetch, 1 fill. -/
def variantOf (s : State) (c : Nat) (l : Launch) : Nat :=
  if (s.getCtx c).prefetch ∨ l.test ∨ ¬ s.launchWaits c l.id l.voyage then 2 else 1

/-- The checks of R183 marked activation. -/
def activation (s : State) (c : Nat) (m : List Byte) : Option Refused × State :=
  match firstRefused [(6, fun _ => if declAdapt m && !s.adapt then [Where.header] else []),
                      (0x0B, fun _ => s.checkTier c m), (0x10, fun _ => s.checkWharf c m)] with
  | some r => (some r, s)
  | none =>
    let p := s.pinPlan c m
    (p.1.map fun w => ⟨0x11, w⟩, p.2)

/-- A lead (R315): activation, the variant at the launch's first leg, the tilings; the tick at which it is complete
counts for BASE. A refused activation ends the LAUNCH with REFUSED. A lead after a lead pause ends the pause: the Crew
runs again (R348). -/
def crewLead (s : State) (c : Nat) : State :=
  let s := if s.pilot.crewDown then s else s.resumeLeads
  let st := s.ctxState c
  match s.nextLaunch c with
  | none => s
  | some l =>
    if l.ready.isSome ∨ ¬ (st = 2 ∨ st = 3) ∨ s.pilot.crewDown then s
    else
      let m := s.legImage c l.voyage l.leg
      match s.activation c m with
      | (some r, s) =>
        let s := s.raise (ctxP c) 0x920 r.info (some c) 0
        let s := s.dropLaunch c l
        (s.failCmd l.queue 3 r.reason l.cmd).pollQueue false l.queue
      | (none, s) =>
        let v := if l.leg = 0 then s.variantOf c l else l.variant
        let s := if l.leg = 0 then s.modCtx c fun x => { x with prefetch := false } else s
        s.modLaunch c l.id fun y =>
          { y with variant := v, tilings := selectTilings m y.params, ready := some s.clk.tide }

/-- BASE of a normal leg beside RT queues, from `base` on (R319): it lies wholly before the RT part of its window, or, where
it is longer, begins with a window; whether it counts in RT_BLOCKED. -/
def besideRt (s : State) (span : Nat) : Nat → Nat → Nat × Bool
  | 0, base => (base, false)
  | n + 1, base =>
    let w := base / 1024 * 1024
    let r := s.rtShareIn w
    if r = 0 then (base, false)
    else if 1024 - r < span then (if w < base then w + 1024 else base, true)
    else if w + 1024 - r < base + span then s.besideRt span n (w + 1024)
    else (base, false)

/-- BASE of a leg in block tide (R319), and whether it counts in RT_BLOCKED. -/
def placeLeg (s : State) (c ready prev span : Nat) (rt : Bool) : Nat × Bool :=
  let base := max (ready + 64) prev
  if ¬ rt ∧ (s.queuesOf c).any s.qRt then s.besideRt span 2 base else (base, false)

/-- Sides of a context that run (R360, R365). -/
def runningSides (s : State) (c : Nat) : List Nat :=
  if ¬ (s.getCtx c).paired then [0]
  else if s.pairState c = 2 then [fieldOf (s.rd (ctxP c + 0xAC)) 29 29]
  else [0, 1]

/-- The stream of one leg becomes the next of a core (R215, R222). -/
def installProg (s : State) (k : Nat) (p : Prog) : State :=
  s.modCore k fun x => { x with progs := Tab.put x.progs (x.last + 1) p, last := x.last + 1 }

/-- The Dispatcher fixes a BASE and sends it to the cores (R319). -/
def legBase (s : State) (c : Nat) : State :=
  match s.nextLaunch c with
  | none => s
  | some l =>
    let x := s.getCtx c
    match l.ready with
    | none => s
    | some ready =>
      if s.ctxState c ≠ 2 ∨ (¬ l.rt ∧ (¬ x.rtWait.isEmpty ∨ x.launches.any fun y => y.rt)) then s
      else
        let m := s.legImage c l.voyage l.leg
        let span := fieldAt m 20 4
        let (block, blocked) := s.placeLeg c ready (x.prevEnd + x.offset) span l.rt
        let s := if blocked then s.count (ctxP c + 0xC8) 1 else s
        let base := block - x.offset
        let variant := if fieldAt m 7 1 / 4 % 2 = 1 then l.variant else 1
        let work := (coresIn m).filterMap fun k => sectionFor m k variant (l.tilings.map (·.2))
        let sides := s.runningSides c
        let places := sides.flatMap fun side => work.filterMap fun y => (s.physOf c side y.core).map fun k => (k, y)
        let tilingOf := fun (y : Sect) => coreTiling m y.core (l.tilings.map (·.2))
        let s := places.foldl (fun s p =>
          s.installProg p.1 (installed c l.id l.leg l.voyage base m l.params p.2 (tilingOf p.2))) s
        let recs := (ofType m 6).flatMap fun y => recordsOf 8 (y.bytes m)
        let inits := recs.flatMap fun r =>
          if fieldAt r 0 2 = 0xFFFF then [(0xFFFF, fieldAt r 2 2, fieldAt r 4 4)]
          else sides.filterMap fun side => (s.physOf c side (fieldAt r 0 2)).map fun k => (k, fieldAt r 2 2, fieldAt r 4 4)
        let flags := (ofType m 0x0C).flatMap fun y =>
          sides.filterMap fun side => (s.physOf c side y.core).map fun k => (k, fieldAt (y.bytes m) 0 4)
        let leg : LegRun := { launch := l.id, leg := l.leg, rt := l.rt, base := base, span := span,
                              cores := places.map fun p => (p.1, (s.getCore p.1).last), inits := inits, flags := flags,
                              barrier := places.length, prev := x.prevEnd }
        let rest := ((List.range (s.legCount c l.voyage)).filter fun i => decide (l.leg ≤ i)).map fun i =>
          fieldAt (s.legImage c l.voyage i) 20 4
        let s := s.modLaunch c l.id fun y =>
          { y with leg := y.leg + 1, ready := none, based := true, due := some (base + rest.sum) }
        let s := s.modCtx c fun y => { y with legs := y.legs ++ [leg], prevEnd := base + span }
        if l.rt then s.rtEnd l.queue else s

/-- What BASE itself brings (R152, R181, R236): every core bollard of the context and every launch bollard takes its
INIT, the tables take effect, the barrier unit is loaded. -/
def beginLeg (s : State) (c : Nat) (g : LegRun) : State :=
  let init := fun (k b : Nat) => ((g.inits.find? fun i => i.1 = k && i.2.1 = b).map (·.2.2)).getD 0
  let s := (s.coresOf c).foldl (fun s k =>
    (List.range 64).foldl (fun s b => s.wr (coreP k + 0x200 + 4 * b) (word (init k b))) s) s
  let base := (s.rd (ctxP c + 0x90)).toNat
  let s := (List.range (s.rd (ctxP c + 0x98)).toNat).foldl (fun (s : State) b =>
    ({ s with bbol := Tab.put s.bbol (base + b) (word (init 0xFFFF b)) }).bbolCopies (base + b)) s
  let s := g.flags.foldl (fun s f => s.wr (coreP f.1 + 0x50) (word f.2)) s
  s.modCtx c fun x =>
    { x with barrierCount := g.barrier, barrierIn := [],
             legs := x.legs.map fun y => if y.launch = g.launch ∧ y.leg = g.leg then { y with begun := true } else y }

/-- Every leg whose BASE schedule time has reached begins, also while the leg before it is not over (R181, R222, R236). -/
def beginDue (s : State) (c : Nat) : State :=
  if s.ctxState c ≠ 2 then s
  else ((s.getCtx c).legs.filter fun g => !g.begun && decide (g.base ≤ s.sched c)).foldl (fun s g => s.beginLeg c g) s

/-- The streams of a leg have ended on a core (R222). -/
def coreDone (s : State) (e : Nat × Nat) : Bool :=
  (List.range 6).all fun n => let x := s.eng e.1 n; decide (e.2 < x.stream) || (x.stream = e.2 && !x.live)

/-- The first leg has ended, and with the last leg of a launch its writes are acknowledged (R315). -/
def legOver (s : State) (c : Nat) (g : LegRun) : Bool :=
  g.begun && g.cores.all s.coreDone
    && (match (s.getCtx c).launches.find? fun l => l.id = g.launch with
        | some l => decide (l.leg < s.legCount c l.voyage) || g.cores.all fun e => (s.getCore e.1).acks.isEmpty
        | none => true)

/-- A leg ends; its launch completes after its last leg (R315, R362). -/
def legEnd (s : State) (c : Nat) : State :=
  match (s.getCtx c).legs with
  | [] => s
  | g :: rest =>
    if ¬ s.legOver c g then s
    else
      let s := s.comparePoint c
      if s.ctxState c = 4 then s
      else
        let s := g.cores.foldl (fun s e => s.modCore e.1 fun x => { x with progs := Tab.del x.progs e.2 }) s
        let s := s.modCtx c fun x => { x with legs := rest }
        match (s.getCtx c).launches.find? fun l => l.id = g.launch with
        | some l => if l.leg < s.legCount c l.voyage then s else (s.dropLaunch c l).pollQueue false l.queue
        | none => s

/-- A command of an executing item that is past its due point: its place in the item (R322). -/
def overdue (s : State) (q : Nat) (e : Exec) : Option Nat :=
  let c := s.qCtx q
  let limit := fieldOf (s.rd (queueP q + 0x54)) 19 0 * 1024
  let late := fun (d : Nat) => decide (d + limit ≤ s.sched c)
  let ends := fun (l : Launch) => l.leg = s.legCount c l.voyage &&
    (s.getCtx c).legs.all fun g => g.launch ≠ l.id || s.legOver c g
  let due := fun (l : Launch) => l.due.map fun d => if s.leadDelayed c l then d + s.pausedFor else d
  match (s.getCtx c).launches.find? fun l => e.launches.contains l.id && ((due l).elim false late) && !ends l with
  | some l => some l.cmd
  | none => match e.transfers.find? fun t => late t.start with
    | some t => some t.cmd
    | none =>
      let op := ((e.stack.head?).bind fun f => f.cmds[f.pc]?).elim 0 fun (k : Cmd) => k.op
      if e.waiting ∧ op ≠ 5 ∧ late e.start then some (cmdIndex e) else none

/-- The queue timeout (R322). -/
def queueTimeout (s : State) (q : Nat) : State :=
  let c := s.qCtx q
  match s.execOf q with
  | none => s
  | some e =>
    if s.ctxState c ≠ 2 ∨ fieldOf (s.rd (queueP q + 0x54)) 19 0 = 0 then s
    else match s.overdue q e with
      | none => s
      | some i =>
        let s := (s.modExec q fun e => { e with failed := some (9, 0, i) }).endItem q 9 0
        ((s.qFlags q).event (queueP q) 1).ctxFatal c 0x950

end State

/-- The Crew's lead of the next leg (R315). -/
def execCrewLead (ctx : Nat) (s : State) : Out := actAt (ctx < 16) (fun s => s.crewLead ctx) s

/-- The BASE of the next leg (R319). -/
def execLegBase (ctx : Nat) (s : State) : Out := actAt (ctx < 16) (fun s => s.legBase ctx) s

/-- The end of a leg (R315). -/
def execLegEnd (ctx : Nat) (s : State) : Out := actAt (ctx < 16) (fun s => s.legEnd ctx) s

/-- The timeout of a queue (R322). -/
def execQueueTimeout (q : Nat) (s : State) : Out := actAt (q < 64) (fun s => s.queueTimeout q) s

end Sys2Proof.Machine
end

