-- ==== Sys2Proof/Machine/Boot.lean ====
section
/-! DEFINITION. Reset and loss of power (R338, R354, R447), the boot ROM and its two routes (R336 to R340), the slipway
(R438 to R441), the boot parameters (R341), the host quay's responses (R427, R448), the Pilot's heartbeat and LIFELINE
(R373), QUIET (R374), and the rise of TEST_EN (R489). -/

namespace Sys2Proof.Machine

/-- `t` ticks of 1.6 ns are at least `ns` nanoseconds. -/
def atLeastNs (ns t : Nat) : Bool := decide (10 * ns ≤ 16 * t)

/-- Bits [31:0] of a tie-off first: word `i` of it (R464). -/
def tieWord {w : Nat} (v : BitVec w) (i : Nat) : Word := BitVec.ofNat 32 (v.toNat / 2 ^ (32 * i))

/-- A tie-off as bytes, the most significant first (R337). -/
def tieBytes {w : Nat} (n : Nat) (v : BitVec w) : List Byte := beBytes n v.toNat

/-- The BODY_BYTES limit of an image kind (R336). -/
def bodyLimit (kind : Nat) : Nat := if kind = 1 then 196608 else 786432

/-- The checks of R337 on an image of a kind, over the legal values of R336: the code of the first that fails, or 0. `whole` says that the transfer was
exactly its bytes. -/
def imageCheck (root : BitVec 384) (kind : Nat) (readErr whole : Bool) (img : List Byte) : Nat :=
  let body := fieldAt img 12 4
  let digest := sha384 (img.take 128 ++ (img.drop 256).take body)
  if readErr then 0x716
  else if fieldAt img 0 4 ≠ 0x5746584A ∨ fieldAt img 5 1 ≠ 1 then 0x710
  else if crc32c (img.take 252) ≠ fieldAt img 252 4 then 0x711
  else if fieldAt img 4 1 ≠ kind ∨ ¬ (zeroAt img 6 2 ∧ zeroAt img 20 12 ∧ zeroAt img 224 28) then 0x712
  else if body % 8 ≠ 0 ∨ body < 8 ∨ bodyLimit kind < body ∨ body ≤ fieldAt img 16 4 ∨ fieldAt img 16 4 % 4 ≠ 0 ∨ ¬ whole
      ∨ img.length ≠ 256 + body then 0x713
  else if beNat (sha384 ((img.drop 32).take 96)) ≠ root.toNat then 0x714
  else if ¬ ecdsaVerify (beNat ((img.drop 32).take 48)) (beNat ((img.drop 80).take 48)) digest
      (beNat ((img.drop 128).take 48)) (beNat ((img.drop 176).take 48)) then 0x715
  else 0

/-- The bytes that a fetch of an image from host memory brings: the header, and the body as far as any kind allows. -/
def fetchImage (mem : Mem) (a : Nat) : List Byte :=
  let body := leNat (Mem.bytes zeroFill mem (a + 12) 4)
  Mem.bytes zeroFill mem a (256 + min body 1048576)

/-- VERSION of an image (R336). -/
def imageVersion (img : List Byte) : Word := word (fieldAt img 8 4)

/-- The checks of a boot parameter block (R341). -/
def paramsOk (b : Build) (l : List Byte) : Bool :=
  let flags := fieldAt l 4 4
  let noWharf := flags ≠ 0
  fieldAt l 0 4 = 0x5042584A && decide (flags < 4) && fieldAt l 8 8 % 256 = 0 && fieldAt l 16 8 % 256 = 0
    && fieldAt l 24 8 % 8 = 0 && (fieldAt l 24 8 ≠ 0 || noWharf) && fieldAt l 32 8 % 8 = 0 && fieldAt l 40 8 % 256 = 0
    && fieldAt l 48 8 % 2 ^ 24 = 0 && decide (fieldAt l 48 8 < b.quays * 2 ^ 36) && zeroAt l 56 68
    && crc32c (l.take 124) = fieldAt l 124 4

namespace State

/-! BOOT_STATUS. -/

/-- STATE, with its event when the state is READY, DEGRADED or FAILED (R340). -/
def setBoot (s : State) (st : Nat) : State :=
  let s := s.wrField (bootP + oSTATUS) 31 28 st
  if 4 ≤ st ∧ st ≤ 6 then s.event bootP 0 else s

/-- ERR (R340). -/
def bootErr (s : State) (code : Nat) : State := s.wrField (bootP + oSTATUS) 27 16 code

/-- A boot or firmware fault on the BOOT page: it is logged from PILOT_UP on (R338). -/
def bootFault (s : State) (code : Nat) (info : Word := 0) (outcome : Nat := 0) : State :=
  let s := s.bootErr code
  if s.awake then s.raise bootP code info none outcome else s.recordFault bootP code info

/-- REFUSED of BOOT_STATUS (R339). -/
def bootRefused (s : State) : State := s.orBits (bootP + oSTATUS) 0x10

/-! QUIET. -/

/-- QUIET asserts (R374): nothing more leaves any manager port, responses are discarded, keepalives and region clocks stop,
VREQ codes are held, and STATE is QUIET or stays FAILED. -/
def quietAssert (s : State) : State :=
  let s := (List.range s.build.regions).foldl (fun s r => s.modRegion r fun x => { x with clockOn := false }) s
  let out : Convoy := { s.convoy with outbox := [] }
  let s : State := { s with quiet := true, lifeline := false, quays := [], remote := [], wload := [], convoy := out }
  if s.bootState = 6 then s else s.setBoot 0xF

/-- A failure that bring-up does not survive (R343): STATE FAILED, ATTN, QUIET. -/
def bootFail (s : State) (code : Nat) (info : Word := 0) : State := ((s.bootFault code info).setBoot 6).attn.quietAssert

/-! Reset. -/

/-- What RESET_N leaves: the pins and tie-offs, the memories outside the block, and the measure of time. TEST_EN is taken
to be 0 unless it rises again (log 24). -/
def resetState (s : State) : State :=
  { reset with pending := s.pending, build := s.build, hostMem := s.hostMem, devMem := s.devMem, rootKey := s.rootKey,
               uniqueId := s.uniqueId, quayPs := s.quayPs, clk := { time := s.clk.time },
               link := s.link.map fun e => (e.1, { up := e.2.up }) }

/-- RESET_N falls (R374, R447). -/
def resetAssert (s : State) : State := s.resetState

/-- Power goes and comes back (R1, R354): as RESET_N, and time starts again. -/
def powerLoss (s : State) : State := { s.resetState with clk := {} }

/-- RESET_N rises (R338, R343, R423, R489). -/
def resetRelease (s : State) (mode : BitVec 2) (selfOk : Bool) : State :=
  if ¬ s.inReset then s
  else
    let s := ({ s with inReset := false, slipMode := mode }).wrField (slipP + oSTATUS) 28 27 mode.toNat
    if s.testEn then s.setBoot 0xF
    else if selfOk then s.setBoot 1
    else (s.bootFault 0x721).setBoot 6

/-- TEST_EN rises (R489, R490): the SRAMs and the ledger key are cleared, a capture is abandoned, and QUIET asserts. -/
def testRise (s : State) : State :=
  let p : Pilot := { s.pilot with ledgerKey := [], pilotImage := [], crewImage := [], pubkey := [], params := none,
                                  stopped := true }
  let s : State := { s with testEn := true, pilot := p }
  let s := if fieldOf (s.rd (captureP + oSTATUS)) 31 29 = 0 then s else
    { s.wrField (captureP + oSTATUS) 31 29 0 with region := s.region.map fun e => (e.1, { e.2 with frozen := false }) }
  if s.inReset then s else s.quietAssert

/-! The Pilot image. -/

/-- The boot parameters are read (R341). -/
def readParams (s : State) : State :=
  let a := s.rd64 (bootP + 0x48)
  let wait := fun (s : State) => s.orBits (bootP + oSTATUS) 0x20
  if a = 0 then wait s
  else
    let l := Mem.bytes zeroFill s.hostMem (a / 64 * 64) 128
    if paramsOk s.build l then
      let s := s.wrField (bootP + oSTATUS) 5 5 0
      { s with carve := some (fieldAt l 48 8), pilot := { s.pilot with params := some l } }
    else wait (s.bootFault 0x722)

/-- The ledger key K (R344). -/
def ledgerKey (s : State) : List Byte :=
  hmacSha384 (tieBytes 48 Config.ledgerSecret)
    ([0x4A, 0x58, 0x4C, 0x45, 0x44, 0x47, 0x45, 0x52] ++ tieBytes 48 s.rootKey ++ tieBytes 16 s.uniqueId)

/-- The Pilot image runs (R337, R342): PILOT_UP, LIFELINE, IDENT, the key, then the boot parameters. -/
def enterPilot (s : State) (img : List Byte) : State :=
  let s := (s.setBoot 3).wr (identP + 0x54) (imageVersion img)
  let p : Pilot := { beat := s.clk.time, pubkey := (img.drop 32).take 96, pilotImage := img, ledgerKey := s.ledgerKey }
  let s : State := { s with boot := {}, lifelineAt := s.clk.time, pilot := p }
  s.readParams

/-- An image is rejected: STATE is BOOTROM_WAIT, with the code in ERR and ATTEMPTS advanced (R339). -/
def pilotReject (s : State) (code : Nat) : State :=
  let v := s.rd (bootP + oSTATUS)
  let s := (({ s with boot := {} }).wrField (bootP + oSTATUS) 15 8 (min 255 (fieldOf v 15 8 + 1))).setBoot 1
  s.bootFault code

/-- The Pilot image is complete (R337, R339). -/
def pilotImageComplete (s : State) (readErr : Bool) : State :=
  if s.bootState ≠ 1 ∨ s.boot.route = 0 then s
  else
    let s := s.wrField (bootP + oCTRL) 0 0 0
    match imageCheck s.rootKey 1 (readErr && s.boot.route = 1) s.boot.whole s.boot.image with
    | 0 => s.enterPilot s.boot.image
    | c => s.pilotReject c

/-- A write of BOOT_CTRL (R339, R340). -/
def wrBoot (v : Word) (s : State) : Option State :=
  if ¬ bitOf v 0 then some s
  else if s.bootState = 1 ∧ s.boot.route = 0 then
    let img := fetchImage s.hostMem (s.rd64 (bootP + 0x40) / 256 * 256)
    some (({ s with boot := { route := 1, image := img, whole := true } }).wr (bootP + oCTRL) 1)
  else
    let s := s.bootRefused
    some (if s.awake then s.configFault bootP else s.recordFault bootP 0x600 0)

/-- A write of BOOT_PARAM_ADDR (R341): a waiting Pilot reads the block. -/
def wrParamAddr (v : Nat) (s : State) : Option State :=
  let s := s.wr64 (bootP + 0x48) (v / 64 * 64)
  some (if s.awake ∧ bitOf (s.rd (bootP + oSTATUS)) 5 then s.readParams else s)

/-! The slipway. -/

/-- A slipway code (R441). -/
def slipFault (s : State) (code : Nat) : State :=
  let s := ((s.wrField (slipP + oSTATUS) 11 0 code).count (slipP + 0x88) 1).event slipP 1
  if s.awake then s.raise slipP code else s.recordFault slipP code 0

/-- A transfer (R439, R440): its header, its taker, or the reason why it is drained. -/
def slipTransfer (s : State) (bytes : List Byte) (overrun : Bool) : State :=
  if s.inReset then s.bootRefused
  else if ¬ (s.awake ∨ s.bootState = 1) then s
  else
    let kind := fieldAt bytes 0 1
    let payload := bytes.drop 8
    let whole : Bool := !overrun && payload.length = fieldAt bytes 4 4
    let s := ((s.count (slipP + 0x80) bytes.length).count (slipP + 0x84) 1).event slipP 0
    let s := s.wrField (slipP + oSTATUS) 23 16 kind
    let s := if overrun then s.slipFault 0x621 else s
    if bytes.length < 8 ∨ ¬ (kind = 1 ∨ kind = 2) ∨ ¬ zeroAt bytes 1 3 then (if overrun then s else s.slipFault 0x622)
    else if kind = 1 then
      if s.bootState = 1 ∧ s.boot.route = 0 then { s with boot := { route := 2, image := payload, whole := whole } }
      else s.bootRefused
    else if s.wload.any fun e => e.2.waiting then s.wharfSlip payload whole
    else if overrun then s else s.slipFault 0x620

/-! The host quay. -/

/-- An access of a Crew core to device memory: the Pilot half is closed to it (R335). -/
def crewAccess (s : State) (pa : Nat) : State :=
  if s.carve.any fun b => decide (b ≤ pa ∧ pa < b + 2 ^ 23) then { s with pilot := { s.pilot with refused := true } } else s

/-- A host-quay request ends (R427): a slow read is counted, an error is 0x404 for the whole request. -/
def hqRequest (s : State) (req : HqReq) (latency : Nat) (err : Bool) : State :=
  let s := if 250 < latency then s.count (faultP + 0x5C) 1 else s
  if ¬ err then s
  else match req with
    | .pilotImage => if s.bootState = 1 ∧ s.boot.route = 1 then s.pilotImageComplete true else s
    | .ring q =>
      if ¬ s.awake ∨ s.qState q = 0 ∨ s.qDevice q then s
      else (s.modQueue q fun x => { x with stuck := true }).ctxFatal (s.qCtx q) 0x404
    | .record q =>
      if ¬ s.awake ∨ s.qDevice q then s
      else
        let s := s.modQueue q fun x => { x with ended := x.ended.drop 1 }
        (s.qFlags q).ctxFatal (s.qCtx q) 0x404
    | .wharfImage r =>
      if ¬ s.awake then s
      else
        let s := s.logEntry (wharfP r) 0x404 0 none 0
        match s.wloadAt r with
        | some (key, w) => if w.slip then s else s.wloadFail key w true 0x404
        | none => s
    | .bootParams =>
      if s.bootState = 3 then
        let s : State := { s with pilot := { s.pilot with params := none } }
        (s.bootFault 0x722).orBits (bootP + oSTATUS) 0x20
      else s
    | .crewImage => if s.awake then s.logEntry bootP 0x404 0 none 0 else s
    | .ledger =>
      if s.awake then { s with pilot := { s.pilot with writeErr := true } }.logEntry bootP 0x404 0 none 0 else s
    | .crew _ => s

/-- A request of the control complex is answered (R335, R427). -/
def hqResponse (s : State) (req : HqReq) (latency : Nat) (err : Bool) : State :=
  match req with
  | .crew pa => if s.awake then s.crewAccess pa else s
  | _ => s.hqRequest req latency err

/-- HQ_ARESET_N (R448): what is outstanding on the host quay of a context makes it LOST; an image fetch fails. -/
def hqReset (s : State) : State :=
  let s := if s.bootState = 1 ∧ s.boot.route = 1 then s.pilotImageComplete true else s
  if ¬ s.awake then s else
  let s := s.wload.foldl (fun s e => if e.2.slip then s else
    match s.wload.find? fun f => f.1 = e.1 with
    | some f => s.wloadFail f.1 f.2 true 0x404
    | none => s) s
  (List.range 64).foldl (fun s q =>
    if s.qState q = 1 ∧ ¬ s.qDevice q ∧ (s.qWaiting q ≠ 0 ∨ ¬ (s.getQueue q).ended.isEmpty) then
      (s.modQueue q fun x => { x with stuck := true }).ctxFatal (s.qCtx q) 0x404
    else s) s

/-! The heartbeat. -/

/-- The Pilot writes its heartbeat (R373). -/
def heartbeat (s : State) : State :=
  if s.pilot.stopped then s else { s with pilot := { s.pilot with beat := s.clk.time } }

/-- LIFELINE toggles every 500 ns while the last heartbeat is less than 4 µs old, and throughout a handover (R353,
R373). -/
def lifelineToggle (s : State) : State :=
  if (s.handing ∨ s.clk.time < s.pilot.beat + 2500) ∧ atLeastNs 500 (s.clk.time - s.lifelineAt) then
    { s with lifeline := !s.lifeline, lifelineAt := s.clk.time }
  else s

/-- 4 µs without a heartbeat (R373, R374): LIFELINE is low, 0x740, QUIET. -/
def pilotLost (s : State) : State :=
  if s.handing ∨ s.clk.time < s.pilot.beat + 2500 then s else (s.bootFault 0x740 0 7).quietAssert

end State

/-- RESET_N falls (R374). -/
def execResetAssert (s : State) : Out := 
  actClk (fun s => { time := s.clk.time }) State.resetAssert s

/-- Power is lost (R354). -/
def execLossOfPower (s : State) : Out := actClk (fun _ => {}) State.powerLoss s

/-- RESET_N rises (R338). -/
def execResetRelease (slipMode : BitVec 2) (selfTestOk : Bool) (s : State) : Out :=
  actRaw (fun s => s.resetRelease slipMode selfTestOk) s

/-- A rise of TEST_EN (R489). -/
def execTestEnRise (s : State) : Out := actRaw State.testRise s

/-- GO in BOOT_CTRL (R339). -/
def execGo (party : Party) (s : State) : Out := actRaw (fun s => s.write party (bootP + oCTRL) (State.wrBoot 1)) s

/-- A slipway transfer (R439). -/
def execSlipTransfer (bytes : List Byte) (overrun : Bool) (s : State) : Out :=
  actRaw (fun s => s.slipTransfer bytes overrun) s

/-- The Pilot image has come (R337). -/
def execPilotImageComplete (readErr : Bool) (s : State) : Out := actRaw (fun s => s.pilotImageComplete readErr) s

/-- A write of BOOT_PARAM_ADDR_HI (R341, R454). -/
def execBootParamAddrHi (party : Party) (value : Word) (s : State) : Out :=
  actRaw (fun s => s.write party (bootP + 0x4C) (State.wrParamAddr (s.formed party (bootP + 0x4C) value))) s

/-- A host-quay request ends (R427). -/
def execHqReadResponse (req : HqReq) (latency : Nat) (err : Bool) (s : State) : Out :=
  actRaw (fun s => s.hqResponse req latency err) s

/-- HQ_ARESET_N (R448). -/
def execHqAresetN (s : State) : Out := actRaw State.hqReset s

/-- The Pilot's heartbeat (R373). -/
def execPilotHeartbeat (s : State) : Out := act State.heartbeat s

/-- LIFELINE toggles (R373). -/
def execLifelineToggle (s : State) : Out := act State.lifelineToggle s

/-- The heartbeat has stopped (R373). -/
def execPilotLost (s : State) : Out := act State.pilotLost s

end Sys2Proof.Machine
end

