-- ==== Sys2Proof/Machine/BringUp.lean ====
section
/-! DEFINITION. Bring-up from PILOT_UP to READY (R342, R343), the ageing ledger (R344 to R346) and its hourly point
(R388). -/

namespace Sys2Proof.Machine

/-- The fields of the boot parameters that bring-up reads (R341). -/
def wharfSlipFlag (l : List Byte) : Bool := fieldAt l 4 1 % 2 = 1
def noWharfFlag (l : List Byte) : Bool := fieldAt l 4 1 / 2 % 2 = 1

/-- Ticks of a minute and of an hour. -/
def minuteTicks : Nat := 37500000000
def hourTicks : Nat := 2250000000000

/-- What a ledger record holds of a region (R344). -/
structure Aged where
  tier : Nat
  vreq : Nat
  margin : Nat
  ways : Nat
  gaugeFail : Bool
  off : Bool
  deriving DecidableEq, Repr

/-- The entry of region `r` in a record. -/
def agedOf (rec : List Byte) (r : Nat) : Aged :=
  let a := 40 + 8 * r
  ⟨fieldAt rec a 1, fieldAt rec (a + 1) 1, fieldAt rec (a + 2) 2, fieldAt rec (a + 4) 2, fieldAt rec (a + 6) 1 % 2 = 1,
    fieldAt rec (a + 6) 1 / 2 % 2 = 1⟩

/-- An entry as bytes. -/
def Aged.bytes (x : Aged) : List Byte :=
  leBytes 1 x.tier ++ leBytes 1 x.vreq ++ leBytes 2 x.margin ++ leBytes 2 x.ways
    ++ leBytes 1 (x.gaugeFail.toNat + 2 * x.off.toNat) ++ [0]

namespace State

/-! The ledger. -/

/-- A slot is valid (R345). -/
def slotOk (s : State) (rec : List Byte) : Bool :=
  fieldAt rec 0 4 = 0x474C584A && crc32c (rec.take 252) = fieldAt rec 252 4
    && fieldAt rec 8 16 = s.uniqueId.toNat && fieldAt rec 24 8 = deviceKey s.build
    && hmacSha384 s.pilot.ledgerKey (rec.take 200) = (rec.drop 200).take 48
    && (List.range s.build.regions).all fun r =>
        let x := agedOf rec r
        decide (x.tier ≤ 3) && decide (150 ≤ x.vreq) && decide (x.vreq ≤ 170)

/-- LEDGER_ADDR of the boot parameters, 0 for none. -/
def ledgerAddr (s : State) : Nat := s.pilot.params.elim 0 fun l => fieldAt l 40 8

/-- The slot that the Pilot applies (R345): the valid one of the higher SEQ, slot 0 when they are equal. -/
def ledgerChoice (s : State) : Option (Nat × List Byte) :=
  let a := s.ledgerAddr
  let r0 := Mem.bytes zeroFill s.hostMem a 256
  let r1 := Mem.bytes zeroFill s.hostMem (a + 256) 256
  if a = 0 then none
  else match s.slotOk r0, s.slotOk r1 with
    | true, true => if fieldAt r0 4 4 < fieldAt r1 4 4 then some (1, r1) else some (0, r0)
    | true, false => some (0, r0)
    | false, true => some (1, r1)
    | false, false => none

/-- The aged state of a region as the next record has it. -/
def agedNow (s : State) (r : Nat) : Aged :=
  if s.build.regions ≤ r then ⟨0, 0, 0, 0, false, false⟩
  else
    let ways := ((s.retired.filter fun e => e.1 = r).map fun e => 2 ^ e.2).sum
    ⟨s.regTier r, s.regVreq r, fieldOf (s.getRegion r).gauge 31 16, ways, bitOf (s.rd (regionP r + oSTATUS)) 29,
      s.pilot.regionOff.contains r⟩

/-- A ledger record (R344). -/
def ledgerBytes (s : State) (seq : Nat) : List Byte :=
  let l := leBytes 4 0x474C584A ++ leBytes 4 seq ++ leBytes 16 s.uniqueId.toNat ++ leBytes 8 (deviceKey s.build)
    ++ leBytes 4 (min s.pilot.hours (2 ^ 32 - 1)) ++ leBytes 4 0
    ++ ((List.range 16).flatMap fun r => (s.agedNow r).bytes) ++ List.replicate 32 0
  let l := l ++ hmacSha384 s.pilot.ledgerKey l ++ leBytes 4 0
  l ++ leBytes 4 (crc32c l)

/-- The Pilot's next record (R346): at READY, at each hourly point, after a re-plan or a way retirement, and at most once
in any 60 s. The hourly point also starts the re-plans of R388. A record whose write the host quay has answered with an
error is written again at the next point (R427). -/
def ledgerRecord (s : State) : State :=
  let p := s.pilot
  let hour : Bool := decide (p.hourAt + hourTicks ≤ s.clk.time)
  let gap : Bool := match p.ledgerAt with
    | none => true
    | some t => decide (t + minuteTicks ≤ s.clk.time)
  if s.bootState = 3 ∨ s.handing ∨ ¬ gap ∨ ¬ (p.ledgerDue ∨ hour) then s
  else
    let s : State := if hour then
        (List.range s.build.regions).foldl (fun s r => s.hourlyPlan r)
          { s with pilot := { p with hourAt := s.clk.time, hours := p.hours + 1 } }
      else s
    if s.ledgerAddr = 0 then s
    else if s.pilot.writeErr then
      { s with pilot := { s.pilot with ledgerDue := false, ledgerAt := some s.clk.time, writeErr := false } }
    else
      let seq := s.pilot.ledgerSeq + 1
      let mem := Mem.putBytes zeroFill s.hostMem (s.ledgerAddr + 256 * (seq % 2)) (s.ledgerBytes seq)
      let s : State := { s with hostMem := mem, pilot :=
        { s.pilot with ledgerDue := false, ledgerAt := some s.clk.time, ledgerSeq := seq } }
      (s.wr (bootP + 0x50) (word seq)).event bootP 1

/-! Parts that fail. -/

/-- A region is off after bring-up (R343). -/
def regionWithdraw (s : State) (r : Nat) : State :=
  let s := s.wrField (regionP r + oSTATUS) 31 30 3
  let s := s.wr (regionP r + 0x44) (setField (setField (s.rd (regionP r + 0x44)) 28 27 0) 23 16 0)
  s.modRegion r fun x => { x with clockOn := false, basin := [] }

/-- A core is withdrawn and a spare of its region takes its place; without one the region is off (R343). A spare that
fails is withdrawn itself. -/
def coreWithdraw (s : State) (k : Nat) : State :=
  let s := s.modCore k fun x => { x with state := 3 }
  if s.build.isSpare k ∧ ¬ (s.subst.any fun e => e.2 = k) then s
  else match s.spareOf (s.regionOf k) [] with
    | some t => { s with subst := s.subst ++ [(k, t)] }
    | none => s.regionWithdraw (s.regionOf k)

/-! The steps of R342. -/

/-- A step for every region of the build. -/
def eachRegion (f : State → Nat → State) (s : State) : State := (List.range s.build.regions).foldl f s

/-- The regions that are ON. -/
def regionsOn (s : State) : List Nat := (List.range s.build.regions).filter fun r => s.power r = 2

/-- Tide and regions (R342): the tide starts at 0, the Channel is reset, every region that locks runs at Spring T3. -/
def stepRegions (s : State) (e : BringUpFindings) : State :=
  let s : State := { s with quiet := false, net := [], clk := { time := s.clk.time, tide := 0, running := true } }
  eachRegion (fun s r =>
    if bitOf e.regionOk r then
      let s := (s.wrField (regionP r + oSTATUS) 31 30 2).wr (regionP r + 0x44) (word (0xC0000000 + 3 * 2 ^ 27 + 150 * 2 ^ 16))
      (s.modRegion r fun x => { x with clockOn := true, tier := 3, changedAt := s.clk.time }).loadTide r
    else (s.raise (regionP r) 0x320 0 none 5).regionWithdraw r) s

/-- Gauge self-test (R342, R343, R387). -/
def stepGauges (s : State) (e : BringUpFindings) : State :=
  s.regionsOn.foldl (fun s r =>
    if bitOf e.gaugeOk r then s
    else ((s.raise (regionP r) 0x321).wrField (regionP r + oSTATUS) 29 29 1).modRegion r fun x => { x with gauge := 1 }) s

/-- A region's tier and voltage are applied and acknowledged (R342, R345). -/
def planRegion (s : State) (e : BringUpFindings) (r tier vreq : Nat) : State :=
  let v := word (tier * 2 ^ 8 + vreq)
  let s := (s.wr (regionP r + 0x40) v).wr (regionP r + 0x840) v
  if bitOf e.ackOk r then
    let s := s.wr (regionP r + 0x44) (word (tier * 2 ^ 30 + 3 * 2 ^ 27 + vreq * 2 ^ 16))
    s.modRegion r fun x => { x with tier := tier }
  else (s.raise (regionP r) 0x322 0 none 5).regionWithdraw r

/-- Margin plan (R342, R345, R390): the ledger, and each region's tier and voltage. -/
def stepPlan (s : State) (e : BringUpFindings) : State :=
  match s.ledgerChoice with
  | none => s.regionsOn.foldl (fun s r => s.planRegion e r 3 150) s
  | some (slot, rec) =>
    let seq := fieldAt rec 4 4
    let a := bootP + oSTATUS
    let ways := (List.range s.build.regions).flatMap fun r =>
      ((List.range 16).filter fun w => (agedOf rec r).ways / 2 ^ w % 2 = 1).map fun w => (r, w)
    let off := (List.range s.build.regions).filter fun r => (agedOf rec r).off && !(bitOf e.gaugeOk r && bitOf e.marginOk r)
    let s : State := { s with retired := ways, pilot :=
      { s.pilot with ledgerSeq := seq, hours := fieldAt rec 32 4, regionOff := off } }
    let s := s.wr a (setBit (setBit (s.rd a) 7 true) 6 (slot = 1))
    s.regionsOn.foldl (fun s r =>
      let x := agedOf rec r
      if off.contains r then s.regionWithdraw r
      else if bitOf (s.rd (regionP r + oSTATUS)) 29 then s.planRegion e r 3 150
      else if x.off then s.planRegion e r 3 170
      else s.planRegion e r x.tier x.vreq) s

/-- The Crew image runs (R342, R352). -/
def crewStart (s : State) (img : List Byte) : State :=
  let s : State := { s with pilot := { s.pilot with crewImage := img, crewUp := true } }
  s.wr (identP + 0x58) (imageVersion img)

/-- Way 15 of every region is the Crew's, and retired ways are RETIRED (R127, R345). -/
def stepWays (s : State) : State :=
  s.regionsOn.foldl (fun s r =>
    let v := (s.retired.filter fun e => e.1 = r).foldl (fun (v : Word) e => setField v (2 * e.2 + 1) (2 * e.2) 3)
      (0x80000000 : Word)
    (s.wr (basinP r + 0x40) v).wr (basinP r + 0x840) v) s

/-- The Crew step (R342, R343): the primary image, the golden one, or STATE FAILED; a read error is logged (R427). The
flag says whether bring-up goes on. -/
def stepCrew (s : State) (e : BringUpFindings) (l : List Byte) : Bool × State :=
  let img := fetchImage s.hostMem (fieldAt l 8 8)
  let log := fun (bad : Bool) (s : State) => if bad then s.logEntry bootP 0x404 0 none 0 else s
  let s := log e.crewReadErr s
  match imageCheck s.rootKey 2 e.crewReadErr true img with
  | 0 => (true, (s.crewStart img).stepWays)
  | c =>
    let a := fieldAt l 16 8
    let gold := fetchImage s.hostMem a
    if a = 0 then (false, s.bootFail 0x730 (word c))
    else match imageCheck s.rootKey 2 e.goldenReadErr true gold with
      | 0 => (true, (((log e.goldenReadErr s).bootFault 0x730 (word c)).attn |>.crewStart gold).stepWays)
      | d => (false, (log e.goldenReadErr s).bootFail 0x730 (word d))

/-- A load runs to its end (R291, R292). -/
def runLoad (r : Nat) (bad : List Nat) : Nat → State → State
  | 0, s => s
  | n + 1, s =>
    match s.wloadAt r with
    | none => s
    | some (_, w) => runLoad r bad n (if w.pos < fieldAt w.bytes 20 4 then s.wharfRecord r bad else s.wloadDone r)

/-- Wharf load (R342, R343): one GO per region, then every loaded plane becomes active. -/
def stepWharf (s : State) (e : BringUpFindings) (l : List Byte) : State :=
  if noWharfFlag l then s
  else
    let on := s.regionsOn
    let s := on.foldl (fun s r => (s.wr64 (wharfP r + 0x40) (fieldAt l 24 8)).wr64 (wharfP r + 0x48) (fieldAt l 32 8)) s
    let go := fun (v : Word) (s : State) (r : Nat) => (State.wrWload r v s).getD s
    let s := if wharfSlipFlag l then
        on.foldl (fun s r => runLoad r e.wharfBad (2 ^ 24) s) ((on.foldl (go 3) s).wharfSlip e.slipStream true)
      else on.foldl (fun s r => runLoad r e.wharfBad (2 ^ 24) (go 1 s r)) s
    let s := if on.any fun r => fieldOf (s.rd (wharfP r + oSTATUS)) 28 27 ≠ 1 then s.attn else s
    let s := on.foldl (fun s r =>
      let bit : Nat → Bool := fun l => (s.getCore (r * s.build.stride + l)).planeB.state = 2
      let vals := (List.range 3).map fun i =>
        (wharfP r + 0x50 + 4 * i, word (((List.range 32).map fun (j : Nat) =>
          if (decide (32 * i + j < s.build.stride) && bit (32 * i + j)) = true then (2 ^ j : Nat) else 0).sum))
      (vals.foldl (fun s v => s.wr (v.1 + 0x800) v.2) s).applyPage ⟨wharfP r, vals, 0⟩) s
    let failed := (List.range s.build.physCores).filter fun k => (s.getCore k).state = 2
    failed.foldl (fun s k => s.coreWithdraw k) s

/-- The core fault of a word that zeroing finds bad, with its place; SOURCE is that of a scrub (R121, R229, log 73). -/
def zeroFault (s : State) (k : Nat) (b : ZeroBad) : State :=
  match b with
  | .berth b a => s.coreFault k 0x231 (s.berthInfo b a 6)
  | .chart w => s.chartUe k 7 w

/-- Zeroing (R342, R343): every berth, chart memory and way is written; what fails is withdrawn or RETIRED. -/
def stepZero (s : State) (e : BringUpFindings) : State :=
  let s := e.coreBad.foldl (fun s b =>
    if s.build.physCores ≤ b.1 ∨ s.power (s.regionOf b.1) ≠ 2 then s
    else (s.zeroFault b.1 b.2).coreWithdraw b.1) s
  e.wayBad.foldl (fun s b =>
    let (r, w, tag) := b
    if s.power r ≠ 2 ∨ 16 ≤ w then s
    else
      let s := (s.raise (basinP r) (if tag then 0x104 else 0x103) 0 none 1).event (basinP r) 1
      let v := setField (s.rd (basinP r + 0x40)) (2 * w + 1) (2 * w) 3
      let s : State := { s with retired := s.retired ++ [(r, w)] }
      (s.wr (basinP r + 0x40) v).wr (basinP r + 0x840) v) s

/-- A region, core or way has been withdrawn, or a gauge has failed (R342, R343). -/
def impaired (s : State) (e : BringUpFindings) : Bool :=
  ((List.range s.build.regions).any fun r => s.power r ≠ 2 || bitOf (s.rd (regionP r + oSTATUS)) 29)
    || (s.core.any fun x => x.2.state = 3) || !e.wayBad.isEmpty

/-- The clocks after bring-up: the tide starts at 0 unless its counter fails, or bring-up is not due (R342, R343). -/
def bringUpClk (s : State) (e : BringUpFindings) : Clk :=
  if s.pilot.params.isSome && s.bootState = 3 && !s.testEn && e.tideOk then
    { time := s.clk.time, tide := 0, running := true }
  else s.clk

/-- Bring-up from PILOT_UP (R342): READY, DEGRADED or FAILED. -/
def bringUp (s : State) (e : BringUpFindings) : State :=
  match s.pilot.params with
  | none => s
  | some l =>
    if s.bootState ≠ 3 ∨ s.testEn then s
    else if ¬ e.tideOk then ({ s with quiet := false }).bootFail 0x720
    else
      let s := ((s.stepRegions e).stepGauges e).stepPlan e
      match s.stepCrew e l with
      | (false, s) => s
      | (true, s) =>
        let s := (s.stepWharf e l).stepZero e
        let p : Pilot := { s.pilot with beat := s.clk.time, ledgerDue := true, ledgerAt := none, hourAt := s.clk.time }
        let s : State := { s with pilot := p }
        if s.impaired e then (s.setBoot 5).attn else s.setBoot 4

end State

/-- Bring-up (R342): the Pilot starts the tide. -/
def execBringUp (env : BringUpFindings) (s : State) : Out := 
  actClk (fun s => s.bringUpClk env) (fun s => s.bringUp env) s

/-- A ledger record (R346). -/
def execLedgerRecord (s : State) : Out := act State.ledgerRecord s

end Sys2Proof.Machine
end

