-- ==== Sys2Proof/Machine/Updates.lean ====
section
/-! DEFINITION. Live updates (R349 to R353, R355), Crew faults (R347, R348) and the Pilot's own faults (R353, R373). -/

namespace Sys2Proof.Machine

namespace State

/-! The image in force of a CREW or PILOT update. -/

/-- A Crew or Pilot image runs from now on (R350, R352). -/
def runImage (s : State) (kind : Nat) (img : List Byte) : State :=
  if kind = 1 then s.crewStart img
  else
    let p : Pilot := { s.pilot with pilotImage := img, pubkey := (img.drop 32).take 96, beat := s.clk.time,
                                    handover := none }
    ({ s with pilot := p }).wr (identP + 0x54) (imageVersion img)

/-! WHARF. -/

/-- The loads of an update into the staging planes of its regions (R350). -/
def updLoads (s : State) (src : Nat) (regs : List Nat) : State :=
  if regs.any fun r => s.loading r || (s.groupOf (wharfP r)).isSome || s.power r ≠ 2 then
    { s with update := { s.update with blocked := true } }
  else
    let h := Mem.bytes zeroFill s.hostMem src 128
    let img := Mem.bytes zeroFill s.hostMem src (128 + fieldAt h 20 4)
    regs.foldl (fun s r =>
      if s.loading r then s
      else s.wloadBegin r { regions := [r], slip := false, alone := true, src := src, bytes := img }) s

/-- Loads of the update that are still in progress end, their planes EMPTY (R349). -/
def updStopLoads (s : State) : State :=
  s.wload.foldl (fun s e =>
    if e.2.alone then
      let s := s.stageAll e.2 fun p => if p.state = 1 then {} else p
      ({ s with wload := Tab.del s.wload e.1 }).wloadState e.2 0
    else s) s

/-- The cores whose staging plane holds the update's image. -/
def updCores (s : State) : List Nat :=
  let id := word (leNat ((sha384 s.update.image).take 4))
  (List.range s.build.physCores).filter fun k =>
    s.update.regions.contains (s.regionOf k) && (stagePlane (s.getCore k)).state = 2
      && (stagePlane (s.getCore k)).id = id

/-- PLANE_SEL of a region with the bits of some cores turned. -/
def turnedSel (s : State) (r : Nat) (cores : List Nat) : List (Nat × Word) :=
  (List.range 3).map fun i =>
    let a := wharfP r + 0x50 + 4 * i
    (a, (cores.filter fun k => s.regionOf k = r ∧ s.build.localOf k / 32 = i).foldl (fun (v : Word) k =>
      setBit v (s.build.localOf k % 32) (!bitOf v (s.build.localOf k % 32))) (s.rd a))

/-- The PLANE_SEL commit of the update at a stamp (R283, R350). -/
def updSwitch (s : State) (want : Nat) (cores : List Nat) : State :=
  s.update.regions.foldl (fun s r =>
    let vals := s.turnedSel r cores
    (vals.foldl (fun s v => s.wr (v.1 + 0x800) v.2) s).armVals (wharfP r) want vals) s

/-! VOYAGE. -/

/-- Two voyages of a context change names; a launch that has a BASE before E keeps its legs (R350, R355). -/
def swapVoyages (s : State) (c a b : Nat) : State :=
  let x := s.getCtx c
  let at_ := fun (n : Nat) => x.voyages.find? fun v => v.1 = n
  match at_ a, at_ b with
  | some va, some vb =>
    let s := s.deferLeg c
    s.modCtx c fun y =>
      { y with voyages := Tab.put (Tab.put y.voyages a vb.2) b va.2,
               launches := y.launches.map fun (l : Launch) =>
                 if l.based ∧ 0 < l.leg ∧ l.voyage = a then { l with voyage := b }
                 else if l.based ∧ 0 < l.leg ∧ l.voyage = b then { l with voyage := a }
                 else { l with ready := none } }
  | _, _ => s

/-- NEW may take VOYAGE's place: both are registered with the same LEGS and PARAM_BYTES (R350). -/
def voyagesAgree (s : State) (c a b : Nat) : Bool :=
  let at_ := fun (n : Nat) => (s.getCtx c).voyages.find? fun v => v.1 = n
  match at_ a, at_ b with
  | some va, some vb => a ≠ b && va.2.legs.length = vb.2.legs.length && va.2.paramBytes = vb.2.paramBytes
  | _, _ => false

/-! The stages (R349). -/

/-- PENDING of UPD_STATUS. -/
def updPending (s : State) : Bool := bitOf (s.rd (updateP + oSTATUS)) 10
def setPending (s : State) (b : Bool) : State := s.wrField (updateP + oSTATUS) 10 10 b.toNat

/-- STAGE. -/
def updStart (s : State) (v : Word) : State :=
  let kind := fieldOf v 27 24
  let src := s.rd64 (updateP + 0x40)
  let regs := (List.range s.build.regions).filter fun r => bitOf (s.rd (updateP + 0x50)) r
  let img := if kind = 2 then Mem.bytes zeroFill s.hostMem (src / 8 * 8) (128 + fieldAt (Mem.bytes zeroFill s.hostMem (src / 8 * 8) 128) 20 4)
    else if kind = 3 then [] else fetchImage s.hostMem (src / 256 * 256)
  let u : Update := { ctx := fieldOf v 23 20, voyage := fieldOf v 19 14, new_ := fieldOf v 13 8, image := img, regions := regs,
                      old := if kind = 1 then s.pilot.crewImage else if kind = 4 then s.pilot.pilotImage else [] }
  let s := ({ s with update := u }).wr (updateP + oSTATUS)
    (word (kind * 2 ^ 24 + (if bitOf (s.rd (updateP + oSTATUS)) 9 then 2 ^ 9 else 0)))
  let s := s.setUpd 1
  if kind = 2 then s.updLoads (src / 8 * 8) regs else s

/-- The staging checks end (R349, R350). -/
def updChecked (s : State) (readErr : Bool) : State :=
  let u := s.update
  let verdict := fun (s : State) (c : Nat) => if c = 0 then s.setUpd 2 else s.updFail c
  let image := fun (kind : Nat) =>
    match imageCheck s.rootKey kind readErr true u.image with
    | 0 => s.setUpd 2
    | c => (s.bootFault c).updFail c
  if s.updStage ≠ 1 then s
  else match s.updKind with
    | 1 => image 2
    | 4 => image 1
    | 2 =>
      if u.blocked then s.updFail 0x604
      else if s.wload.any fun e => e.2.alone then s
      else
        let bad := u.regions.find? fun r => fieldOf (s.rd (wharfP r + oSTATUS)) 28 27 ≠ 1
        match bad with
        | some r => s.updFail (fieldOf (s.rd (wharfP r + oSTATUS)) 23 12)
        | none => s.setUpd 2
    | _ => verdict s (if s.voyagesAgree u.ctx u.voyage u.new_ then 0 else 0x600)

/-- ACTIVATE: E is resolved under R191, and a WHARF update arms its commit. The flag says whether it is accepted. -/
def updArm (s : State) : Bool × State :=
  let want := s.rd64 (updateP + 0x48)
  let late := want < s.clk.tide + commitLead
  let e := if late then turnAfter s.clk.tide else want
  let done := fun (s : State) => (true, ({ s with update := { s.update with stamp := e } }).setPending true)
  let s1 := if late then s.raise updateP 0x804 else s
  if s.updKind ≠ 2 then done s1
  else
    let cores := s.updCores
    if s.update.regions.any fun r => s.loading r || (s.groupOf (wharfP r)).isSome then (false, s)
    else
      let t := s1.updSwitch e cores
      if s.update.regions.all fun r => (t.groupOf (wharfP r)).isSome then
        done { t with update := { t.update with cores := cores } }
      else (false, t)

/-- The longest lead pause of a Crew handover, of a Crew restart, and the longest Pilot handover, in ticks (R347, R350,
R353). -/
def crewPause : Nat := 625000
def restartPause : Nat := 12500000
def handoverTicks : Nat := 3125000

/-- The old image, planes or voyage again (R350); `auto` sets AUTO and raises ATTN (R349). -/
def updRevert (s : State) (auto : Bool) (code : Nat) : State :=
  let u := s.update
  let s := match s.updKind with
    | 1 => (s.runImage 1 u.old).pauseLeads crewPause
    | 4 => s.runImage 4 u.old
    | 2 => s.updSwitch (turnAfter s.clk.tide) u.cores
    | _ => s.swapVoyages u.ctx u.voyage u.new_
  let s := { s with update := { s.update with cores := [], fault := 0 } }
  let s := (s.wrField (updateP + oSTATUS) 11 11 auto.toNat).wrField (updateP + oSTATUS) 23 12 code
  let s := s.setUpd 5
  if auto then s.attn else s

/-- The window of an ACTIVE update in ticks (R351). -/
def updWindow (s : State) : Nat := (s.rd (updateP + 0x54)).toNat * 625000

/-- CONFIRM: the old image is dropped; CREW_DOWN ends (R347, R350). -/
def updConfirm (s : State) : State :=
  let u := s.update
  let s := match s.updKind with
    | 1 =>
      if s.pilot.crewDown then ({ s with pilot := { s.pilot with crewDown := false, crewFaults := [] } }).setBoot 4 else s
    | 3 => s.modCtx u.ctx fun x => { x with voyages := Tab.del x.voyages u.new_ }
    | _ => s
  ({ s with update := { s.update with old := [], image := [], cores := [] } }).setUpd 4

/-- REFUSED and 0x600 (R349, R460). -/
def updRefused (s : State) : State := (s.orBits (updateP + oSTATUS) 0x200).configFault updateP

/-- A write of UPD_CTRL (R349, R351). -/
def wrUpd (v : Word) (s : State) : Option State :=
  let cmd := fieldOf v 31 28
  let kind := fieldOf v 27 24
  let st := s.updStage
  let s := s.wr (updateP + oCTRL) (v &&& 0x0FFFFF00)
  some (
    if cmd = 0 then s
    else if s.handing then s.updRefused
    else if cmd = 1 ∧ (st = 0 ∨ 4 ≤ st) ∧ 1 ≤ kind ∧ kind ≤ 4 then s.updStart v
    else if cmd = 2 ∧ st = 2 ∧ ¬ s.updPending then
      match s.updArm with
      | (true, t) => t
      | (false, t) => t.updRefused
    else if cmd = 3 ∧ st = 3 ∧ s.clk.time ≤ s.update.activeAt + s.updWindow then s.updConfirm
    else if cmd = 4 ∧ st = 3 then s.updRevert false 0
    else if cmd = 5 ∧ (st = 1 ∨ (st = 2 ∧ ¬ s.updPending)) then (s.updStopLoads).setUpd 0
    else if cmd = 5 ∧ st = 2 ∧ s.clk.tide + commitLead ≤ s.update.stamp then
      let s := if s.updKind = 2 then s.update.regions.foldl (fun s r => s.cancelPage (wharfP r)) s else s
      (s.setPending false).setUpd 0
    else s.updRefused)

/-- A write to another register of the page (R351): only while no update is under way. -/
def wrUpdReg (f : State → State) (s : State) : Option State :=
  let st := s.updStage
  if st = 0 ∨ 4 ≤ st then some (f s) else some s.updRefused

/-- Contexts with a standing-task item in execution become LOST (R347). -/
def loseTasks (s : State) (code : Nat) : State :=
  (List.range 64).foldl (fun s q =>
    if s.qState q ≠ 0 ∧ s.qTask q ∧ (s.getQueue q).exec.isSome then s.loseCtx (s.qCtx q) code else s) s

/-- The end of a Pilot handover (R352, R353): the new image runs, or the old one again. -/
def handoverEnd (s : State) (accepted : Bool) : State :=
  if accepted then s.runImage 4 s.update.image else s.updRevert true 0

/-- A Pilot handover has lasted 5 ms without an end: the boot ROM enters the old image (R353). -/
def handoverDue (s : State) : State :=
  if s.pilot.handover.any fun t => decide (t ≤ s.clk.time) then s.handoverEnd false else s

/-- E of an update (R350, R353). `accepted`: for CREW the old Crew wrote its state in time, or else it is halted under
R347; for PILOT, whose handover begins at E and ends at the next of these commands, the new image passed the check of the
boot ROM and took the state. -/
def updActivate (s : State) (accepted : Bool) : State :=
  let u := s.update
  if s.handing then s.handoverEnd accepted
  else if s.updStage ≠ 2 ∨ ¬ s.updPending ∨ s.clk.tide < u.stamp then s
  else
    let on := fun (s : State) =>
      ({ s with update := { s.update with activeAt := s.clk.time, fault := 0 } }).setUpd 3
    match s.updKind with
    | 1 => on ((((if accepted then s else s.loseTasks 0x702).runImage 1 u.image).pauseLeads crewPause).setPending false)
    | 4 =>
      let p : Pilot := { s.pilot with handover := some (s.clk.time + handoverTicks) }
      on (({ s with pilot := p }).setPending false)
    | 2 =>
      if u.regions.any fun r => (s.groupOf (wharfP r)).isSome then s
      else if u.cores.all fun k => (s.getCore k).activeB = planeBit (fun i => s.rd (wharfP (s.regionOf k) + 0x50 + 4 * i)) (s.build.localOf k)
          || (s.getCore k).switchTo.isSome then
        on (s.setPending false)
      else s
    | _ => on ((s.swapVoyages u.ctx u.voyage u.new_).setPending false)

/-- The window expires without CONFIRM (R349). -/
def updExpiry (s : State) : State :=
  if s.updStage = 3 ∧ ¬ s.handing ∧ s.update.activeAt + s.updWindow ≤ s.clk.time then s.updRevert true 0 else s

/-- A fault of the new image that the parts have reported reverts the update (R350). -/
def updFault (s : State) : State :=
  if s.updStage = 3 ∧ s.update.fault ≠ 0 then s.updRevert true s.update.fault else s

/-! Crew faults. -/

/-- Any context but a free or closing one becomes LOST (R347). -/
def loseAny (s : State) (c code : Nat) : State :=
  if s.ctxState c = 1 then
    let s := s.setCtxState c 4
    (s.wrField (ctxP c + oSTATUS) 31 16 (s.epoch c + 1)).modCtx c fun x => { x with lostBy := code }
  else s.loseCtx c code

/-- A Crew fault (R347, R350): the Crew restarts within a lead pause, or its update is reverted, or after the third within 60 s it stays
down. -/
def crewFault (s : State) (code : Nat) : State :=
  let new_ : Bool := s.updStage = 3 && s.updKind = 1
  if ¬ s.pilot.crewUp ∨ (s.pilot.crewDown ∧ ¬ new_) then s
  else
    let s := s.bootFault code 0 6
    let s := s.loseTasks code
    if new_ then s.updRevert true code
    else
      let l := (s.pilot.crewFaults.filter fun t => decide (s.clk.time < t + minuteTicks)) ++ [s.clk.time]
      let s : State := { s with pilot := { s.pilot with crewFaults := l } }
      if l.length < 3 then s.pauseLeads restartPause
      else
        let s : State := { s with pilot := { s.pilot with crewDown := true } }
        let s := (List.range 16).foldl (fun s c => s.loseAny c 0x704) (s.bootFault 0x704)
        (s.setBoot 5).attn

/-- An unrecoverable fault of the Pilot (R350, R353, R373): the update of its image is reverted, or the heartbeat stops. -/
def pilotFault (s : State) (code : Nat) : State :=
  if s.updStage = 3 ∧ s.updKind = 4 then (s.bootFault code 0 6).updRevert true code
  else
    let s := s.bootFault code 0 7
    { s with pilot := { s.pilot with stopped := true } }

end State

/-- STAGE (R349). -/
def execStage (party : Party) (value : Word) (s : State) : Out :=
  act (fun s => s.write party (updateP + oCTRL) (State.wrUpd (setField value 31 28 1))) s

/-- ACTIVATE (R349). -/
def execActivate (party : Party) (value : Word) (s : State) : Out :=
  act (fun s => s.write party (updateP + oCTRL) (State.wrUpd (setField value 31 28 2))) s

/-- CONFIRM (R349). -/
def execConfirm (party : Party) (value : Word) (s : State) : Out :=
  act (fun s => s.write party (updateP + oCTRL) (State.wrUpd (setField value 31 28 3))) s

/-- REVERT (R349). -/
def execRevert (party : Party) (value : Word) (s : State) : Out :=
  act (fun s => s.write party (updateP + oCTRL) (State.wrUpd (setField value 31 28 4))) s

/-- ABORT (R349). -/
def execAbort (party : Party) (value : Word) (s : State) : Out :=
  act (fun s => s.write party (updateP + oCTRL) (State.wrUpd (setField value 31 28 5))) s

/-- The staging checks end (R349). -/
def execUpdateChecked (readErr : Bool) (s : State) : Out := act (fun s => s.updChecked readErr) s

/-- E is reached (R350). -/
def execUpdateActivation (accepted : Bool) (s : State) : Out := act (fun s => s.updActivate accepted) s

/-- The window expires (R349). -/
def execUpdWindowExpiry (s : State) : Out := act State.updExpiry s

/-- A trap on a Crew core, or the answer to an access that it was refused (R347). -/
def execCrewTrap (s : State) : Out :=
  act (fun s => if s.pilot.refused then { s with pilot := { s.pilot with refused := false } }.crewFault 0x703
    else s.crewFault 0x701) s

/-- A gap in the Crew's watchdog signal (R347). -/
def execCrewHang (s : State) : Out := act (fun s => s.crewFault 0x702) s

/-- A trap of the Pilot (R373). -/
def execPilotTrap (s : State) : Out := act (fun s => s.pilotFault 0x741) s

/-- A double-bit error in Pilot SRAM or boot ROM (R373). -/
def execPilotSramUe (s : State) : Out := act (fun s => s.pilotFault 0x742) s

end Sys2Proof.Machine
end

