-- ==== Sys2Proof/Machine/Convoys.lean ====
section
/-! DEFINITION. Convoys: the Hersil link layer (R399 to R405, R416, R435, R436), routes and the detour fence (R406, R407),
admission at the destination and the bollard window (R397, R398, R408), the muster (R413 to R415), the convoy's tide
(R409, R410, R412, R414). -/

namespace Sys2Proof.Machine

/-- Credits of a virtual channel (R404). -/
def creditsOf (vc : Nat) : Nat :=
  match vc / 2 with
  | 1 => 128
  | 2 => 32
  | _ => 8

/-- The body of a flit of R399 up to its FCRC. -/
def flitHead (seq ack typ vcSlots credit dst src hops : Nat) (body : List Byte) : List Byte :=
  leBytes 2 seq ++ leBytes 2 ack ++ leBytes 1 typ ++ leBytes 1 vcSlots ++ leBytes 2 credit ++ leBytes 1 dst ++ leBytes 1 src
    ++ leBytes 1 hops ++ List.replicate 5 0 ++ (body ++ List.replicate 216 0).take 216 ++ List.replicate 16 0

/-- A whole flit (R399, R491). -/
def flitOf (l : List Byte) : List Byte := l ++ leBytes 8 (crc64 l)

/-- A flit's check is correct: its length (R435) and its FCRC. -/
def flitGood (l : List Byte) : Bool := l.length = 256 && crc64 (l.take 248) = fieldAt l 248 8

/-- `a` lies `n` steps behind `b` in 16 bits. -/
def seqBehind (a b : Nat) : Nat := (b + 2 ^ 16 - a % 2 ^ 16) % 2 ^ 16

/-- The 24 bits of a slot's routing header and its payload (R400). -/
def slotPart (l : List Byte) : List Byte × BitVec 24 := (l.take 64, BitVec.ofNat 24 (fieldAt l 69 3))

/-- The records of a muster are read as these fields (R413). -/
def recMember (l : List Byte) : Nat := fieldAt l 5 1
def recSize (l : List Byte) : Nat := fieldAt l 6 1
def recRunning (l : List Byte) : Bool := fieldAt l 7 1 % 2 = 1
def recConvoyRunning (l : List Byte) : Bool := fieldAt l 7 1 / 2 % 2 = 1
def recLeave (l : List Byte) : Bool := fieldAt l 7 1 / 4 % 2 = 1
def recRate (l : List Byte) : Int := signed 32 (fieldAt l 36 4)

/-- A record keeps its format (R413). -/
def recOk (l : List Byte) : Bool :=
  fieldAt l 0 4 = 0x554D584A && fieldAt l 4 1 = 1 && crc32c (l.take 188) = fieldAt l 188 4

namespace State

def getLink (s : State) (j : Nat) : Link := Tab.get {} s.link j
def setLink (s : State) (j : Nat) (x : Link) : State := { s with link := Tab.put s.link j x }
def modLink (s : State) (j : Nat) (f : Link → Link) : State := s.setLink j (f (s.getLink j))
def modConvoy (s : State) (f : Convoy → Convoy) : State := { s with convoy := f s.convoy }

/-! Links. -/

/-- JETTY_STATUS STATE, with its event (R419, R462). -/
def setLinkState (s : State) (j st : Nat) : State :=
  if s.linkState j = st then s else (s.wrField (jettyP j + oSTATUS) 31 30 st).event (jettyP j) 0

/-- FAULT_INFO of a JETTY page (R419). -/
def jettyInfo (s : State) (j detail seq : Nat) : Word :=
  word (detail % 16 * 2 ^ 28 + seq % 2 ^ 16 * 2 ^ 12 + (if bitOf (s.rd (jettyP j + oSTATUS)) 29 then 2 ^ 8 else 0)
    + fieldOf (s.rd (jettyP j + oSTATUS)) 7 0)

/-- A flit goes out of a port: it carries ACK and one channel's credits (R399, R401, R404), and counts in FLITS_TX. -/
def sendFlit (s : State) (j seq typ vcSlots dst src hops : Nat) (body : List Byte) : List Byte × State :=
  let x := s.getLink j
  let owed := x.owed.find? fun e => e.2 ≠ 0
  let credit := match owed with
    | some (v, n) => v * 2 ^ 13 + min n 8191
    | none => 0
  let flit := flitOf (flitHead seq (x.rx + 65535) typ vcSlots credit dst src hops body)
  let s := s.setLink j
    { x with sentAt := s.clk.time, unacked := 0, out := flit, owed := match owed with
        | some (v, n) => Tab.put x.owed v (n - min n 8191)
        | none => x.owed }
  (flit, s.count (jettyP j + 0x80) 1)

/-- A flit that takes no sequence number (R399): IDLE 1, NAK 2, TIDE_SYNC 3, MUSTER 4, RESTART 5. -/
def sendControl (s : State) (j typ : Nat) (body : List Byte) : State :=
  (s.sendFlit j (s.getLink j).tx typ 0 (fieldOf (s.rd (jettyP j + oSTATUS)) 7 0) s.member 0 body).2

/-- The ports that are UP. -/
def portsUp (s : State) : List Nat := (List.range s.build.jetties).filter fun j => s.linkState j = 1

/-! Lost members. -/

/-- Every route to a member is DARK (R416). -/
def memberDark (s : State) (m : Nat) : Bool :=
  let v := Tab.get 0 s.convoy.routes m
  (bitOf v 4 || bitOf v 12) && (s.portTo m).isNone

/-- Members are lost to this one (R416): EVENT, ATTN, and the routes are unreachable. -/
def loseMember (s : State) (m : Nat) : State :=
  if s.convoy.lost.contains m then s
  else ((s.modConvoy fun c => { c with lost := c.lost ++ [m] }).event convoyP 1).attn

/-- The members that a dark port has cut off. -/
def loseDark (s : State) : State :=
  if fieldOf (s.rd (convoyP + oSTATUS)) 31 29 ≠ 2 then s
  else (List.range s.members).foldl (fun s m => if m ≠ s.member ∧ s.memberDark m then s.loseMember m else s) s

/-- A packet carries a slot that a port has received (R403). -/
def slotVia (j : Nat) (p : Packet) : Bool :=
  match p.load with
  | .slot o => o.via = some j
  | _ => false

/-- A port becomes DARK (R403): all that it holds is discarded, the slots it has received among it. -/
def darken (s : State) (j : Nat) : State :=
  let s := (s.packetsAt fun _ => true).foldl (fun s p => if slotVia j p then s.dropPacket p else s) s
  let x := s.getLink j
  let s := s.setLink j { x with buf := [], deaf := false, spent := [], owed := [], parts := [], unacked := 0 }
  (s.setLinkState j 2).loseDark

/-- A jetty fault that darkens its port (R402, R403, R405). -/
def jettyFault (s : State) (j code detail seq : Nat) : State := (s.raise (jettyP j) code (s.jettyInfo j detail seq)).darken j

/-- Every buffered flit is sent again in order (R401). -/
def rewind (s : State) (j : Nat) : State :=
  let x := s.getLink j
  if x.buf.isEmpty then s
  else
    let s := s.setLink j { x with ackAt := s.clk.time, sentAt := s.clk.time, unacked := 0,
                                  out := (x.buf.getLast?.map fun b => b.2.1).getD x.out }
    (s.count (jettyP j + 0x80) x.buf.length).count (jettyP j + 0x88) 1

/-- ACK reports the last SEQ received in order on the reverse link (R401). -/
def takeAck (s : State) (j ack : Nat) : State :=
  let x := s.getLink j
  let rest := x.buf.filter fun b => decide (seqBehind b.1 ack ≥ 2 ^ 15)
  if rest.length = x.buf.length then s else s.setLink j { x with buf := rest, ackAt := s.clk.time }

/-! Sending. -/

/-- The detour fence of a destination holds (R407). -/
def fenced (s : State) (dst : Nat) : Bool := s.convoy.fences.any fun f => f.1 = dst

/-- The length of a detour fence in ns (R407), by the longer RETRY_BOUND of the two ports. -/
def fenceNs (s : State) (a b : Nat) : Nat :=
  let rb := fun (j : Nat) => fieldOf (s.rd (jettyP j + 0x40)) 7 0
  7 * (125 * max (rb a) (rb b) + 128)

/-- The selected port of a destination is noted; a change opens the fence, and one in progress runs its full length
(R407, R420). -/
def notePort (s : State) (dst j : Nat) : State :=
  match s.convoy.port.find? fun e => e.1 = dst with
  | none => s.modConvoy fun c => { c with port := Tab.put c.port dst j }
  | some (_, k) =>
    if k = j then s
    else if s.fenced dst then s.modConvoy fun c => { c with port := Tab.put c.port dst j }
    else
      let n := s.fenceNs k j
      s.modConvoy fun c =>
        { c with port := Tab.put c.port dst j,
                 fences := Tab.put c.fences dst (s.clk.time, (10 * n + 15) / 16) }

/-- A slot finds no usable port: a request of this member is refused, anything forwarded is dropped (R398, R406). -/
def slotLost (s : State) (o : OutSlot) : State :=
  let s := s.modConvoy fun c => { c with outbox := c.outbox.erase o }
  if o.src = s.member then
    (if o.vc % 2 = 0 then
      match s.convoyCtx with
      | some c => if s.ctxState c = 2 ∨ s.ctxState c = 3 then s.ctxFatal c 0x914 else s
      | none => s
    else s)
  else s.count (convoyP + 0xC4) 1

/-- Slots that share a flit with `o` (R400): the same destination, source, channel and hops; three at most. -/
def flitMates (l : List OutSlot) (o : OutSlot) : List OutSlot :=
  (l.filter fun x => x.dst = o.dst && x.src = o.src && x.vc = o.vc && x.hops = o.hops).take 3

/-- The DATA flit of a slot and those that share it leaves its port, if it may (R401, R404, R406). The detour fence holds
back the slots of which this member is the source (R407). -/
def sendSlots (s : State) (o : OutSlot) : State :=
  if ¬ s.convoy.outbox.contains o then s
  else match s.portTo o.dst with
  | none => s.slotLost o
  | some j =>
    let s := if o.src = s.member then s.notePort o.dst j else s
    let x := s.getLink j
    if (o.src = s.member ∧ s.fenced o.dst) ∨ s.linkState j ≠ 1 ∨ 64 ≤ x.buf.length ∨ creditsOf o.vc ≤ Tab.get 0 x.spent o.vc then s
    else
      let mates := flitMates s.convoy.outbox o
      let s := s.modConvoy fun c => { c with outbox := mates.foldl (fun l m => l.erase m) c.outbox }
      let seq := x.tx
      let (flit, s) := s.sendFlit j seq 0 (o.vc + 8 * mates.length) o.dst o.src o.hops (mates.flatMap (·.bytes))
      s.modLink j fun y =>
        { y with tx := (seq + 1) % 2 ^ 16, buf := y.buf ++ [(seq, flit, s.clk.time)],
                 ackAt := if y.buf.isEmpty then s.clk.time else y.ackAt,
                 spent := Tab.put y.spent o.vc (Tab.get 0 y.spent o.vc + 1) }

/-- What waits is sent as far as it may be (R406). -/
def pump (s : State) : State := s.convoy.outbox.foldl sendSlots s

/-! Admission and delivery (R397, R398, R408). -/

/-- Offset of the bollard window (R397). -/
def windowBase : Nat := 0xFFFFFF0000

/-- The answer to a request. -/
def answerTo (s : State) (src vc epoch : Nat) (p : RemotePacket) : State := s.postPacket src (vc / 2 * 2 + 1) epoch 0 p

/-- An access to device memory for another member goes to its quay. -/
def deposit (s : State) (j c src vc epoch id off len : Nat) (store : Bool) (data : List Byte) : State :=
  let base := s.rd64 (convoyP + 0x48)
  let size := s.rd64 (convoyP + 0x50)
  let carved : Bool := match s.carve with
    | some b => decide (b < off + len) && decide (off < b + 2 ^ 24)
    | none => false
  let r : LineReq := { id := id, core := foreign, store := store, slot := vc, stream := 0, chunk := 0, ctx := c,
                       epoch := epoch, pa := off, len := len, data := data, member := some src }
  if off < base ∨ base + size < off + len ∨ carved then s.answerTo src vc epoch (.refusal id)
  else
    let (n, s) := s.freshId
    let q : QReq := { id := n, quay := 0, pa := off, len := len, write := store, source := c, reqs := [r],
                      region := s.build.regions, port := .jetty j }
    if s.behindQuay off then s.toQuay q else s.foreignFail 0x401 q true

/-- A request of another member is admitted or refused (R397, R398). -/
def admitForeign (s : State) (j src vc epoch conv : Nat) (p : RemotePacket) : State :=
  if conv ≠ (s.rd (convoyP + 0x44)).toNat % 2 ^ 16 then s.count (convoyP + 0xC0) 1
  else
    let refuse := fun (id : Nat) => s.answerTo src vc epoch (.refusal id)
    match p, s.convoyCtx with
    | .write id off data, some c =>
      if fieldOf (s.rd (convoyP + oSTATUS)) 31 29 ≠ 2 then refuse id
      else if windowBase ≤ off then
        let i := (off - windowBase) / 4
        if off % 4 ≠ 0 ∨ data.length ≠ 4 ∨ (s.rd (ctxP c + 0x94)).toNat ≤ i then refuse id
        else s.modConvoy fun x =>
          { x with adds := x.adds ++ [⟨src, vc, (s.rd (ctxP c + 0x90)).toNat + i, leNat data, id, epoch, s.nextId⟩] }
      else s.deposit j c src vc epoch id off data.length true data
    | .read id off len, some c =>
      if fieldOf (s.rd (convoyP + oSTATUS)) 31 29 ≠ 2 then refuse id
      else if windowBase ≤ off then
        (if len = 4 ∧ off % 4 = 0 ∧ (off - windowBase) / 4 < (s.rd (ctxP c + 0x94)).toNat then
          s.answerTo src vc epoch (.answer id [0, 0, 0, 0])
        else refuse id)
      else s.deposit j c src vc epoch id off len false []
    | .write id _ _, none => refuse id
    | .read id _ _, none => refuse id
    | _, _ => s

/-- An answer has come over jetty `j`: it goes on to the requests that travelled under its number (R242, R255, R325, R398). -/
def takeAnswer (s : State) (j epoch id : Nat) (data : Option (List Byte)) (refused : Bool) : State :=
  let l := s.remote.filter fun r => r.via = id
  let s : State := { s with remote := s.remote.filter fun r => r.via ≠ id }
  match l.head? with
  | none => s
  | some r =>
    if ¬ s.fresh r.ctx epoch then s.count (ctxP r.ctx + 0xC4) 1
    else if refused then s.ctxFatal r.ctx 0x914
    else l.foldl (fun s r => s.answer (.port (.jetty j)) (.jetty j) r (data.getD [])) s

/-- A packet has arrived at its destination. -/
def takePacket (s : State) (j src vc epoch conv : Nat) : RemotePacket → State
  | .write id off data => s.admitForeign j src vc epoch conv (.write id off data)
  | .read id off len => s.admitForeign j src vc epoch conv (.read id off len)
  | .done id => s.takeAnswer j epoch id none false
  | .answer id data => s.takeAnswer j epoch id (some data) false
  | .refusal id => s.takeAnswer j epoch id none true

/-- A slot of a DATA flit for this member: with the slot before it, if that was the first of two, it is a packet. -/
def takeSlot (j src vc : Nat) (s : State) (slot : List Byte) : State :=
  let key := src * 8 + vc
  let parts := Tab.get [] (s.getLink j).parts key ++ [slot]
  match Config.packetOf (parts.map slotPart) with
  | some p => (s.modLink j fun x => { x with parts := Tab.put x.parts key [] }).takePacket j src vc (fieldAt slot 64 2) (fieldAt slot 66 2) p
  | none => s.modLink j fun x => { x with parts := Tab.put x.parts key (if parts.length < 2 then parts else []) }

/-- A DATA flit that has come in order is delivered, or its slots go through the block switch to the port by which they
are forwarded (R400, R406). The credit returns when the flit has been delivered or forwarded (R404). -/
def takeData (s : State) (j : Nat) (l : List Byte) : State :=
  let vc := fieldAt l 5 1 % 8
  let n := fieldAt l 5 1 / 8 % 4
  let dst := fieldAt l 8 1
  let src := fieldAt l 9 1
  let hops := fieldAt l 10 1
  let credited := s.modLink j fun x => { x with owed := Tab.put x.owed vc (Tab.get 0 x.owed vc + 1) }
  let slots := (List.range n).map fun i => (l.drop (16 + 72 * i)).take 72
  if dst = s.member then slots.foldl (takeSlot j src vc) credited
  else if hops = 7 then (credited.raise (jettyP j) 0x504 (s.jettyInfo j 0 0)).count (convoyP + 0xC4) 1
  else match s.portTo dst with
    | none => (credited.raise (jettyP j) 0x504 (s.jettyInfo j 0 0)).count (convoyP + 0xC4) 1
    | some k =>
      if n = 0 then credited
      else (slots.zip (List.range n)).foldl (fun s b =>
        let o : OutSlot := ⟨dst, src, vc, hops + 1, b.1, s.clk.time, s.rcOf 0, some j, decide (b.2 + 1 = n)⟩
        s.inject (.slot o) (.jetty j) (.jetty k) vc) s

/-! The muster. -/

/-- The convoy context, for what a record says of it. -/
def musterCtx (s : State) : Option Nat := s.convoyCtx

/-- TIER_INDEX of a record: the largest index that R381 gives the convoy context's regions. -/
def musterTier (s : State) : Nat :=
  ((s.musterCtx.elim [] fun c => (s.getCtx c).regions).map fun r => s.regTier r + 4 * s.neap.toNat).foldl max 0

/-- FLOOR of a record. -/
def musterFloor (s : State) : Nat :=
  ((s.musterCtx.elim [] fun c => s.manifestsOf c).map floorOf).foldl min 7

/-- VOYAGE_DIGEST of a record: voyages in the order of their IDs. -/
def musterDigest (s : State) : List Byte :=
  let l := s.musterCtx.elim [] fun c => (s.getCtx c).voyages
  sha384 ((List.range 64).flatMap fun v =>
    match l.find? fun e => e.1 = v with
    | some e => sha384 (e.2.legs.flatMap fun m => (m.drop 40).take 48)
    | none => [])

/-- SET_DIGEST as the registers hold it. -/
def setDigest (s : State) : List Byte := (List.range 12).flatMap fun i => leBytes 4 (s.rd (convoyP + 0x80 + 4 * i)).toNat

/-- This member's record (R413). -/
def musterRecord (s : State) (rate : Int) (leave : Bool) : List Byte :=
  let running := (List.range 16).any fun c => s.ctxState c = 2
  let convoy : Bool := s.musterCtx.elim false fun c => s.ctxState c = 2
  let l := leBytes 4 0x554D584A ++ [1] ++ leBytes 1 s.member ++ leBytes 1 (s.members - 1)
    ++ leBytes 1 (running.toNat + 2 * convoy.toNat + 4 * leave.toNat) ++ leBytes 8 (deviceKey s.build)
    ++ leBytes 4 (s.rd (identP + 0x54)).toNat ++ leBytes 4 (s.rd (identP + 0x58)).toNat
    ++ leBytes 4 (s.rd (convoyP + 0x44)).toNat ++ leBytes 8 s.clk.tide ++ leBytes 4 (BitVec.ofInt 32 rate).toNat
    ++ leBytes 1 s.musterTier ++ leBytes 1 s.musterFloor ++ leBytes 2 0 ++ s.musterDigest ++ s.setDigest
    ++ List.replicate 48 0
  l ++ leBytes 4 (crc32c l)

/-- A record goes out of every UP port but one (R414). -/
def flood (s : State) (rec : List Byte) (but : Option Nat) : State :=
  s.portsUp.foldl (fun s j => if but = some j then s else s.sendControl j 4 rec) s

/-- CONVOY_STATUS STATE, with its event. -/
def setConvoy (s : State) (st : Nat) : State := (s.wrField (convoyP + oSTATUS) 31 29 st).event convoyP 0

/-- A record heard (R414, R416): a LEAVE loses its member; one not seen before is kept and forwarded. -/
def takeRecord (s : State) (j : Nat) (rec : List Byte) : State :=
  if ¬ recOk rec ∨ s.convoy.records.any (fun e => e.1 = rec) then s
  else if recLeave rec then
    let s := s.modConvoy fun c => { c with records := c.records ++ [(rec, s.clk.tide)] }
    (s.loseMember (recMember rec)).flood rec (some j)
  else (s.modConvoy fun c => { c with records := c.records ++ [(rec, s.clk.tide)] }).flood rec (some j)

/-- MUSTER (R414): the member's own record is kept and flooded. -/
def musterStart (s : State) (rate : Int) : State :=
  let mine := s.musterRecord rate false
  let s := (s.setConvoy 1).wrField (convoyP + oSTATUS) 28 25 0
  let s := s.modConvoy fun c =>
    { c with records := c.records.filter (fun e => !recLeave e.1) ++ [(mine, s.clk.tide)], musterAt := s.clk.time, rate := rate,
             excluded := [], step := none, cap := none, forming := none }
  s.flood mine none

/-- LEAVE (R412, R418): a record with LEAVE set, and STATE LEFT. -/
def leaveConvoy (s : State) : State := (s.flood (s.musterRecord s.convoy.rate true) none).setConvoy 4

/-- A write of CONVOY_CTRL (R414, R418). -/
def wrConvoy (rate : Int) (v : Word) (s : State) : Option State :=
  let st := fieldOf (s.rd (convoyP + oSTATUS)) 31 29
  if ¬ bitOf v 0 ∧ ¬ bitOf v 1 then some s
  else if st = 1 ∧ ¬ bitOf v 1 then none
  else if bitOf v 1 then some s.leaveConvoy
  else if s.convoyCtx.isNone then none
  else some (s.musterStart rate)

/-- The offset of a record's tide from this member's, as heard. -/
def tideAhead (e : List Byte × Nat) : Int := (fieldAt e.1 28 8 : Int) - e.2

/-- A refusal (R415): RESULT, the member in disagreement, 0x610. -/
def musterRefuse (s : State) (result m : Nat) : State :=
  let s := (s.wrField (convoyP + oSTATUS) 28 25 result).wrField (convoyP + oSTATUS) 7 0 m
  let s := s.modConvoy fun c => { c with records := [] }
  (s.raise convoyP 0x610).setConvoy 3

/-- The first record that differs from the first in a field. -/
def differs (l : List (List Byte × Nat)) (f : List Byte → List Byte) : Option Nat :=
  match l with
  | [] => none
  | e :: l => (l.find? fun x => f x.1 ≠ f e.1).map fun x => recMember x.1

/-- The records in the order of their members. -/
def byMember (l : List (List Byte × Nat)) : List (List Byte × Nat) :=
  (List.range 256).flatMap fun m => l.filter fun e => recMember e.1 = m

/-- T_c of R414, from this member's tide. -/
def convoyTide (l : List (List Byte × Nat)) : Int :=
  let run := l.filter fun e => recRunning e.1
  let t := (if run.isEmpty then l else run).map tideAhead
  t.foldl max (t.headD 0)

/-- Rule 6 of R415: the member that does not fit the convoy's tide. -/
def tideMisfit (l : List (List Byte × Nat)) : Option Nat :=
  let tc := convoyTide l
  (l.find? fun e => decide (tc + 8 < tideAhead e) || (recRunning e.1 && decide (tideAhead e + 8 < tc))).map fun e => recMember e.1

/-- The tide master (R409): the fastest rate, ties to the lower member. -/
def masterOf (l : List (List Byte × Nat)) : Option (List Byte) :=
  l.foldl (fun (a : Option (List Byte)) e => match a with
    | none => some e.1
    | some b => if recRate b < recRate e.1 then some e.1 else a) none

/-- What a muster that succeeds leaves, once the step and the cap have been made (R414). -/
def formConvoy (s : State) : State :=
  match s.convoy.forming with
  | some epoch =>
    if s.convoy.step.isSome ∨ s.convoy.cap.isSome then s
    else
      let s := s.modConvoy fun c => { c with forming := none, lost := [], skewSince := none }
      (((s.wr (convoyP + 0x44) (word epoch)).wrField (convoyP + oSTATUS) 28 25 1).setConvoy 2)
  | none => s

/-- Rules 8 and 9 of R415 and the success of the muster (R414). -/
def musterAccept (s : State) (l : List (List Byte × Nat)) : State :=
  let tiers := l.map fun e => fieldAt e.1 40 1
  let epochs := l.map fun e => fieldAt e.1 24 4
  let top := epochs.foldl max 0
  let cap := if tiers.all fun t => t = tiers.headD 0 then 0 else tiers.foldl max 0
  let tc := convoyTide l
  let running := (List.range 16).any fun c => s.ctxState c = 2
  let master := masterOf l
  let trim := match master, l.find? fun e => recMember e.1 = s.member with
    | some m, some e => max 0 (min 50000 (recRate m - recRate e.1))
    | _, _ => 0
  let mine : Nat := (s.rd (convoyP + 0x44)).toNat
  let s : State := match s.convoyCtx with
    | some c =>
      let st := s.ctxState c
      if mine < top ∧ ¬ (st = 0 ∨ st = 1 ∨ ¬ (s.getCtx c).started) then
        (s.loseCtx c 0).orBits (convoyP + oSTATUS) 0x01000000
      else s
    | none => s
  let s := s.wrField (convoyP + oSTATUS) 23 16 (master.elim 0 recMember)
  let s := s.wr (convoyP + 0x64) (word trim.toNat)
  let s := s.modConvoy fun c =>
    { c with records := [], forming := some (top + 1),
             floor := (l.map fun e => fieldAt e.1 41 1).foldl min 7,
             cap := if cap = fieldOf (s.rd (convoyP + oSTATUS)) 11 8 then none else some (cap, turnAfter s.clk.tide),
             step := if 8 < tc ∧ ¬ running then some tc.toNat else none }
  s.formConvoy

/-- The rules of the muster, 5 ms after it (R415). -/
def musterDecide (s : State) : State :=
  if fieldOf (s.rd (convoyP + oSTATUS)) 31 29 ≠ 1 ∨ s.convoy.forming.isSome ∨ ¬ atLeastNs 5000000 (s.clk.time - s.convoy.musterAt)
  then s
  else
    let l := byMember (s.convoy.records.filter fun e => !recLeave e.1 && !s.convoy.excluded.contains (recMember e.1))
    let want := (List.range s.members).filter fun m => !s.convoy.excluded.contains m
    let missing := want.find? fun m => ¬ (l.any fun e => recMember e.1 = m)
    let twice := l.find? fun e => 1 < (l.filter fun x => recMember x.1 = recMember e.1).length
    let alien := l.find? fun e => !want.contains (recMember e.1)
    let digests := sha384 (l.flatMap fun e => (e.1.drop 44).take 48)
    let setOf := fun (r : List Byte) => (r.drop 92).take 48
    match missing, differs l (fun r => (r.drop 6).take 1), twice, alien with
    | some m, _, _, _ => s.musterRefuse 9 m
    | _, some m, _, _ => s.musterRefuse 9 m
    | _, _, some e, _ => s.musterRefuse 9 (recMember e.1)
    | _, _, _, some e => s.musterRefuse 9 (recMember e.1)
    | none, none, none, none =>
      match differs l (fun r => (r.drop 8).take 8), differs l (fun r => (r.drop 16).take 8), differs l setOf with
      | some m, _, _ => s.musterRefuse 2 m
      | _, some m, _ => s.musterRefuse 3 m
      | _, _, some m => s.musterRefuse 4 m
      | none, none, none =>
        if (l.map fun e => setOf e.1).headD [] ≠ digests then s.musterRefuse 4 ((l.map fun e => recMember e.1).headD 0)
        else match l.find? fun e => recConvoyRunning e.1 with
        | some e => s.musterRefuse 8 (recMember e.1)
        | none =>
          match tideMisfit l with
          | some m =>
            if m = s.member then s.musterRefuse 6 m
            else
              let s := s.wrField (convoyP + oSTATUS) 7 0 m
              let mine := s.musterRecord s.convoy.rate false
              let s := s.modConvoy fun c =>
                { c with excluded := c.excluded ++ [m], records := [(mine, s.clk.tide)], musterAt := s.clk.time }
              s.flood mine none
          | none =>
            let floor := (l.map fun e => fieldAt e.1 41 1).foldl min 7
            match l.find? fun e => decide (floor < fieldAt e.1 40 1) with
            | some e => s.musterRefuse 7 (recMember e.1)
            | none => s.musterAccept l

/-- A tier cap reaches its turn (R414, R415): the convoy regions run at it. -/
def capApply (s : State) : State :=
  match s.convoy.cap with
  | some (n, t) =>
    if s.clk.tide < t then s
    else
      let s := (s.wrField (convoyP + oSTATUS) 11 8 n).modConvoy fun c => { c with cap := none }
      ((s.convoyCtx.elim [] fun c => (s.getCtx c).regions).foldl (fun s r => s.applyClock r) s).formConvoy
  | none => s

/-- The tide after a forward step: it moves at a turn, by the step that is due (R414). -/
def forwardTide (s : State) : Nat :=
  match s.convoy.step with
  | none => s.clk.tide
  | some n => if s.clk.running && s.clk.tide % 1024 = 0 then s.clk.tide + n else s.clk.tide

/-- The forward step (R414, R420): at a turn the tide takes the convoy's value, the regions' tide units are reloaded, and
commits in between apply as late ones. -/
def forwardStep (s : State) : State :=
  match s.convoy.step with
  | none => s
  | some n =>
    if ¬ (s.clk.running ∧ s.clk.tide % 1024 = 0) then s
    else
      let s : State := { s with clk := { s.clk with tide := s.clk.tide + n } }
      let s := s.modConvoy fun c => { c with step := none }
      let s := (List.range s.build.regions).foldl (fun s r => if (s.getRegion r).clockOn then s.loadTide r else s) s
      let late := s.groups.filter fun g => decide (g.stamp ≤ s.clk.tide)
      let s := late.foldl (fun s g =>
        let s := g.members.foldl (fun s m => (s.orBits (m.page + oCOMMIT) 0x10).raise m.page 0x804) s
        s.commitApply g.stamp) s
      s.formConvoy

/-! The convoy's tide. -/

/-- The ports of the sync tree that lead away from the master (R410): the primary ports of other members. -/
def syncPorts (s : State) (but : Option Nat) : List Nat :=
  s.portsUp.filter fun j => but ≠ some j && (List.range s.members).any fun m =>
    let v := Tab.get 0 s.convoy.routes m
    m ≠ s.member && bitOf v 4 && fieldOf v 3 0 = j

/-- The tier cap that TIDE_SYNC carries: the one in force or the one that comes at the next turn (R415). -/
def capAhead (s : State) : Nat := s.convoy.cap.elim (fieldOf (s.rd (convoyP + oSTATUS)) 11 8) fun e => e.1

/-- A TIDE_SYNC goes down the tree (R410). -/
def sendSync (s : State) (but : Option Nat) : State :=
  let master := fieldOf (s.rd (convoyP + oSTATUS)) 23 16
  (s.syncPorts but).foldl (fun s j =>
    s.sendControl j 3 (leBytes 8 s.clk.tide ++ leBytes 1 master ++ leBytes 4 (Config.linkDelay s.clk.time)
      ++ Config.capBytes s.capAhead)) s

/-- The master sends TIDE_SYNC every 1,024 tt (R410). -/
def tideSync (s : State) : State :=
  let v := s.rd (convoyP + oSTATUS)
  if fieldOf v 31 29 = 2 ∧ fieldOf v 23 16 = s.member ∧ s.clk.tide % 1024 = 0 then s.sendSync none else s

/-- A TIDE_SYNC is heard: it goes on down the tree, and a higher tier cap is taken over at the next turn (R410, R415). -/
def takeSync (s : State) (j : Nat) (l : List Byte) : State :=
  let v := s.rd (convoyP + oSTATUS)
  if fieldOf v 31 29 ≠ 2 ∨ fieldOf v 23 16 = s.member then s
  else
    let cap := Config.syncCap ((l.drop 16).take 192)
    let s := if fieldOf v 11 8 < cap then s.modConvoy fun c => { c with cap := some (cap % 16, turnAfter s.clk.tide) } else s
    s.sendSync (some j)

/-- The measured lag of this member (R410, R412): outside 0 to 8 tt for 1,024 tt it leaves. -/
def tideSkew (s : State) (lag : Int) : State :=
  let v := s.rd (convoyP + oSTATUS)
  let s := s.wr (convoyP + 0x60) (BitVec.ofInt 32 lag)
  if fieldOf v 31 29 ≠ 2 ∨ fieldOf v 23 16 = s.member ∨ (0 ≤ lag ∧ lag ≤ 80) then
    s.modConvoy fun c => { c with skewSince := none }
  else match s.convoy.skewSince with
    | none => s.modConvoy fun c => { c with skewSince := some s.clk.tide }
    | some t =>
      if s.clk.tide < t + 1024 then s
      else
        let s := (s.raise convoyP 0x505).event convoyP 2
        let s : State := match s.convoyCtx with
          | some c => s.loseCtx c 0x505
          | none => s
        (s.leaveConvoy).attn

/-! Receiving. -/

/-- The first rule of R399 that a flit with a correct FCRC breaks, as DETAIL of 0x503 (R405, R419). -/
def flitDetail (s : State) (j : Nat) (l : List Byte) : Option Nat :=
  let x := s.getLink j
  let credit := fieldAt l 6 2
  if 5 < fieldAt l 4 1 then some 0
  else if 31 < fieldAt l 5 1 ∨ 7 < fieldAt l 10 1 ∨ ¬ zeroAt l 11 5 ∨ ¬ zeroAt l 232 16 then some 4
  else if fieldAt l 4 1 = 0 ∧ s.members ≤ fieldAt l 8 1 then some 3
  else if Tab.get 0 x.spent (credit / 2 ^ 13) < credit % 2 ^ 13 then some 5
  else none

/-- A bad or an early flit: it is discarded and a NAK asks for the expected one, once (R401). -/
def askAgain (s : State) (j detail : Nat) : State :=
  let x := s.getLink j
  let s := s.raise (jettyP j) 0x107 (s.jettyInfo j detail x.rx) none 1
  if x.deaf then s else (s.setLink j { x with deaf := true }).sendControl j 2 []

/-- A flit that R399 allows is taken by its TYPE. -/
def takeFlit (s : State) (j : Nat) (l : List Byte) : State :=
  let credit := fieldAt l 6 2
  let vc := credit / 2 ^ 13
  let s := s.takeAck j (fieldAt l 2 2)
  let s := s.modLink j fun x => { x with spent := Tab.put x.spent vc (Tab.get 0 x.spent vc - credit % 2 ^ 13) }
  let x := s.getLink j
  match fieldAt l 4 1 with
  | 0 =>
    let s := s.setLink j { x with unacked := x.unacked + 1, unackedAt := if x.unacked = 0 then s.clk.time else x.unackedAt }
    let d := seqBehind (fieldAt l 0 2) x.rx
    if d = 0 then (s.modLink j fun x => { x with rx := (x.rx + 1) % 2 ^ 16, deaf := false }).takeData j l
    else if d ≤ 32768 then s.count (jettyP j + 0x8C) 1
    else if x.deaf then s
    else s.askAgain j 1
  | 2 => s.rewind j
  | 3 => s.takeSync j l
  | 4 => s.takeRecord j ((l.drop 16).take 192)
  | _ => s

/-- RESTART ends: SEQ and credits start again, the port is UP (R416, R419). -/
def linkFresh (s : State) (j : Nat) : State :=
  let x := s.getLink j
  let s := s.setLink j { up := x.up, heardAt := s.clk.time, sentAt := s.clk.time, out := x.out }
  ((s.wrField (jettyP j + oCTRL) 1 1 0).setLinkState j 1)

/-- The peer heard on a port (R419): the sender of a flit that has not been forwarded. -/
def notePeer (s : State) (j : Nat) (l : List Byte) : State :=
  if fieldAt l 10 1 = 0 then
    s.wr (jettyP j + oSTATUS) (setBit (setField (s.rd (jettyP j + oSTATUS)) 7 0 (fieldAt l 9 1)) 29 true)
  else s

/-- A flit arrives on a port (R401, R403, R405, R416, R435, R436). -/
def flitRx (s : State) (j : Nat) (l : List Byte) : State :=
  let st := s.linkState j
  let restart : Bool := flitGood l && fieldAt l 4 1 = 5
  if st = 2 then s
  else if st = 0 ∧ ¬ (bitOf (s.rd (jettyP j + oCTRL)) 0 ∧ (s.getLink j).up) then s
  else
    let s := s.count (jettyP j + 0x84) 1
    if ¬ flitGood l then
      let s := s.count (jettyP j + 0x90) 1
      if st = 1 then s.askAgain j 0 else s
    else if st = 3 then (if restart then (s.linkFresh j).notePeer j l else s)
    else
      let s := (if st = 0 then s.linkFresh j else s)
      let s := s.modLink j fun x => { x with heardAt := s.clk.time }
      match s.flitDetail j l with
      | some d => s.jettyFault j 0x503 d (s.getLink j).rx
      | none => (s.notePeer j l).takeFlit j l

/-! The clocks of a port. -/

/-- A NAK: the flits before the expected one have come, the rest is sent again (R401, R420). -/
def takeNak (s : State) (j expected : Nat) : State :=
  if s.linkState j ≠ 1 then s else (s.takeAck j (expected + 65535)).rewind j

/-- The oldest flit has waited 256 ns without progress of ACK (R401). -/
def replayTimeout (s : State) (j : Nat) : State :=
  if s.linkState j = 1 ∧ atLeastNs 256 (s.clk.time - (s.getLink j).ackAt) then s.rewind j else s

/-- A flit is not acknowledged within RETRY_BOUND of its first transmission (R402). -/
def jettyRetry (s : State) (j : Nat) : State :=
  match (s.getLink j).buf.head? with
  | none => s
  | some b =>
    if s.linkState j = 1 ∧ atLeastNs (125 * fieldOf (s.rd (jettyP j + 0x40)) 7 0) (s.clk.time - b.2.2) then
      s.jettyFault j 0x502 0 b.1
    else s

/-- A port that has sent nothing for 256 ns sends an IDLE flit, or repeats RESTART (R403, R416, R436). -/
def keepalive (s : State) (j : Nat) : State :=
  let st := s.linkState j
  if ¬ atLeastNs 256 (s.clk.time - (s.getLink j).sentAt) then s
  else if st = 1 ∨ (st = 0 ∧ bitOf (s.rd (jettyP j + oCTRL)) 0 ∧ (s.getLink j).up) then s.sendControl j 1 []
  else if st = 3 then s.sendControl j 5 []
  else s

/-- No good flit for 1.0 µs (R403). -/
def jettySilent (s : State) (j : Nat) : State :=
  if s.linkState j = 1 ∧ atLeastNs 1000 (s.clk.time - (s.getLink j).heardAt) then s.jettyFault j 0x501 0 0 else s

/-- IDLE to carry ACK after 32 flits or 32 ns (R401). -/
def idleForAck (s : State) (j : Nat) : State :=
  let x := s.getLink j
  if s.linkState j = 1 ∧ x.unacked ≠ 0 ∧ (32 ≤ x.unacked ∨ atLeastNs 32 (s.clk.time - x.unackedAt)) then s.sendControl j 1 [] else s

/-- A write of JETTY_CTRL (R416, R419, R436). -/
def wrJetty (j : Nat) (v : Word) (s : State) : Option State :=
  let s := s.wrField (jettyP j + oCTRL) 0 0 (fieldOf v 0 0)
  let s := if bitOf v 0 ∧ s.linkState j = 0 ∧ (s.getLink j).up then s.sendControl j 1 [] else s
  some (
    if bitOf v 1 ∧ s.linkState j = 2 then
      let s := ((s.wrField (jettyP j + oCTRL) 1 1 1).setLinkState j 3).modLink j fun x =>
        { x with tx := 0, rx := 0, restartAt := s.clk.time }
      s.sendControl j 5 []
    else s)

/-- RESTART has not led to UP within 1 ms (R419). -/
def restartExpiry (s : State) (j : Nat) : State :=
  if s.linkState j = 3 ∧ atLeastNs 1000000 (s.clk.time - (s.getLink j).restartAt) then
    (s.wrField (jettyP j + oCTRL) 1 1 0).setLinkState j 2
  else s

/-- LINK_UP rises (R436). -/
def linkUp (s : State) (j : Nat) : State :=
  let s := s.modLink j fun x => { x with up := true }
  if s.awake ∧ s.linkState j = 0 ∧ bitOf (s.rd (jettyP j + oCTRL)) 0 then s.sendControl j 1 [] else s

/-- The detour fence of a destination ends (R407): the slots that waited count in DETOUR_WAIT. -/
def fenceEnd (s : State) (dst : Nat) : State :=
  match s.convoy.fences.find? fun f => f.1 = dst with
  | none => s
  | some (_, start, len) =>
    if s.clk.time < start + len then s
    else
      let waited := (s.convoy.outbox.filter fun o => o.dst = dst && o.src = s.member).map fun o => s.rcOf 0 - o.rc
      let s := s.count (convoyP + 0xC8) waited.sum
      s.modConvoy fun c =>
        { c with fences := Tab.del c.fences dst, port := (s.portTo dst).elim c.port fun j => Tab.put c.port dst j }

/-- An addition of the bollard window applies once every earlier write of its source has been acknowledged here (R408). -/
def windowAdd (s : State) : State :=
  match s.convoy.adds with
  | [] => s
  | a :: rest =>
    if s.quays.any fun q => decide (q.id < a.before) && q.reqs.any fun r => r.core = foreign && r.store && r.member = some a.src && r.slot = a.vc then s
    else
      let s := s.modConvoy fun c => { c with adds := rest }
      let s : State := { s with bbolIn := s.bbolIn ++ [⟨a.bol, false, a.amount, false, 0, 0xFFF, []⟩] }
      s.answerTo a.src a.vc a.epoch (.done a.id)

end State

/-- MUSTER (R414). -/
def execMuster (party : Party) (rate : Int) (s : State) : Out :=
  act (fun s => s.write party (convoyP + oCTRL) (State.wrConvoy rate 1)) s

/-- LEAVE (R418). -/
def execLeave (party : Party) (s : State) : Out :=
  act (fun s => s.write party (convoyP + oCTRL) (State.wrConvoy 0 2)) s

/-- The rules of the muster are applied (R415). -/
def execMusterDecide (s : State) : Out := act (fun s => s.musterDecide.capApply) s

/-- The forward step (R414). -/
def execTideForwardStep (s : State) : Out := 
  actClk (fun s => { s.clk with tide := if s.awake then s.forwardTide else s.clk.tide }) (when s.awake State.forwardStep) s

/-- A flit arrives (R401). -/
def execHersilFlitRx (port : Nat) (flit : List Byte) (s : State) : Out :=
  actAt (port < s.build.jetties) (fun s => (s.flitRx port flit).pump) s

/-- A NAK arrives (R401). -/
def execNak (port : Nat) (expected : BitVec 16) (s : State) : Out :=
  actAt (port < s.build.jetties) (fun s => s.takeNak port expected.toNat) s

/-- 256 ns without progress (R401). -/
def execReplayTimeout (port : Nat) (s : State) : Out :=
  actAt (port < s.build.jetties) (fun s => s.replayTimeout port) s

/-- RETRY_BOUND (R402). -/
def execJettyRetry (port : Nat) (s : State) : Out := actAt (port < s.build.jetties) (fun s => s.jettyRetry port) s

/-- A keepalive is due (R403). -/
def execKeepalive (port : Nat) (s : State) : Out := actAt (port < s.build.jetties) (fun s => s.keepalive port) s

/-- The peer is silent (R403). -/
def execJettyDark (port : Nat) (s : State) : Out := actAt (port < s.build.jetties) (fun s => s.jettySilent port) s

/-- A write of JETTY_CTRL (R416). -/
def execRestart (party : Party) (port : Nat) (value : Word) (s : State) : Out :=
  actAt (port < 16) (fun s => s.write party (jettyP port + oCTRL) (State.wrJetty port (setField value 1 1 1))) s

/-- A fence ends (R407). -/
def execDetourFenceEnd (member : Nat) (s : State) : Out := act (fun s => (s.fenceEnd member).pump) s

/-- An addition of the bollard window (R408). -/
def execBollardWindowAdd (s : State) : Out := act State.windowAdd s

/-- TIDE_SYNC (R410). -/
def execTideSync (s : State) : Out := act State.tideSync s

/-- The measured lag (R412). -/
def execTideSkew (lagTenths : Int) (s : State) : Out := act (fun s => s.tideSkew lagTenths) s

/-- LINK_UP rises (R436). -/
def execLinkUp (port : Nat) (s : State) : Out :=
  actRawAt (port < s.build.jetties) (fun s => s.linkUp port) s

/-- IDLE to carry ACK (R401). -/
def execIdleForAck (port : Nat) (s : State) : Out := actAt (port < s.build.jetties) (fun s => s.idleForAck port) s

/-- RESTART expires (R419). -/
def execRestartExpiry (port : Nat) (s : State) : Out :=
  actAt (port < s.build.jetties) (fun s => s.restartExpiry port) s

end Sys2Proof.Machine
end

