-- ==== Sys2Proof/Machine/Capture.lean ====
section
/-! DEFINITION. The capture of a region: arming, the freeze, and the release (R467, R479 to R485, R490). -/

namespace Sys2Proof.Machine

namespace State

/-- CAP_STATUS STATE (R467). -/
def capState (s : State) : Nat := fieldOf (s.rd (captureP + oSTATUS)) 31 29

/-- CAP_STATUS with a new STATE and RESULT. -/
def setCap (s : State) (st result : Nat) : State :=
  (s.wrField (captureP + oSTATUS) 31 29 st).wrField (captureP + oSTATUS) 28 26 result

/-- A pending commit group changes a page of the region, or POWER (R479). -/
def commitPends (s : State) (r : Nat) : Bool :=
  s.groups.any fun g => g.members.any fun m =>
    s.pageRegion m.page = some r || ((pageOf m.page).1 = 3 && bitOf (m.vals.headD (0, 0)).2 0 ≠ s.neap)

/-- The Pilot takes an ARM for a region at CAP_TIDE (R479). -/
def capAccepts (s : State) (r stamp : Nat) : Bool :=
  s.capState = 0 && decide (r < s.build.regions) && s.power r = 2 && decide (s.clk.tide + commitLead ≤ stamp)
    && (s.holders r).all (fun c => !(s.getCtx c).paired || s.pairState c = 1)
    && !s.loading r && !s.handing && !s.commitPends r

/-- ARM (R479): ARMED, or RESULT 2. -/
def capArm (s : State) (r : Nat) : State :=
  let stamp := s.rd64 (captureP + 0x40)
  if s.capAccepts r stamp then
    ({ s with capStamp := stamp }.setCap 1 0).wrField (captureP + oSTATUS) 11 8 r
  else s.wrField (captureP + oSTATUS) 28 26 2

/-- CANCEL (R480): at least COMMIT_LEAD before the stamp; later ones are ignored. -/
def capCancel (s : State) : State :=
  if s.capState = 1 ∧ s.clk.tide + commitLead ≤ s.capStamp then s.setCap 0 3 else s

/-- A write of CAP_CTRL (R467, R479, R480, R485): REGION is kept, CMD acts and reads 0. -/
def wrCap (v : Word) (s : State) : Option State :=
  let keep := fun (s : State) => s.wr (captureP + oCTRL) (v &&& 0xF00)
  match fieldOf v 1 0 with
  | 1 => some ((keep s).capArm (fieldOf v 11 8))
  | 2 => if s.capState = 2 then some ((keep s).wrField (captureP + oSTATUS) 31 29 3) else none
  | 3 => some (keep s).capCancel
  | _ => some (keep s)

/-- Context fault 0x915 of a context that holds the captured region (R483). -/
def captureStop (s : State) (r c : Nat) : State :=
  let out := s.regionFaultOutcome r c
  let s := s.raise (ctxP c) 0x915 (word r) (some c) out
  if out = 4 then s.loseCtx c 0x915
  else if out = 2 then
    s.modCtx c fun y => { y with detach := some (y.detach.getD (r % 2, s.clk.tide)), lostBy := 0x915 }
  else s

/-- The freeze (R481, R483): at the first edge of the region's clock that has reached the stamp. -/
def capFreeze (s : State) : State :=
  let r := fieldOf (s.rd (captureP + oSTATUS)) 11 8
  if s.capState ≠ 1 ∨ s.localTide r < s.capStamp ∨ ¬ s.clocked r then s
  else
    let s := s.modRegion r fun x => { x with frozen := true }
    let s := (s.setCap 2 1).event captureP 0
    (s.holders r).foldl (fun s c => s.captureStop r c) s

/-- Registers of a region's CORE and BASIN pages that a release brings to their reset values: the header is kept, and so
are the settings of the berths, ways and planes (R481, R485). -/
def capResets (b : Build) (r a : Nat) : Bool :=
  let pg := pageOf a
  let o := a % 0x1000
  (pg.1 = 0x30 && b.regionOf pg.2 = r && (decide (0x050 ≤ o) && decide (o < 0x800)))
    || (pg.1 = 0x21 && pg.2 = r && (o = oCTRL || o = oSTATUS || (decide (0x044 ≤ o) && decide (o < 0x800))))

/-- The flip-flops of a core at a release (R485): those of the Wharf slice take their INIT values, the others reset values. -/
def releaseCore (x : Core) : Core :=
  { idleCore x with flops := initFlops (if x.activeB then x.planeB else x.planeA).frames }

/-- The end of a release (R485): flip-flops take their reset values, those of the routers among them, the clock restarts, the
tide unit takes over the tide, salvage completes; berths, chart memory and Basin data stay. -/
def capReleased (s : State) : State :=
  if s.capState ≠ 3 then s
  else
    let r := fieldOf (s.rd (captureP + oSTATUS)) 11 8
    let cores := (List.range s.build.stride).map fun l => r * s.build.stride + l
    let s : State := { s with reg := s.reg.filter fun e => !capResets s.build r e.1 }
    let s := cores.foldl (fun s k => s.modCore k releaseCore) s
    let s := (s.salvage cores).clearNet r
    let s : State := { s with quays := s.quays.map fun (q : QReq) => if q.region = r then { q with alloc := false, pin := false } else q }
    let s := (s.modRegion r fun x => { x with frozen := false, requests := [], fills := [] }).loadTide r
    (s.wrField (captureP + oSTATUS) 31 29 0).event captureP 1

end State

/-- CMD ARM in CAP_CTRL (R479); of the value only REGION is used. -/
def execCaptureArm (party : Party) (value : Word) (s : State) : Out :=
  act (fun s => s.write party (captureP + oCTRL) (State.wrCap ((value &&& 0xFFFFFFFC) ||| 1))) s

/-- CMD CANCEL (R480). -/
def execCaptureCancel (party : Party) (value : Word) (s : State) : Out :=
  act (fun s => s.write party (captureP + oCTRL) (State.wrCap ((value &&& 0xFFFFFFFC) ||| 3))) s

/-- The freeze (R481). -/
def execCaptureFreeze (s : State) : Out := act State.capFreeze s

/-- CMD RELEASE (R485). -/
def execCaptureRelease (party : Party) (value : Word) (s : State) : Out :=
  act (fun s => s.write party (captureP + oCTRL) (State.wrCap ((value &&& 0xFFFFFFFC) ||| 2))) s

/-- The end of a release (R485). -/
def execCaptureReleased (s : State) : Out := act State.capReleased s

end Sys2Proof.Machine
end

