-- ==== Sys2Proof/Machine/Registers.lean ====
section
/-! DEFINITION. What every register of the window reads as and what a write of it does (R449 to R478), the fault log
(R358), pairs of words (R454), and the commands that access the window. -/

namespace Sys2Proof.Machine

/-- The EVENT bits that a page has (R358, R462). -/
def eventBits (code : Nat) : Word :=
  match code with
  | 0x06 => 0x3F
  | 0x07 | 0x41 => 0xC0000001
  | 0x01 | 0x08 | 0x09 | 0x11 | 0x20 | 0x22 | 0x40 => 0xC0000003
  | 0x0A | 0x21 | 0x30 => 0xC0000007
  | 0x10 => 0xC000001F
  | _ => 0xC0000000

/-- The _LO registers of the window, by page code (R451, R464 to R474); each has its _HI 4 bytes above. -/
def isLo (code o : Nat) : Bool :=
  if o = oCTIDE then pageShadow code
  else match code with
  | 0x01 | 0x07 | 0x22 => o = 0x040 || o = 0x048
  | 0x02 => o = 0x044
  | 0x04 | 0x09 => o = 0x040
  | 0x06 => o = 0x068
  | 0x0A => o = 0x048 || o = 0x050
  | 0x10 => [0x050, 0x058, 0x070, 0x078, 0x080, 0x088, 0x0B4].contains o
  | 0x11 => [0x058, 0x060, 0x068].contains o
  | 0x21 => o = 0x044
  | 0x30 => [0x064, 0x06C, 0x074, 0x084, 0x0B0].contains o || (decide (0x180 ≤ o) && decide (o < 0x1C0) && o % 8 = 0)
  | _ => false

/-- The _HI registers. -/
def isHi (code o : Nat) : Bool := decide (4 ≤ o) && isLo code (o - 4)

/-- A register that no party changes by a write: read-only, with no field that a 1 clears, and no counter (R456). -/
def writeIgnored (code o : Nat) : Bool :=
  regKind code o = .ro && o ≠ oFCODE && !([0x01, 0x07, 0x0A].contains code && o = oSTATUS)
    && !([0x03, 0x20, 0x21].contains code && o = 0x040) && !(code = 0x22 && inWords o 0x050 0x058)

/-- STREAM_STATE of a slot (R158). -/
def streamState (x : Stream) : Nat :=
  (if x.halted then 2 ^ 63 else 0) + x.cause % 4 * 2 ^ 61 + (if x.idxHalt then 2 else x.req % 4) * 2 ^ 59
    + x.desc % 2 ^ 7 * 2 ^ 50 + x.plane % 2 ^ 24 * 2 ^ 26 + x.row % 2 ^ 16 * 2 ^ 10 + x.line % 2 ^ 10

/-- State of a plane as WHARF_SLICE codes it (R282, R297). -/
def planeState (p : Plane) (active : Bool) : Nat := if p.state = 2 ∧ active then 3 else p.state

/-- WHARF_SLICE (R297). -/
def wharfSlice (x : Core) : Word :=
  let p : Plane := State.activePlane x
  word (x.activeB.toNat * 2 ^ 31 + planeState x.planeA (!x.activeB) * 2 ^ 29 + planeState x.planeB x.activeB * 2 ^ 27
    + Nat.log2 p.div % 4 * 2 ^ 25 + (if p.state = 2 then p.lat % 2 ^ 7 else 0) * 2 ^ 18)

/-- Word `i` of a pair or a wider value. -/
def wordOf (v i : Nat) : Word := word (v / 2 ^ (32 * i))

namespace State

/-! Computed registers. -/

/-- ENG_STATE (R224): IDLE without a stream, STOPPED and HELD as the core is, else the first condition of R167 that holds the
head. A stream whose queue is empty is BUSY (log 71). -/
def engState (s : State) (k e : Nat) : Word :=
  let x := s.getCore k
  let y := s.eng k e
  let is := fun (st low : Nat) => word (st * 2 ^ 29 + low + y.queue.length * 2 ^ 8)
  if ¬ y.live then 0
  else if x.state ≠ 1 then is 5 0
  else if x.held then is 4 0
  else match s.head? k e with
    | none => is 3 0
    | some h =>
      if ¬ s.stampMet k h then is 1 0
      else match s.unmet k e h with
        | some (.wait w) => is 2 ((bitOf w 50).toNat * 2 ^ 28 + fieldOf w 49 38 * 2 ^ 16)
        | some (.fence _) => is 2 (0xFFF * 2 ^ 16)
        | none => is 3 0

/-- ENG_HEAD (R225). -/
def engHead (s : State) (k e : Nat) : Word :=
  match s.head? k e with
  | none => 0
  | some h => word (h.bundle.tag * 2 ^ 16 + h.bundle.line)

/-- STREAM_STATE of pair `i` of a core: load slots 0 to 3, then store slots (R158, R474). -/
def slotState (s : State) (k i : Nat) : Nat :=
  match s.streamAt k (decide (4 ≤ i)) (i % 4) with
  | some x => streamState x
  | none => 0

/-- The EVENT bits of a page that its EVENT_MASK enables (R463). -/
def pends (s : State) (page : Nat) : Bool := s.rd (page + oEVENT) &&& s.rd (page + oMASK) ≠ 0

/-- A summary: bit `i` of the word tells of place `i` (R463). -/
def summary (n : Nat) (f : Nat → Bool) : Word := word (((List.range n).map fun i => (f i).toNat * 2 ^ i).sum)

/-- A CORE page of a region has an enabled event. -/
def corePends (s : State) (r : Nat) : Bool :=
  (List.range s.build.stride).any fun l => s.pends (coreP (r * s.build.stride + l))

/-- EVT_BLOCK, EVT_CONTEXT, EVT_QUEUE_LO, EVT_QUEUE_HI, EVT_REGION, EVT_PORT (R463). -/
def evtWord (s : State) (i : Nat) : Word :=
  match i with
  | 0 => summary 11 fun n => n ≠ 0 && s.pends ((n - 1) * 0x1000)
  | 1 => summary 16 fun n => s.pends (ctxP n)
  | 2 => summary 32 fun n => s.pends (queueP n)
  | 3 => summary 32 fun n => s.pends (queueP (32 + n))
  | 4 => summary 32 fun n =>
      if n < 16 then s.pends (regionP n) || s.pends (basinP n) || s.pends (wharfP n)
      else decide (n - 16 < s.build.regions) && s.corePends (n - 16)
  | _ => summary 32 fun n => if n < 16 then s.pends (quayP n) else s.pends (jettyP (n - 16))

/-- A word of the log entry that a party's FLOG_SEL names (R358). -/
def flogWord (s : State) (p : Party) (i : Nat) : Word :=
  wordOf (Tab.get 0 s.flog ((s.sel p (faultP + 0x44)).toNat % 256)).toNat i

/-- TIDE_STATUS (R466). -/
def tideStatus (s : State) : Word :=
  let c := s.rd (convoyP + oSTATUS)
  let trimmed := fieldOf c 31 29 = 2 && fieldOf c 23 16 ≠ s.member
  word (s.clk.running.toNat * 2 ^ 31 + trimmed.toNat * 2 ^ 30)
    ||| summary 16 fun r => s.clk.running && s.power r = 2 && s.clocked r

/-- CONVOY_ROUTE of the destination that a party's ROUTE_SEL names (R418). -/
def routeWord (s : State) (p : Party) : Word :=
  let d := (s.sel p (convoyP + 0x58)).toNat
  setBit (Tab.get 0 s.convoy.routes d) 31 (s.portTo d).isSome

/-- The chart-memory word at a party's CHART_ADDR (R227). -/
def chartWord (s : State) (p : Party) (k : Nat) : Nat := leNat ((s.getCore k).chart.bytes (s.chartAddr p k) 8)

/-- What a CORE page register reads as. -/
def coreValue (s : State) (p : Party) (k o : Nat) : Word :=
  let x := s.getCore k
  if o = oSTATUS then s.coreStatus k
  else if o = 0x05C then wharfSlice x
  else if o = 0x060 then (State.activePlane x).id
  else if o = 0x074 then wordOf x.digest 0
  else if o = 0x078 then wordOf x.digest 1
  else if o = 0x080 ∨ o = 0x08C then s.sel p (coreP k + o)
  else if o = 0x084 then wordOf (s.chartWord p k) 0
  else if o = 0x088 then wordOf (s.chartWord p k) 1
  else if inWords o 0x0C0 0x0D4 then s.engState k ((o - 0x0C0) / 4)
  else if inWords o 0x0E0 0x0F4 then s.engHead k ((o - 0x0E0) / 4)
  else if inWords o 0x120 0x13C then word (s.ctr k ((o - 0x120) / 4))
  else if o = 0x140 then summary 4 fun i => s.cmpBit k i
  else if inWords o 0x180 0x1BC then wordOf (s.slotState k ((o - 0x180) / 8)) (o / 4 % 2)
  else s.rd (coreP k + o)

/-- What a register of the header reads as (R451 to R453, R459). -/
def headerValue (s : State) (code inst o : Nat) (page : Nat) : Word :=
  if o = 0x000 then word (code * 2 ^ 24 + inst * 2 ^ 12 + 1)
  else if o = 0x004 then word ((decide (0x10 ≤ code)).toNat * 4 + (decide (code = 1)).toNat * 2 + (pageShadow code).toNat)
  else if o = oACCESS then
    let v := s.rd (page + oACCESS)
    word (fieldOf v 31 18 * 2 ^ 18 + fieldOf v 15 8 * 2 ^ 8 + 0x30 + crewTag code * 4 + hostTag code)
  else if (o = oCOMMIT ∨ o = oCTIDE ∨ o = 0x030) ∧ ¬ pageShadow code then 0
  else s.rd (page + o)

/-- What a register of the window holds for a party, whatever the page answers. -/
def regValue (s : State) (p : Party) (a : Nat) : Word :=
  let pg := pageOf a
  let o := a % 0x1000
  let page := a / 0x1000 * 0x1000
  if regKind pg.1 o = .none_ then 0
  else if o < 0x034 ∧ o ≠ oCTRL ∧ o ≠ oSTATUS then s.headerValue pg.1 pg.2 o page
  else match pg.1 with
  | 0x02 =>
    if o = 0x040 then 0x302
    else if o = 0x044 ∨ o = 0x048 then wordOf (deviceKey s.build) ((o - 0x044) / 4)
    else if o = 0x04C then s.build.build0
    else if o = 0x050 then s.build.build1
    else if inWords o 0x060 0x06C then tieWord s.uniqueId ((o - 0x060) / 4)
    else if inWords o 0x080 0x0AC then tieWord s.rootKey ((o - 0x080) / 4)
    else s.rd a
  | 0x04 => if o = 0x048 then s.tideStatus else wordOf s.clk.tide ((o - 0x040) / 4)
  | 0x05 =>
    let r := (s.sel p (gaugeP + 0x40)).toNat
    if o = 0x040 then s.sel p (gaugeP + 0x40)
    else if o = 0x04C then word (170 * 2 ^ 24 + 150 * 2 ^ 16 + 20 * 2 ^ 8 + 40)
    else if o = 0x050 then word (20 * 2 ^ 8 + 24)
    else if s.build.regions ≤ r then 0
    else if o = 0x044 then (s.getRegion r).gauge
    else if o = 0x048 then (s.getRegion r).hits
    else word ((s.getRegion r).replicas.getD ((o - 0x060) / 4) 0).toNat
  | 0x06 =>
    if o = 0x044 then s.sel p (faultP + 0x44)
    else if inWords o 0x048 0x054 then s.flogWord p ((o - 0x048) / 4)
    else if inWords o 0x060 0x074 then s.evtWord ((o - 0x060) / 4)
    else s.rd a
  | 0x0A =>
    if o = 0x058 then s.sel p (convoyP + 0x58)
    else if o = 0x05C then s.routeWord p
    else s.rd a
  | 0x10 =>
    if o = 0x078 ∨ o = 0x07C then wordOf (s.sched pg.2) ((o - 0x078) / 4)
    else if o = 0x09C then s.sel p (ctxP pg.2 + 0x9C)
    else if o = 0x0A0 then
      match s.bbolIndex p pg.2 with
      | some b => word (s.bbolVal b)
      | none => 0
    else if o = 0x0A4 ∨ o = 0x0A8 then 0
    else s.rd a
  | 0x30 => s.coreValue p pg.2 o
  | _ => s.rd a

/-! Reads. -/

/-- A high word latched for a party. -/
def latch (s : State) (p : Party) (a : Nat) (v : Word) : State := { s with latched := Tab.put s.latched (own p a) v }

/-- The latch a party holds, if any. -/
def held? (s : State) (p : Party) (a : Nat) : Option Word := (s.latched.find? fun e => e.1 = own p a).map (·.2)

/-- A read of FLOG_E0 (R358): the entry's other words are latched. -/
def readFlog (s : State) (p : Party) : State :=
  let s := [1, 2, 3].foldl (fun s i => s.latch p (faultP + 0x48 + 4 * i) (s.flogWord p i)) s
  s.give p (s.flogWord p 0)

/-- A read by a party (R449, R454 to R456): the value, and what the read does. What lies in the Pilot-private range is
not described, and is a free value for the Pilot (log 17). -/
def read (s : State) (p : Party) (a : Nat) : State :=
  let pg := pageOf a
  let o := a % 0x1000
  if 0x800000 ≤ a then
    if p = .pilot ∧ s.awake then
      let (n, s) := s.freshId
      s.give p (Config.freeWord n)
    else s.give p 0
  else if ¬ s.answers a ∨ a % 4 ≠ 0 then s.give p 0
  else if pg.1 = 0x40 ∧ o = 0x044 then (s.give p (s.rd a)).wr a 0
  else if pg.1 = 0x30 ∧ o = 0x084 then s.rdChartLo p pg.2 .none
  else if pg.1 = 0x30 ∧ o = 0x088 then
    let v := (s.held? p a).getD (s.regValue p a)
    let s := { s with latched := Tab.del s.latched (own p a) }
    (s.setSel p (coreP pg.2 + 0x80) (word ((s.chartAddr p pg.2 + 8) % 65536))).give p v
  else if pg.1 = 0x30 ∧ o = 0x090 then s.winAccess p pg.2 none .none
  else if pg.1 = 0x06 ∧ o = 0x048 then s.readFlog p
  else if pg.1 = 0x06 ∧ inWords o 0x04C 0x054 then s.give p ((s.held? p a).getD (s.regValue p a))
  else if pg.1 = 0x10 ∧ o = 0x0A0 ∧ (s.bbolIndex p pg.2).isNone then (s.configFault (ctxP pg.2)).give p 0
  else if isLo pg.1 o then (s.latch p (a + 4) (s.regValue p (a + 4))).give p (s.regValue p a)
  else if isHi pg.1 o then
    let v := (s.held? p a).getD (s.regValue p a)
    ({ s with latched := Tab.del s.latched (own p a) }).give p v
  else s.give p (s.regValue p a)

/-! Writes. -/

/-- A write of FLOG_READ (R358). -/
def wrFlogRead (v : Word) (s : State) : Option State :=
  let w := (s.rd (faultP + 0x40)).toNat
  let total := s.flog.length
  let l := if total < 256 then total else 256
  let d := (w + 2 ^ 32 - v.toNat) % 2 ^ 32
  let x := if d ≤ l then v else if 2 ^ 31 ≤ d then word w else word (w + 2 ^ 32 - l)
  some (s.wr (faultP + 0x78) x)

/-- Bits that a 1 clears. -/
def w1c (s : State) (a : Nat) (m v : Word) : State := s.wr a (s.rd a &&& ~~~(v &&& m))

/-- A write of a header register other than COMMIT (R451, R459, R462). -/
def wrHeader (p : Party) (code a o : Nat) (v : Word) (s : State) : Option State :=
  if o = oACCESS then some (s.wrField a 15 8 (fieldOf v 15 8))
  else if o = oEVENT then some (s.w1c a 0xFFFFFFFF v)
  else if o = oMASK then some (s.wr a (v &&& eventBits code))
  else if o = oFCODE then some (s.wrField a 31 16 (fieldOf v 31 16))
  else if o = oCTIDE ∧ pageShadow code then some (s.stageLo p a v)
  else if o = 0x030 ∧ pageShadow code then some (s.wr64 (a - 4) (s.formed p a v))
  else some s

/-- A write of a word as it stands, with the bits of a mask. -/
def store (a : Nat) (m v : Word) (s : State) : Option State := some (s.wr a (v &&& m))

/-- A write that a state condition admits (R460). -/
def only (b : Bool) (f : State → Option State) (s : State) : Option State := if b then f s else none

/-- A _LO register is staged; a _HI register makes a value that is a multiple of `m` (R454). -/
def wrPair (p : Party) (lo a m : Nat) (v : Word) (s : State) : Option State :=
  if a = lo then some (s.stageLo p a v) else some (s.wr64 lo (s.formed p a v / m * m))

/-- A write of a CONTEXT register (R328, R469). -/
def wrCtxReg (p : Party) (c o a : Nat) (v : Word) (s : State) : Option State :=
  let st := s.ctxState c
  let isOpen : Bool := st = 1
  if o = oCTRL then wrCtx c v s
  else if o = 0x040 then only (st = 0) (store a 0xFFFFFFFF v) s
  else if o = 0x044 then only (st = 0) (store a 0x3FFF v) s
  else if o = 0x048 then only (st = 0 || isOpen) (store a 1 v) s
  else if o = 0x04C then only isOpen (store a 0xFFFFFFFF v) s
  else if o = 0x050 ∨ o = 0x054 then only isOpen (wrPair p (ctxP c + 0x50) a 1 v) s
  else if o = 0x058 ∨ o = 0x05C then only isOpen (wrPair p (ctxP c + 0x58) a 1 v) s
  else if o = 0x060 then only isOpen (store a 0xFFFFFF v) s
  else if o = 0x064 then wrTlbInval c v s
  else if o = 0x06C then wrHold c v s
  else if o = 0x088 then some (s.stageLo p a v)
  else if o = 0x08C then wrResume c (s.formed p a v) s
  else if o = 0x09C then some (s.setSel p a v)
  else if o = 0x0A0 then wrBbolValue p c v s
  else if o = 0x0A4 then wrBbolOp p c false v s
  else if o = 0x0A8 then wrBbolOp p c true v s
  else if o = 0x0B0 then wrReplay c v s
  else store a 0xFFFFFFFF v s

/-- A write of a QUEUE register (R328, R330, R470). -/
def wrQueueReg (p : Party) (q o a : Nat) (v : Word) (s : State) : Option State :=
  let free : Bool := s.unbound q
  if o = oCTRL then wrQctrl q v s
  else if o = 0x040 then wrDoorbell q v s
  else if o = 0x04C then only free (store a 0xFFFFFFFF v) s
  else if o = 0x050 then only free (store a 0x00FE0FF0 v) s
  else if o = 0x054 then store a 0xFFFFF v s
  else if o = 0x058 ∨ o = 0x05C then only free (wrPair p (queueP q + 0x58) a 64 v) s
  else if o = 0x060 ∨ o = 0x064 then only free (wrPair p (queueP q + 0x60) a 16 v) s
  else if o = 0x068 ∨ o = 0x06C then only free (wrPair p (queueP q + 0x68) a 1 v) s
  else if o = 0x070 then only free (store a 0xFFFFFFFF v) s
  else store a 0xFFFFFFFF v s

/-- A write of a CORE register (R474, R475). -/
def wrCoreReg (p : Party) (k o a : Nat) (v : Word) (s : State) : Option State :=
  if o = 0x040 then wrBankMode k v s
  else if o = 0x044 then none
  else if o = 0x04C then wrInject k v s
  else if o = 0x050 then store a 0xFFFFFE00 v s
  else if o = 0x06C then some (if bitOf v 31 then s.wr64 a 0 else s)
  else if o = 0x070 then some s
  else if o = 0x080 then some (s.setSel p a (v &&& 0xFFF8))
  else if o = 0x084 then some (s.stageLo p a v)
  else if o = 0x088 then wrChart p k v s
  else if o = 0x08C then some (s.setSel p a (v &&& 0xC007FFFC))
  else if o = 0x0A0 then wrBrk k v s
  else if inWords o 0x200 0x2FC then wrBol k ((o - 0x200) / 4) v s
  else if o = 0x844 then store a 0xFFFFFF v s
  else store a 0xFFFFFFFF v s

/-- A write of a CONVOY register (R418, R468). -/
def wrConvoyReg (p : Party) (o a : Nat) (v : Word) (s : State) : Option State :=
  let calm : Bool := fieldOf (s.rd (convoyP + oSTATUS)) 31 29 ≠ 1
  if o = oCTRL then
    let (n, s) := s.freshId
    wrConvoy (Config.freeWord n).toInt v s
  else if o = oSTATUS then some (s.w1c a 0x01000000 v)
  else if o = 0x040 then only calm (store a 0x1FFFFF v) s
  else if o = 0x048 ∨ o = 0x04C then only calm (wrPair p (convoyP + 0x48) a 65536 v) s
  else if o = 0x050 ∨ o = 0x054 then only calm (wrPair p (convoyP + 0x50) a 65536 v) s
  else if o = 0x058 then only calm (fun s => some (s.setSel p a (v &&& 0xFF))) s
  else if o = 0x05C then
    only calm (fun s =>
      let d := (s.sel p (convoyP + 0x58)).toNat
      some { s with convoy := { s.convoy with routes := Tab.put s.convoy.routes d (v &&& 0x1F1F) } }) s
  else if inWords o 0x080 0x0AC then only calm (store a 0xFFFFFFFF v) s
  else store a 0xFFFFFFFF v s

/-- UPD_WINDOW (R351): 0 sets 10,000; a value above 600,000 is refused. -/
def wrUpdWindow (v : Word) (s : State) : Option State :=
  if 600000 < v.toNat then some s.updRefused
  else wrUpdReg (fun s => s.wr (updateP + 0x54) (if v = 0 then 10000 else v)) s

/-- The bits of PLANE_SEL_i that name a core (R283). -/
def planeMask (s : State) (i : Nat) : Word := word (2 ^ min 32 (s.build.stride - 32 * i) - 1)

end State

/-- The effect of an accepted write of `v` at window address `a` (R464 to R476). -/
def wrReg (p : Party) (a : Nat) (v : Word) (s : State) : Option State :=
  let pg := pageOf a
  let i := pg.2
  let o := a % 0x1000
  let plain := State.store a 0xFFFFFFFF v
  if o < 0x034 ∧ o ≠ oCTRL ∧ o ≠ oSTATUS then State.wrHeader p pg.1 a o v s
  else match pg.1 with
  | 0x01 =>
    if o = oCTRL then State.wrBoot v s
    else if o = oSTATUS then some (s.w1c a 0x10 v)
    else if o = 0x04C then State.wrParamAddr (s.formed p a v) s
    else if o = 0x048 then some (s.stageLo p a v)
    else State.wrPair p (bootP + 0x40) a 256 v s
  | 0x03 => if o = 0x840 then State.store a 0x7F v s else none
  | 0x05 =>
    if o = 0x040 then some (s.setSel p a (v &&& 0xF))
    else
      let r := (s.sel p (gaugeP + 0x40)).toNat
      some (if r < s.build.regions then s.modRegion r fun x => { x with hits := v } else s)
  | 0x06 =>
    if o = 0x044 then some (s.setSel p a (v &&& 0xFF))
    else if o = 0x078 then State.wrFlogRead v s
    else plain s
  | 0x07 =>
    if o = oCTRL then State.wrUpd v s
    else if o = oSTATUS then some (s.w1c a 0x200 v)
    else if o = 0x040 ∨ o = 0x048 then State.wrUpdReg (fun s => s.stageLo p a v) s
    else if o = 0x044 ∨ o = 0x04C then State.wrUpdReg (fun s => s.wr64 (a - 4) (s.formed p a v)) s
    else if o = 0x050 then State.wrUpdReg (fun s => s.wr a (v &&& 0xFFFF)) s
    else State.wrUpdWindow v s
  | 0x09 =>
    if o = oCTRL then State.wrCap v s
    else if o = 0x048 then State.wrCapInject v s
    else State.wrPair p (captureP + 0x40) a 1 v s
  | 0x0A => State.wrConvoyReg p o a v s
  | 0x10 => State.wrCtxReg p i o a v s
  | 0x11 => State.wrQueueReg p i o a v s
  | 0x20 => if o = 0x040 then none else if o = 0x840 then State.store a 0x3FF v s else plain s
  | 0x21 =>
    if o = oCTRL then State.wrRange i (fieldOf v 1 0) s
    else if o = oSTATUS then some (s.w1c a 0x60000000 v)
    else if o = 0x040 then none
    else if o = 0x044 ∨ o = 0x048 then State.wrPair p (basinP i + 0x44) a 1 v s
    else if o = 0x04C then State.store a 0xFFFFFF v s
    else plain s
  | 0x22 =>
    if o = oCTRL then State.wrWload i v s
    else if o = oSTATUS then some (s.w1c a 0x04000000 v)
    else if o = 0x040 ∨ o = 0x044 then State.wrPair p (wharfP i + 0x40) a 8 v s
    else if o = 0x048 ∨ o = 0x04C then State.wrPair p (wharfP i + 0x48) a 8 v s
    else if inWords o 0x050 0x058 then none
    else if inWords o 0x850 0x858 then State.store a (s.planeMask ((o - 0x850) / 4)) v s
    else plain s
  | 0x30 => State.wrCoreReg p i o a v s
  | 0x41 =>
    if o = oCTRL then State.wrJetty i v s
    else if o = 0x040 then State.store a 0xFF (if v &&& 0xFF = 0 then 16 else v) s
    else plain s
  | _ => plain s

/-- A write by a party to any register of the window (R424, R449, R453 to R461). The window has 24 address bits; an access
that is no aligned word writes nothing. -/
def State.regWrite (s : State) (p : Party) (offset : Nat) (v : Word) : State :=
  let a := offset % 2 ^ 24
  let pg := pageOf a
  let o := a % 0x1000
  if a % 4 ≠ 0 then s
  else if a < 0x800000 ∧ o = oCOMMIT then s.writeCommit p (a / 0x1000 * 0x1000) v
  else if a < 0x800000 ∧ s.answers a ∧ pg.1 = 0x30 ∧ o = 0x090 then s.winAccess p pg.2 (some v) .none
  else if a < 0x800000 ∧ mayWrite pg.1 o p ∧ writeIgnored pg.1 o then s
  else s.write p a (wrReg p a v)

/-! The commands of the window. -/

/-- A write of FLOG_READ (R358). -/
def execFlogRead (party : Party) (value : Word) (s : State) : Out :=
  act (fun s => s.write party (faultP + 0x78) (State.wrFlogRead value)) s

/-- A read of FLOG_E0 (R358). -/
def execFlogE0Read (party : Party) (s : State) : Out :=
  actRaw (fun s => if s.answers (faultP + 0x48) then s.readFlog party else s.give party 0) s

/-- A read of a _LO register (R454); at any other offset a read of what lies there. -/
def execLoRead (party : Party) (offset : Nat) (s : State) : Out :=
  actRaw (fun s => s.read party (offset % 2 ^ 24)) s

/-- A write of a _HI register (R454). -/
def execHiWrite (party : Party) (offset : Nat) (value : Word) (s : State) : Out :=
  actRaw (fun s =>
    let a := offset % 2 ^ 24
    if isHi (pageOf a).1 (a % 0x1000) ∧ a % 4 = 0 then s.regWrite party offset value else s) s

/-- A write of a register (R456). -/
def execRegisterWrite (party : Party) (offset : Nat) (value : Word) (s : State) : Out :=
  actRaw (fun s => s.regWrite party offset value) s

/-! The test access. -/

/-- What a test port's instruction register selects (R487, R488). -/
inductive TestInstr where
  | bypass | extest | intest | mbist | network
  deriving DecidableEq, Repr

/-- The wrapper's instruction register (R487): while TEST_EN is 0, an instruction that needs it acts as WS_BYPASS (log 72). -/
def wirInstr (testEn : Bool) (w : BitVec 8) : TestInstr :=
  match w.toNat with
  | 1 => if testEn then .extest else .bypass
  | 2 => if testEn then .intest else .bypass
  | 3 => if testEn then .mbist else .bypass
  | 4 => .network
  | _ => .bypass

/-- The TAP's instruction register (R488): 0x8 is NET_1687, every other value acts as BYPASS. -/
def tapInstr (i : BitVec 4) : TestInstr := if i = 8 then .network else .bypass

namespace State

/-- A memory word of an instrument, with the region it lies in; none where the build has no such word (R484). -/
def instrumentWord (s : State) : Instrument → Option (Nat × Nat)
  | .berth k b w =>
    if k < s.build.physCores ∧ b < 3 ∧ 8 * w < s.build.berthBytes b then
      some (s.regionOf k, leNat (((s.getCore k).space b).bytes (8 * w) 8))
    else none
  | .chart k w =>
    if k < s.build.physCores ∧ w < 8192 then some (s.regionOf k, leNat ((s.getCore k).chart.bytes (8 * w) 8)) else none
  | .basin r set way w =>
    if r < s.build.regions ∧ set < s.build.basinSets ∧ way < 16 ∧ w < 16 then
      some (r, match (s.getRegion r).basin.find? fun l => l.set = set && l.way = way with
        | some l => fieldAt l.data (8 * w) 8
        | none => 0)
    else none
  | .register _ => none

/-- What the network grants (R489): with TEST_EN at 0 the instruments of a FROZEN region, and of the registers outside the
regions those of the BOOT and IDENT pages, which the always-on domain holds (R488, log 72). -/
def granted (s : State) (r : Nat) : Bool := s.testEn || (s.getRegion r).frozen

/-- The 80 bits of an access: 64 of data, their check bits, and 8 control bits that the manual does not lay out (R484, log
17). -/
def shiftOut (s : State) (v : Nat) : State :=
  let (n, s) := s.freshId
  let d : BitVec 64 := BitVec.ofNat 64 v
  { s with scan := BitVec.ofNat 80 (d.toNat + (Config.checkBits d).toNat * 2 ^ 64 + (Config.freeWord n).toNat % 2 ^ 8 * 2 ^ 72) }

/-- A read over the 1687 network (R484, R489). -/
def instrument (s : State) (what : Instrument) : State :=
  match what with
  | .register a =>
    let pg := pageOf a
    let home : Option Nat := if pg.1 = 0x30 then some (s.regionOf pg.2) else if pg.1 = 0x21 then some pg.2 else none
    let may : Bool := match home with
      | some r => s.granted r
      | none => s.testEn || decide (pg.1 = 1 ∨ pg.1 = 2)
    if may ∧ Build.hasPage s.build pg.1 pg.2 then s.shiftOut (s.regValue .host a).toNat else { s with scan := 0 }
  | m =>
    match s.instrumentWord m with
    | some (r, v) => if s.granted r then s.shiftOut v else { s with scan := 0 }
    | none => { s with scan := 0 }

/-- Bits from chains and pins that the manual does not lay out: free (log 17). -/
def shiftFree (s : State) : State :=
  let (n, s) := s.freshId
  { s with scan := BitVec.ofNat 80 ((Config.freeWord (3 * n)).toNat + (Config.freeWord (3 * n + 1)).toNat * 2 ^ 32
                     + (Config.freeWord (3 * n + 2)).toNat * 2 ^ 64) }

/-- Memory BIST leaves the memories with free contents (R487, log 72). -/
def memoryBist (s : State) : State :=
  let fresh := fun (x : Core) (g : Nat) => { freeBerths x g with chart := ⟨4 * g + 3, []⟩, sects := [], layout := g }
  let l := (List.range s.build.physCores).foldl (fun l k => Tab.put l k (fresh (s.getCore k) (s.nextId + k))) s.core
  { s with core := l, nextId := s.nextId + s.build.physCores,
           region := s.region.map fun e => (e.1, { e.2 with basin := [] }) }

/-- An access through an instruction that a port's register selects (R487, R488): the bypass register hands on what is shifted
in, one bit late (log 72). -/
def testAccess (s : State) (i : TestInstr) (shift : BitVec 80) (what : Instrument) : State :=
  match i with
  | .bypass => { s with scan := shift <<< 1 }
  | .extest => { s.shiftFree with boundary := shift }
  | .intest => s.shiftFree
  | .mbist => s.memoryBist.shiftFree
  | .network => s.instrument what

end State

/-- A test access: its instruction goes into the register of its port, and selects what its 80 bits pass through (R484, R487,
R488). -/
def execInstrumentAccess (a : TestAccess) (s : State) : Out :=
  actRaw (fun s => match a.port with
    | .wrapper w => { s with wir := w }.testAccess (wirInstr s.testEn w) a.shift a.what
    | .tap i => { s with tapIr := i }.testAccess (tapInstr i) a.shift a.what) s

end Sys2Proof.Machine
end

