-- ==== Sys2Proof/Machine/Tick.lean ====
section
/-! DEFINITION. What a quarter of a tick, 0.4 ns, does of itself when no command waits (log 1), so that no region clock has
more than one cycle in it and every engine may issue in each (R167): the tide (R161) and the region clocks
(R169, R381), the writes that land (R74, R99), updates of bollards (R231, R238), entries that retire at the end of their
region cycle (R223), the streams that start (R222), conditions evaluated at a stamp (R211), causes of lateness (R186), the
counters that count time (R83, R110, R160, R249, R377), and the waits that end by themselves. -/

namespace Sys2Proof.Machine

/-- Region cycles of 0.4 ns in 250ths, by the row of R169 in force. -/
def rcRate (tier : Nat) : Nat := [140, 133, 126, 119, 105, 100, 95, 90].getD tier 90

namespace State

/-- One region's clock advances by 0.4 ns (R381). -/
def advanceRegion (s : State) (r : Nat) : State :=
  if s.clocked r then
    let acc := Tab.get 0 s.clk.phase r + rcRate (s.getRegion r).tier
    { s with clk := { s.clk with rc := Tab.put s.clk.rc r (s.rcOf r + acc / 250), phase := Tab.put s.clk.phase r (acc % 250) } }
  else s

/-- A core has a place for the copy of block bollard `a`: it watches it already, or fewer than 16 (R238). -/
def hasPlace (l : Tab (Option Word)) (a : Nat) : Bool := l.any (fun e => e.1 = a) || decide (l.length < 16)

/-- A wait on a block bollard finds no free copy (R238). -/
def noCopy (s : State) (k : Nat) (p : Prog) (w : DWord) : Bool :=
  bitOf w 50 && !hasPlace (s.getCore k).watched (s.bbolAbs p.ctx (fieldOf w 49 38))

/-- The head of an engine is held by its engine's own rules because something earlier occupies what it needs (R186). -/
def busy (s : State) (k e : Nat) (h : Head) : Bool :=
  match e with
  | 1 => opOf h.word ≠ 8 && !s.arrayFree k
  | 2 => s.vxGate k h = 1
  | 3 => (s.freeSlot k false).isNone
  | 4 => (s.freeSlot k true).isNone
  | _ => false

/-- What holds a head at its reference point (R186, R222): first of all the stream before it, when that had not ended. -/
def causeOf (s : State) (k e : Nat) (h : Head) : Nat :=
  if s.heldByStream k e h then 2
  else match s.unmet k e h with
    | some (.wait w) => if s.noCopy k h.prog w then 4 else 1
    | some (.fence _) => 4
    | none => if s.busy k e h then 2 else 4

/-- A core begins to watch a block bollard: it asks the control complex for a copy (R238). -/
def watch (s : State) (k a : Nat) : State :=
  let l := (s.getCore k).watched
  if (l.any fun e => e.1 = a) ∨ ¬ hasPlace l a then s
  else (s.modCore k fun x => { x with watched := Tab.put x.watched a none }).inject (.watch k a) (.mem k) .control 0

/-- A head whose stamp has come (R211, R238): thresholds are computed, block bollards watched, the cause noted. -/
def evaluate (s : State) (k e : Nat) (h : Head) : State :=
  let x := s.eng k e
  let latch := s.thresholds k e h
  let names := h.conds.filterMap fun c => match c with
    | .wait w => if bitOf w 50 then some (s.bbolAbs h.prog.ctx (fieldOf w 49 38)) else none
    | .fence _ => none
  let cause := if x.cause = 0 then s.causeOf k e h else x.cause
  let s := names.foldl (fun s a => s.watch k a) s
  s.setEng k e { x with latch := latch, cause := cause }

/-- The head waits on a bollard in the hold of its context: its stamp had come by T_f (R156, R160). -/
def holdWaits (s : State) (k e : Nat) (h : Head) : Bool :=
  let due := h.bundle.chain || decide (h.stamp ≤ s.rd64 (ctxP h.prog.ctx + 0x80)) || !(s.eng k e).latch.isEmpty
  due && (match s.unmet k e h with
    | some (.wait _) => true
    | _ => false)

/-- A stream of an engine waits on its WAIT_BOL. -/
def streamWaits (s : State) (k : Nat) (l : Tab Stream) : Bool :=
  l.any fun e =>
    let d := LsDesc.of e.2.body
    match chunkHeld e.2 d, d.waitBol with
    | some c, some b => decide ((s.bol k b : Int) < chunkThreshold d c)
    | _, _ => false

/-- HOLD_WAIT of an engine: its head or a stream of it waits on a bollard between T_f and T_r (R156, R159, R160). -/
def holdWait (s : State) (k d e : Nat) : State :=
  let x := s.getCore k
  match x.ctx with
  | none => s
  | some c =>
    if s.ctxState c ≠ 3 then s
    else
      let head := (s.head? k e).any fun h => s.holdWaits k e h
      let stream := (e = 3 && s.streamWaits k x.loads) || (e = 4 && s.streamWaits k x.stores)
      if head || stream then s.count (cnt k 24) d else s

/-- The hold of a VXE head has ended in the present tick: lateness counts from it (R185). -/
def vxFreed (s : State) (k : Nat) (h : Head) : State :=
  let x := s.eng k 2
  if x.gated then s.setEng k 2 { x with gated := false, ref := s.schedAt k h.prog.ctx } else s

/-- The engines of a core in a step of `d` region cycles: heads are evaluated, and waits counted (R110, R137, R160). -/
def tickEngine (s : State) (k d e : Nat) : State :=
  let s := (s.fetchEng k e).holdWait k d e
  match s.head? k e with
  | none => s
  | some h =>
    if ¬ (s.coreIssues k ∧ s.stampMet k h) then s
    else
      let s := s.evaluate k e h
      if (s.unmet k e h).isSome then s
      else if e = 2 then
        if s.vxGate k h = 2 then (s.setEng k e { s.eng k e with gated := true, cause := 0 }).count (cnt k 16) d
        else s.vxFreed k h
      else if (e = 3 ∨ e = 4) ∧ s.busy k e h then s.count (cnt k 23) d
      else s

/-- The chunk that a stream has reached waits past its budgeted point (R147, R160). -/
def chunkLate (s : State) (k c : Nat) (x : Stream) : Bool :=
  let d := LsDesc.of x.body
  match chunkHeld x d, d.waitBol with
  | some i, some b =>
    decide ((s.bol k b : Int) < chunkThreshold d i) && (chunkPoint x i).any fun p => decide (p < s.schedAt k c)
  | _, _ => false

/-- What a step of time does on a core of which `d` region cycles, from `rc` on, have passed. -/
def tickCore (s : State) (k rc d : Nat) : State :=
  let s := (s.bolFlush k).chartFlush k
  let s := (s.engineCycle k rc).sliceCycle k rc
  let s := (s.retireDue k rc).brkOpen k
  let s := if (s.getCore k).fences.isEmpty then s else s.count (cnt k 29) d
  match (s.getCore k).ctx with
  | none => s
  | some c =>
    let l := (s.getCore k).loads ++ (s.getCore k).stores
    if s.coreIssues k ∧ s.ctxState c = 2 then s.count (cnt k 22) (d * (l.filter fun e => s.chunkLate k c e.2).length) else s

/-- The engines of a core after BASE has come where it was due. -/
def tickEngines (s : State) (k d : Nat) : State := (List.range 6).foldl (fun s e => s.tickEngine k d e) (s.promote k)

/-- GATE_WAIT (R377). -/
def gateWait (s : State) (c : Nat) : State :=
  if (s.getCtx c).gate.isEmpty then s else s.count (ctxP c + 0xD4) 1

/-- The clocks 0.4 ns later: with the fourth quarter a tick has passed, in which the tide counts where it runs (R161);
while the block serves the region clocks run (R169, R381). -/
def tickClk (s : State) : State :=
  let n : Nat := if s.clk.quarter < 3 then 0 else 1
  let s : State := { s with clk := { s.clk with
    quarter := if s.clk.quarter < 3 then s.clk.quarter + 1 else 0,
    time := s.clk.time + n, tide := s.clk.tide + n * s.clk.running.toNat } }
  if s.awake then (List.range s.build.regions).foldl (fun s r => s.advanceRegion r) s else s

/-- What a whole tick brings to the contexts: the legs whose BASE has come (R319), time spent in the pair gate, and the end of
a replay (R371). -/
def tickContexts (s : State) : State := (List.range 16).foldl (fun s c => ((s.beginDue c).gateWait c).replayDue c) s

/-- What a whole tick brings to the control complex: block bollards (R238), waits of queues, reverts, captures, links. -/
def tickControl (s : State) : State :=
  let s := (List.range 64).foldl (fun s q => s.pollQueue false q) s.bbolFlush
  s.updFault.handoverDue.pauseDue.capApply.pump

/-- What happens by itself while the block serves; `was` are the region cycles before the step. -/
def tickParts (was : Tab Nat) (s : State) : State :=
  let passed := fun (k : Nat) => s.coreRc k - Tab.get 0 was (s.regionOf k)
  let s := (List.range s.build.regions).foldl (fun s r => if Tab.get 0 was r < s.rcOf r then s.sampleTide r else s) s
  let cores := (s.core.map (·.1)).filter fun k => s.clocked (s.regionOf k) && decide (0 < passed k)
  let whole := s.clk.quarter = 0
  let s := cores.foldl (fun s k => s.tickCore k (Tab.get 0 was (s.regionOf k)) (passed k)) s
  let s := if whole then s.tickContexts else s
  let s := cores.foldl (fun s k => s.tickEngines k (passed k)) s
  (if whole then s.tickControl else s).channelCycle was

/-- 0.4 ns pass (log 1). -/
def tick (s : State) : State :=
  let t := s.tickClk
  t.framed (if s.awake then t.tickParts s.clk.rc else t)

end State

end Sys2Proof.Machine
end

