-- ==== Sys2Proof/Machine/Dispatch.lean ====
section
/-! DEFINITION. The meaning of every command (R1): one arm per constructor of Instr, each the call of that command's own
meaning. -/

namespace Sys2Proof.Machine

def exec (i : Instr) (s : State) : Host.Outcome State Fault Refusal :=
  match i with
  | .sqLd core => Sys2Proof.Machine.execSqLd core s
  | .sqInc core => Sys2Proof.Machine.execSqInc core s
  | .sqDec core => Sys2Proof.Machine.execSqDec core s
  | .sqAddi core => Sys2Proof.Machine.execSqAddi core s
  | .sqCmp core => Sys2Proof.Machine.execSqCmp core s
  | .sqSkip core => Sys2Proof.Machine.execSqSkip core s
  | .sqLoop core => Sys2Proof.Machine.execSqLoop core s
  | .mxMm core up => Sys2Proof.Machine.execMxMm core up s
  | .mxMmMasked core up => Sys2Proof.Machine.execMxMmMasked core up s
  | .mxSetdim core up => Sys2Proof.Machine.execMxSetdim core up s
  | .mxRetire core => Sys2Proof.Machine.execMxRetire core s
  | .mxInject party core value => Sys2Proof.Machine.execMxInject party core value s
  | .capInject party value => Sys2Proof.Machine.execCapInject party value s
  | .vxAdd core up => Sys2Proof.Machine.execVxAdd core up s
  | .vxMul core up => Sys2Proof.Machine.execVxMul core up s
  | .vxFma core up => Sys2Proof.Machine.execVxFma core up s
  | .vxMin core up => Sys2Proof.Machine.execVxMin core up s
  | .vxMax core up => Sys2Proof.Machine.execVxMax core up s
  | .vxCmp core up => Sys2Proof.Machine.execVxCmp core up s
  | .vxSel core up => Sys2Proof.Machine.execVxSel core up s
  | .vxCvt core up => Sys2Proof.Machine.execVxCvt core up s
  | .vxQuant core up => Sys2Proof.Machine.execVxQuant core up s
  | .vxRed core up => Sys2Proof.Machine.execVxRed core up s
  | .vxCompress core up => Sys2Proof.Machine.execVxCompress core up s
  | .vxExpand core up => Sys2Proof.Machine.execVxExpand core up s
  | .vxMset core up => Sys2Proof.Machine.execVxMset core up s
  | .vxMlogic core up => Sys2Proof.Machine.execVxMlogic core up s
  | .vxWharf core up => Sys2Proof.Machine.execVxWharf core up s
  | .vxSent core up => Sys2Proof.Machine.execVxSent core up s
  | .vxRetire core => Sys2Proof.Machine.execVxRetire core s
  | .wharfResultGroup core valid words parityOk => Sys2Proof.Machine.execWharfResultGroup core valid words parityOk s
  | .ldStream core up => Sys2Proof.Machine.execLdStream core up s
  | .ldGather core up => Sys2Proof.Machine.execLdGather core up s
  | .stStream core up => Sys2Proof.Machine.execStStream core up s
  | .stScatter core up => Sys2Proof.Machine.execStScatter core up s
  | .stHalo core up => Sys2Proof.Machine.execStHalo core up s
  | .stPost core up => Sys2Proof.Machine.execStPost core up s
  | .streamSlotFree core store up => Sys2Proof.Machine.execStreamSlotFree core store up s
  | .chunkWaitMet core store slot => Sys2Proof.Machine.execChunkWaitMet core store slot s
  | .lineRequest core store slot up => Sys2Proof.Machine.execLineRequest core store slot up s
  | .indexWordRead core store slot => Sys2Proof.Machine.execIndexWordRead core store slot s
  | .lineDeposit core => Sys2Proof.Machine.execLineDeposit core s
  | .chunkComplete core store slot => Sys2Proof.Machine.execChunkComplete core store slot s
  | .haloDelivery core src => Sys2Proof.Machine.execHaloDelivery core src s
  | .postWriteArrival core src => Sys2Proof.Machine.execPostWriteArrival core src s
  | .syWait core => Sys2Proof.Machine.execSyWait core s
  | .syAdd core => Sys2Proof.Machine.execSyAdd core s
  | .sySub core => Sys2Proof.Machine.execSySub core s
  | .sySignal core => Sys2Proof.Machine.execSySignal core s
  | .syFence core => Sys2Proof.Machine.execSyFence core s
  | .syArrive core => Sys2Proof.Machine.execSyArrive core s
  | .retirementBoundOp core => Sys2Proof.Machine.execRetirementBoundOp core s
  | .signalArrival core src neighbour => Sys2Proof.Machine.execSignalArrival core src neighbour s
  | .fenceProbe core src => Sys2Proof.Machine.execFenceProbe core src s
  | .fenceComplete core => Sys2Proof.Machine.execFenceComplete core s
  | .barrierRelease ctx => Sys2Proof.Machine.execBarrierRelease ctx s
  | .blockBollardUpdate => Sys2Proof.Machine.execBlockBollardUpdate s
  | .bolWrite party core b value => Sys2Proof.Machine.execBolWrite party core b value s
  | .bbolValue party ctx value => Sys2Proof.Machine.execBbolValue party ctx value s
  | .bbolAdd party ctx value => Sys2Proof.Machine.execBbolAdd party ctx value s
  | .bbolSub party ctx value => Sys2Proof.Machine.execBbolSub party ctx value s
  | .brkArm party core value => Sys2Proof.Machine.execBrkArm party core value s
  | .chartDataHi party core value => Sys2Proof.Machine.execChartDataHi party core value s
  | .chartDataLoRead party core => Sys2Proof.Machine.execChartDataLoRead party core s
  | .chartScrub core word found => Sys2Proof.Machine.execChartScrub core word found s
  | .berthScrub core berth addr found => Sys2Proof.Machine.execBerthScrub core berth addr found s
  | .segmentReady core => Sys2Proof.Machine.execSegmentReady core s
  | .segmentPowerDown core => Sys2Proof.Machine.execSegmentPowerDown core s
  | .bankModeWrite party core value => Sys2Proof.Machine.execBankModeWrite party core value s
  | .basinRequest region found => Sys2Proof.Machine.execBasinRequest region found s
  | .basinFillComplete region => Sys2Proof.Machine.execBasinFillComplete region s
  | .basinScrub region set way found => Sys2Proof.Machine.execBasinScrub region set way found s
  | .wayUseChange region => Sys2Proof.Machine.execWayUseChange region s
  | .brangePin party region => Sys2Proof.Machine.execBrangePin party region s
  | .brangeUnpin party region => Sys2Proof.Machine.execBrangeUnpin party region s
  | .brangeEvict party region => Sys2Proof.Machine.execBrangeEvict party region s
  | .rangeDone region => Sys2Proof.Machine.execRangeDone region s
  | .flitArrival region part vc gr gc src dataFlit found => Sys2Proof.Machine.execFlitArrival region part vc gr gc src dataFlit found s
  | .quayShareFrame quay scDemand bkDemand => Sys2Proof.Machine.execQuayShareFrame quay scDemand bkDemand s
  | .tideStep region sample parityOk => Sys2Proof.Machine.execTideStep region sample parityOk s
  | .commitArm party page => Sys2Proof.Machine.execCommitArm party page s
  | .commitCancel party page => Sys2Proof.Machine.execCommitCancel party page s
  | .commitApply stamp => Sys2Proof.Machine.execCommitApply stamp s
  | .planeSwitch core => Sys2Proof.Machine.execPlaneSwitch core s
  | .frequencyRise region => Sys2Proof.Machine.execFrequencyRise region s
  | .holdReq party ctx => Sys2Proof.Machine.execHoldReq party ctx s
  | .holdArrival core => Sys2Proof.Machine.execHoldArrival core s
  | .resumeTide party ctx hi => Sys2Proof.Machine.execResumeTide party ctx hi s
  | .resume ctx => Sys2Proof.Machine.execResume ctx s
  | .tlbInval party ctx => Sys2Proof.Machine.execTlbInval party ctx s
  | .openCtx party ctx => Sys2Proof.Machine.execOpenCtx party ctx s
  | .start party ctx => Sys2Proof.Machine.execStart party ctx s
  | .destroy party ctx => Sys2Proof.Machine.execDestroy party ctx s
  | .teardownComplete ctx => Sys2Proof.Machine.execTeardownComplete ctx s
  | .ctxReplay party ctx => Sys2Proof.Machine.execCtxReplay party ctx s
  | .bind party q => Sys2Proof.Machine.execBind party q s
  | .unbind party q => Sys2Proof.Machine.execUnbind party q s
  | .reset party q => Sys2Proof.Machine.execReset party q s
  | .flush party q => Sys2Proof.Machine.execFlush party q s
  | .doorbell party q value => Sys2Proof.Machine.execDoorbell party q value s
  | .itemFetch q => Sys2Proof.Machine.execItemFetch q s
  | .itemComplete q => Sys2Proof.Machine.execItemComplete q s
  | .cmdEnd q => Sys2Proof.Machine.execCmdEnd q s
  | .cmdLaunch q => Sys2Proof.Machine.execCmdLaunch q s
  | .cmdCopy q => Sys2Proof.Machine.execCmdCopy q s
  | .cmdFill q => Sys2Proof.Machine.execCmdFill q s
  | .copyComplete q => Sys2Proof.Machine.execCopyComplete q s
  | .cmdSignal q => Sys2Proof.Machine.execCmdSignal q s
  | .cmdWait q => Sys2Proof.Machine.execCmdWait q s
  | .cmdIf q => Sys2Proof.Machine.execCmdIf q s
  | .cmdLoop q => Sys2Proof.Machine.execCmdLoop q s
  | .condPoll q => Sys2Proof.Machine.execCondPoll q s
  | .cmdCall q => Sys2Proof.Machine.execCmdCall q s
  | .cmdFence q => Sys2Proof.Machine.execCmdFence q s
  | .cmdTimestamp q => Sys2Proof.Machine.execCmdTimestamp q s
  | .cmdEnqueue q => Sys2Proof.Machine.execCmdEnqueue q s
  | .enqueueDeposit q => Sys2Proof.Machine.execEnqueueDeposit q s
  | .cmdRegister q => Sys2Proof.Machine.execCmdRegister q s
  | .cmdRelease q => Sys2Proof.Machine.execCmdRelease q s
  | .crewLead ctx => Sys2Proof.Machine.execCrewLead ctx s
  | .legBase ctx => Sys2Proof.Machine.execLegBase ctx s
  | .legEnd ctx => Sys2Proof.Machine.execLegEnd ctx s
  | .queueTimeout q => Sys2Proof.Machine.execQueueTimeout q s
  | .quayResponse quay id resp latency => Sys2Proof.Machine.execQuayResponse quay id resp latency s
  | .quayLate quay id latency => Sys2Proof.Machine.execQuayLate quay id latency s
  | .quayLatMaxRead party quay => Sys2Proof.Machine.execQuayLatMaxRead party quay s
  | .hqReadResponse req latency err => Sys2Proof.Machine.execHqReadResponse req latency err s
  | .hqAresetN => Sys2Proof.Machine.execHqAresetN s
  | .resetAssert => Sys2Proof.Machine.execResetAssert s
  | .resetRelease slipMode selfTestOk => Sys2Proof.Machine.execResetRelease slipMode selfTestOk s
  | .go party => Sys2Proof.Machine.execGo party s
  | .slipTransfer bytes overrun => Sys2Proof.Machine.execSlipTransfer bytes overrun s
  | .pilotImageComplete readErr => Sys2Proof.Machine.execPilotImageComplete readErr s
  | .bootParamAddrHi party value => Sys2Proof.Machine.execBootParamAddrHi party value s
  | .bringUp env => Sys2Proof.Machine.execBringUp env s
  | .ledgerRecord => Sys2Proof.Machine.execLedgerRecord s
  | .crewTrap => Sys2Proof.Machine.execCrewTrap s
  | .crewHang => Sys2Proof.Machine.execCrewHang s
  | .stage party value => Sys2Proof.Machine.execStage party value s
  | .updateChecked readErr => Sys2Proof.Machine.execUpdateChecked readErr s
  | .activate party value => Sys2Proof.Machine.execActivate party value s
  | .updateActivation accepted => Sys2Proof.Machine.execUpdateActivation accepted s
  | .confirm party value => Sys2Proof.Machine.execConfirm party value s
  | .revert party value => Sys2Proof.Machine.execRevert party value s
  | .abort party value => Sys2Proof.Machine.execAbort party value s
  | .updWindowExpiry => Sys2Proof.Machine.execUpdWindowExpiry s
  | .wloadGo party region value => Sys2Proof.Machine.execWloadGo party region value s
  | .wharfRecord region readbackBad => Sys2Proof.Machine.execWharfRecord region readbackBad s
  | .wloadDone region => Sys2Proof.Machine.execWloadDone region s
  | .coreFaultDetach ctx => Sys2Proof.Machine.execCoreFaultDetach ctx s
  | .pairGateMatch ctx mindex path => Sys2Proof.Machine.execPairGateMatch ctx mindex path s
  | .rebuild ctx => Sys2Proof.Machine.execRebuild ctx s
  | .configMirrorCheck region upset => Sys2Proof.Machine.execConfigMirrorCheck region upset s
  | .pilotHeartbeat => Sys2Proof.Machine.execPilotHeartbeat s
  | .pilotLost => Sys2Proof.Machine.execPilotLost s
  | .synthLockLoss which => Sys2Proof.Machine.execSynthLockLoss which s
  | .vreqAck region => Sys2Proof.Machine.execVreqAck region s
  | .vreqTimeout region => Sys2Proof.Machine.execVreqTimeout region s
  | .gaugeReading region margins hits => Sys2Proof.Machine.execGaugeReading region margins hits s
  | .muster party rate => Sys2Proof.Machine.execMuster party rate s
  | .musterDecide => Sys2Proof.Machine.execMusterDecide s
  | .tideForwardStep => Sys2Proof.Machine.execTideForwardStep s
  | .leave party => Sys2Proof.Machine.execLeave party s
  | .hersilFlitRx port flit => Sys2Proof.Machine.execHersilFlitRx port flit s
  | .nak port expected => Sys2Proof.Machine.execNak port expected s
  | .replayTimeout port => Sys2Proof.Machine.execReplayTimeout port s
  | .jettyRetry port => Sys2Proof.Machine.execJettyRetry port s
  | .keepalive port => Sys2Proof.Machine.execKeepalive port s
  | .jettyDark port => Sys2Proof.Machine.execJettyDark port s
  | .restart party port value => Sys2Proof.Machine.execRestart party port value s
  | .detourFenceEnd member => Sys2Proof.Machine.execDetourFenceEnd member s
  | .bollardWindowAdd => Sys2Proof.Machine.execBollardWindowAdd s
  | .tideSync => Sys2Proof.Machine.execTideSync s
  | .tideSkew lagTenths => Sys2Proof.Machine.execTideSkew lagTenths s
  | .captureArm party value => Sys2Proof.Machine.execCaptureArm party value s
  | .captureCancel party value => Sys2Proof.Machine.execCaptureCancel party value s
  | .captureFreeze => Sys2Proof.Machine.execCaptureFreeze s
  | .captureRelease party value => Sys2Proof.Machine.execCaptureRelease party value s
  | .captureReleased => Sys2Proof.Machine.execCaptureReleased s
  | .instrumentAccess what => Sys2Proof.Machine.execInstrumentAccess what s
  | .testEnRise => Sys2Proof.Machine.execTestEnRise s
  | .flogRead party value => Sys2Proof.Machine.execFlogRead party value s
  | .flogE0Read party => Sys2Proof.Machine.execFlogE0Read party s
  | .loRead party offset => Sys2Proof.Machine.execLoRead party offset s
  | .hiWrite party offset value => Sys2Proof.Machine.execHiWrite party offset value s
  | .winData party core write => Sys2Proof.Machine.execWinData party core write s
  | .registerWrite party offset value => Sys2Proof.Machine.execRegisterWrite party offset value s
  | .lossOfPower => Sys2Proof.Machine.execLossOfPower s
  | .vreqAckFall region => Sys2Proof.Machine.execVreqAckFall region s
  | .linkUp port => Sys2Proof.Machine.execLinkUp port s
  | .idleForAck port => Sys2Proof.Machine.execIdleForAck port s
  | .restartExpiry port => Sys2Proof.Machine.execRestartExpiry port s
  | .lowerVreq region => Sys2Proof.Machine.execLowerVreq region s
  | .lifelineToggle => Sys2Proof.Machine.execLifelineToggle s
  | .pilotTrap => Sys2Proof.Machine.execPilotTrap s
  | .pilotSramUe => Sys2Proof.Machine.execPilotSramUe s

end Sys2Proof.Machine
end

