-- ==== Sys2Proof/Machine/Step.lean ====
section
/-! DEFINITION. One step: the command at the front of the queue, or on an empty queue a quarter of a tick of the tide (log 1). -/

namespace Sys2Proof.Machine

/-- A step takes the command at the front of the queue and performs it over the rest of the queue. With no command
waiting, 0.4 ns pass (log 1). -/
def step (s : State) : Host.Outcome State Fault Refusal :=
  match s.pending with
  | [] => .next s.tick
  | i :: rest => exec i { s with pending := rest }

/-- The command that a word of the table spells, put at the front of the queue; no row has bits (log 16). -/
def State.withFetchWord (s : State) (nbits w : Nat) : State :=
  match decodeTableWord nbits w with
  | some i => { s with pending := i :: s.pending }
  | none => s

end Sys2Proof.Machine
end

