-- ==== Sys2Proof/WellFormed.lean ====
section
/-! DEFINITION. Which commands are well formed for a build: the parts that a command names exist. A command of an engine,
a region's clock, a quay or a port names a part of the build (R4, R5, R8); a command that is an access of the register
window names a page of the window's map (R450), whether or not the build has the instance, since R9 says what an access
to an absent instance does. -/

namespace Sys2Proof

/-- The parts that the command names exist: of the build, or for a register access of the window's map (R450). -/
def Instr.wellFormed (b : Build) (i : Instr) : Bool :=
  match i with
  | .sqLd ⟨core, _⟩ | .sqInc ⟨core, _⟩ | .sqDec ⟨core, _⟩ | .sqAddi ⟨core, _⟩ | .sqCmp ⟨core, _⟩ | .sqSkip ⟨core, _⟩ | .sqLoop ⟨core, _⟩ | .mxMm core _
    | .mxMmMasked core _ | .mxSetdim core _ | .mxRetire core | .vxAdd core _ | .vxMul core _ | .vxFma core _
    | .vxMin core _ | .vxMax core _ | .vxCmp core _ | .vxSel core _ | .vxCvt core _ | .vxQuant core _
    | .vxRed core _ | .vxCompress core _ | .vxExpand core _ | .vxMset core _ | .vxMlogic core _ | .vxWharf core _
    | .vxSent core _ | .vxRetire core | .wharfResultGroup core _ _ _ | .ldStream core _ | .ldGather core _
    | .stStream core _ | .stScatter core _ | .stHalo core _ | .stPost core _ | .streamSlotFree core _ _
    | .lineDeposit ⟨core, _⟩ | .syWait ⟨core, _⟩ | .syAdd ⟨core, _⟩ | .sySub ⟨core, _⟩ | .sySignal ⟨core, _⟩ | .syFence ⟨core, _⟩ | .syArrive ⟨core, _⟩
    | .retirementBoundOp core | .fenceComplete core | .segmentReady core | .segmentPowerDown core
    | .planeSwitch core | .holdArrival core => core < b.physCores
  | .mxInject _ core _ | .brkArm _ core _ | .chartDataHi _ core _ | .chartDataLoRead _ ⟨core, _⟩
    | .bankModeWrite _ core _ | .winData _ ⟨core, _⟩ _ => core < 1088
  | .chunkWaitMet core _ slot | .lineRequest core _ slot _ | .indexWordRead ⟨core, _⟩ _ slot | .chunkComplete core _ slot => core < b.physCores && slot < 4
  | .haloDelivery ⟨core, _⟩ src | .postWriteArrival ⟨core, _⟩ src | .signalArrival core src _ | .fenceProbe core src => core < b.physCores && src < b.physCores
  | .barrierRelease ⟨ctx, _⟩ | .bbolValue _ ctx _ | .bbolAdd _ ctx _ | .bbolSub _ ctx _ | .holdReq _ ctx
    | .resumeTide _ ctx _ | .resume ctx | .tlbInval _ ctx | .openCtx _ ctx | .start _ ctx | .destroy _ ctx
    | .teardownComplete ctx | .ctxReplay _ ctx | .crewLead ctx | .legBase ctx | .legEnd ctx | .coreFaultDetach ctx
    | .pairGateMatch ctx _ _ | .rebuild ctx => ctx < 16
  | .bolWrite _ core b _ => core < 1088 && b < 64
  | .chartScrub core word _ => core < b.physCores && word < 8192
  | .berthScrub core berth addr _ => core < b.physCores && berth < 3 && addr < b.berthBytes berth
  | .basinRequest region _ | .basinFillComplete region | .wayUseChange region | .rangeDone region
    | .flitArrival region _ _ _ _ _ _ _ | .tideStep region _ _ | .frequencyRise region | .wharfRecord region _
    | .wloadDone region | .configMirrorCheck region _ | .vreqAck region | .vreqTimeout region
    | .gaugeReading region _ _ | .vreqAckFall region | .lowerVreq region => region < b.regions
  | .basinScrub region set way _ => region < b.regions && set < b.basinSets && way < 16
  | .brangePin _ region | .brangeUnpin _ region | .brangeEvict _ region | .wloadGo _ region _ => region < 16
  | .quayShareFrame quay _ _ | .quayResponse quay _ _ _ | .quayLate quay _ _ => quay < b.quays
  | .bind _ q | .unbind _ q | .reset _ q | .flush _ q | .doorbell _ q _ | .itemFetch ⟨q, _⟩ | .itemComplete q | .cmdEnd q
    | .cmdLaunch q | .cmdCopy q | .cmdFill q | .copyComplete q | .cmdSignal q | .cmdWait q | .cmdIf q | .cmdLoop q
    | .condPoll q | .cmdCall q | .cmdFence q | .cmdTimestamp q | .cmdEnqueue q | .enqueueDeposit q | .cmdRegister q
    | .cmdRelease q | .queueTimeout q => q < 64
  | .quayLatMaxRead _ quay => quay < 16
  | .hersilFlitRx port _ | .nak port _ | .replayTimeout port | .jettyRetry port | .keepalive port | .jettyDark port
    | .linkUp port | .idleForAck port | .restartExpiry port => port < b.jetties
  | .restart _ port _ => port < 16
  | .synthLockLoss (.region r) => r < b.regions
  | .synthLockLoss .tide | .synthLockLoss .control => true
  | .capInject .. | .blockBollardUpdate .. | .commitArm .. | .commitCancel .. | .commitApply .. | .hqReadResponse ..
    | .hqAresetN .. | .resetAssert .. | .resetRelease .. | .go .. | .slipTransfer .. | .pilotImageComplete ..
    | .bootParamAddrHi .. | .bringUp .. | .ledgerRecord .. | .crewTrap .. | .crewHang .. | .stage ..
    | .updateChecked .. | .activate .. | .updateActivation .. | .confirm .. | .revert .. | .abort ..
    | .updWindowExpiry .. | .pilotHeartbeat .. | .pilotLost .. | .muster .. | .musterDecide .. | .tideForwardStep ..
    | .leave .. | .detourFenceEnd .. | .bollardWindowAdd .. | .tideSync .. | .tideSkew .. | .captureArm ..
    | .captureCancel .. | .captureFreeze .. | .captureRelease .. | .captureReleased .. | .instrumentAccess ..
    | .testEnRise .. | .flogRead .. | .flogE0Read .. | .loRead .. | .hiWrite .. | .registerWrite ..
    | .lossOfPower .. | .lifelineToggle .. | .pilotTrap .. | .pilotSramUe .. => true

end Sys2Proof
end

