-- ==== Sys2Proof/Safety.lean ====
section
/-! DEFINITION. The words of the statements: which states are sound, when a core runs, and what a command of a core leaves
alone. -/

namespace Sys2Proof.Machine

/-- What every step keeps: the build is a legal one (R4); a region clock has begun fewer than 250 parts of its next cycle
(R381); and the tide is 0 until it is started (R161). -/
def State.Inv (s : State) : Prop :=
  s.build.legal = true ∧ (∀ r, Tab.get 0 s.clk.phase r < 250) ∧ s.clk.quarter < 4 ∧ (s.clk.running = false → s.clk.tide = 0)

/-- Core `k` is a core of the build, the block serves, and the clock of the core's region runs. -/
abbrev State.runs (s : State) (k : Nat) : Prop :=
  k < s.build.physCores ∧ s.awake = true ∧ s.clocked (s.regionOf k) = true

/-- Region `r` is a region of the build, the block serves, and the region's clock runs. -/
abbrev State.regionRuns (s : State) (r : Nat) : Prop :=
  r < s.build.regions ∧ s.awake = true ∧ s.clocked r = true

/-- What no command of core `k`'s engines touches: the other cores, the memories behind the quays and the host bus, the
regions with their Basins, the block bollards, the clocks, the build and the waiting commands. -/
def coreFrame (k : Nat) (s t : State) : Prop :=
  (∀ j, j ≠ k → t.getCore j = s.getCore j) ∧ t.devMem = s.devMem ∧ t.hostMem = s.hostMem ∧ t.region = s.region
    ∧ t.bbol = s.bbol ∧ t.clk = s.clk ∧ t.build = s.build ∧ t.pending = s.pending

/-- The berths, chart memory, vector registers and mask registers of core `k` are the same in both states. -/
def berthsSame (k : Nat) (s t : State) : Prop :=
  (t.getCore k).wb = (s.getCore k).wb ∧ (t.getCore k).ab = (s.getCore k).ab ∧ (t.getCore k).pb = (s.getCore k).pb
    ∧ (t.getCore k).chart = (s.getCore k).chart ∧ (t.getCore k).vregs = (s.getCore k).vregs
    ∧ (t.getCore k).mregs = (s.getCore k).mregs

/-- What no access of the register window and no work of the control complex in its place touches: the cores, regions,
contexts and queues, the memories, the block bollards and the clocks. -/
def partsSame (s t : State) : Prop :=
  t.core = s.core ∧ t.region = s.region ∧ t.ctx = s.ctx ∧ t.queue = s.queue ∧ t.bbol = s.bbol ∧ t.devMem = s.devMem
    ∧ t.hostMem = s.hostMem ∧ t.clk = s.clk ∧ t.build = s.build ∧ t.pending = s.pending

/-- One packet more waits at its source; nothing else of the Channel differs (R250, R263). -/
def sends (load : Load) (src dst : Port) (vc len : Nat) (s t : State) : Prop :=
  t.net = (s.inject load src dst vc len).net ∧ t.nextPkt = s.nextPkt + 1

/-- The Channel holds what it held. -/
def netSame (s t : State) : Prop := t.net = s.net ∧ t.nextPkt = s.nextPkt

/-- The chart-memory word of an entry has no error (R229). -/
def chartClean (up : Upset) : Prop := ∀ w, up ≠ .chartUe w ∧ up ≠ .chartCe w

/-- The core stops on an uncorrectable word `w` of its chart memory, read for an entry (R229, R233). -/
def chartStops (k w : Nat) (s t : State) : Prop :=
  fieldOf (t.rd (coreP k + oFCODE)) 11 0 = 0x252 ∧ fieldOf (t.rd (coreP k + oFINFO)) 31 29 = 6
    ∧ fieldOf (t.rd (coreP k + oFINFO)) 28 16 = w % 2 ^ 13 ∧ (t.getCore k).state = 2 ∧ berthsSame k s t ∧ coreFrame k s t

/-- The commands by which entries of a core issue, but for what the checkers find in their chart words (R167). -/
def entryRows (core : Nat) : List (Upset → Instr) :=
  [fun u => .sqLd ⟨core, u⟩, fun u => .sqInc ⟨core, u⟩, fun u => .sqDec ⟨core, u⟩, fun u => .sqAddi ⟨core, u⟩,
   fun u => .sqCmp ⟨core, u⟩, fun u => .sqSkip ⟨core, u⟩, fun u => .sqLoop ⟨core, u⟩, fun u => .syWait ⟨core, u⟩,
   fun u => .syAdd ⟨core, u⟩, fun u => .sySub ⟨core, u⟩, fun u => .sySignal ⟨core, u⟩, fun u => .syFence ⟨core, u⟩,
   fun u => .syArrive ⟨core, u⟩, .mxMm core, .mxMmMasked core, .mxSetdim core, .vxAdd core, .vxMul core, .vxFma core, .vxMin core, .vxMax core, .vxCmp core, .vxSel core, .vxCvt core,
   .vxQuant core, .vxRed core, .vxCompress core, .vxExpand core, .vxMset core, .vxMlogic core, .vxWharf core, .vxSent core,
   .ldStream core, .ldGather core, .stStream core, .stScatter core, .stHalo core, .stPost core, .streamSlotFree core false,
   .streamSlotFree core true]

/-- The commands of the VXE's arithmetic pipe with the operations they issue (R84, R92). -/
def vxArithRows (core : Nat) (up : Upset) : List (Instr × (Nat → Bool)) :=
  [(.vxAdd core up, (· == vAdd)), (.vxMul core up, (· == vMul)), (.vxFma core up, (· == vFma)),
   (.vxMin core up, (· == vMin)), (.vxMax core up, (· == vMax)), (.vxCmp core up, isCmp),
   (.vxSel core up, (· == vSel)), (.vxCvt core up, (· == vCvt)), (.vxQuant core up, (· == vQuant)),
   (.vxRed core up, isRed), (.vxCompress core up, (· == vCompress)), (.vxExpand core up, (· == vExpand)),
   (.vxMset core up, (· == vMset)), (.vxMlogic core up, isMlogic)]

/-- The commands that start a stream, with its engine and the operations they issue (R137, R143). -/
def lsRows (core : Nat) (up : Upset) : List (Instr × Bool × (Nat → Bool)) :=
  [(.ldStream core up, false, (· == 1)), (.ldGather core up, false, (· == 2)), (.stStream core up, true, (· == 1)),
   (.stScatter core up, true, (· == 2)), (.stHalo core up, true, (· == 3)), (.stPost core up, true, (· == 4)),
   (.streamSlotFree core false up, false, fun _ => true), (.streamSlotFree core true up, true, fun _ => true)]

/-- The message that core `k` sends core `t` in this region cycle (R149, R234). -/
def State.msgTo (s : State) (k t : Nat) (link : Bool) (m : MsgKind) : Msg :=
  ⟨k, (s.getCore k).mindex, link, m, s.coreRc k + 3, s.instant + s.linkDelay k t⟩

/-- What a sync operation of core `k` in context `c` does, whether of an entry of its own (SOURCE 0) or bound to a
retirement (SOURCE 1): a wait nothing more; an add or sub of a core bollard joins its updates; one of a block bollard awaits
its acknowledgement and goes to the pair gate of an attached Paired context, otherwise to the control complex; a signal
leaves for its target; an arrival awaits its acknowledgement and leaves for the barrier unit (R152, R211, R230, R234, R238,
R242, R361). -/
def syEffect (k c source : Nat) (w : DWord) (s t : State) : Prop :=
  let v := fieldOf w 31 0
  let sub := decide (opOf w = 3)
  let add : Bool := opOf w = 2 || opOf w = 3
  let x := s.getCore k
  let y := t.getCore k
  (opOf w = 1 → y.bolOps = x.bolOps ∧ y.acks = x.acks ∧ netSame s t)
  ∧ (add = true → bitOf w 50 = false →
      y.bolOps = x.bolOps ++ [⟨fieldOf w 49 38 % 64, sub, v, source, x.mindex⟩] ∧ y.acks = x.acks ∧ netSame s t)
  ∧ (add = true → bitOf w 50 = true →
      let a := s.bbolAbs c (fieldOf w 49 38)
      y.bolOps = x.bolOps ∧ y.acks = x.acks ++ [s.nextId]
        ∧ (((s.getCtx c).paired = true ∧ s.pairState c = 1) →
            (t.getCtx c).gate = (s.getCtx c).gate ++ [⟨x.mindex, s.sideOf k, 3, none, some (a, sub, v), k, s.nextId⟩]
              ∧ netSame s t)
        ∧ (((s.getCtx c).paired = false ∨ s.pairState c ≠ 1) →
            (t.getCtx c).gate = (s.getCtx c).gate
              ∧ sends (.bbol ⟨a, sub, v, false, 0, x.mindex, [(k, s.nextId)]⟩) (.mem k) .control 0 1 s t))
  ∧ (opOf w = 4 → y.bolOps = x.bolOps ∧ y.acks = x.acks
      ∧ (s.physOf c (s.sideOf k) (fieldOf w 43 32) = none → netSame s t)
      ∧ ∀ tgt, s.physOf c (s.sideOf k) (fieldOf w 43 32) = some tgt →
          sends (.msg tgt (s.msgTo k tgt false (.add (fieldOf w 49 44) v false))) (.core k) (.core tgt) 2 1 s t)
  ∧ (opOf w = 0x10 → y.bolOps = x.bolOps ∧ y.acks = x.acks ++ [s.nextId]
      ∧ sends (.arrive c k s.nextId) (.mem k) .control 0 1 s t)

/-- Party `p` may write the register at window address `a`, and the page answers: the block has it and is not in reset or
QUIET, and the page tag allows it (R338, R449, R450, R459). -/
abbrev State.admits (s : State) (p : Party) (a : Nat) : Prop :=
  a < 0x800000 ∧ s.answers a = true ∧ ((pageOf a).1 = 1 → s.inReset = false)
    ∧ regKind (pageOf a).1 (a % 0x1000) ≠ .none_ ∧ mayWrite (pageOf a).1 (a % 0x1000) p = true

/-- The code of the last fault that a page reports (R357). -/
def State.faultCode (s : State) (page : Nat) : Nat := fieldOf (s.rd (page + oFCODE)) 11 0

/-- The memories outside the block, the clocks, the build and the waiting commands are the same. -/
def outsideSame (s t : State) : Prop :=
  t.devMem = s.devMem ∧ t.hostMem = s.hostMem ∧ t.clk = s.clk ∧ t.build = s.build ∧ t.pending = s.pending

/-- No context but `c` differs, nor anything outside. -/
def ctxFrame (c : Nat) (s t : State) : Prop := (∀ d, d ≠ c → t.getCtx d = s.getCtx d) ∧ t.region = s.region ∧ outsideSame s t

/-- No queue but `q` differs, nor a core, a region or anything outside. -/
def queueFrame (q : Nat) (s t : State) : Prop :=
  (∀ j, j ≠ q → t.getQueue j = s.getQueue j) ∧ t.core = s.core ∧ t.region = s.region ∧ outsideSame s t

/-- No region but `r` differs, nor anything outside. -/
def regionFrame (r : Nat) (s t : State) : Prop := (∀ x, x ≠ r → t.getRegion x = s.getRegion x) ∧ outsideSame s t

/-- The command `c` of the top buffer `f`, above the buffers `fs`, of the item `e` that queue `q` executes may start: its
context is RUNNING, the item has not failed and waits for nothing, and the command is legal, in a task also one that a task
may use (R309, R313, R321). -/
abbrev State.mayCommand (s : State) (q : Nat) (e : Exec) (f : CFrame) (fs : List CFrame) (c : Cmd) : Prop :=
  q < 64 ∧ s.awake = true ∧ s.ctxState (s.qCtx q) = 2 ∧ s.execOf q = some e ∧ e.stack = f :: fs ∧ f.cmds[f.pc]? = some c
    ∧ e.waiting = false ∧ e.failed = none ∧ (e.task = true → c.op ≠ 1 ∧ c.op ≠ 0x10 ∧ c.op ≠ 0x11) ∧ cmdOk c = true

/-- The queue as a command finds it: the command's start is noted, and the wait of an RT item whose first command is no
LAUNCH is over (R319, R322). -/
def State.atCommand (s : State) (q : Nat) (c : Cmd) : State :=
  (if s.qRt q ∧ c.op ≠ 1 then s.rtEnd q else s).modExec q fun e => { e with start := s.sched (s.qCtx q) }

/-- A command stands at place `pc` of a buffer, inside the LOOP that runs, if one does (R313). -/
abbrev CFrame.goesOn (f : CFrame) (pc : Nat) : Prop := pc < (f.loops.head?).elim f.cmds.length fun lp => lp.stop

/-- The item once its command has run: the one at place `pc` follows. -/
def Exec.past (e : Exec) (f : CFrame) (fs : List CFrame) (pc now : Nat) : Exec :=
  { e with start := now, waiting := false, deposit := none, stack := { f with pc := pc } :: fs }

/-- The Basin of region `r` takes the request `q` next, and its context has not lost it (R126, R325). -/
def State.basinTakes (s : State) (r : Nat) (q : LineReq) : Prop :=
  s.nextRequest (s.getRegion r).requests = some q ∧ s.fresh q.ctx q.epoch = true
    ∧ ((s.getRegion r).served.1 = s.rcOf r → (s.getRegion r).served.2 < 4)

/-- A packet waits at node `n` for its answer's way, not before cycle `ready` (R250, R255). -/
def sendsAt (n : Node) (load : Load) (src dst : Port) (vc len ready : Nat) (s t : State) : Prop :=
  t.net = (s.injectAt n load src dst vc len ready false).net ∧ t.nextPkt = s.nextPkt + 1

/-- The segments of core `k` that a mask in the layout of BERTH_GATE names read as zero, and every other byte of the berths
is as it was (R117, R119). -/
def segmentsZeroed (k : Nat) (m : Word) (s t : State) : Prop :=
  ∀ b < 3, ((s.getCore k).space b).wf = true → ∀ a,
    ((t.getCore k).space b).get a =
      if (List.range 8).any fun g => bitOf m (8 * b + g) && decide (g * s.segBytes b ≤ a) && decide (a < (g + 1) * s.segBytes b)
      then 0 else ((s.getCore k).space b).get a

end Sys2Proof.Machine
end

