-- ==== Sys2Proof/Certificates/Slice0/Obligations.lean ====
section
/-! DEFINITION. The statements for the provers. Each docstring says which rule of the manual the statement formalises. -/

open Sys2Proof Sys2Proof.Machine

/-- With command c at the front of the queue, step is exec of c on the state with the rest of the queue; on an empty
queue it is a quarter of a tick (the model's choice, log 1). (00_scope.md, 95_what_each_step_holds.md.) -/
def Obligations.StepRunsFrontCommand : Prop :=
  (∀ (c : Instr) (l : List Instr) (s : State), s.pending = c :: l → step s = exec c { s with pending := l })
    ∧ ∀ s : State, s.pending = [] → step s = .next s.tick

/-- Reset has a legal build, region clocks with no part of a cycle begun, and the tide at 0. (R4, R161, R381.) -/
def Obligations.InvariantHoldsAtReset : Prop :=
  State.Inv State.reset

/-- If a state has a legal build, region-clock phases below 250, quarters of a tick below 4 and the tide at 0 while it has not been started, so has
every state that a step reaches. (R4, R161, R381.) -/
def Obligations.EveryStepKeepsInvariant : Prop :=
  ∀ s t : State, s.Inv → step s = .next t → t.Inv

/-- exec of a command answers a next state exactly when the command is well formed for the build; otherwise it stops
with absentPart (the model's choice, log 3). No command is refused. (R4, R5, R8, R450.) -/
def Obligations.WellFormedCommandsNeverStop : Prop :=
  ∀ (i : Instr) (s : State),
    (i.wellFormed s.build = true → ∃ t, exec i s = .next t)
    ∧ (i.wellFormed s.build = false → exec i s = .fault .absentPart)

/-- Whatever command runs, the build, ROOT_KEY_DIGEST, UNIQUE_ID, the period of the quay clock and the commands that wait are
as before. (R4, R422, R423.) -/
def Obligations.CommandsKeepSiliconAndQueue : Prop :=
  ∀ (i : Instr) (s t : State), exec i s = .next t →
    t.build = s.build ∧ t.rootKey = s.rootKey ∧ t.uniqueId = s.uniqueId ∧ t.quayPs = s.quayPs ∧ t.pending = s.pending

/-- While the tide runs, no step lowers the count, and none but the passage of time and the forward step of a convoy raises it,
unless the step is RESET_N falling, a loss of power or bring-up, which start it anew. Every fourth quarter of a tick raises it by 1. (R161,
R414, R374, R447, log 1.) -/
def Obligations.TideNeverMovesBackward : Prop :=
  ∀ s t : State, step s = .next t → s.clk.running = true →
    (s.pending.head? = some .resetAssert ∨ s.pending.head? = some .lossOfPower
      ∨ ∃ e, s.pending.head? = some (.bringUp e))
    ∨ (t.clk.running = true ∧ s.clk.tide ≤ t.clk.tide
        ∧ (s.pending = [] → t.clk.tide = s.clk.tide + (if s.clk.quarter < 3 then 0 else 1))
        ∧ (s.pending ≠ [] → s.pending.head? ≠ some .tideForwardStep → t.clk = s.clk))

/-- While the clock of a core's region does not run, or the region is frozen, a command of that core's engines leaves
the whole state as it was; so does a Basin command of such a region. (R374, R443, R481.) -/
def Obligations.StoppedRegionClockHoldsCores : Prop :=
  ∀ (core : Nat) (s : State), core < s.build.physCores → s.clocked (s.regionOf core) = false →
    (∀ up, (∀ e ∈ entryRows core, exec (e up) s = .next s) ∧ exec (.lineDeposit ⟨core, up⟩) s = .next s)
    ∧ (∀ i ∈ [Instr.mxRetire core, .vxRetire core, .retirementBoundOp core, .fenceComplete core, .segmentReady core,
        .segmentPowerDown core, .planeSwitch core, .holdArrival core], exec i s = .next s)
    ∧ (∀ v l ok, exec (.wharfResultGroup core v l ok) s = .next s)
    ∧ (∀ st slot up, slot < 4 → exec (.chunkWaitMet core st slot) s = .next s ∧ exec (.lineRequest core st slot up) s = .next s
        ∧ exec (.indexWordRead ⟨core, up⟩ st slot) s = .next s ∧ exec (.chunkComplete core st slot) s = .next s)
    ∧ (∀ src up link, src < s.build.physCores → exec (.haloDelivery ⟨core, up⟩ src) s = .next s
        ∧ exec (.postWriteArrival ⟨core, up⟩ src) s = .next s ∧ exec (.signalArrival core src link) s = .next s
        ∧ exec (.fenceProbe core src) s = .next s)
    ∧ ∀ found, s.regionOf core < s.build.regions → exec (.basinRequest (s.regionOf core) found) s = .next s
        ∧ exec (.basinFillComplete (s.regionOf core)) s = .next s ∧ exec (.wayUseChange (s.regionOf core)) s = .next s

/-- When the sequencer's head may issue, sq.ld writes IMM, sq.inc and sq.dec the counter plus or minus 1, sq.addi the
counter plus IMM, modulo 2^32, to c[C] alone; in the same region cycle every reader still sees the counters as they
were; the comparators, berths, other cores and memories are unchanged. (R167, R201, R202.) -/
def Obligations.SequencerWritesCounter : Prop :=
  ∀ (core : Nat) (s : State) (h : Head) (i : Instr) (v : Word) (up : Upset), s.runs core → chartClean up →
    let c := fieldOf h.word 55 53
    ((i = .sqLd ⟨core, up⟩ ∧ s.readyHead core 0 0x01 = some h ∧ v = word (fieldOf h.word 31 0))
      ∨ (i = .sqInc ⟨core, up⟩ ∧ s.readyHead core 0 0x02 = some h ∧ v = word (s.ctr core c) + 1)
      ∨ (i = .sqDec ⟨core, up⟩ ∧ s.readyHead core 0 0x03 = some h ∧ v = word (s.ctr core c) - 1)
      ∨ (i = .sqAddi ⟨core, up⟩ ∧ s.readyHead core 0 0x04 = some h
          ∧ v = word (s.ctr core c) + word (fieldOf h.word 31 0))) →
    ∃ t, exec i s = .next t
      ∧ Tab.get 0 (t.getCore core).ctr c = v
      ∧ (∀ j, j ≠ c → Tab.get 0 (t.getCore core).ctr j = Tab.get 0 (s.getCore core).ctr j)
      ∧ (t.getCore core).cmp = (s.getCore core).cmp
      ∧ (∀ j, t.ctr core j = (Tab.get 0 (s.getCore core).ctr j).toNat)
      ∧ berthsSame core s t ∧ coreFrame core s t ∧ netSame s t

/-- When the sequencer's head may issue, sq.cmp sets k[K] to c[CA] P x, with x the counter CB under SRC 1 and IMM under
SRC 0; the other comparators, the counters, the berths and the other cores are unchanged. (R167, R201, R202.) -/
def Obligations.SequencerWritesComparator : Prop :=
  ∀ (core : Nat) (s : State) (h : Head) (up : Upset), s.runs core → chartClean up → s.readyHead core 0 0x08 = some h →
    let w := h.word
    let x : Word := if bitOf w 46 then word (s.ctr core (fieldOf w 45 43)) else word (fieldOf w 31 0)
    let k := fieldOf w 55 54
    ∃ t, exec (.sqCmp ⟨core, up⟩) s = .next t
      ∧ Tab.get false (t.getCore core).cmp k
          = predHolds (fieldOf w 50 48) (bitOf w 47) (word (s.ctr core (fieldOf w 53 51))) x
      ∧ (∀ j, j ≠ k → Tab.get false (t.getCore core).cmp j = Tab.get false (s.getCore core).cmp j)
      ∧ (t.getCore core).ctr = (s.getCore core).ctr
      ∧ (∀ j, t.cmpBit core j = Tab.get false (s.getCore core).cmp j)
      ∧ berthsSame core s t ∧ coreFrame core s t ∧ netSame s t

/-- When the sequencer's head may issue, sq.skip records 0 when k[K] equals SENSE and 1 otherwise, and sq.loop records
the count of active passes c[C], if that is at most MAX_M1 + 1, each for its own instance and with the region cycle of the
issue; no counter or comparator changes. (R203, R204, R216.) -/
def Obligations.SequencerDecidesOnce : Prop :=
  ∀ (core : Nat) (s : State) (h : Head) (p : Prog) (up : Upset), s.runs core → chartClean up → s.prog? core h.num = some p →
    (s.readyHead core 0 0x10 = some h →
      ∃ t, exec (.sqSkip ⟨core, up⟩) s = .next t
        ∧ t.prog? core h.num = some { p with decisions := p.decisions
            ++ [(h.inst, if s.cmpBit core (fieldOf h.word 55 54) = bitOf h.word 53 then 0 else 1, s.coreRc core)] }
        ∧ (t.getCore core).ctr = (s.getCore core).ctr ∧ (t.getCore core).cmp = (s.getCore core).cmp
        ∧ berthsSame core s t ∧ coreFrame core s t)
    ∧ (s.readyHead core 0 0x11 = some h → s.ctr core (fieldOf h.word 55 53) ≤ fieldOf h.word 15 0 + 1 →
      ∃ t, exec (.sqLoop ⟨core, up⟩) s = .next t
        ∧ t.prog? core h.num = some { p with decisions := p.decisions
            ++ [(h.inst, s.ctr core (fieldOf h.word 55 53), s.coreRc core)] }
        ∧ (t.getCore core).ctr = (s.getCore core).ctr ∧ (t.getCore core).cmp = (s.getCore core).cmp
        ∧ berthsSame core s t ∧ coreFrame core s t)

/-- When sq.loop issues with a count above MAX_M1 + 1, the CORE page records code 0x200 with TAG in FAULT_INFO [31:16]
and LINE in [15:0], the core is STOPPED, and no decision is recorded, so no bundle of the body executes. (R206.) -/
def Obligations.LoopCountBeyondMaximumTrips : Prop :=
  ∀ (core : Nat) (s : State) (h : Head) (up : Upset), s.runs core → chartClean up → s.readyHead core 0 0x11 = some h →
    fieldOf h.word 15 0 + 1 < s.ctr core (fieldOf h.word 55 53) →
    h.bundle.tag < 2 ^ 16 → h.bundle.line < 2 ^ 16 →
    ∃ t, exec (.sqLoop ⟨core, up⟩) s = .next t
      ∧ fieldOf (t.rd (coreP core + oFCODE)) 11 0 = 0x200
      ∧ fieldOf (t.rd (coreP core + oFINFO)) 31 16 = h.bundle.tag
      ∧ fieldOf (t.rd (coreP core + oFINFO)) 15 0 = h.bundle.line
      ∧ (t.getCore core).state = 2
      ∧ t.prog? core h.num = s.prog? core h.num

/-- When the MXE's head may issue, the array is free, and the issue check passes, the instruction becomes a run of the
array with its descriptor as snapshot and what the checkers will find in it; B tiles are counted, MX_INSTR rises by 1, and
MX_FALLBACK rises by 1 exactly for an mx.mm whose N or K is no multiple of the tile; berths and other cores are unchanged.
With a double-bit error in a word it reads it does not enter, and the core stops with 0x231. A row of a product that no
checker stops is accumulated D - 1 cycles after its entry, and its writes land in the cycle after. (R63, R64, R66, R71,
R74, R75, R78, R83, R122.) -/
def Obligations.MatrixProductEntersArray : Prop :=
  (∀ (core : Nat) (s : State) (h : Head) (raw : List Byte) (i : Instr) (masked : Bool) (op : Nat) (up : Upset), s.runs core →
    chartClean up → (i, masked, op) ∈ [(Instr.mxMm core up, false, 0x01), (.mxMmMasked core up, true, 0x02)] →
    s.readyHead core 1 op = some h → s.arrayFree core = true →
    State.mxdAt h.prog (fieldOf h.word 55 49) = some raw → mxReserved raw = false →
    let d := MxDesc.of raw
    let u := s.issued core 1 h
    d.formatFault = none → u.mxCheck core d (u.mxBatch core h) = .ok →
    let counted := fun (t : State) => t.rd (cnt core 8) = satAdd (s.rd (cnt core 8)) 1
      ∧ t.rd (cnt core 9) = satAdd (s.rd (cnt core 9)) d.b
      ∧ t.rd (cnt core 11) = (if masked = false ∧ (d.n % d.cls.nt ≠ 0 ∨ d.k % d.cls.kt ≠ 0)
          then satAdd (s.rd (cnt core 11)) 1 else s.rd (cnt core 11))
      ∧ berthsSame core s t ∧ coreFrame core s t
    ((∀ b a, up ≠ .berthUe b a) → ∃ t, exec i s = .next t
      ∧ (t.getCore core).mx = (s.getCore core).mx
          ++ [u.mxRun core h (fieldOf h.word 55 49) raw (State.mxStop up)]
      ∧ (t.getCore core).tile = (s.getCore core).tile + d.b ∧ counted t)
    ∧ ∀ b a, up = .berthUe b a → ∃ t, exec i s = .next t ∧ (t.getCore core).mx = (s.getCore core).mx
      ∧ fieldOf (t.rd (coreP core + oFCODE)) 11 0 = 0x231 ∧ (t.getCore core).state = 2 ∧ counted t)
  ∧ ∀ (core rc : Nat) (s : State) (run : Run) (j : MxJob) (w : MxRow), (s.getCore core).state = 1 →
    (s.getCore core).mx = [run] → run.mx = some j → run.dead = false → j.stop = none → (s.getCore core).mxLands = [] →
    let d := MxDesc.of j.raw
    j.flight = [w] → run.issue + w.num + d.delay = rc → run.issue + d.rowCount + 1 ≤ rc →
    let r := (s.getCore core).mxAccumulate run j [] w
    let t := s.mxCycle core rc
    (t.getCore core).mxLands = [r.1] ∧ r.1.rc = rc + 1 ∧ r.1.space = 2
      ∧ t.rd (coreP core + 0x54) = s.rd (coreP core + 0x54) ||| r.2.1
      ∧ t.rd (cnt core 3) = satAdd (s.rd (cnt core 3)) r.2.2 ∧ berthsSame core s t ∧ coreFrame core s t

/-- When the MXE's head may issue and the descriptor exists, mx.setdim sets counter plus offset, less 1, down for the
dimension's field of that descriptor alone, if the value lies in 1 to the dimension's maximum; it is written at the end of
the region cycle, behind every chart write of that cycle, into the table of the stream. Otherwise the core stops with 0x216
and the descriptor is as before. (R65, R220.) -/
def Obligations.SetdimWritesOneDimension : Prop :=
  (∀ (core : Nat) (s : State) (h : Head) (up : Upset), s.runs core → chartClean up → s.readyHead core 1 0x08 = some h →
    let desc := fieldOf h.word 55 49
    let f := State.dimField (fieldOf h.word 48 47)
    let v : Int := (s.ctr core (fieldOf h.word 46 44) : Int) + signed 16 (fieldOf h.word 43 28)
    desc < h.prog.mxd.length / 64 →
    ((1 ≤ v ∧ v ≤ (f.2 : Int)) →
      ∃ t, exec (.mxSetdim core up) s = .next t
        ∧ (t.getCore core).dimOps = (s.getCore core).dimOps ++ [(h.num, desc, f.1, leBytes 2 (v.toNat - 1))]
        ∧ t.prog? core h.num = s.prog? core h.num ∧ berthsSame core s t ∧ coreFrame core s t)
    ∧ ((v < 1 ∨ (f.2 : Int) < v) →
      ∃ t, exec (.mxSetdim core up) s = .next t ∧ (t.getCore core).dimOps = (s.getCore core).dimOps
        ∧ t.prog? core h.num = s.prog? core h.num ∧ fieldOf (t.rd (coreP core + oFCODE)) 11 0 = 0x216
        ∧ (t.getCore core).state = 2))
  ∧ ∀ (core num desc off i : Nat) (s : State) (l : List Byte) (p : Prog) (y : ChartSect),
    (s.getCore core).chartOps = [] → (s.getCore core).dimOps = [(num, desc, off, l)] →
    ((s.getCore core).progs.find? fun e => e.1 = num) = some (num, p) →
    State.sectIndex (s.getCore core) p 2 = some i → (s.getCore core).sects[i]? = some y →
    let t := s.chartFlush core
    (t.getCore core).sects = (s.getCore core).sects.set i { y with bytes := patchAt y.bytes (64 * desc + off) l }
      ∧ (t.getCore core).dimOps = [] ∧ (t.getCore core).progs = (s.getCore core).progs
      ∧ (t.getCore core).wb = (s.getCore core).wb ∧ (t.getCore core).ab = (s.getCore core).ab
      ∧ (t.getCore core).pb = (s.getCore core).pb ∧ coreFrame core s t

/-- When a run of the MXE or the VXE is finished it leaves its engine, and a VXE run with FW 1 writes its flag word and stamp
to its record in AB, which lands at the end of the region cycle; the berths and all other writes on their way stay. A core
that has stopped retires no product. (R65, R75, R76, R99, R102.) -/
def Obligations.EngineRunRetires : Prop :=
  ∀ (core : Nat) (s : State) (r : Run) (rest : List Run), s.runs core →
    (State.dueRun (s.coreRc core) (s.getCore core).mx = some (r, rest) → (s.getCore core).state = 1 →
      ∃ t, exec (.mxRetire core) s = .next t ∧ (t.getCore core).mx = rest
        ∧ (t.getCore core).mxLands = (s.getCore core).mxLands ∧ (t.getCore core).ldLands = (s.getCore core).ldLands
        ∧ berthsSame core s t ∧ coreFrame core s t)
    ∧ ((s.getCore core).state ≠ 1 → exec (.mxRetire core) s = .next s)
    ∧ (State.dueRun (s.coreRc core) (s.getCore core).vx = some (r, rest) →
      ∃ t, exec (.vxRetire core) s = .next t ∧ (t.getCore core).vx = rest
        ∧ (t.getCore core).vxLands = (s.getCore core).vxLands
        ∧ (t.getCore core).ldLands = (s.getCore core).ldLands ++ (match r.record with
            | some i => [⟨s.coreRc core, 1, putsOf ((s.rd (coreP core + 0x50)).toNat + 8 * (i % 64))
                (leBytes 4 r.flags.toNat ++ leBytes 4 r.stamp), []⟩]
            | none => [])
        ∧ (t.getCore core).wb = (s.getCore core).wb ∧ (t.getCore core).ab = (s.getCore core).ab
        ∧ (t.getCore core).pb = (s.getCore core).pb ∧ coreFrame core s t)

/-- When the VXE's head may issue, nothing in the pipe stands in its way and the issue check passes, each of the
fourteen arithmetic, compare, select, convert, quantise, reduce, compress, expand and mask instructions becomes a
run of the pipe, VX_INSTR rises by 1, and berths and other cores are unchanged; with a double-bit error in a word it reads it
does not enter, and the core stops with 0x231. In each region cycle of an instruction that goes beat by beat, the next beat
reads its operands, and its writes land after the latency; its flags are collected and VX_BEATS rises by 1. (R84, R85, R92,
R99, R100, R101, R102, R110, R122.) -/
def Obligations.VectorInstructionEntersPipe : Prop :=
  (∀ (core : Nat) (s : State) (h : Head) (p : VPlan) (up : Upset) (e : Instr × (Nat → Bool)), s.runs core → chartClean up →
    e ∈ vxArithRows core up →
    s.head? core 2 = some h → e.2 (opOf h.word / 4) = true → s.ready core 2 h = true → s.vxGate core h = 0 →
    let u := s.issued core 2 h
    u.vxPlan core h = .ok p → u.vxRanges core p.ranges = .ok → p.v.op ≠ vWharf → p.v.op ≠ vSent →
    ((∀ b a, up ≠ .berthUe b a) →
      ∃ t r, exec e.1 s = .next t
        ∧ (t.getCore core).vx = (s.getCore core).vx ++ [r]
        ∧ (let w := u.vxRecord core (State.hasRecord p); r = w.2.vxRun core h p up w.1)
        ∧ r.issue = s.coreRc core ∧ r.pipe = 1 ∧ r.dests = p.dests ∧ r.dead = false
        ∧ r.record = (if p.v.op ≠ vMset ∧ isMlogic p.v.op = false ∧ p.v.fw = true then some (s.getCore core).records else none)
        ∧ t.rd (cnt core 13) = satAdd (s.rd (cnt core 13)) 1
        ∧ berthsSame core s t ∧ coreFrame core s t)
    ∧ ∀ b a, up = .berthUe b a → ∃ t, exec e.1 s = .next t ∧ (t.getCore core).vx = (s.getCore core).vx
        ∧ fieldOf (t.rd (coreP core + oFCODE)) 11 0 = 0x231 ∧ (t.getCore core).state = 2
        ∧ t.rd (cnt core 13) = satAdd (s.rd (cnt core 13)) 1 ∧ berthsSame core s t ∧ coreFrame core s t)
  ∧ ∀ (core o : Nat) (s : State) (r : Run) (j : VJob), r.vx = some j → r.wharf = none → r.dead = false → o < r.occ →
    j.stop = none → j.plan.v.op ≠ vSent → isRed j.plan.v.op = false → j.plan.q = none → j.two = false →
    let m := (State.vxEnvOf (s.getCore core) j).beat j.plan o j.plan.beats
    let t := State.vxRunCycle (r.issue + o) s core r
    (t.getCore core).vxLands = (s.getCore core).vxLands ++ m.puts.map (fun p => ⟨r.issue + o + r.lat, p.1, p.2, []⟩)
      ∧ t.rd (coreP core + 0x58) = s.rd (coreP core + 0x58) ||| m.flags
      ∧ t.rd (cnt core 14) = satAdd (s.rd (cnt core 14)) 1 ∧ berthsSame core s t ∧ coreFrame core s t

/-- When the VXE's head may issue and its checks pass, vx.wharf becomes a run of the Wharf pipe that awaits ceil(N/16)
result groups in order, and vx.sent becomes a run of the arithmetic pipe; in both VX_INSTR rises by 1 and the berths are
unchanged. (R104, R106, R280.) -/
def Obligations.WharfAndSentinelEnterVxe : Prop :=
  ∀ (core : Nat) (s : State) (h : Head) (p : VPlan) (up : Upset), s.runs core → chartClean up → (∀ b a, up ≠ .berthUe b a) →
    s.head? core 2 = some h → s.ready core 2 h = true → s.vxGate core h = 0 →
    let u := s.issued core 2 h
    u.vxPlan core h = .ok p → u.vxRanges core p.ranges = .ok → p.v.op = opOf h.word / 4 →
    (opOf h.word / 4 = vWharf → p.d.isSome = true →
      ∃ t r, exec (.vxWharf core up) s = .next t ∧ (t.getCore core).vx = (s.getCore core).vx ++ [r]
        ∧ r.pipe = 2 ∧ r.issue = s.coreRc core
        ∧ r.occ = (p.v.n + 15) / 16 * max 1 (s.getCore core).plane.div
        ∧ (r.wharf.map (·.groups)) = some (List.range ((p.v.n + 15) / 16)) ∧ r.dead = false
        ∧ t.rd (cnt core 13) = satAdd (s.rd (cnt core 13)) 1 ∧ berthsSame core s t ∧ coreFrame core s t)
    ∧ (opOf h.word / 4 = vSent →
      ∃ t r, exec (.vxSent core up) s = .next t ∧ (t.getCore core).vx = (s.getCore core).vx ++ [r]
        ∧ r.issue = s.coreRc core ∧ r.pipe = 1 ∧ r.record = none ∧ r.dead = false
        ∧ t.rd (cnt core 13) = satAdd (s.rd (cnt core 13)) 1 ∧ berthsSame core s t ∧ coreFrame core s t)

/-- In the Wharf cycle in which a run awaits the results of a group, a valid group with good parity is taken: its writes are
on their way, its flags are collected and the next group is awaited; a group that does not come then is core fault 0x227,
one with bad parity 0x221, and the run ends. In any other cycle a valid group only counts in WHARF_SPURIOUS and no group
is nothing. (R104, R107, R279, R280.) -/
def Obligations.WharfResultGroupIsTaken : Prop :=
  ∀ (core : Nat) (s : State) (valid ok : Bool) (words : List Word), s.runs core →
    (∀ (r : Run) (w : WharfRun) (g : Nat) (rest : List Nat), (s.getCore core).vx = [r] → r.wharf = some w →
      w.groups = g :: rest → r.dead = false →
      r.issue + (g + w.lat) * w.div ≤ s.coreRc core → s.coreRc core < r.issue + (g + 1 + w.lat) * w.div →
      (valid = true → ok = true →
        let l := State.wharfLand r.stamp w g words
        ∃ t, exec (.wharfResultGroup core valid words ok) s = .next t
          ∧ (t.getCore core).vx = [{ r with wharf := some { w with groups := rest }, flags := r.flags ||| l.2 }]
          ∧ (t.getCore core).vxLands = (s.getCore core).vxLands
              ++ [⟨r.issue + (g + 1 + w.lat) * w.div + 3, w.space, l.1, []⟩]
          ∧ t.rd (coreP core + 0x58) = s.rd (coreP core + 0x58) ||| l.2
          ∧ berthsSame core s t ∧ coreFrame core s t)
      ∧ ((valid = false ∨ ok = false) →
        ∃ t r', exec (.wharfResultGroup core valid words ok) s = .next t ∧ (t.getCore core).vx = [r'] ∧ r'.dead = true
          ∧ fieldOf (t.rd (coreP core + oFCODE)) 11 0 = (if valid then 0x221 else 0x227)
          ∧ (t.getCore core).vxLands = (s.getCore core).vxLands ∧ berthsSame core s t ∧ coreFrame core s t))
    ∧ ((∀ r ∈ (s.getCore core).vx, State.wharfDue (s.coreRc core) r = none) →
      (valid = true → ∃ t, exec (.wharfResultGroup core valid words ok) s = .next t
        ∧ t.rd (cnt core 31) = satAdd (s.rd (cnt core 31)) 1
        ∧ t.core = s.core ∧ (∀ a, a ≠ cnt core 31 → t.rd a = s.rd a) ∧ coreFrame core s t)
      ∧ (valid = false → exec (.wharfResultGroup core valid words ok) s = .next s))

/-- When the load or store engine's head may issue, a slot is free and the checks of R144 pass, the stream stands in that slot
with its descriptor, planes and target, or with a plane count of 0 retires at once; this holds for ld.stream, ld.gather,
st.stream, st.scatter, st.halo, st.post, and for the entry that waited for the slot. (R137, R143, R144, R149, R150.) -/
def Obligations.StreamTakesFreeSlot : Prop :=
  ∀ (core : Nat) (s : State) (h : Head) (slot : Nat) (raw : List Byte) (up : Upset) (e : Instr × Bool × (Nat → Bool)),
    s.runs core → chartClean up → e ∈ lsRows core up →
    let eng := if e.2.1 then 4 else 3
    s.head? core eng = some h → e.2.2 (opOf h.word) = true → s.ready core eng h = true →
    s.freeSlot core e.2.1 = some slot → State.lsdAt h.prog (fieldOf h.word 55 49) = some raw →
    let u := s.issued core eng h
    u.lsCheck core e.2.1 h raw = .ok →
    ((u.lsStream core e.2.1 h raw).n ≠ 0 →
      ∃ t, exec e.1 s = .next t
        ∧ t.streamAt core e.2.1 slot = some (u.lsStream core e.2.1 h raw)
        ∧ (∀ j, j ≠ slot → t.streamAt core e.2.1 j = s.streamAt core e.2.1 j)
        ∧ (∀ j, t.streamAt core (!e.2.1) j = s.streamAt core (!e.2.1) j)
        ∧ berthsSame core s t ∧ coreFrame core s t ∧ netSame s t)
    ∧ ((u.lsStream core e.2.1 h raw).n = 0 → (s.getCore core).fences = [] →
      ∃ t, exec e.1 s = .next t ∧ (∀ st j, t.streamAt core st j = s.streamAt core st j)
        ∧ berthsSame core s t ∧ coreFrame core s t)

/-- A met wait opens the chunk that the stream has reached. A load stream whose turn it is asks its region's Basin for one
line of its row, and the line counts as outstanding in its chunk; a store stream sends one when the read port has delivered
its bytes; a posted write sends its line to the target core. A skipped plane asks for nothing. An index word in AB is read
and taken into the stream, one in memory is asked for. (R138, R139, R142, R143, R147, R148, R150.) -/
def Obligations.StreamMovesOn : Prop :=
  ∀ (core slot : Nat) (s : State) (x : Stream) (up : Upset), s.runs core → slot < 4 →
    let d := LsDesc.of x.body
    let cnt_ := fun (ext : Int) => LsDesc.lineCount (d.rowLen (x.req = 1)) ext
    let outs := fun (y : Stream) => Tab.put y.outs (x.plane / d.chunk) (Tab.get 0 x.outs (x.plane / d.chunk) + 1)
    let turn := fun (store : Bool) => s.turnOf core store = some slot
      ∧ ((s.getCore core).lineRc.any fun t => t.1 = (if store then 1 else 0) && t.2 = s.coreRc core) = false
      ∧ State.trackers (s.getCore core) store < 512
    let u := fun (store : Bool) => s.modCore core fun y =>
      { y with lineRc := Tab.put y.lineRc (if store then 1 else 0) (s.coreRc core),
               lastSlot := Tab.put y.lastSlot (if store then 1 else 0) slot }
    (∀ (store : Bool) (b : Nat), s.streamAt core store slot = some x → d.waitBol = some b →
      let c := x.plane / d.chunk
      x.plane < x.n → x.halted = false → State.chunkOpen x d c = false → s.coreIssues core = true →
      (State.chunkThreshold d c ≤ s.bol core b →
        ∃ t, exec (.chunkWaitMet core store slot) s = .next t
          ∧ t.streamAt core store slot = some { x with met := c + 1 } ∧ berthsSame core s t ∧ coreFrame core s t)
      ∧ (s.bol core b < State.chunkThreshold d c → exec (.chunkWaitMet core store slot) s = .next s))
    ∧ (∀ (store : Bool) (c xp pa : Nat) (v : State), s.streamAt core store slot = some x → (s.getCore core).ctx = some c →
      (store = true → x.op < 3) → turn store →
      State.planeValue x d x.plane = some xp → (d.indexed = true → xp ≠ 2 ^ 32 - 1) →
      let ext := State.nextExt x d store xp
      let ln := LsDesc.lineAt (d.rowLen (x.req = 1)) ext x.line
      0 ≤ ln.1 → (u store).translate c ln.1.toNat store = (.ok pa, v) → pa < 2 ^ 40 →
      let r := v.lineFor core c store slot x d ext ln pa
      (store = false →
        ∃ t, exec (.lineRequest core store slot up) s = .next t
          ∧ sends (.line r) (.mem core) (.basin (s.regionOf core)) 2 1 s t
          ∧ r.pa = pa ∧ r.len = ln.2 ∧ r.core = core ∧ r.store = false ∧ r.ctx = c ∧ r.hint = d.hint ∧ r.what = 0
          ∧ t.streamAt core store slot = some { State.stepLine x d (cnt_ ext) with outs := outs x }
          ∧ berthsSame core s t ∧ coreFrame core s t)
      ∧ (∀ y z, store = true → v.readLine core x d r.baddr ln.2 up = (y, .none, z) →
        ∃ t, exec (.lineRequest core store slot up) s = .next t
          ∧ sends (.line { r with data := y.part, len := y.part.length }) (.mem core) (.basin (s.regionOf core)) 2
              (State.flitsOf y.part.length) s t
          ∧ r.pa = pa ∧ r.core = core ∧ r.store = true ∧ r.ctx = c ∧ r.hint = d.hint ∧ r.what = 0
          ∧ t.streamAt core store slot = some { State.stepLine y d (cnt_ ext) with outs := outs x }
          ∧ (t.getCore core).acks = (s.getCore core).acks ++ [r.id] ∧ t.rd (cnt core 20) = satAdd (s.rd (cnt core 20)) 1
          ∧ berthsSame core s t ∧ coreFrame core s t))
    ∧ (∀ (c xp tgt : Nat) (y : Stream) (z : State), s.streamAt core true slot = some x → (s.getCore core).ctx = some c →
      x.op = 4 → x.link = false → x.target = some tgt → x.sent = 0 → turn true → State.planeValue x d x.plane = some xp →
      (d.indexed = true → xp ≠ 2 ^ 32 - 1) →
      let ext := State.nextExt x d true xp
      let ln := LsDesc.lineAt (d.rowLen (x.req = 1)) ext x.line
      let a := (d.berthAt (x.req = 1) x.p0 x.plane x.row + (ln.1 - ext)).toNat
      (u true).readLine core x d a ln.2 up = (y, .none, z) → y.part.length = ln.2 → ln.2 ≠ 0 → y.sent = 0 →
      ∃ t, exec (.lineRequest core true slot up) s = .next t
        ∧ sends (.msg tgt (s.msgTo core tgt false (.words (d.xaddr / 2 ^ 32 % 4) ln.1.toNat y.part))) (.core core) (.core tgt) 2
            (State.flitsOf y.part.length) s t
        ∧ t.streamAt core true slot = some (State.stepLine { y with sent := ln.2 } d (cnt_ ext))
        ∧ t.rd (cnt core 20) = satAdd (s.rd (cnt core 20)) 1 ∧ berthsSame core s t ∧ coreFrame core s t)
    ∧ (∀ (store : Bool) (c : Nat), s.streamAt core store slot = some x → (s.getCore core).ctx = some c →
      d.indexed = true → State.planeValue x d x.plane = some (2 ^ 32 - 1) → s.coreIssues core = true → x.halted = false →
      x.plane < x.n → State.chunkOpen x d (x.plane / d.chunk) = true →
      ∃ t, exec (.lineRequest core store slot up) s = .next t ∧ netSame s t ∧ berthsSame core s t
        ∧ (store = true → t.streamAt core store slot = some (State.stepPlane x d)) ∧ coreFrame core s t)
    ∧ (∀ (store : Bool) (c j : Nat), s.streamAt core store slot = some x → (s.getCore core).ctx = some c →
      d.indexed = true → x.halted = false → s.coreIssues core = true →
      (((List.range (x.n - x.plane)).map (· + x.plane)).find? fun j =>
        (State.planeValue x d j).isNone && !x.indexAsked.contains j) = some j →
      let a := d.idxAddr + 4 * (x.p0 + j)
      (d.idxMem = false → a + 4 ≤ s.build.berthBytes 1 → s.gatedAt core 1 a 4 = none → (∀ b w, up ≠ .berthUe b w) →
        let v := leNat (s.berthRead core 1 a 4)
        (v = 2 ^ 32 - 1 ∨ v < d.idxLimit) →
        ∃ t y, exec (.indexWordRead ⟨core, up⟩ store slot) s = .next t ∧ t.streamAt core store slot = some y
          ∧ Tab.get 0 y.index j = v ∧ y.plane = x.plane ∧ berthsSame core s t ∧ coreFrame core s t)
      ∧ (∀ pa v, d.idxMem = true → State.trackers (s.getCore core) store < 512 → s.translate c a false = (.ok pa, v) →
          pa < 2 ^ 40 →
        ∃ t r, exec (.indexWordRead ⟨core, up⟩ store slot) s = .next t
          ∧ sends (.line r) (.mem core) (.basin (s.regionOf core)) 2 1 s t ∧ r.pa = pa ∧ r.len = 4 ∧ r.core = core
          ∧ r.store = false ∧ r.ctx = c ∧ r.hint = 0 ∧ r.what = 1 ∧ r.chunk = j
          ∧ t.streamAt core store slot = some { x with indexAsked := x.indexAsked ++ [j] }
          ∧ berthsSame core s t ∧ coreFrame core s t))

/-- The oldest line that has arrived and whose port is free is written as far as the port moves it in this region cycle: its
bytes land at the end of the cycle, what is left of it waits, and with its last byte it leaves and is one less outstanding;
an index word is taken into its stream. So are the first halo or posted words of a source, with their segments powered.
What lands in a region cycle stands in its berth after it. A remote add joins the updates of its bollard. (R112, R115, R138,
R142, R149, R150, R159, R160, R230, R234.) -/
def Obligations.ArrivalsAreWritten : Prop :=
  ∀ (core : Nat) (s : State) (up : Upset), s.runs core →
    let now := s.coreRc core
    let lands := fun (b a : Nat) (l : List Byte) (t : State) => berthsSame core s t
      ∧ (t.getCore core).ldLands = (s.getCore core).ldLands ++ [⟨now, b, putsOf a l, []⟩]
    (∀ (r : LineReq) (x : Stream), s.nextDeposit core = some r → s.streamAt core (decide (4 ≤ r.slot)) (r.slot % 4) = some x →
      s.fresh r.ctx r.epoch = true → x.stream = r.stream →
      (∀ m v, r.what ≠ 1 →
        State.portMove core r.berth r.berth false up (State.wordsOf r.baddr r.len) r.baddr r.len s = (m, .none, v) →
        ∃ t, exec (.lineDeposit ⟨core, up⟩) s = .next t ∧ lands r.berth r.baddr (r.data.take m) t
          ∧ (t.getCore core).arrivals = (s.getCore core).arrivals.erase r
          ∧ t.streamAt core (decide (4 ≤ r.slot)) (r.slot % 4)
              = some { x with outs := Tab.put x.outs r.chunk (Tab.get 0 x.outs r.chunk - 1) }
          ∧ t.rd (cnt core 19) = satAdd (s.rd (cnt core 19)) 1 ∧ coreFrame core s t)
      ∧ (∀ m v, r.what ≠ 1 →
        State.portMove core r.berth r.berth false up (State.wordsOf r.baddr r.len) r.baddr r.len s = (m, .waits, v) →
        ∃ t, exec (.lineDeposit ⟨core, up⟩) s = .next t ∧ lands r.berth r.baddr (r.data.take m) t
          ∧ (t.getCore core).arrivals = (s.getCore core).arrivals.map (fun o => if o = r then
              { r with baddr := r.baddr + m, len := r.len - m, data := r.data.drop m } else o)
          ∧ t.streamAt core (decide (4 ≤ r.slot)) (r.slot % 4) = some x ∧ coreFrame core s t)
      ∧ (r.what = 1 → (leNat r.data = 2 ^ 32 - 1 ∨ leNat r.data < (LsDesc.of x.body).idxLimit) →
        ∃ t y, exec (.lineDeposit ⟨core, up⟩) s = .next t ∧ t.streamAt core (decide (4 ≤ r.slot)) (r.slot % 4) = some y
          ∧ Tab.get 0 y.index r.chunk = leNat r.data ∧ (t.getCore core).arrivals = (s.getCore core).arrivals.erase r
          ∧ berthsSame core s t ∧ coreFrame core s t))
    ∧ (∀ (src : Nat) (link : Bool) (m : Msg) (b a n : Nat) (data : List Byte) (v u : State), src < s.build.physCores →
      s.takeMsg core src link = some (m, v) → m.kind = .words b a data → s.gatedAt core b a data.length = none →
      (State.portMove core b b false up (State.wordsOf a data.length) a data.length v = (n, .none, u) →
        ∃ t, exec (if link then .haloDelivery ⟨core, up⟩ src else .postWriteArrival ⟨core, up⟩ src) s = .next t
          ∧ lands b a (data.take n) t ∧ (t.getCore core).inbox = (s.getCore core).inbox.erase m ∧ coreFrame core s t)
      ∧ (State.portMove core b b false up (State.wordsOf a data.length) a data.length v = (n, .waits, u) →
        ∃ t, exec (if link then .haloDelivery ⟨core, up⟩ src else .postWriteArrival ⟨core, up⟩ src) s = .next t
          ∧ lands b a (data.take n) t
          ∧ (t.getCore core).inbox = { m with kind := .words b (a + n) (data.drop n) } :: (s.getCore core).inbox.erase m
          ∧ coreFrame core s t))
    ∧ (∀ (b a : Nat) (l : List Byte), b < 3 → (s.getCore core).mxLands = [] → (s.getCore core).vxLands = [] →
      (s.getCore core).ldLands = [⟨now, b, putsOf a l, []⟩] →
      let t := s.landCycle core now
      (t.getCore core).space b = ((s.getCore core).space b).putBytes a l
        ∧ (∀ c < 3, c ≠ b → (t.getCore core).space c = (s.getCore core).space c) ∧ (t.getCore core).ldLands = []
        ∧ coreFrame core s t)
    ∧ (∀ (src : Nat) (link : Bool) (m : Msg) (b n : Nat) (done : Bool) (v : State), src < s.build.physCores →
      s.takeMsg core src link = some (m, v) → m.kind = .add b n done →
      ∃ t, exec (.signalArrival core src link) s = .next t
        ∧ (t.getCore core).bolOps = (s.getCore core).bolOps ++ [⟨b, false, n, if done then 3 else 2, m.sender⟩]
        ∧ (t.getCore core).inbox = (s.getCore core).inbox.erase m
        ∧ t.rd (cnt core 28) = satAdd (s.rd (cnt core 28)) 1 ∧ berthsSame core s t ∧ coreFrame core s t)

/-- When every plane of the next chunk has been requested and none of its lines is outstanding, the chunk is complete:
DONE_BOL adds 1 to the core's own bollard, or for a stream with a target to the target's, behind its data; after the last
chunk the slot is free, else the count of complete chunks is one more. (R148, R149, R150.) -/
def Obligations.LastChunkRetiresStream : Prop :=
  ∀ (core slot : Nat) (store : Bool) (s : State) (x : Stream), s.runs core → slot < 4 →
    s.streamAt core store slot = some x →
    let d := LsDesc.of x.body
    x.chunks < State.chunksOf x d → min ((x.chunks + 1) * d.chunk) x.n ≤ x.plane → Tab.get 0 x.outs x.chunks = 0 →
    ∃ t, exec (.chunkComplete core store slot) s = .next t
      ∧ (x.chunks + 1 < State.chunksOf x d → t.streamAt core store slot = some { x with chunks := x.chunks + 1 })
      ∧ (x.chunks + 1 = State.chunksOf x d → t.streamAt core store slot = none)
      ∧ (∀ b, d.doneBol = some b → x.target = none →
          (t.getCore core).bolOps = (s.getCore core).bolOps ++ [⟨b, false, 1, 3, (s.getCore core).mindex⟩]
          ∧ t.rd (cnt core 28) = satAdd (s.rd (cnt core 28)) 1)
      ∧ (∀ b tgt, d.doneBol = some b → x.target = some tgt → x.chunks + 1 < State.chunksOf x d →
          (x.link = false → sends (.msg tgt (s.msgTo core tgt false (.add b 1 true))) (.core core) (.core tgt) 2 1 s t)
          ∧ (x.link = true → (t.getCore tgt).inbox = (s.getCore tgt).inbox ++ [s.msgTo core tgt true (.add b 1 true)]
              ∧ netSame s t))
      ∧ ((d.doneBol = none ∨ x.target ≠ none) → (t.getCore core).bolOps = (s.getCore core).bolOps)
      ∧ (t.getCore core).wb = (s.getCore core).wb ∧ (t.getCore core).ab = (s.getCore core).ab
      ∧ (t.getCore core).pb = (s.getCore core).pb ∧ t.devMem = s.devMem ∧ t.bbol = s.bbol ∧ t.region = s.region

/-- When the sync engine's head may issue, sy.wait, sy.add, sy.sub, sy.signal and sy.arrive do what their words say, in every
form: sy.wait retires at its issue; adds and subs of a core bollard join its updates, those of a block bollard leave for the
control complex or the pair gate; sy.signal sends an add to the bollard of its target core, sy.arrive an arrival to the
barrier. An operation on a block bollard waits while the pair gate is full. The berths and the memories are unchanged.
(R152, R211, R230, R234, R238, R361.) -/
def Obligations.SyncEntriesAct : Prop :=
  ∀ (core : Nat) (s : State) (h : Head) (up : Upset), s.runs core → chartClean up →
    let done := fun (i : Instr) => ∃ t, exec i s = .next t ∧ syEffect core h.prog.ctx 0 h.word s t
      ∧ (1 < (s.eng core 5).queue.length → (t.eng core 5).queue = (s.eng core 5).queue.drop 1)
      ∧ berthsSame core s t ∧ coreFrame core s t
    (s.readyHead core 5 1 = some h → done (.syWait ⟨core, up⟩))
    ∧ (s.readyHead core 5 2 = some h → s.gateWaits core h.word = false → done (.syAdd ⟨core, up⟩))
    ∧ (s.readyHead core 5 3 = some h → s.gateWaits core h.word = false → done (.sySub ⟨core, up⟩))
    ∧ (s.readyHead core 5 2 = some h → s.gateWaits core h.word = true → exec (.syAdd ⟨core, up⟩) s = .next s)
    ∧ (s.readyHead core 5 3 = some h → s.gateWaits core h.word = true → exec (.sySub ⟨core, up⟩) s = .next s)
    ∧ (s.readyHead core 5 4 = some h → done (.sySignal ⟨core, up⟩))
    ∧ (s.readyHead core 5 0x10 = some h → done (.syArrive ⟨core, up⟩))

/-- sy.fence opens a fence that awaits the store streams and unacknowledged writes before it, and once no store stream is left
asks every target of an earlier message. A probe that reaches its target is answered, over either path, and the answer is
taken. A fence that awaits nothing completes, and only then do entries attached to it count it as met. (R212, R242.) -/
def Obligations.FenceWaitsForEverythingBefore : Prop :=
  ∀ (core : Nat) (s : State), s.runs core →
    (∀ h up, chartClean up → s.readyHead core 5 8 = some h → (s.getCore core).fences = [] →
      ∃ t f, exec (.syFence ⟨core, up⟩) s = .next t ∧ (t.getCore core).fences = [f] ∧ f.inst = h.inst ∧ f.stream = h.num
        ∧ f.stores = (s.getCore core).stores.map (fun e => e.2.inst) ∧ f.acks = (s.getCore core).acks
        ∧ f.probed = (s.getCore core).stores.isEmpty
        ∧ f.probes = (if (s.getCore core).stores.isEmpty then (s.getCore core).posted.map fun e => (e.1, e.2.1) else [])
        ∧ berthsSame core s t ∧ t.devMem = s.devMem ∧ t.region = s.region ∧ t.bbol = s.bbol)
    ∧ (∀ (src : Nat) (m : Msg) (f : Nat) (link : Bool) (v : State), src < s.build.physCores →
      s.takeMsg core src link = some (m, v) → m.kind = .probe f →
      (link = true → ∀ n w, s.takeMsg core src false = some (n, w) → ∀ g, n.kind ≠ .probe g) →
      ∃ t, exec (.fenceProbe core src) s = .next t ∧ (t.getCore core).inbox = (s.getCore core).inbox.erase m
        ∧ sends (.probed f core link) (.core core) (.core src) 3 1 s t ∧ berthsSame core s t ∧ coreFrame core s t)
    ∧ (∀ f src link, ((s.deliver (.core core) (.probed f src link)).getCore core).fences
        = (s.getCore core).fences.map fun g => if g.id = f then { g with probes := g.probes.filter (· ≠ (src, link)) } else g)
    ∧ (∀ (f : Fence) (p : Prog), (s.getCore core).fences.find? (State.fenceReady (s.getCore core)) = some f →
      s.prog? core f.stream = some p →
      ∃ t, exec (.fenceComplete core) s = .next t
        ∧ (t.getCore core).fences = (s.getCore core).fences.filter (fun g => g.id ≠ f.id)
        ∧ t.prog? core f.stream = some { p with fenced := p.fenced ++ [f.inst] }
        ∧ berthsSame core s t ∧ coreFrame core s t)

/-- In a RUNNING context whose barrier has all its arrivals, the release takes them out of the barrier and leaves for the
GATEWAY of each region of the context, which broadcasts it; at a core of the context it adds 1 to the barrier bollard. With
arrivals missing nothing happens. An arrival that comes is counted and acknowledged. An error of the barrier unit is 0x962
and ends the context. (R152, R153, R242, R254, R359, R362.) -/
def Obligations.BarrierReleasesAllCores : Prop :=
  ∀ (c : Nat) (s : State), c < 16 → s.awake = true →
    (0 < (s.getCtx c).barrierCount → s.ctxState c = 2 →
      ((s.getCtx c).barrierIn.length < (s.getCtx c).barrierCount → exec (.barrierRelease ⟨c, false⟩) s = .next s)
      ∧ ((s.getCtx c).barrierCount ≤ (s.getCtx c).barrierIn.length →
        ∀ (g : LegRun) (k n : Nat) (p : Prog), ((s.getCtx c).legs.filter (·.begun)).getLast? = some g →
          g.cores.head? = some (k, n) → s.prog? k n = some p → p.barrierBol < 64 →
          ∃ t, exec (.barrierRelease ⟨c, false⟩) s = .next t
            ∧ (t.getCtx c).barrierIn = (s.getCtx c).barrierIn.drop (s.getCtx c).barrierCount
            ∧ t.net = ((s.getCtx c).regions.foldl
                (fun s r => s.inject (.release c p.barrierBol) .control (.gateway r) 0) s).net
            ∧ ((s.getCtx c).paired = false → t.core = s.core ∧ ctxFrame c s t)))
    ∧ (∃ t, exec (.barrierRelease ⟨c, true⟩) s = .next t ∧ t.faultCode (ctxP c) = 0x962
        ∧ ((s.ctxState c = 2 ∨ s.ctxState c = 3) → t.ctxState c = 4) ∧ t.core = s.core ∧ ctxFrame c s t)
    ∧ (∀ r b, s.deliver (.gateway r) (.release c b)
        = s.injectAt (.port (.gateway r)) (.release c b) (.gateway r) (.gateway r) 0 1 0 true)
    ∧ (∀ k b, (s.getCore k).ctx = some c →
        ((s.deliver (.core k) (.release c b)).getCore k).bolOps = (s.getCore k).bolOps ++ [⟨b, false, 1, 4, 0xFFF⟩])
    ∧ (∀ k b, (s.getCore k).ctx ≠ some c → s.deliver (.core k) (.release c b) = s)
    ∧ ∀ k id, let t := s.deliver .control (.arrive c k id)
      (t.getCtx c).barrierIn = (s.getCtx c).barrierIn ++ [k]
        ∧ (id ≠ 0 → sends (.acked k id) .control (.mem k) 1 1 s t) ∧ (id = 0 → netSame s t)

/-- The first operation whose entries have all retired in an earlier region cycle, and which no full pair gate holds back, is
performed with SOURCE 1 and leaves the list, whatever operation it is; with none such nothing happens. (R212, R223, R361.) -/
def Obligations.RetirementBoundOperationFires : Prop :=
  ∀ (core c : Nat) (s : State), s.runs core → (s.getCore core).ctx = some c →
    let first := (s.getCore core).bound.find? fun b =>
      b.awaits.isEmpty && decide (b.rc < s.coreRc core) && !s.gateWaits core b.word
    (∀ b, first = some b →
      ∃ t, exec (.retirementBoundOp core) s = .next t
        ∧ (t.getCore core).bound = (s.getCore core).bound.erase b
        ∧ syEffect core c 1 b.word s t
        ∧ berthsSame core s t ∧ coreFrame core s t)
    ∧ (first = none → exec (.retirementBoundOp core) s = .next s)

/-- Without a software write the bollard holds min(value + adds, 2^32 - 1) minus the subs, or 0; an overflow is core
fault 0x250 and an underflow 0x251, with the bollard's number in FAULT_INFO. With a software write it holds the
written value and the net change of the others, clamped, and no fault is recorded and no core stops. (R231, R232,
R233.) -/
def Obligations.BollardUpdatesOfOneCycleAreOneStep : Prop :=
  ∀ (s : State) (k b : Nat) (l : List BolOp), b < 64 → (∀ o ∈ l, o.sender < 2 ^ 12) →
    let ops := l.filter fun o => o.source ≠ State.bolWritten
    let adds := ((ops.filter fun o => !o.sub).map (·.amount)).sum
    let subs := ((ops.filter fun o => o.sub).map (·.amount)).sum
    let v := min (s.bol k b + adds) (2 ^ 32 - 1)
    let t := s.bolStep k b l
    ((∀ o ∈ l, o.source ≠ State.bolWritten) →
      t.bol k b = v - subs
      ∧ (subs > v → t.faultCode (coreP k) = 0x251 ∧ fieldOf (t.rd (coreP k + oFINFO)) 28 23 = b)
      ∧ (subs ≤ v → 2 ^ 32 - 1 < s.bol k b + adds →
          t.faultCode (coreP k) = 0x250 ∧ fieldOf (t.rd (coreP k + oFINFO)) 28 23 = b))
    ∧ (∀ o, (l.filter fun o => o.source = State.bolWritten).getLast? = some o →
        t.bol k b = min (o.amount + adds - subs) (2 ^ 32 - 1) ∧ t.rd (coreP k + oFCODE) = s.rd (coreP k + oFCODE)
          ∧ t.core = s.core)
    ∧ ∀ j < 64, j ≠ b → t.bol k j = s.bol k j

/-- An allowed write of EVENT_MASK stores the bits that the page has, one of EVENT clears the bits written 1, both
advance PAGE_SEQ by 1; a write that the tag refuses changes no register of its own but records the offset and the
party in PAGE_ACCESS and one log entry. Cores, contexts, queues and memories are unchanged. (R451, R459, R461,
R462.) -/
def Obligations.MaskAndEventWritesAndRefusals : Prop :=
  ∀ (p : Party) (a : Nat) (v : Word) (s : State), a % 4 = 0 →
    let page := a / 0x1000 * 0x1000
    (a % 0x1000 = oMASK → s.admits p a →
      ∃ t, exec (.registerWrite p a v) s = .next t ∧ t.rd a = v &&& eventBits (pageOf a).1
        ∧ t.rd (page + oSEQ) = s.rd (page + oSEQ) + 1 ∧ partsSame s t)
    ∧ (a % 0x1000 = oEVENT → s.admits p a →
      ∃ t, exec (.registerWrite p a v) s = .next t ∧ t.rd a = s.rd a &&& ~~~v
        ∧ t.rd (page + oSEQ) = s.rd (page + oSEQ) + 1 ∧ partsSame s t)
    ∧ (a < 0x800000 → s.answers a = true → ((pageOf a).1 = 1 → s.inReset = false) → a % 0x1000 ≠ oCOMMIT →
        regKind (pageOf a).1 (a % 0x1000) ≠ .none_ → mayWrite (pageOf a).1 (a % 0x1000) p = false →
      ∃ t, exec (.registerWrite p a v) s = .next t
        ∧ fieldOf (t.rd (page + oACCESS)) 31 20 = a % 0x1000 ∧ fieldOf (t.rd (page + oACCESS)) 19 18 = partyNo p + 1
        ∧ t.rd (page + oSEQ) = s.rd (page + oSEQ) ∧ t.rd (faultP + 0x40) = s.rd (faultP + 0x40) + 1
        ∧ partsSame s t)

/-- On a REGION, BASIN or WHARF page from REGIONS on, a QUAY page from QUAYS on, a JETTY page from JETTIES on and a CORE
page from the physical cores on, every write leaves the whole state as it was, and every read returns 0 and changes
nothing else. (R9.) -/
def Obligations.AbsentPagesReadZero : Prop :=
  ∀ (p : Party) (page o : Nat) (v : Word) (up : Upset) (s : State), o < 0x1000 →
    ((∃ r < 16, s.build.regions ≤ r ∧ (page = regionP r ∨ page = basinP r ∨ page = wharfP r))
      ∨ (∃ m < 16, s.build.quays ≤ m ∧ page = quayP m) ∨ (∃ j < 16, s.build.jetties ≤ j ∧ page = jettyP j)
      ∨ ∃ k < 1088, s.build.physCores ≤ k ∧ page = coreP k) →
    exec (.registerWrite p (page + o) v) s = .next s ∧ exec (.hiWrite p (page + o) v) s = .next s
      ∧ exec (.loRead p (page + o)) s = .next (s.give p 0)
      ∧ ∀ k < 1088, s.build.physCores ≤ k →
          exec (.winData p ⟨k, up⟩ (some v)) s = .next s ∧ exec (.winData p ⟨k, up⟩ none) s = .next (s.give p 0)
            ∧ exec (.chartDataLoRead p ⟨k, up⟩) s = .next (s.give p 0)

/-- A read of a _LO register returns it and latches its _HI word for the party, which the read of _HI then returns; a
write of _LO is staged and changes no register; the write of _HI puts both words in force, shown for the ring base
of an unbound queue. (R454.) -/
def Obligations.PairsLatchAndStage : Prop :=
  (∀ (p : Party) (a : Nat) (s : State), a < 0x800000 → a % 4 = 0 → s.answers a = true →
      isLo (pageOf a).1 (a % 0x1000) = true → ¬((pageOf a).1 = 0x30 ∧ a % 0x1000 = 0x084) →
      ∃ t u, exec (.loRead p a) s = .next t ∧ Tab.get 0 t.rdata (partyNo p) = s.regValue p a
        ∧ t.held? p (a + 4) = some (s.regValue p (a + 4)) ∧ t.reg = s.reg ∧ partsSame s t
        ∧ exec (.loRead p (a + 4)) t = .next u ∧ Tab.get 0 u.rdata (partyNo p) = s.regValue p (a + 4)
        ∧ u.held? p (a + 4) = none ∧ u.reg = s.reg)
    ∧ ∀ (p : Party) (q : Nat) (lo hi : Word) (s : State), q < 64 → s.qState q = 0 →
      s.admits p (queueP q + 0x58) → s.admits p (queueP q + 0x5C) →
      ∃ t u, exec (.registerWrite p (queueP q + 0x58) lo) s = .next t
        ∧ t.rd64 (queueP q + 0x58) = s.rd64 (queueP q + 0x58) ∧ partsSame s t
        ∧ exec (.hiWrite p (queueP q + 0x5C) hi) t = .next u
        ∧ u.rd64 (queueP q + 0x58) = (lo.toNat + hi.toNat * 2 ^ 32) / 64 * 64 ∧ partsSame s u

/-- A write of FLOG_READ keeps a value that lies at most the number of held entries behind the write count, moves a
value ahead of it to the write count and an older one to the oldest entry; a read of FLOG_E0 returns word 0 of the
entry that the party selected and holds words 1 to 3 for it. (R358, R455.) -/
def Obligations.FaultLogIsRead : Prop :=
  (∀ (p : Party) (v : Word) (s : State), s.admits p (faultP + 0x78) →
      let w := (s.rd (faultP + 0x40)).toNat
      let l := min 256 s.flog.length
      let d := (w + 2 ^ 32 - v.toNat) % 2 ^ 32
      ∃ t, exec (.flogRead p v) s = .next t ∧ t.flog = s.flog ∧ t.rd (faultP + 0x40) = s.rd (faultP + 0x40)
        ∧ (d ≤ l → t.rd (faultP + 0x78) = v) ∧ (2 ^ 31 ≤ d → t.rd (faultP + 0x78) = word w)
        ∧ (l < d → d < 2 ^ 31 → t.rd (faultP + 0x78) = word (w + 2 ^ 32 - l)) ∧ partsSame s t)
    ∧ ∀ (p : Party) (s : State), s.answers (faultP + 0x48) = true →
      let e := Tab.get 0 s.flog ((s.sel p (faultP + 0x44)).toNat % 256)
      ∃ t, exec (.flogE0Read p) s = .next t ∧ Tab.get 0 t.rdata (partyNo p) = word e.toNat
        ∧ (∀ i, 1 ≤ i → i ≤ 3 → t.held? p (faultP + 0x48 + 4 * i) = some (word (e.toNat / 2 ^ (32 * i))))
        ∧ t.reg = s.reg ∧ t.flog = s.flog ∧ partsSame s t

/-- A write of BOL_b joins the updates of its region cycle; BRK_CTRL keeps its fields, HIT clears by a 1 and ARM sets;
BANK_MODE is stored unless a context holds the region, which records 0x600; DEBUG_INJECT and CAP_INJECT set
MX_INJECT; CHART_DATA_HI writes one word of chart memory, which the engines see from the next region cycle, and advances
CHART_ADDR; CHART_DATA_LO reads one and latches its high half, and a word that cannot be corrected is 0x252 and reads
as zeros (log 67); WIN_DATA reads and writes one berth word and advances ADDR, and one that is gated or cannot be
corrected is neither given nor written, with 0x230 or 0x231 recorded. No other core changes. (R81, R116, R120, R122,
R227, R229, R232, R246, R467, R475.) -/
def Obligations.CoreWindowWrites : Prop :=
  ∀ (p : Party) (core : Nat) (v : Word) (up : Upset) (s : State), core < 1088 →
    (∀ b < 64, s.admits p (coreP core + 0x200 + 4 * b) →
      ∃ t, exec (.bolWrite p core b v) s = .next t
        ∧ (t.getCore core).bolOps = (s.getCore core).bolOps ++ [⟨b, false, v.toNat, State.bolWritten, 0xFFF⟩]
        ∧ berthsSame core s t ∧ coreFrame core s t)
    ∧ (s.admits p (coreP core + 0xA0) →
      ∃ t, exec (.brkArm p core v) s = .next t
        ∧ fieldOf (t.rd (coreP core + 0xA0)) 31 25 = fieldOf v 31 25
        ∧ bitOf (t.rd (coreP core + 0xA0)) 24 = (bitOf (s.rd (coreP core + 0xA0)) 24 && !bitOf v 24)
        ∧ bitOf (t.rd (coreP core + 0xA0)) 0 = (bitOf (s.rd (coreP core + 0xA0)) 0 || bitOf v 0)
        ∧ berthsSame core s t ∧ coreFrame core s t)
    ∧ (s.admits p (coreP core + 0x40) →
      (s.regionHeld (s.regionOf core) = false →
        ∃ t, exec (.bankModeWrite p core v) s = .next t ∧ t.rd (coreP core + 0x40) = v &&& 7
          ∧ (s.rd (coreP core + 0x40) = v &&& 7 → berthsSame core s t) ∧ coreFrame core s t)
      ∧ (s.regionHeld (s.regionOf core) = true →
        ∃ t, exec (.bankModeWrite p core v) s = .next t ∧ t.rd (coreP core + 0x40) = s.rd (coreP core + 0x40)
          ∧ t.faultCode (coreP core) = 0x600 ∧ berthsSame core s t ∧ coreFrame core s t))
    ∧ (s.admits p (coreP core + 0x4C) → bitOf v 0 = true →
      ∃ t, exec (.mxInject p core v) s = .next t ∧ t.rd (coreP core + 0x4C) = 1 ∧ berthsSame core s t ∧ coreFrame core s t)
    ∧ (s.admits p (captureP + 0x48) → bitOf v 31 = true → fieldOf v 10 0 < s.build.physCores →
      ∃ t, exec (.capInject p v) s = .next t ∧ t.rd (coreP (fieldOf v 10 0) + 0x4C) = 1 ∧ partsSame s t)
    ∧ (s.admits p (coreP core + 0x88) →
      let a := s.chartAddr p core
      let lo : Word := Tab.get 0 s.staged (State.own p (coreP core + 0x84))
      let l := leBytes 4 lo.toNat ++ leBytes 4 v.toNat
      ∃ t, exec (.chartDataHi p core v) s = .next t
        ∧ (t.getCore core).chart = (s.getCore core).chart.putBytes a l
        ∧ (t.getCore core).chartOps = (s.getCore core).chartOps ++ [(a, l)]
        ∧ (t.getCore core).sects = (s.getCore core).sects ∧ (t.getCore core).progs = (s.getCore core).progs
        ∧ t.chartAddr p core = (a + 8) % 65536 ∧ (t.getCore core).wb = (s.getCore core).wb
        ∧ (t.getCore core).ab = (s.getCore core).ab ∧ (t.getCore core).pb = (s.getCore core).pb ∧ coreFrame core s t)
    ∧ (s.answers (coreP core + 0x84) = true →
      let l := (s.getCore core).chart.bytes (s.chartAddr p core) 8
      ((∀ w, up ≠ .chartUe w) →
        ∃ t, exec (.chartDataLoRead p ⟨core, up⟩) s = .next t ∧ Tab.get 0 t.rdata (partyNo p) = word (leNat (l.take 4))
          ∧ t.held? p (coreP core + 0x88) = some (word (leNat (l.drop 4)))
          ∧ ((∀ w, up ≠ .chartCe w) → t.reg = s.reg) ∧ (∀ w, up = .chartCe w → t.faultCode (coreP core) = 0x105)
          ∧ partsSame s t)
      ∧ ∀ w, ∃ t, exec (.chartDataLoRead p ⟨core, (.chartUe w)⟩) s = .next t ∧ Tab.get 0 t.rdata (partyNo p) = 0
          ∧ t.held? p (coreP core + 0x88) = some 0 ∧ t.faultCode (coreP core) = 0x252
          ∧ fieldOf (t.rd (coreP core + oFINFO)) 31 29 = 6 ∧ fieldOf (t.rd (coreP core + oFINFO)) 28 16 = w % 2 ^ 13
          ∧ ((s.getCore core).state ≠ 3 → (t.getCore core).state = 2) ∧ berthsSame core s t ∧ coreFrame core s t)
    ∧ (s.answers (coreP core + 0x90) = true → s.build.legal = true →
      let x : Word := s.sel p (coreP core + 0x8C)
      let berth := fieldOf x 31 30
      let a := fieldOf x 18 0 / 4 * 4
      let moved := fun (t : State) => fieldOf (t.sel p (coreP core + 0x8C)) 18 0 = (a + 4) % s.build.berthBytes berth
      berth ≠ 3 → a < s.build.berthBytes berth →
      (s.gatedAt core berth a 4 = none →
        ((State.wordUpset up berth a 4 true).1 = none →
          ∃ t, exec (.winData p ⟨core, up⟩ none) s = .next t
            ∧ Tab.get 0 t.rdata (partyNo p) = word (leNat (s.berthRead core berth a 4))
            ∧ moved t ∧ berthsSame core s t ∧ coreFrame core s t)
        ∧ ((State.wordUpset up berth a 4 false).1 = none →
          ∃ t, exec (.winData p ⟨core, up⟩ (some v)) s = .next t
            ∧ (t.getCore core).space berth = ((s.getCore core).space berth).putBytes a (leBytes 4 v.toNat)
            ∧ (∀ b < 3, b ≠ berth → (t.getCore core).space b = (s.getCore core).space b)
            ∧ moved t ∧ coreFrame core s t)
        ∧ ∀ (w : Option Word) (b : Nat), (State.wordUpset up berth a 4 w.isNone).1 = some b →
            ∃ t, exec (.winData p ⟨core, up⟩ w) s = .next t ∧ t.faultCode (coreP core) = 0x231
              ∧ ((s.getCore core).state ≠ 3 → (t.getCore core).state = 2) ∧ (w = none → Tab.get 0 t.rdata (partyNo p) = 0)
              ∧ moved t ∧ berthsSame core s t ∧ coreFrame core s t)
      ∧ ∀ (w : Option Word) (g : Nat), s.gatedAt core berth a 4 = some g →
          ∃ t, exec (.winData p ⟨core, up⟩ w) s = .next t ∧ t.faultCode (coreP core) = 0x230
            ∧ (w = none → Tab.get 0 t.rdata (partyNo p) = 0) ∧ moved t ∧ t.core = s.core ∧ coreFrame core s t)

/-- An operation of the window on a bollard of the context joins the operations of the tick behind those that came
before, one beyond BBOL_COUNT records 0x600 and joins nothing; a core's operation joins when it arrives. No value
changes before the step, in which the bollard takes its value plus the adds, at most 2^32 - 1, less the subs, at
least 0, or the last value that Crew firmware wrote with the net change. (R231, R238, R239.) -/
def Obligations.BlockBollardWindow : Prop :=
  (∀ (p : Party) (ctx : Nat) (v : Word) (s : State), ctx < 16 →
      (∀ (i : Instr) (o : Nat) (op : Nat → BBolOp),
        (i, o, op) ∈ [(Instr.bbolAdd p ctx v, 0xA4, fun a => ⟨a, false, v.toNat, false, partyNo p + 1, 0xFFF, []⟩),
          (.bbolSub p ctx v, 0xA8, fun a => ⟨a, true, v.toNat, false, partyNo p + 1, 0xFFF, []⟩),
          (.bbolValue p ctx v, 0xA0, fun a => ⟨a, false, v.toNat, true, partyNo p + 1, 0xFFF, []⟩)] →
        s.admits p (ctxP ctx + o) →
        (∀ a, s.bbolIndex p ctx = some a →
          ∃ t, exec i s = .next t ∧ t.bbolNow = s.bbolNow ++ [op a] ∧ partsSame s t)
        ∧ (s.bbolIndex p ctx = none →
          ∃ t, exec i s = .next t ∧ t.bbolNow = s.bbolNow ∧ t.faultCode (ctxP ctx) = 0x600 ∧ partsSame s t)))
    ∧ (∀ (s : State) (o : BBolOp) (l : List BBolOp), s.awake = true → s.bbolIn = o :: l →
      ∃ t, exec .blockBollardUpdate s = .next t ∧ t.bbolIn = l ∧ t.bbolNow = s.bbolNow ++ [o] ∧ t.reg = s.reg
        ∧ partsSame s t)
    ∧ ∀ (s : State) (a : Nat) (l : List BBolOp),
      let adds := ((l.filter fun o => !o.set && !o.sub).map (·.amount)).sum
      let subs := ((l.filter fun o => !o.set && o.sub).map (·.amount)).sum
      ((∀ o ∈ l, o.set = false) → (s.bbolStep a l).bbolVal a = min (s.bbolVal a + adds) (2 ^ 32 - 1) - subs)
      ∧ (∀ o, (l.filter (·.set)).getLast? = some o →
          (s.bbolStep a l).bbolVal a = min (o.amount + adds - subs) (2 ^ 32 - 1) ∧ (s.bbolStep a l).ctx = s.ctx)
      ∧ ∀ b, b ≠ a → (s.bbolStep a l).bbolVal b = s.bbolVal b

/-- A clean word changes nothing; a corrected one records 0x105, 0x101 or 0x102 and counts; a double-bit error in chart
memory or a berth is core fault 0x252 or 0x231, one in a Basin tag is 0x104 and empties the entry, one in Basin data
is 0x103 and the line is fetched again. A chart word that an entry needs: one that cannot be corrected stops the core and
the entry does not issue, a corrected one counts. Segments that come on read as zero and report ready; segments that go
off are zeroed once the work issued before, which touches them, has retired. Every other byte of the berths stays. (R117,
R118, R119, R122, R134, R229.) -/
def Obligations.ScrubbersReportAndSegmentsClear : Prop :=
  (∀ (core w : Nat) (s : State), s.runs core → s.coreAlive core = true → w < 8192 →
      exec (.chartScrub core w .clean) s = .next s
      ∧ (∃ t, exec (.chartScrub core w .single) s = .next t ∧ t.faultCode (coreP core) = 0x105
          ∧ t.rd (cnt core 30) = satAdd (s.rd (cnt core 30)) 1 ∧ t.core = s.core ∧ coreFrame core s t)
      ∧ ∃ t, exec (.chartScrub core w .double) s = .next t ∧ t.faultCode (coreP core) = 0x252
          ∧ fieldOf (t.rd (coreP core + oFINFO)) 31 29 = 7 ∧ fieldOf (t.rd (coreP core + oFINFO)) 28 16 = w
          ∧ ((s.getCore core).state ≠ 3 → (t.getCore core).state = 2) ∧ berthsSame core s t)
    ∧ (∀ (core w : Nat) (e : Upset → Instr) (s : State), s.runs core → e ∈ entryRows core → exec (e .none) s ≠ .next s →
      (∃ t, exec (e (.chartUe w)) s = .next t ∧ chartStops core w s t)
      ∧ (e ∈ (entryRows core).take 5 →
          ∃ t, exec (e (.chartCe w)) s = .next t ∧ t.rd (cnt core 30) = satAdd (s.rd (cnt core 30)) 1))
    ∧ (∀ (core b a : Nat) (s : State), s.runs core → s.coreAlive core = true → b < 3 → a < s.build.berthBytes b →
      s.gatedAt core b a 1 = none →
      exec (.berthScrub core b a .clean) s = .next s
      ∧ (∃ t, exec (.berthScrub core b a .single) s = .next t ∧ t.faultCode (coreP core) = 0x101
          ∧ t.rd (cnt core 17) = satAdd (s.rd (cnt core 17)) 1 ∧ t.core = s.core ∧ coreFrame core s t)
      ∧ ∃ t, exec (.berthScrub core b a .double) s = .next t ∧ t.faultCode (coreP core) = 0x231
          ∧ ((s.getCore core).state ≠ 3 → (t.getCore core).state = 2) ∧ berthsSame core s t)
    ∧ (∀ (r set way : Nat) (s : State), s.regionRuns r → set < s.build.basinSets → way < 16 →
      exec (.basinScrub r set way .clean) s = .next s
      ∧ (∃ t, exec (.basinScrub r set way .single) s = .next t ∧ t.faultCode (basinP r) = 0x102
          ∧ t.rd (basinP r + 0x98) = satAdd (s.rd (basinP r + 0x98)) 1 ∧ t.region = s.region ∧ outsideSame s t)
      ∧ (∀ w, ∃ t, exec (.basinScrub r set way (.tagDouble w)) s = .next t ∧ t.faultCode (basinP r) = 0x104
          ∧ t.rd (basinP r + 0x9C) = satAdd (s.rd (basinP r + 0x9C)) 1
          ∧ (∀ l ∈ (t.getRegion r).basin, ¬(l.set = set ∧ l.way = w % 16)) ∧ regionFrame r s t)
      ∧ ∀ l, ((s.getRegion r).basin.find? fun l => l.set = set && l.way = way) = some l →
          ∃ t, exec (.basinScrub r set way .dataDouble) s = .next t ∧ t.faultCode (basinP r) = 0x103
            ∧ t.rd (basinP r + 0x9C) = satAdd (s.rd (basinP r + 0x9C)) 1
            ∧ (s.behindQuay (128 * l.la) = true →
                ∃ o ∈ t.quays, o.pa = 128 * l.la ∧ o.write = false ∧ o.alloc = true ∧ o.pin = l.pinned ∧ o.region = r)
            ∧ regionFrame r s t)
    ∧ ∀ (core : Nat) (s : State), s.runs core →
      (∃ t, exec (.segmentReady core) s = .next t ∧ (t.getCore core).readying = 0
        ∧ t.rd (coreP core + 0x48) = s.rd (coreP core + 0x48) ||| (s.getCore core).readying
        ∧ segmentsZeroed core (s.getCore core).readying s t ∧ coreFrame core s t)
      ∧ ∃ t, exec (.segmentPowerDown core) s = .next t
          ∧ (t.getCore core).gating = (s.getCore core).gating.filter (fun g => g.2.any (State.unretired (s.getCore core)))
          ∧ t.reg = s.reg ∧ coreFrame core s t
          ∧ ∀ m : Word, (∀ i < 24, bitOf m i = (s.getCore core).gating.any fun g =>
                g.1 = i && !g.2.any (State.unretired (s.getCore core))) → segmentsZeroed core m s t

/-- A Basin takes up to 4 requests in a region cycle. In CACHE mode, with no error: a read that hits leaves with its bytes
for its core 18 rc after it came, and counts as a lookup and a hit; one that misses goes to its quay and will allocate; one
whose fill is outstanding joins it; a write goes to its quay and is merged into the line it hits; no byte of memory changes
yet. A request of an earlier EPOCH is discarded. A fill that completes hands its bytes to its reader past the Basin's return
port, and the line is in the Basin. (R124, R126, R129, R138, R255, R325.) -/
def Obligations.BasinServesItsRequests : Prop :=
  ∀ (r : Nat) (s : State) (q : LineReq), s.regionRuns r →
    let la := q.pa / 128
    let rest := (s.getRegion r).requests.erase q
    let plain := s.basinTakes r q ∧ s.pinOnly = false ∧ s.fillOpen r q.ctx la = false
    let single := (s.getCtx q.ctx).paired = false ∨ s.pairState q.ctx ≠ 1
    (plain → q.hint ≤ 1 → q.store = false →
      ∀ l, s.basinFind r q.ctx la = some l →
        let d := (l.data.drop (q.pa % 128)).take q.len
        ∃ t, exec (.basinRequest r .clean) s = .next t
          ∧ sendsAt (.port (.basin r)) (.data { q with data := d }) (.basin r) (.mem q.core) 3 (State.flitsOf d.length)
              (q.came + 18) s t
          ∧ (t.getRegion r).requests = rest ∧ t.rd (basinP r + 0x80) = satAdd (s.rd (basinP r + 0x80)) 1
          ∧ t.rd (basinP r + 0x84) = satAdd (s.rd (basinP r + 0x84)) 1 ∧ t.quays = s.quays ∧ t.core = s.core
          ∧ regionFrame r s t)
    ∧ (plain → q.hint = 0 → q.store = false → s.basinFind r q.ctx la = none → single → s.behindQuay (128 * la) = true →
      ∃ t, exec (.basinRequest r .clean) s = .next t
        ∧ t.quays = s.quays ++ [{ id := q.id, quay := (s.quayOf (128 * la)).1, pa := 128 * la, len := 128, write := false,
                                  source := q.ctx, reqs := [q], region := q.region, alloc := true, time := s.clk.tide,
                                  before := (s.writesTo q.region q.ctx la).map (·.id), port := .basin q.region }]
        ∧ sends (.quay q.id) (.basin q.region) (.quay (s.quayOf (128 * la)).1) 2 1 s t
        ∧ (t.getRegion r).requests = rest ∧ (t.getRegion r).basin = (s.getRegion r).basin ∧ t.core = s.core
        ∧ regionFrame r s t)
    ∧ (s.basinTakes r q → s.pinOnly = false → s.fillOpen r q.ctx la = true → q.store = false →
      ∃ t, exec (.basinRequest r .clean) s = .next t
        ∧ (∀ o ∈ s.quays, State.isFill r q.ctx la o = true → { o with reqs := o.reqs ++ [q] } ∈ t.quays)
        ∧ (t.getRegion r).requests = rest ∧ (t.getRegion r).basin = (s.getRegion r).basin ∧ netSame s t ∧ t.core = s.core
        ∧ regionFrame r s t)
    ∧ (plain → q.hint ≤ 1 → q.store = true → single → q.pa < 2 ^ 40 → s.behindQuay q.pa = true →
      ∃ t, exec (.basinRequest r .clean) s = .next t
        ∧ t.quays = s.quays ++ [{ id := q.id, quay := (s.quayOf q.pa).1, pa := q.pa, len := q.len, write := true,
                                  source := q.ctx, reqs := [q], region := q.region, time := s.clk.tide,
                                  port := .basin q.region }]
        ∧ sends (.quay q.id) (.basin q.region) (.quay (s.quayOf q.pa).1) 2 (State.flitsOf q.len) s t
        ∧ t.basinFind r q.ctx la = (s.basinFind r q.ctx la).map (fun l =>
            { l with data := State.mergeInto la q.pa l.data q.data })
        ∧ (t.getRegion r).requests = rest ∧ t.core = s.core ∧ regionFrame r s t)
    ∧ (s.nextRequest (s.getRegion r).requests = some q → ((s.getRegion r).served.1 = s.rcOf r → (s.getRegion r).served.2 < 4) →
        s.fresh q.ctx q.epoch = false →
      ∃ t, exec (.basinRequest r .clean) s = .next t ∧ t.rd (ctxP q.ctx + 0xC4) = satAdd (s.rd (ctxP q.ctx + 0xC4)) 1
        ∧ (t.getRegion r).requests = rest ∧ (t.getRegion r).basin = (s.getRegion r).basin ∧ t.quays = s.quays ∧ netSame s t
        ∧ t.core = s.core ∧ regionFrame r s t)
    ∧ ((s.getRegion r).served = (s.rcOf r, 4) → exec (.basinRequest r .clean) s = .next s)
    ∧ ∀ (f : QReq) (data : List Byte) (more : List (QReq × List Byte)), (s.getRegion r).fills = (f, data) :: more →
        f.reqs = [q] → q.store = false →
      let d := (data.drop (q.pa % 128)).take q.len
      ∃ t, exec (.basinFillComplete r) s = .next t
        ∧ sendsAt (.regionSwitch r) (.data { q with data := d }) (.basin r) (.mem q.core) 3 (State.flitsOf d.length) 0 s t
        ∧ (t.getRegion r).fills = more ∧ t.quays = s.quays ∧ t.core = s.core ∧ regionFrame r s t
        ∧ (s.regionCtx r = some f.source → s.pinOnly = false → q.hint = 0 → s.basinFind r f.source (f.pa / 128) = none →
            (s.victim r (s.setOf (f.pa / 128))).isSome → (t.basinFind r f.source (f.pa / 128)).map (·.data) = some data)

/-- A write of PIN, UNPIN or EVICT to an idle BRANGE_CTRL of a region that a context holds sets OP and BUSY, otherwise
it records 0x600 and changes no region; EVICT of one line leaves the Basin without it. The end clears OP and BUSY
and sets the event. A change of WAY_USE takes effect when no fill is outstanding: the lines of the ways whose use
changes go, the others stay, and each such way has its new use. (R127, R128, R129, R472.) -/
def Obligations.RangeOperationsAndWayUse : Prop :=
  (∀ (p : Party) (r op : Nat) (i : Instr) (s : State), r < 16 → s.admits p (basinP r + oCTRL) →
      (i, op) ∈ [(Instr.brangePin p r, 1), (.brangeUnpin p r, 2), (.brangeEvict p r, 3)] →
      (∀ c, bitOf (s.rd (basinP r + oSTATUS)) 31 = false → s.regionCtx r = some c →
        ∃ t, exec i s = .next t ∧ t.rd (basinP r + oCTRL) = word op ∧ bitOf (t.rd (basinP r + oSTATUS)) 31 = true
          ∧ (∀ pa, op = 3 → fieldOf (s.rd (basinP r + 0x4C)) 23 0 = 1 → s.behindQuay pa = true →
              (s.translate c (s.rd64 (basinP r + 0x44) / 128 * 128) false).1 = .ok pa →
              ∀ l ∈ (t.getRegion r).basin, ¬(l.ctx = c ∧ l.la = pa / 128))
          ∧ regionFrame r s t)
      ∧ (bitOf (s.rd (basinP r + oSTATUS)) 31 = true ∨ s.regionCtx r = none →
        ∃ t, exec i s = .next t ∧ t.faultCode (basinP r) = 0x600 ∧ t.rd (basinP r + oCTRL) = s.rd (basinP r + oCTRL)
          ∧ t.region = s.region ∧ outsideSame s t))
    ∧ ∀ (r : Nat) (s : State), s.regionRuns r →
      (bitOf (s.rd (basinP r + oSTATUS)) 31 = true →
        ∃ t, exec (.rangeDone r) s = .next t ∧ t.rd (basinP r + oCTRL) = 0 ∧ bitOf (t.rd (basinP r + oSTATUS)) 31 = false
          ∧ bitOf (t.rd (basinP r + oEVENT)) 2 = true ∧ t.region = s.region ∧ outsideSame s t)
      ∧ let l := (s.getRegion r).wayTo
        let busy := (s.quays.any fun q => q.alloc && q.region = r) || !(s.getRegion r).fills.isEmpty
        (busy = true → exec (.wayUseChange r) s = .next s)
        ∧ (busy = false → (∀ e ∈ l, e.1 < 16) → (l.map (·.1)).Nodup →
          ∃ t, exec (.wayUseChange r) s = .next t ∧ (t.getRegion r).wayTo = []
            ∧ (t.getRegion r).basin = (s.getRegion r).basin.filter (fun b => !(l.any fun e => e.1 = b.way))
            ∧ (∀ w < 16, t.wayUse r w = (match l.find? fun e => e.1 = w with
                | some e => e.2 % 4
                | none => s.wayUse r w))
            ∧ t.core = s.core ∧ regionFrame r s t)

/-- A clean flit at a part of the Channel changes nothing; a corrected one records 0x106, a bad one discards its packet
and is 0x311, and one at a region whose clock does not run is discarded and counted. A grant goes to a flit that stands at
an input, needs the output and finds a credit of its own channel, an RT flit before every other; it spends the credit and
counts in its class. In a frame every context is granted at least the smaller of its demand and its share, and at most its
demand. A sample equal to the last or the next after it, with good parity, is taken, and the upper bits advance where it
passes to 0; any other is region fault 0x310. (R162, R257, R260, R261, R262, R269, R270.) -/
def Obligations.ChannelCountsSharesAndTideSamples : Prop :=
  (∀ (r vc gr gc src : Nat) (part : ChPart) (d : Bool) (s : State), s.build.legal = true → s.awake = true →
      partHere s.build part r gr gc = true →
      ((s.getRegion r).clockOn = true → (s.getRegion r).frozen = false → s.power r = 2 →
        exec (.flitArrival r part vc gr gc src d .clean) s = .next s
        ∧ (∃ t, exec (.flitArrival r part vc gr gc src d .single) s = .next t ∧ t.faultCode (regionP r) = 0x106
          ∧ t.rd (regionP r + 0x9C) = satAdd (s.rd (regionP r + 0x9C)) 1 ∧ netSame s t ∧ partsSame s t)
        ∧ ∃ t, exec (.flitArrival r part vc gr gc src d .double) s = .next t ∧ t.faultCode (regionP r) = 0x311
          ∧ t.rd (regionP r + 0xA0) = satAdd (s.rd (regionP r + 0xA0)) 1
          ∧ (∀ p, s.flitAt r part vc gr gc src d = some p → t.net = (s.dropPacket p).net)
          ∧ t.region = s.region ∧ outsideSame s t)
      ∧ ((s.getRegion r).clockOn = false ∨ (s.getRegion r).frozen = true ∨ s.power r ≠ 2 → ∀ found,
        ∃ t, exec (.flitArrival r part vc gr gc src d found) s = .next t
          ∧ t.rd (regionP r + 0xA0) = satAdd (s.rd (regionP r + 0xA0)) 1 ∧ partsSame s t))
    ∧ (∀ (n m : Node) (c : State.Cand) (floor : Bool) (s : State), s.pick n m = some (c, floor) →
      c ∈ s.headsAt n ∧ m ∈ s.outsLeft n c.flit ∧ (s.chLink n m).used c.vc < creditSize s.build n m c.vc
        ∧ ((∃ d ∈ s.headsAt n, vcClass d.vc = 0 ∧ m ∈ s.outsLeft n d.flit ∧ s.grantable n m d = true
              ∧ s.shaped n m d = false) → vcClass c.vc = 0))
    ∧ (∀ (gr gc : Nat) (m : Node) (c : State.Cand) (floor : Bool) (s : State), m ≠ .router gr gc →
      let r := routerRegion s.build gr gc
      let t := s.grant (.router gr gc) m c floor
      (t.chLink (.router gr gc) m).used c.vc = (s.chLink (.router gr gc) m).used c.vc + 1
        ∧ t.rd (State.flitCounter r c.vc) = satAdd (s.rd (State.flitCounter r c.vc)) 1
        ∧ (floor = true → t.rd (regionP r + 0x94) = satAdd (s.rd (regionP r + 0x94)) 1) ∧ partsSame s t)
    ∧ (∀ (quay bk : Nat) (demand : List (Nat × Nat)) (s : State), quay < s.build.quays → s.awake = true →
      ∃ t l g, exec (.quayShareFrame quay demand bk) s = .next t ∧ Tab.get [] t.share quay = l ++ [(16, g)] ∧ g ≤ bk
        ∧ (∀ e ∈ l, ∃ n, (e.1, n) ∈ demand ∧ min n (s.shareOf e.1) ≤ e.2 ∧ e.2 ≤ n) ∧ t.reg = s.reg ∧ partsSame s t)
    ∧ ∀ (r sample : Nat) (ok : Bool) (s : State), s.regionRuns r → s.power r = 2 → s.clk.running = true →
      let last := (s.getRegion r).tideLow
      ((ok = true ∧ (sample = last ∨ sample = (last + 1) % 2 ^ 20)) →
        ∃ t, exec (.tideStep r sample ok) s = .next t ∧ (t.getRegion r).tideLow = sample
          ∧ (t.getRegion r).tideHigh = (s.getRegion r).tideHigh + (if sample = 0 ∧ last = 2 ^ 20 - 1 then 1 else 0)
          ∧ t.reg = s.reg ∧ t.core = s.core ∧ regionFrame r s t)
      ∧ ((ok = false ∨ (sample ≠ last ∧ sample ≠ (last + 1) % 2 ^ 20)) →
        ∃ t, exec (.tideStep r sample ok) s = .next t ∧ t.faultCode (regionP r) = 0x310 ∧ t.region = s.region
          ∧ outsideSame s t)

/-- Shown for BERTH_GATE: ARM with a stamp at least COMMIT_LEAD ahead captures the shadow register, sets PENDING and
leaves the register as it was; a later ARM takes the turn that COMMIT_LEAD allows and records LATE with 0x804; a value that
is not the union of the registered manifests, a 17th group, and an ARM less than COMMIT_LEAD before the stamp of the commit
that it would replace are REFUSED with 0x600. CANCEL that early ends it, a later one does nothing. Before the stamp the
group does nothing; at it the register takes the captured value, segments that go off are not ready and await the work
issued before that touches them, PENDING clears and DONE sets. A plane switch that waited takes place when no vx.wharf is in
the pipe. (R118, R119, R190, R191, R192, R193, R194, R285.) -/
def Obligations.CommitAtTide : Prop :=
  (∀ (p : Party) (k : Nat) (s : State), k < 1088 → s.admits p (coreP k + oCOMMIT) → State.mayCommit (coreP k) p = true →
      fieldOf (s.rd (captureP + oSTATUS)) 31 29 = 0 →
      let want := s.rd64 (coreP k + oCTIDE)
      let v := s.rd (coreP k + 0x844)
      let own := if s.clk.tide + 4096 ≤ want then want else turnAfter s.clk.tide
      let refused := fun (t : State) => bitOf (t.rd (coreP k + oCOMMIT)) 5 = true ∧ t.faultCode (coreP k) = 0x600
        ∧ t.rd (coreP k + 0x44) = s.rd (coreP k + 0x44) ∧ partsSame s t
      (s.groupOf (coreP k) = none → s.groups.length < 16 → (∀ g ∈ s.groups, g.want ≠ want) → s.resumesAt want = [] →
        (s.gateFits k v = true →
          ∃ t, exec (.commitArm p (coreP k)) s = .next t
            ∧ t.groups = s.groups ++ [⟨want, own, [⟨coreP k, [(coreP k + 0x44, v)], own⟩]⟩]
            ∧ bitOf (t.rd (coreP k + oCOMMIT)) 2 = true ∧ t.rd (coreP k + 0x44) = s.rd (coreP k + 0x44) ∧ partsSame s t
            ∧ (want < s.clk.tide + 4096 → bitOf (t.rd (coreP k + oCOMMIT)) 4 = true ∧ t.faultCode (coreP k) = 0x804))
        ∧ (s.gateFits k v = false →
          ∃ t, exec (.commitArm p (coreP k)) s = .next t ∧ t.groups = s.groups ∧ refused t))
      ∧ (s.groupOf (coreP k) = none → 16 ≤ s.groups.length → (∀ g ∈ s.groups, g.want ≠ want ∧ g.members ≠ []) →
        ∃ t, exec (.commitArm p (coreP k)) s = .next t ∧ t.groups = s.groups ∧ refused t)
      ∧ ∀ g, s.groupOf (coreP k) = some g →
        (s.clk.tide + 4096 ≤ g.stamp →
          ∃ t, exec (.commitCancel p (coreP k)) s = .next t ∧ (∀ x ∈ t.groups, ∀ m ∈ x.members, m.page ≠ coreP k)
            ∧ bitOf (t.rd (coreP k + oCOMMIT)) 2 = false ∧ t.rd (coreP k + 0x44) = s.rd (coreP k + 0x44) ∧ partsSame s t)
        ∧ (g.stamp < s.clk.tide + 4096 →
          (∃ t, exec (.commitCancel p (coreP k)) s = .next t ∧ t.groups = s.groups
            ∧ t.rd (coreP k + oCOMMIT) = s.rd (coreP k + oCOMMIT) ∧ partsSame s t)
          ∧ (g.members.map (·.page) = [coreP k] → s.resumesAt g.want = [] →
            ∃ t, exec (.commitArm p (coreP k)) s = .next t ∧ t.groups = s.groups.filter (fun x => x.want ≠ g.want)
              ∧ bitOf (t.rd (coreP k + oCOMMIT)) 2 = false ∧ refused t)))
    ∧ (∀ (stamp : Nat) (s : State), s.clk.tide < stamp → exec (.commitApply stamp) s = .next s)
    ∧ (∀ (k want stamp own : Nat) (v : Word) (s : State), k < 1088 → s.awake = true → stamp ≤ s.clk.tide →
      s.groups = [⟨want, stamp, [⟨coreP k, [(coreP k + 0x44, v)], own⟩]⟩] → s.pilot.fixes = [] →
      fieldOf (s.rd (captureP + oSTATUS)) 31 29 = 0 → s.gateFits k v = true →
      let off := State.segmentsOf (s.rd (coreP k + 0x44) &&& ~~~v)
      ∃ t, exec (.commitApply stamp) s = .next t ∧ t.rd (coreP k + 0x44) = v
        ∧ t.rd (coreP k + 0x48) = s.rd (coreP k + 0x48) &&& v ∧ t.groups = []
        ∧ (t.getCore k).readying = ((s.getCore k).readying &&& v) ||| (v &&& ~~~(s.rd (coreP k + 0x44)))
        ∧ (t.getCore k).gating = (s.getCore k).gating.filter (fun g => !bitOf v g.1)
            ++ off.map (fun e => (8 * e.1 + e.2, s.segmentWork k e.1 e.2))
        ∧ bitOf (t.rd (coreP k + oCOMMIT)) 2 = false ∧ bitOf (t.rd (coreP k + oCOMMIT)) 3 = true
        ∧ berthsSame k s t ∧ coreFrame k s t)
    ∧ ∀ (core : Nat) (b : Bool) (s : State), s.runs core → (s.getCore core).switchTo = some b →
      State.wharfBusy (s.getCore core) = false →
      ∃ t, exec (.planeSwitch core) s = .next t ∧ (t.getCore core).activeB = b ∧ (t.getCore core).switchTo = none
        ∧ t.reg = s.reg ∧ berthsSame core s t ∧ coreFrame core s t

/-- The raised row applies at the first turn 5 us after the acknowledgement; a lower code is driven after 64 rc;
VREQ_ACK ends a change; an unasked fall is noted and after 1 ms takes the region off with 0x322; a lost lock of a
region takes it off with 0x312, one of the tide or the control complex stops the heartbeat. A reading within 10 ms
of a change is discarded; otherwise GAUGE_REGION holds the worst margin. (R380, R383, R384, R385, R387, R395, R443.) -/
def Obligations.VoltageFrequencyAndGauges : Prop :=
  ∀ (r : Nat) (s : State), r < s.build.regions → s.build.legal = true → s.awake = true →
    let x := s.getRegion r
    (∀ idx, x.rise = some idx → x.codePending = false → (x.ackAt + 3125 + 1023) / 1024 * 1024 ≤ s.clk.tide →
      ∃ t, exec (.frequencyRise r) s = .next t ∧ (t.getRegion r).tier = idx ∧ (t.getRegion r).rise = none
        ∧ fieldOf (t.rd (regionP r + 0x44)) 31 30 = idx % 4 ∧ bitOf (t.rd (regionP r + 0x44)) 29 = decide (4 ≤ idx)
        ∧ t.core = s.core ∧ regionFrame r s t)
    ∧ (∀ code rc, x.lower = some (code, rc) → rc + 64 ≤ s.rcOf r → x.codePending = false → code < 256 →
      ∃ t, exec (.lowerVreq r) s = .next t ∧ fieldOf (t.rd (regionP r + 0x44)) 23 16 = code
        ∧ (t.getRegion r).codePending = true ∧ (t.getRegion r).lower = none ∧ t.core = s.core ∧ regionFrame r s t)
    ∧ (x.codePending = true → x.fallAt = none → x.want = none → x.codeAt + 625 ≤ s.clk.time →
      ∃ t, exec (.vreqAck r) s = .next t ∧ bitOf (t.rd (regionP r + 0x44)) 27 = true
        ∧ (t.getRegion r).codePending = false ∧ (t.getRegion r).ackAt = s.clk.tide ∧ t.core = s.core ∧ regionFrame r s t)
    ∧ (x.codePending = false → x.fallAt = none → s.power r = 2 →
      ∃ t, exec (.vreqAckFall r) s = .next t ∧ bitOf (t.rd (regionP r + 0x44)) 27 = false
        ∧ (t.getRegion r).fallAt = some s.clk.time ∧ t.core = s.core ∧ regionFrame r s t)
    ∧ (∀ at_, x.fallAt = some at_ → at_ + 625000 ≤ s.clk.time → s.power r = 2 →
      ∃ t, exec (.vreqTimeout r) s = .next t ∧ t.faultCode (regionP r) = 0x322 ∧ t.power r = 3
        ∧ (t.getRegion r).clockOn = false ∧ regionFrame r s t)
    ∧ (s.power r = 2 →
      ∃ t, exec (.synthLockLoss (.region r)) s = .next t ∧ t.faultCode (regionP r) = 0x312 ∧ t.power r = 3
        ∧ (t.getRegion r).clockOn = false ∧ regionFrame r s t)
    ∧ (∀ w ∈ [Synth.tide, Synth.control],
      ∃ t, exec (.synthLockLoss w) s = .next t ∧ t.pilot.stopped = true ∧ t.reg = s.reg ∧ partsSame s t)
    ∧ ∀ (m : List (BitVec 16)) (hits : Nat), m.length = 12 →
      (s.clk.time < x.changedAt + 6250000 → exec (.gaugeReading r m hits) s = .next s)
      ∧ (s.power r = 2 → x.changedAt + 6250000 ≤ s.clk.time → s.mayReplan r = false →
        ∃ t, exec (.gaugeReading r m hits) s = .next t
          ∧ (let w := BitVec.ofNat 16 (fieldOf (t.getRegion r).gauge 31 16); w ∈ m ∧ ∀ y ∈ m, w.toInt ≤ y.toInt)
          ∧ (t.getRegion r).replicas = m ∧ (t.getRegion r).hits = satAdd x.hits hits
          ∧ t.reg = s.reg ∧ t.core = s.core ∧ regionFrame r s t)

/-- HOLD_REQ in RUNNING makes the context HELD with HOLD_TIDE at its present schedule time, in any other state it
records 0x600 and nothing changes. The hold stops a core, and HOLD_REQ clears at the last one. RESUME_TIDE ahead of
HOLD_TIDE by COMMIT_LEAD arms the resume, outside HELD it records 0x600. At its stamp the context is RUNNING, its
cores are not held, schedule time is back at HOLD_TIDE, and the next launch prefetches. TLB_INVAL empties the translation
cache. (R154, R156, R157, R165, R173, R174, R175, R300, R303.) -/
def Obligations.HoldAndResume : Prop :=
  ∀ (p : Party) (c : Nat) (s : State), c < 16 →
    (s.admits p (ctxP c + 0x6C) →
      (s.ctxState c = 2 → ∃ t, exec (.holdReq p c) s = .next t ∧ t.ctxState c = 3
        ∧ t.rd64 (ctxP c + 0x80) = s.sched c % 2 ^ 64 ∧ t.rd (ctxP c + 0x6C) = 1 ∧ t.core = s.core ∧ ctxFrame c s t)
      ∧ (s.ctxState c ≠ 2 → ∃ t, exec (.holdReq p c) s = .next t ∧ t.faultCode (ctxP c) = 0x600
        ∧ t.rd (ctxP c + 0x6C) = s.rd (ctxP c + 0x6C) ∧ t.ctxState c = s.ctxState c ∧ partsSame s t))
    ∧ (∀ hi, s.admits p (ctxP c + 0x8C) →
      let v := s.formed p (ctxP c + 0x8C) hi
      let want := v + (s.getCtx c).offset
      (s.ctxState c = 3 → s.rd64 (ctxP c + 0x80) < v → s.clk.tide + 4096 ≤ want → (∀ g ∈ s.groups, g.want ≠ want) →
        ∃ t, exec (.resumeTide p c hi) s = .next t ∧ (t.getCtx c).resume = some (want, want)
          ∧ t.rd64 (ctxP c + 0x88) = v ∧ t.ctxState c = 3 ∧ t.groups = s.groups ∧ t.core = s.core ∧ ctxFrame c s t)
      ∧ (s.ctxState c ≠ 3 →
        ∃ t, exec (.resumeTide p c hi) s = .next t ∧ t.faultCode (ctxP c) = 0x600
          ∧ t.rd64 (ctxP c + 0x88) = s.rd64 (ctxP c + 0x88) ∧ partsSame s t))
    ∧ (∀ want stamp, s.awake = true → (s.getCtx c).resume = some (want, stamp) → s.ctxState c = 3 → stamp ≤ s.clk.tide →
        (∀ g ∈ s.groups, g.want ≠ want) → (s.getCtx c).rebuildAt = none →
      let tf := s.rd64 (ctxP c + 0x80)
      ∃ t, exec (.resume c) s = .next t ∧ t.ctxState c = 2 ∧ (t.getCtx c).resume = none ∧ (t.getCtx c).prefetch = true
        ∧ (s.clk.tide = stamp → tf ≤ stamp → t.sched c = tf)
        ∧ (∀ k ∈ s.coresOf c, (t.getCore k).held = false) ∧ (∀ k, k ∉ s.coresOf c → t.getCore k = s.getCore k) ∧ ctxFrame c s t)
    ∧ (s.admits p (ctxP c + 0x64) →
      ∃ t, exec (.tlbInval p c) s = .next t ∧ (t.getCtx c).tlb = [] ∧ t.core = s.core ∧ ctxFrame c s t)
    ∧ ∀ core, s.runs core → (s.getCore core).ctx = some c → s.ctxState c = 3 →
      ∃ t, exec (.holdArrival core) s = .next t ∧ (t.getCore core).held = true
        ∧ ((∀ j ∈ s.coresOf c, j ≠ core → (s.getCore j).held = true) → t.rd (ctxP c + 0x6C) = 0)
        ∧ berthsSame core s t ∧ coreFrame core s t

/-- OPEN whose checks pass makes the context OPEN, RESULT 1, and the regions of its mask its own; a failed check writes
its RESULT, records 0x600 and changes no context. START makes an OPEN context RUNNING. DESTROY makes it CLOSING and
unbinds its queues. The teardown, once the records of its queues are written, the Channel holds nothing of its cores and no
commit of theirs is pending, makes it FREE, advances EPOCH, and no core or region of it serves any more. (R236, R299, R301,
R325, R327, R329, R331, R360.) -/
def Obligations.ContextsOpenStartAndClose : Prop :=
  ∀ (p : Party) (c : Nat) (s : State), c < 16 →
    (s.admits p (ctxP c + oCTRL) → fieldOf (s.rd (ctxP c + oCTRL)) 2 0 = 0 →
      (s.openCheck c = 1 → ∃ t, exec (.openCtx p c) s = .next t ∧ t.ctxState c = 1 ∧ t.rd (ctxP c + oCTRL) = 16
        ∧ (∀ r < 16, bitOf (s.rd (ctxP c + 0x40)) (16 + r) = true → t.regionCtx r = some c)
        ∧ (∀ d, d ≠ c → t.getCtx d = s.getCtx d) ∧ outsideSame s t)
      ∧ (s.openCheck c ≠ 1 → ∃ t, exec (.openCtx p c) s = .next t ∧ t.rd (ctxP c + oCTRL) = word (16 * s.openCheck c)
        ∧ t.faultCode (ctxP c) = 0x600 ∧ t.ctxState c = s.ctxState c ∧ partsSame s t)
      ∧ (s.ctxState c = 1 → ∃ t, exec (.start p c) s = .next t ∧ t.ctxState c = 2 ∧ t.rd (ctxP c + oCTRL) = 16
        ∧ ((s.getCtx c).paired = true → t.pairState c = 1) ∧ (t.getCtx c).prefetch = true
        ∧ (∀ k ∈ s.coresOf c, (t.getCore k).held = false) ∧ ctxFrame c s t)
      ∧ (1 ≤ s.ctxState c → s.ctxState c ≤ 4 → ∃ t, exec (.destroy p c) s = .next t ∧ t.ctxState c = 5
        ∧ (∀ q ∈ s.queuesOf c, t.qState q = 0) ∧ (t.getCtx c).launches = [] ∧ outsideSame s t))
    ∧ (s.awake = true → s.ctxState c = 5 →
        (∀ q < 64, fieldOf (s.rd (queueP q + 0x50)) 23 20 = c → (s.getQueue q).ended = []) →
        (∀ r ∈ (s.getCtx c).regions, (s.getRegion r).frozen = false) → (∀ k ∈ s.coresOf c, s.noTraffic k = true) →
        s.commitsDone c = true →
      ∃ t, exec (.teardownComplete c) s = .next t ∧ t.ctxState c = 0 ∧ t.epoch c = (s.epoch c + 1) % 2 ^ 16
        ∧ t.rd (ctxP c + oCTRL) = 16 ∧ t.getCtx c = {} ∧ (∀ k, (t.getCore k).ctx ≠ some c)
        ∧ (∀ r < 16, r ∈ (s.getCtx c).regions → t.regionHeld r = false) ∧ outsideSame s t)

/-- At the pair gate two equal block-bollard operations go on to the control complex as one that both cores await, unequal
requests are 0x960 and end the context. A detach stops the cores of its side, makes the other side the lead and PAIR_STATUS
DETACHED. A rebuild first powers the segments of the spares it needs, then holds the context, then, when the lead side is
quiet, arms the resume 11,250 tt later. A replay of a lost context with a spare for every failed core makes it RUNNING with
RESULT 1 once the segments of the spares are ready, of a context that is not LOST it answers RESULT 2, during a handover of
the Pilot it waits. A mirrored register that has changed is region fault 0x330 and is rewritten at a turn. (R353, R361,
R363, R365, R366, R371, R372.) -/
def Obligations.PairedContextsCompareDetachRebuildAndReplay : Prop :=
  ∀ (c : Nat) (s : State), c < 16 → s.awake = true →
    let y := s.getCtx c
    (∀ mindex path a b, y.gate.find? (fun g => g.mindex = mindex && g.path = path && g.side = 0) = some a →
        y.gate.find? (fun g => g.mindex = mindex && g.path = path && g.side = 1) = some b → y.paired = true →
        s.pairState c = 1 →
      (∀ o sub n, a.write = none → b.write = none → a.op = some (o, sub, n) → b.op = a.op →
        ∃ t, exec (.pairGateMatch c mindex path) s = .next t ∧ (t.getCtx c).gate = (y.gate.erase a).erase b
          ∧ sends (.bbol ⟨o, sub, n, false, 0, a.mindex, [(a.core, a.ack), (b.core, b.ack)]⟩) (.mem a.core) .control 0 1 s t
          ∧ t.reg = s.reg ∧ t.core = s.core ∧ ctxFrame c s t)
      ∧ (State.gateAgree a b = false →
        ∃ t, exec (.pairGateMatch c mindex path) s = .next t ∧ t.faultCode (ctxP c) = 0x960
          ∧ ((s.ctxState c = 2 ∨ s.ctxState c = 3) → t.ctxState c = 4) ∧ ctxFrame c s t))
    ∧ (∀ side at_, y.detach = some (side, at_) → y.paired = true → s.pairState c = 1 →
      (s.handing = true → exec (.coreFaultDetach c) s = .next s)
      ∧ (s.handing = false →
        ∃ t, exec (.coreFaultDetach c) s = .next t ∧ t.pairState c = 2
          ∧ fieldOf (t.rd (ctxP c + 0xAC)) 29 29 = 1 - side ∧ (t.getCtx c).detach = none ∧ (t.getCtx c).gate = []
          ∧ (∀ k ∈ s.coresOf c, s.sideOf k = side → (s.getCore k).state ≠ 3 → (t.getCore k).state = 2)
          ∧ (∀ k, k ∉ s.coresOf c ∨ s.sideOf k ≠ side → (t.getCore k).state = (s.getCore k).state)
          ∧ outsideSame s t))
    ∧ (let lead := fieldOf (s.rd (ctxP c + 0xAC)) 29 29
      ∀ l, y.paired = true → s.handing = false →
        s.rebuildSpares c (y.failed.filter fun k => s.sideOf k = 1 - lead) = some l →
      (y.rebuildAt = none → s.pairState c = 2 → s.ctxState c = 2 →
        (∀ r ∈ s.sideRegions c (1 - lead), s.power r = 2 ∧ (s.getRegion r).frozen = false) →
        (s.sparesReady l = true →
          ∃ t, exec (.rebuild c) s = .next t ∧ t.pairState c = 3 ∧ t.ctxState c = 3
            ∧ t.rd64 (ctxP c + 0x80) = s.sched c % 2 ^ 64 ∧ (t.getCtx c).rebuildAt = some 0 ∧ (t.getCtx c).spares = l
            ∧ ctxFrame c s t)
        ∧ (s.sparesReady l = false →
          ∃ t, exec (.rebuild c) s = .next t ∧ t.pairState c = 2 ∧ t.ctxState c = 2 ∧ (t.getCtx c).rebuildAt = none
            ∧ (t.getCtx c).spares = l ∧ t.core = s.core ∧ t.region = s.region ∧ outsideSame s t))
      ∧ (y.rebuildAt = some 0 → s.pairState c = 3 → s.ctxState c = 3 →
        (∀ k ∈ s.coresOf c, s.sideOf k = lead → s.quiet_ k = true) → s.sparesReady l = true →
        ∃ t, exec (.rebuild c) s = .next t
          ∧ (t.getCtx c).resume = some (s.clk.tide + 11250, s.clk.tide + 11250) ∧ (t.getCtx c).rebuildAt = some 1
          ∧ t.ctxState c = 3 ∧ outsideSame s t))
    ∧ (∀ p, s.admits p (ctxP c + 0xB0) → y.replaying = false →
      (s.handing = true → ∃ t, exec (.ctxReplay p c) s = .next t ∧ t.rd (ctxP c + 0xB0) = 1 ∧ partsSame s t)
      ∧ (s.handing = false → s.ctxState c ≠ 4 →
          ∃ t, exec (.ctxReplay p c) s = .next t ∧ t.rd (ctxP c + 0xB0) = 32 ∧ partsSame s t)
      ∧ (∀ l, s.handing = false → s.ctxState c = 4 → y.r68 = false → State.r68Code y.lostBy = false →
          (y.lostBy / 256 ≠ 9 ∨ y.lostBy = 0x950) → s.pilot.crewDown = false → (∀ r ∈ y.regions, s.power r = 2) →
          s.sparesFor y.failed [] = some l →
        ∃ t, exec (.ctxReplay p c) s = .next t ∧ (t.getCtx c).failed = [] ∧ (t.getCtx c).barrierIn = []
          ∧ (l = [] → (t.getCtx c).replaying = false)
          ∧ ((t.getCtx c).replaying = false → t.ctxState c = 2 ∧ t.rd (ctxP c + 0xB0) = 16)
          ∧ ((t.getCtx c).replaying = true → t.ctxState c = 4 ∧ t.rd (ctxP c + 0xB0) = 1 ∧ (t.getCtx c).spares = l)
          ∧ outsideSame s t))
    ∧ (y.replaying = true → s.sparesReady y.spares = true →
        (s.replayDue c).ctxState c = 2 ∧ (s.replayDue c).rd (ctxP c + 0xB0) = 16
          ∧ ((s.replayDue c).getCtx c).replaying = false ∧ ctxFrame c s (s.replayDue c))
    ∧ ∀ (r a : Nat) (v : Word), r < s.build.regions → r < 16 → s.mirrorMask r a = some 0x3FF →
        (v ^^^ s.rd a) &&& 0x3FF ≠ 0 → s.power r = 2 →
      exec (.configMirrorCheck r none) s = .next s
      ∧ ∃ t, exec (.configMirrorCheck r (some (a, v))) s = .next t ∧ t.rd a = v &&& 0x3FF
        ∧ t.faultCode (regionP r) = 0x330
        ∧ (a, s.rd a, turnAfter s.clk.tide) ∈ t.pilot.fixes ∧ t.core = s.core ∧ outsideSame s t

/-- BIND of an unbound queue of an OPEN or RUNNING context makes it ACTIVE and empty; UNBIND of one that executes
nothing makes it UNBOUND; RESET makes it ACTIVE and discards what was not fetched; FLUSH discards what has not
started as well; a doorbell moves TAIL to its value, one further ahead than the ring holds is 0x941 as well and stops
the queue. Other queues, cores and memories are unchanged. (R305, R307, R308, R312, R330.) -/
def Obligations.QueuesBindAndTakeDoorbells : Prop :=
  ∀ (p : Party) (q : Nat) (s : State), q < 64 →
    (s.admits p (queueP q + oCTRL) →
      let v := s.rd (queueP q + 0x50)
      (s.qState q = 0 → (s.ctxState (s.qCtx q) = 1 ∨ s.ctxState (s.qCtx q) = 2) → (s.qTask q = true → s.qDevice q = true) →
          fieldOf v 11 8 ≤ 10 → fieldOf v 7 4 ≤ 12 → (s.getQueue q).ended = [] →
        ∃ t, exec (.bind p q) s = .next t ∧ t.qState q = 1 ∧ t.rd (queueP q + 0x48) = 0 ∧ t.rd (queueP q + 0x40) = 0
          ∧ t.rd (queueP q + 0x44) = s.rd (queueP q + 0x4C) ∧ t.ctx = s.ctx ∧ queueFrame q s t)
      ∧ (s.qState q ≠ 0 → (s.getQueue q).exec = none → (s.getQueue q).ended = [] → (s.getQueue q).accepted = [] →
        ∃ t, exec (.unbind p q) s = .next t ∧ t.qState q = 0 ∧ queueFrame q s t)
      ∧ (s.qState q ≠ 0 →
        ∃ t, exec (.reset p q) s = .next t ∧ t.qState q = 1 ∧ t.rd (queueP q + 0x48) = s.rd (queueP q + 0x40)
          ∧ (t.getQueue q).accepted = (s.getQueue q).accepted ∧ queueFrame q s t)
      ∧ (s.qState q ≠ 0 → (s.getQueue q).part = none →
        ∃ t, exec (.flush p q) s = .next t ∧ t.qState q = s.qState q ∧ t.rd (queueP q + 0x48) = s.rd (queueP q + 0x40)
          ∧ (t.getQueue q).accepted = [] ∧ (t.getQueue q).exec = (s.getQueue q).exec ∧ queueFrame q s t))
    ∧ ∀ v, s.admits p (queueP q + 0x40) → s.qDevice q = false → s.qState q ≠ 0 → s.rd (queueP q + 0x40) ≠ v →
      let ahead := (v.toNat + 2 ^ 32 - s.qHead q) % 2 ^ 32
      (ahead ≤ s.qUnits q → s.qRt q = false →
        ∃ t, exec (.doorbell p q v) s = .next t ∧ t.rd (queueP q + 0x40) = v ∧ t.qState q = s.qState q ∧ partsSame s t)
      ∧ (s.qUnits q < ahead →
        ∃ t, exec (.doorbell p q v) s = .next t ∧ t.faultCode (queueP q) = 0x941 ∧ t.qState q = 2
          ∧ t.rd (queueP q + 0x40) = v ∧ queueFrame q s t)

/-- On a host ring of a running context: an item of legal form whose SEQ is the last one plus 1 is accepted and HEAD
moves past it; an earlier SEQ only moves HEAD; a later one is 0x940. The completion of an ended item of a normal
queue writes 16 bytes of host memory at the record of its SEQ and then COMPLETE_SEQ; every other byte stays. An error of
the Dispatcher's own, found at the fetch, is 0x962 with path 5 and ends the context. (R306, R307, R308, R310, R325, R359.) -/
def Obligations.ItemsAreTakenAndCompleted : Prop :=
  ∀ (q : Nat) (s : State), q < 64 → s.awake = true → s.qDevice q = false →
    (s.qState q = 1 → s.qWaiting q ≠ 0 → (s.getQueue q).stuck = false → s.ctxState (s.qCtx q) = 2 →
      let bytes := fun n => (s.ringRuns q (s.qHead q) n).flatMap fun r => Mem.bytes zeroFill s.hostMem r.1 r.2
      let units := fieldAt (bytes 1) 4 2
      units ≠ 0 → units ≤ 64 → units ≤ s.qWaiting q → zeroAt (bytes 1) 6 10 = true →
      let seq := fieldAt (bytes units) 0 4
      let d := (seq + 2 ^ 32 - (s.rd (queueP q + 0x4C)).toNat) % 2 ^ 32
      (d = 1 → ∃ t, exec (.itemFetch ⟨q, false⟩) s = .next t
        ∧ (t.getQueue q).accepted = (s.getQueue q).accepted ++ [⟨seq, bytes units⟩]
        ∧ t.rd (queueP q + 0x48) = word (s.qHead q + units) ∧ t.rd (queueP q + 0x4C) = word seq ∧ queueFrame q s t)
      ∧ ((d = 0 ∨ 2 ^ 31 ≤ d) → ∃ t, exec (.itemFetch ⟨q, false⟩) s = .next t ∧ t.getQueue q = s.getQueue q
        ∧ t.rd (queueP q + 0x48) = word (s.qHead q + units) ∧ t.rd (queueP q + 0x4C) = s.rd (queueP q + 0x4C)
        ∧ t.rd (queueP q + 0x80) = satAdd (s.rd (queueP q + 0x80)) 1 ∧ queueFrame q s t)
      ∧ (1 < d → d < 2 ^ 31 → ∃ t, exec (.itemFetch ⟨q, false⟩) s = .next t ∧ t.getQueue q = s.getQueue q
        ∧ t.faultCode (queueP q) = 0x940 ∧ t.qState q = 2 ∧ queueFrame q s t))
    ∧ (s.qState q ≠ 0 →
      ∃ t, exec (.itemFetch ⟨q, true⟩) s = .next t ∧ t.faultCode (ctxP (s.qCtx q)) = 0x962
        ∧ fieldOf (t.rd (ctxP (s.qCtx q) + oFINFO)) 31 12 = 5
        ∧ (1 ≤ s.ctxState (s.qCtx q) → s.ctxState (s.qCtx q) ≤ 3 → t.ctxState (s.qCtx q) = 4) ∧ t.core = s.core
        ∧ t.region = s.region ∧ outsideSame s t)
    ∧ ∀ e rest, (s.getQueue q).ended = e :: rest → (s.getQueue q).exec = none → (s.getQueue q).accepted = [] →
        s.qRt q = false →
      let a := s.rd64 (queueP q + 0x60) / 16 * 16 + 16 * (e.seq % 2 ^ (4 + fieldOf (s.rd (queueP q + 0x50)) 7 4))
      ∃ t, exec (.itemComplete q) s = .next t ∧ (t.getQueue q).ended = rest ∧ t.rd (queueP q + 0x44) = word e.seq
        ∧ t.hostMem = Mem.putBytes zeroFill s.hostMem a (leBytes 4 e.seq ++ leBytes 1 e.status ++ leBytes 1 e.detail
            ++ leBytes 2 e.cmd ++ leBytes 8 s.clk.tide)
        ∧ (Mem.wf zeroFill s.hostMem = true → ∀ x, x < a ∨ a + 16 ≤ x →
            Mem.get zeroFill t.hostMem x = Mem.get zeroFill s.hostMem x)
        ∧ t.devMem = s.devMem ∧ t.core = s.core ∧ t.region = s.region ∧ ∀ j, j ≠ q → t.getQueue j = s.getQueue j

/-- END leaves the buffer. SIGNAL joins the stream of updates of its block bollard and waits until the tick applies them.
WAIT goes on when its condition holds and waits when not; a poll of a waiting WAIT does the same. IF skips its commands when
its condition holds. LOOP begins its body with its count. CALL runs the buffer at its reference and then the command behind.
FENCE goes on when no transfer and no launch is left and waits otherwise. A bollard outside the context's range is
BAD_COMMAND. No other queue, no core, region or memory changes. (R240, R300, R309, R313, R319.) -/
def Obligations.ControlCommandsOfItems : Prop :=
  ∀ (q : Nat) (s : State) (e : Exec) (f : CFrame) (fs : List CFrame) (c : Cmd),
    (s.mayCommand q e f fs c →
      let u := s.atCommand q c
      let now := s.sched (s.qCtx q)
      let i := fieldOf (word c.arg) 11 0
      (c.op = 0 → (fs = [] ∨ ∃ g gs, fs = g :: gs ∧ g.goesOn g.pc) →
        ∃ t, exec (.cmdEnd q) s = .next t ∧ t.execOf q = some { e with start := now, stack := fs } ∧ queueFrame q s t)
      ∧ (c.op = 4 →
        (i < (s.rd (ctxP (s.qCtx q) + 0x94)).toNat →
          ∃ t, exec (.cmdSignal q) s = .next t ∧ t.execOf q = some { e with start := now, waiting := true }
            ∧ t.bbolNow = s.bbolNow
                ++ [⟨s.bbolAbs (s.qCtx q) i, bitOf (word c.arg) 12, (c.word 0).toNat, false, 3, 0xFFF, []⟩]
            ∧ queueFrame q s t)
        ∧ ((s.rd (ctxP (s.qCtx q) + 0x94)).toNat ≤ i →
          ∃ t, exec (.cmdSignal q) s = .next t ∧ t.bbolNow = s.bbolNow
            ∧ t.execOf q = some { e with start := now, deposit := none, failed := some (5, 0, State.cmdIndex e) }
            ∧ queueFrame q s t))
      ∧ (∀ b v, c.op = 5 → u.condValue q c.arg (c.word 0) (c.word 1) = .ok b v → f.goesOn (f.pc + 1) →
        ∃ t, exec (.cmdWait q) s = .next t
          ∧ t.execOf q = some (if b then e.past f fs (f.pc + 1) now else { e with start := now, waiting := true })
          ∧ queueFrame q s t)
      ∧ (∀ b v, c.op = 6 → u.fits q (c.word 2).toNat = true → u.condValue q c.arg (c.word 0) (c.word 1) = .ok b v →
          f.goesOn (f.pc + (if b then (c.word 2).toNat else 0) + 1) →
        ∃ t, exec (.cmdIf q) s = .next t
          ∧ t.execOf q = some (e.past f fs (f.pc + (if b then (c.word 2).toNat else 0) + 1) now) ∧ queueFrame q s t)
      ∧ (c.op = 7 → u.fits q (fieldOf (c.word 2) 43 32) = true → u.depth q < 4 →
          (bitOf (word c.arg) 31 = true ∨ bitOf (word c.arg) 26 = false ∨ i < (s.rd (ctxP (s.qCtx q) + 0x94)).toNat) →
        let lp : LoopFrame := ⟨f.pc + 1, f.pc + 1 + fieldOf (c.word 2) 43 32, fieldOf (c.word 2) 31 0, c.arg, c.word 0, c.word 1⟩
        ∃ t, exec (.cmdLoop q) s = .next t
          ∧ t.execOf q = some (e.past { f with loops := lp :: f.loops } fs (f.pc + 1) now) ∧ queueFrame q s t)
      ∧ (∀ a l v w, c.op = 8 → u.depth q < 4 → u.reloc q (c.word 0) (c.word 1).toNat = .ok a v →
          v.readLoc q a (c.word 1).toNat = .ok l w → cmdsOf 8192 l ≠ [] →
        ∃ t, exec (.cmdCall q) s = .next t
          ∧ t.execOf q = some { e with start := now, stack := ⟨cmdsOf 8192 l, 0, []⟩ :: { f with pc := f.pc + 1 } :: fs }
          ∧ queueFrame q s t)
      ∧ (c.op = 9 →
        (e.transfers = [] → e.launches = [] → f.goesOn (f.pc + 1) →
          ∃ t, exec (.cmdFence q) s = .next t ∧ t.execOf q = some (e.past f fs (f.pc + 1) now) ∧ queueFrame q s t)
        ∧ ((e.transfers ≠ [] ∨ e.launches ≠ []) →
          ∃ t, exec (.cmdFence q) s = .next t ∧ t.execOf q = some { e with start := now, waiting := true }
            ∧ queueFrame q s t)))
    ∧ ∀ b v, q < 64 → s.awake = true → (s.ctxState (s.qCtx q) = 2 ∨ s.ctxState (s.qCtx q) = 3) → s.execOf q = some e →
        e.stack = f :: fs → f.cmds[f.pc]? = some c → c.op = 5 → e.waiting = true → e.failed = none → e.deposit = none →
        s.condValue q c.arg (c.word 0) (c.word 1) = .ok b v → f.goesOn (f.pc + 1) →
      ∃ t, exec (.condPoll q) s = .next t ∧ t.execOf q = some (if b then e.past f fs (f.pc + 1) e.start else e)
        ∧ queueFrame q s t

/-- COPY and FILL start a transfer with both addresses relocated and change no byte. A transfer does not end while a quay
has requests of it; at its end a transfer within one page has written its bytes: the pattern of a FILL, the source's
bytes of a COPY. TIMESTAMP writes the tide as 8 bytes. ENQUEUE writes the item unit by unit into the ring of its device
queue, the first with the push count plus 1 as SEQ; the last unit moves TAIL past the item. Every other byte of device
memory stays, and host memory stays. (R304, R309, R312, R313, R495.) -/
def Obligations.DataCommandsOfItems : Prop :=
  ∀ (q : Nat) (s : State) (e : Exec) (f : CFrame) (fs : List CFrame) (c : Cmd),
    let x := s.qCtx q
    let calm := fun (t : State) => t.core = s.core ∧ t.hostMem = s.hostMem ∧ t.clk = s.clk ∧ t.build = s.build
    let only := fun (pa n : Nat) (t : State) => ∀ a, a < pa ∨ pa + n ≤ a → Mem.get zeroFill t.devMem a = Mem.get zeroFill s.devMem a
    (s.mayCommand q e f fs c →
      let u := s.atCommand q c
      let now := s.sched x
      (∀ src dst v w, c.op = 2 → u.reloc q (c.word 0) (c.word 2).toNat = .ok src v →
          v.reloc q (c.word 1) (c.word 2).toNat = .ok dst w → f.goesOn (f.pc + 1) →
        ∃ t, exec (.cmdCopy q) s = .next t ∧ queueFrame q s t
          ∧ t.execOf q = some { e.past f fs (f.pc + 1) now with
              transfers := e.transfers ++ [⟨false, src, dst, (c.word 2).toNat, 0, State.cmdIndex e, now⟩] })
      ∧ (∀ dst w, c.op = 3 → u.reloc q (c.word 0) (c.word 1).toNat = .ok dst w → f.goesOn (f.pc + 1) →
        ∃ t, exec (.cmdFill q) s = .next t ∧ queueFrame q s t
          ∧ t.execOf q = some { e.past f fs (f.pc + 1) now with
              transfers := e.transfers ++ [⟨true, 0, dst, (c.word 1).toNat, word c.arg, State.cmdIndex e, now⟩] })
      ∧ (∀ a pa v w, c.op = 10 → Mem.wf zeroFill s.devMem = true → u.reloc q (c.word 0) 8 = .ok a v → a < itemAddr →
          a % 65536 ≤ 65528 → v.cmdPage x a true false = .ok pa w → f.goesOn (f.pc + 1) →
        ∃ t, exec (.cmdTimestamp q) s = .next t ∧ t.execOf q = some (e.past f fs (f.pc + 1) now)
          ∧ Mem.bytes zeroFill t.devMem pa 8 = leBytes 8 s.clk.tide ∧ only pa 8 t ∧ calm t)
      ∧ (∀ a h b l pa v w y z r, c.op = 11 → Mem.wf zeroFill s.devMem = true → s.qState c.arg = 1 → s.qDevice c.arg = true →
          s.qCtx c.arg = x → u.reloc q (c.word 0) 16 = .ok a v → v.readLoc q a 16 = .ok h w →
          1 ≤ fieldAt h 4 2 → fieldAt h 4 2 ≤ 64 → zeroAt h 6 10 = true →
          w.reloc q (c.word 0) (64 * fieldAt h 4 2) = .ok b y → y.readLoc q b (64 * fieldAt h 4 2) = .ok l z →
          l.length = 64 * fieldAt h 4 2 → (s.getQueue c.arg).part = none →
          s.qWaiting c.arg + fieldAt h 4 2 ≤ s.qUnits c.arg →
          z.cmdPage x (s.rd64 (queueP c.arg + 0x58) / 64 * 64 + 64 * (s.qTail c.arg % s.qUnits c.arg)) true true = .ok pa r →
          f.goesOn (f.pc + 1) →
        ∃ t, exec (.cmdEnqueue q) s = .next t
          ∧ Mem.bytes zeroFill t.devMem pa 64 = leBytes 4 (((s.getQueue c.arg).push + 1) % 2 ^ 32) ++ (l.take 64).drop 4
          ∧ only pa 64 t ∧ calm t
          ∧ (fieldAt h 4 2 = 1 → t.execOf q = some (e.past f fs (f.pc + 1) now)
              ∧ t.rd (queueP c.arg + 0x40) = word (s.qTail c.arg + 1)
              ∧ (t.getQueue c.arg).push = ((s.getQueue c.arg).push + 1) % 2 ^ 32 ∧ (t.getQueue c.arg).part = none)
          ∧ (1 < fieldAt h 4 2 → (t.execOf q = some { e with start := now, waiting := true, deposit := some ⟨c.arg, l, 1, false, 0⟩ })
              ∧ t.rd (queueP c.arg + 0x40) = s.rd (queueP c.arg + 0x40) ∧ (t.getQueue c.arg).part = some q)))
    ∧ (q < 64 → s.moving q = true → exec (.copyComplete q) s = .next s)
    ∧ (∀ tr rest pa v, q < 64 → s.awake = true → s.execOf q = some e → e.waiting = false → e.transfers = tr :: rest →
        s.moving q = false →
        Mem.wf zeroFill s.devMem = true → 0 < tr.len → tr.dst < itemAddr → tr.dst % 65536 + tr.len ≤ 65536 →
      (tr.fill = true → s.cmdPage x tr.dst true false = .ok pa v →
        ∃ t, exec (.copyComplete q) s = .next t ∧ t.execOf q = some { e with transfers := rest }
          ∧ (∀ i < tr.len, Mem.get zeroFill t.devMem (pa + i) = (leBytes 4 tr.value.toNat).getD (i % 4) 0)
          ∧ only pa tr.len t ∧ calm t)
      ∧ (∀ pb w, tr.fill = false → tr.src < itemAddr → tr.src % 65536 + tr.len ≤ 65536 →
          s.cmdPage x tr.src false false = .ok pb w → w.cmdPage x tr.dst true false = .ok pa v →
        ∃ t, exec (.copyComplete q) s = .next t ∧ t.execOf q = some { e with transfers := rest }
          ∧ (∀ i < tr.len, Mem.get zeroFill t.devMem (pa + i) = Mem.get zeroFill s.devMem (pb + i))
          ∧ only pa tr.len t ∧ calm t))
    ∧ ∀ (d : Deposit) pa r, q < 64 → s.awake = true → (s.ctxState x = 2 ∨ s.ctxState x = 3) → s.execOf q = some e →
        e.stack = f :: fs → f.goesOn (f.pc + 1) → e.failed = none → e.deposit = some d → d.cut = false → 1 ≤ d.done →
        64 * (d.done + 1) = d.bytes.length → Mem.wf zeroFill s.devMem = true →
        s.cmdPage x (s.rd64 (queueP d.target + 0x58) / 64 * 64 + 64 * ((s.qTail d.target + d.done) % s.qUnits d.target)) true true
          = .ok pa r →
      ∃ t, exec (.enqueueDeposit q) s = .next t ∧ t.execOf q = some (e.past f fs (f.pc + 1) e.start)
        ∧ Mem.bytes zeroFill t.devMem pa 64 = (d.bytes.drop (64 * d.done)).take 64 ∧ only pa 64 t ∧ calm t
        ∧ t.rd (queueP d.target + 0x40) = word (s.qTail d.target + d.done + 1) ∧ (t.getQueue d.target).part = none
        ∧ (t.getQueue d.target).push = ((s.getQueue d.target).push + 1) % 2 ^ 32

/-- While no leg of the context runs and no commit of its segments is pending: REGISTER of a free number with a legal
descriptor whose manifests pass their checks adds the voyage, places its sections in the chart memories of its cores, and is
done when its segments are ready, otherwise it waits; a refused manifest is 0x920 and ends the command REFUSED with its
REASON. RELEASE takes a voyage away, with its sections. Both wait while a leg runs. LAUNCH reads and relocates its parameter
block and starts a launch of a registered voyage behind the others; of a voyage that is not registered it fails; it waits
behind a REGISTER in progress. (R118, R215, R315, R316, R317.) -/
def Obligations.VoyagesAndLaunches : Prop :=
  ∀ (q : Nat) (s : State) (e : Exec) (f : CFrame) (fs : List CFrame) (c : Cmd), s.mayCommand q e f fs c → f.goesOn (f.pc + 1) →
    let x := s.qCtx q
    let u := s.atCommand q c
    let now := s.sched x
    let id := c.arg % 64
    let n := (c.word 1).toNat
    let failedWith := fun (st detail : Nat) (t : State) =>
      t.execOf q = some { e with start := now, deposit := none, failed := some (st, detail, State.cmdIndex e) }
    let translated := fun (t : State) => (∀ j, j ≠ q → t.getQueue j = s.getQueue j)
      ∧ (∀ k, k ∉ s.coresOf x → t.getCore k = s.getCore k)
      ∧ (∀ k, (t.getCore k).wb = (s.getCore k).wb ∧ (t.getCore k).ab = (s.getCore k).ab ∧ (t.getCore k).pb = (s.getCore k).pb)
      ∧ t.region = s.region ∧ outsideSame s t
    (s.mayRegister q = false → exec (.cmdRegister q) s = .next s ∧ exec (.cmdRelease q) s = .next s)
    ∧ (s.registering x = true → exec (.cmdLaunch q) s = .next s)
    ∧ (c.op = 0x10 → s.mayRegister q = true → (∀ r ∈ (s.getCtx x).regions, (s.getRegion r).blocked = false) →
      (∀ v ∈ (s.getCtx x).voyages, v.1 ≠ c.arg) →
      ∀ a h b d u1 u2 u3 u4, u.reloc q (c.word 0) 16 = .ok a u1 → u1.readLoc q a 16 = .ok h u2 →
        fieldAt h 0 4 = 0x5956584A → 1 ≤ fieldAt h 4 1 → fieldAt h 4 1 ≤ 64 → zeroAt h 5 3 = true → fieldAt h 8 2 % 4 = 0 →
        fieldAt h 8 2 ≤ 1024 → zeroAt h 10 6 = true →
        u2.reloc q (c.word 0) (16 + 16 * fieldAt h 4 1) = .ok b u3 →
        u3.readLoc q b (16 + 16 * fieldAt h 4 1) = .ok d u4 →
        (∀ r ∈ recordsOf 16 (d.drop 16), fieldAt r 8 4 ≠ 0 ∧ zeroAt r 12 4 = true) →
      (∀ ms u5, State.readLegs q x (fieldAt h 8 2) (recordsOf 16 (d.drop 16)) [] u4 = .ok ms u5 →
        ∃ t, exec (.cmdRegister q) s = .next t
          ∧ (t.getCtx x).voyages = Tab.put (s.getCtx x).voyages c.arg ⟨fieldAt h 8 2, ms⟩
          ∧ t.execOf q = some (if t.gatesReady x then e.past f fs (f.pc + 1) now else { e with start := now, waiting := true })
          ∧ ((s.coresOf x).Nodup → ∀ k ∈ s.coresOf x, (t.getCore k).sects =
              (s.getCore k).sects ++ chartSects x c.arg (s.getCore k).mindex ms)
          ∧ translated t)
      ∧ (∀ st u5, State.readLegs q x (fieldAt h 8 2) (recordsOf 16 (d.drop 16)) [] u4 = .fail st u5 → 0x300 ≤ st →
        ∃ t, exec (.cmdRegister q) s = .next t ∧ (t.getCtx x).voyages = (s.getCtx x).voyages
          ∧ t.faultCode (ctxP x) = 0x920 ∧ failedWith 3 (st - 0x300) t ∧ queueFrame q s t))
    ∧ (c.op = 0x10 → s.mayRegister q = true → (∃ v ∈ (s.getCtx x).voyages, v.1 = c.arg) →
        ∃ t, exec (.cmdRegister q) s = .next t ∧ failedWith 8 0 t ∧ queueFrame q s t)
    ∧ (c.op = 0x11 → s.mayRegister q = true → (∃ v ∈ (s.getCtx x).voyages, v.1 = c.arg) →
        ∃ t, exec (.cmdRelease q) s = .next t ∧ (t.getCtx x).voyages = Tab.del (s.getCtx x).voyages c.arg
          ∧ t.execOf q = some (e.past f fs (f.pc + 1) now)
          ∧ (∀ k ∈ s.coresOf x, (t.getCore k).sects =
              (s.getCore k).sects.filter (fun y => !(y.ctx = x && y.voyage = c.arg)))
          ∧ translated t)
    ∧ (c.op = 1 → s.registering x = false → (∀ v ∈ (s.getCtx x).voyages, v.1 ≠ id) →
        ∃ t, exec (.cmdLaunch q) s = .next t ∧ failedWith 8 0 t ∧ (t.getCtx x).launches = (s.getCtx x).launches
          ∧ queueFrame q s t)
    ∧ ∀ v l u1 l' u2, c.op = 1 → s.registering x = false → ((s.getCtx x).voyages.find? fun v => v.1 = id) = some v →
        n ≤ v.2.paramBytes →
        ((n = 0 ∧ l = [] ∧ u1 = u) ∨ (n ≠ 0 ∧ ∃ a u0, u.reloc q (c.word 0) n = .ok a u0 ∧ u0.readLoc q a n = .ok l u1)) →
        State.relocBlock q ((c.word 2).toNat + (c.word 3).toNat * 2 ^ 64) (List.range 128) l u1 = .ok l' u2 →
      let num := (s.getCtx x).nextLaunch
      ∃ t, exec (.cmdLaunch q) s = .next t
        ∧ (t.getCtx x).launches = (s.getCtx x).launches ++
            [⟨num, q, e.item.seq, id, l', bitOf (word c.arg) 8, s.qRt q, 0, none, 1, [], false, none, State.cmdIndex e⟩]
        ∧ (t.getCtx x).nextLaunch = num + 1
        ∧ t.execOf q = some { e.past f fs (f.pc + 1) now with launches := e.launches ++ [num] }
        ∧ t.rd (ctxP x + 0xC0) = satAdd (s.rd (ctxP x + 0xC0)) 1 ∧ (∀ d, d ≠ x → t.getCtx d = s.getCtx d) ∧ queueFrame q s t

/-- A lead ends a lead pause, which moves the due points of the launches that it delayed. A lead whose activation passes
makes the launch ready at the present tide with its variant and tilings; a refused one is 0x920, drops the launch and fails
its LAUNCH with REFUSED. BASE is at least 64 tt after the lead and not before the end of the leg before; with an RT share in
its window a normal leg that fits lies wholly before the RT part. The end of a leg takes its streams away, and the end of the
last completes the launch. A command past its due point is 0x950: the item ends with status 9 and the context is LOST. (R154,
R177, R315, R319, R322, R348, R392.) -/
def Obligations.LegsRunAtTheirBase : Prop :=
  (∀ (c : Nat) (s : State), c < 16 → s.pilot.crewDown = false →
      exec (.crewLead c) s = exec (.crewLead c) s.resumeLeads ∧ s.resumeLeads.pilot.pause = none
      ∧ (s.resumeLeads.getCtx c).launches = (s.getCtx c).launches.map (fun l =>
          if s.pilot.pause.isSome && s.leadDelayed c l then { l with due := l.due.map (· + s.pausedFor) } else l))
    ∧ (∀ (c : Nat) (s : State) (l : Launch), c < 16 → s.awake = true → s.nextLaunch c = some l →
      let x := s.getCtx c
      let m := s.legImage c l.voyage l.leg
      let span := fieldAt m 20 4
      let lead := l.ready = none ∧ (s.ctxState c = 2 ∨ s.ctxState c = 3) ∧ s.pilot.crewDown = false ∧ s.pilot.pause = none
      (∀ u, lead → s.activation c m = (none, u) →
        ∃ t, exec (.crewLead c) s = .next t
          ∧ (t.getCtx c).launches = x.launches.map (fun y =>
              if y.id = l.id then { y with variant := if l.leg = 0 then u.variantOf c l else l.variant,
                                           tilings := selectTilings m y.params, ready := some s.clk.tide } else y)
          ∧ (l.leg = 0 → (t.getCtx c).prefetch = false)
          ∧ t.core = s.core ∧ t.queue = s.queue ∧ (∀ d, d ≠ c → t.getCtx d = s.getCtx d) ∧ outsideSame s t)
      ∧ (∀ r u, lead → s.activation c m = (some r, u) →
        ∃ t, exec (.crewLead c) s = .next t ∧ t.faultCode (ctxP c) = 0x920
          ∧ (t.getCtx c).launches = x.launches.filter (fun y => y.id ≠ l.id)
          ∧ (∀ e, s.execOf l.queue = some e → e.failed = none → t.execOf l.queue = some
              { e with launches := e.launches.filter (fun n => n ≠ l.id), failed := some (3, r.reason, l.cmd),
                       waiting := false, deposit := none })
          ∧ t.core = s.core ∧ (∀ j, j ≠ l.queue → t.getQueue j = s.getQueue j) ∧ outsideSame s t)
      ∧ (∀ ready, l.ready = some ready → s.ctxState c = 2 →
          (l.rt = true ∨ (x.rtWait = [] ∧ ∀ y ∈ x.launches, y.rt = false)) →
        let first := max (ready + 64) (x.prevEnd + x.offset)
        ∃ t g, exec (.legBase c) s = .next t ∧ (t.getCtx c).legs = x.legs ++ [g] ∧ g.launch = l.id ∧ g.leg = l.leg
          ∧ g.begun = false ∧ g.span = span ∧ (t.getCtx c).prevEnd = g.base + span
          ∧ ready + 64 ≤ g.base + x.offset ∧ x.prevEnd ≤ g.base
          ∧ ((l.rt = true ∨ s.rtShareIn (first / 1024 * 1024) = 0) → g.base + x.offset = first)
          ∧ (let share := s.rtShareIn ((g.base + x.offset) / 1024 * 1024)
             0 < share → l.rt = false → (s.queuesOf c).any s.qRt = true → span ≤ 1024 - share →
              (g.base + x.offset) % 1024 + span ≤ 1024 - share)
          ∧ (∀ y ∈ (t.getCtx c).launches, y.id = l.id → y.ready = none)
          ∧ (∀ k, k ∉ g.cores.map (·.1) → t.getCore k = s.getCore k)
          ∧ t.region = s.region ∧ t.queue = s.queue ∧ outsideSame s t))
    ∧ (∀ (c : Nat) (s : State) (g : LegRun) (rest : List LegRun) (l : Launch), c < 16 → s.awake = true →
        (s.getCtx c).legs = g :: rest → s.legOver c g = true → (s.getCtx c).paired = false → s.ctxState c ≠ 4 →
        ((s.getCtx c).launches.find? fun l => l.id = g.launch) = some l →
      ∃ t, exec (.legEnd c) s = .next t ∧ (t.getCtx c).legs = rest
        ∧ (∀ e ∈ g.cores, (t.getCore e.1).progs.all (fun p => p.1 ≠ e.2) = true)
        ∧ (∀ k, k ∉ g.cores.map (·.1) → t.getCore k = s.getCore k)
        ∧ (l.leg < s.legCount c l.voyage → (t.getCtx c).launches = (s.getCtx c).launches ∧ t.queue = s.queue)
        ∧ (s.legCount c l.voyage ≤ l.leg → ∀ e, s.execOf l.queue = some e → e.waiting = false →
            (t.getCtx c).launches = (s.getCtx c).launches.filter (fun y => y.id ≠ l.id)
            ∧ t.execOf l.queue = some { e with launches := e.launches.filter (fun n => n ≠ l.id) }
            ∧ t.region = s.region ∧ outsideSame s t))
    ∧ ∀ (q : Nat) (s : State) (e : Exec), q < 64 → s.awake = true → s.execOf q = some e → s.ctxState (s.qCtx q) = 2 →
        fieldOf (s.rd (queueP q + 0x54)) 19 0 ≠ 0 →
      (s.overdue q e = none → exec (.queueTimeout q) s = .next s)
      ∧ ∀ i, s.overdue q e = some i →
        ∃ t, exec (.queueTimeout q) s = .next t ∧ t.faultCode (ctxP (s.qCtx q)) = 0x950 ∧ t.ctxState (s.qCtx q) = 4
          ∧ (t.getQueue q).exec = none ∧ (t.getQueue q).ended = (s.getQueue q).ended ++ [⟨e.item.seq, 9, 0, i⟩]
          ∧ t.core = s.core ∧ t.region = s.region ∧ outsideSame s t

/-- An OKAY response to a request that waits at its quay: a write of a fresh request puts its bytes into device memory and its
acknowledgement leaves for the core; the bytes that a read asked for leave for the core, those of a Basin fill for the
Basin, with the region's earlier writes that are still on their way; a read changes no memory. The request of another
member is answered to its jetty; one to a line of a COPY or FILL is taken away; a stale request is only counted. SLVERR and
DECERR are 0x401 and poison 0x402 on the page of the quay, and the context is LOST. A response with no request is 0x403. A
request over the bound is 0x803 and counted, one within it is nothing. A read of QUAY_LATENCY_MAX clears it. A request that
comes to its quay waits there and is counted, a line request that comes to its Basin waits with the cycle of its coming, and
an answer that comes to its core is a line to deposit or an acknowledgement. (R126, R242, R243, R255, R325, R429, R431,
R432, R433, R434.) -/
def Obligations.QuaysAnswer : Prop :=
  (∀ (m id : Nat) (s : State), m < s.build.quays → s.awake = true → s.build.legal = true →
    let rest := s.quays.filter fun o => ¬ (o.quay = m ∧ o.id = id ∧ o.phase = 1)
    (∀ o, (s.quays.find? fun o => o.quay = m && o.id = id && o.phase = 1) = some o →
      (∀ r lat, o.copy = none → o.reqs = [r] → r.core ≠ State.foreign → r.ctx < 16 → s.fresh r.ctx r.epoch = true →
          r.store = o.write →
        let d := Mem.bytes zeroFill s.devMem r.pa r.len
        ∃ t, exec (.quayResponse m id .okay lat) s = .next t
          ∧ t.core = s.core ∧ t.region = s.region ∧ t.hostMem = s.hostMem ∧ t.queue = s.queue ∧ t.ctx = s.ctx ∧ t.clk = s.clk
          ∧ (o.write = true → Mem.wf zeroFill s.devMem = true →
              t.quays = rest ∧ sendsAt (.port (.quay m)) (.done { r with data := [] }) (.quay m) (.mem r.core) 3 1 0 s t
              ∧ Mem.bytes zeroFill t.devMem r.pa r.data.length = r.data
              ∧ ∀ a, a < r.pa ∨ r.pa + r.data.length ≤ a → Mem.get zeroFill t.devMem a = Mem.get zeroFill s.devMem a)
          ∧ (o.write = false → t.devMem = s.devMem
              ∧ (o.alloc = false → t.quays = rest
                  ∧ sendsAt (.port (.quay m)) (.data { r with data := d }) (.quay m) (.mem r.core) 3 (State.flitsOf d.length) 0 s t)
              ∧ (o.alloc = true → t.quays = rest ++ [{ o with phase := 2 }]
                  ∧ sends (.fill o.id (({ s with quays := rest }).fillData o)) (.quay m) (.basin o.region) 3 2 s t)))
      ∧ (∀ r lat, o.copy = none → o.reqs = [r] → r.core = State.foreign → o.write = false → r.store = false →
        let d := Mem.bytes zeroFill s.devMem r.pa r.len
        ∃ t, exec (.quayResponse m id .okay lat) s = .next t ∧ t.quays = rest ∧ partsSame s t
          ∧ sendsAt (.port (.quay m)) (.data { r with data := d }) (.quay m) o.port 5 (State.flitsOf d.length) 0 s t)
      ∧ (∀ r lat, o.copy = none → o.reqs = [r] → r.core ≠ State.foreign → r.ctx < 16 → s.fresh r.ctx r.epoch = false →
          o.write = false → o.alloc = false →
        ∃ t, exec (.quayResponse m id .okay lat) s = .next t ∧ netSame s t ∧ t.quays = rest
          ∧ t.rd (ctxP r.ctx + 0xC4) = satAdd (s.rd (ctxP r.ctx + 0xC4)) 1 ∧ partsSame s t)
      ∧ (∀ resp lat, resp ≠ .okay → State.isForeign o = false → o.source < 16 → s.isStale o = false →
        ∃ t, exec (.quayResponse m id resp lat) s = .next t
          ∧ t.faultCode (quayP (s.quayOf o.pa).1) = (if resp = .poison then 0x402 else 0x401)
          ∧ bitOf (t.rd (quayP (s.quayOf o.pa).1 + oFINFO)) 28 = decide (resp = .decerr)
          ∧ ((s.ctxState o.source = 2 ∨ s.ctxState o.source = 3) → t.ctxState o.source = 4)
          ∧ t.core = s.core ∧ t.region = s.region ∧ outsideSame s t)
      ∧ (∀ resp lat, resp ≠ .okay → State.isForeign o = false → o.source < 16 → s.isStale o = true →
        ∃ t, exec (.quayResponse m id resp lat) s = .next t
          ∧ t.rd (ctxP o.source + 0xC4) = satAdd (s.rd (ctxP o.source + 0xC4)) (max 1 o.reqs.length) ∧ partsSame s t)
      ∧ (∀ x lat, o.copy = some x → o.reqs = [] →
        ∃ t, exec (.quayResponse m id .okay lat) s = .next t ∧ t.quays = rest ∧ netSame s t ∧ partsSame s t))
    ∧ ((s.quays.find? fun o => o.quay = m && o.id = id && o.phase = 1) = none → ∀ resp lat,
        ∃ t, exec (.quayResponse m id resp lat) s = .next t ∧ t.faultCode (quayP m) = 0x403
          ∧ t.rd (quayP m + oFINFO) = word (id % 2 ^ 12) ∧ t.rd (quayP m + 0x90) = satAdd (s.rd (quayP m + 0x90)) 1
          ∧ partsSame s t)
    ∧ (∀ lat, lat ≤ fieldOf (s.rd (quayP m + 0x40)) 11 0 → exec (.quayLate m id lat) s = .next s)
    ∧ (∀ lat, fieldOf (s.rd (quayP m + 0x40)) 11 0 < lat →
        ∃ t, exec (.quayLate m id lat) s = .next t ∧ t.faultCode (quayP m) = 0x803
          ∧ t.rd (quayP m + 0x88) = satAdd (s.rd (quayP m + 0x88)) 1 ∧ bitOf (t.rd (quayP m + oEVENT)) 0 = true
          ∧ t.rd (quayP m + 0x44) = word (max (s.rd (quayP m + 0x44)).toNat (min lat (2 ^ 20 - 1))) ∧ partsSame s t)
    ∧ ∀ p, s.answers (quayP m + 0x44) = true →
        ∃ t, exec (.quayLatMaxRead p m) s = .next t ∧ t.rd (quayP m + 0x44) = 0 ∧ partsSame s t
          ∧ ∀ a, a ≠ quayP m + 0x44 → t.rd a = s.rd a)
  ∧ ∀ (s : State),
    (∀ p id o, (s.quays.find? fun o => o.id = id && o.phase = 0) = some o →
      let t := s.deliver p (.quay id)
      let a := quayP o.quay + (if o.write then 0x84 else 0x80)
      t.rd a = satAdd (s.rd a) 1 ∧ partsSame s t ∧ netSame s t
        ∧ t.quays = s.quays.map fun x => if x.id = id ∧ x.phase = 0 then { x with phase := 1 } else x)
    ∧ (∀ b q, let t := s.deliver (.basin b) (.line q)
      (t.getRegion b).requests = (s.getRegion b).requests ++ [{ q with came := s.rcOf b }]
        ∧ (t.getRegion b).basin = (s.getRegion b).basin ∧ t.core = s.core ∧ netSame s t ∧ regionFrame b s t)
    ∧ ∀ k r, s.fresh r.ctx r.epoch = true →
      (r.store = false → let t := s.deliver (.mem k) (.data r)
        (t.getCore r.core).arrivals = (s.getCore r.core).arrivals ++ [r] ∧ netSame s t ∧ coreFrame r.core s t
          ∧ berthsSame r.core s t)
      ∧ (r.store = true → let t := s.deliver (.mem k) (.done r)
        (t.getCore r.core).acks = (s.getCore r.core).acks.filter (· ≠ r.id) ∧ netSame s t ∧ coreFrame r.core s t
          ∧ berthsSame r.core s t)

/-- A host-quay response without error changes nothing but the count of slow reads, over 250 ns. A failed ring read is
0x404 and stops the queue, a failed record write is 0x404 and gives the record up; either ends a running context. A
failed write of a ledger record is an entry of the fault log. A failed read of the boot parameters is 0x722 and the Pilot
waits for an address. An access of a Crew core to the Pilot half of the carve-out is refused, one elsewhere is not. A reset of the host quay stops every
host queue that has traffic and ends its context. (R326, R335, R341, R427, R448.) -/
def Obligations.HostQuayResponses : Prop :=
  ∀ (s : State) (lat : Nat), s.awake = true →
    (∀ req, (∀ pa, req ≠ .crew pa) → lat ≤ 250 → exec (.hqReadResponse req lat false) s = .next s)
    ∧ (∀ req, (∀ pa, req ≠ .crew pa) → 250 < lat → ∃ t, exec (.hqReadResponse req lat false) s = .next t
        ∧ t.rd (faultP + 0x5C) = satAdd (s.rd (faultP + 0x5C)) 1 ∧ partsSame s t ∧ ∀ a, a ≠ faultP + 0x5C → t.rd a = s.rd a)
    ∧ (∀ q, q < 64 → s.qState q ≠ 0 → s.qDevice q = false →
        ∃ t, exec (.hqReadResponse (.ring q) lat true) s = .next t ∧ (t.getQueue q).stuck = true
          ∧ t.faultCode (ctxP (s.qCtx q)) = 0x404
          ∧ ((s.ctxState (s.qCtx q) = 2 ∨ s.ctxState (s.qCtx q) = 3) → t.ctxState (s.qCtx q) = 4)
          ∧ t.core = s.core ∧ t.region = s.region ∧ outsideSame s t)
    ∧ (∀ q, q < 64 → s.qDevice q = false → (s.getQueue q).exec = none →
        ∃ t, exec (.hqReadResponse (.record q) lat true) s = .next t ∧ (t.getQueue q).ended = (s.getQueue q).ended.drop 1
          ∧ t.faultCode (ctxP (s.qCtx q)) = 0x404
          ∧ ((s.ctxState (s.qCtx q) = 2 ∨ s.ctxState (s.qCtx q) = 3) → t.ctxState (s.qCtx q) = 4)
          ∧ t.core = s.core ∧ t.region = s.region ∧ outsideSame s t)
    ∧ (s.bootState = 3 → ∃ t, exec (.hqReadResponse .bootParams lat true) s = .next t ∧ t.pilot.params = none
        ∧ t.faultCode bootP = 0x722 ∧ bitOf (t.rd (bootP + oSTATUS)) 5 = true ∧ t.bootState = 3 ∧ partsSame s t)
    ∧ (∃ t, exec (.hqReadResponse .ledger lat true) s = .next t ∧ t.pilot = { s.pilot with writeErr := true }
        ∧ t.rd (faultP + 0x40) = word ((s.rd (faultP + 0x40)).toNat + 1)
        ∧ fieldOf (Tab.get 0 t.flog ((s.rd (faultP + 0x40)).toNat % 256)) 31 20 = 0x404 ∧ t.hostMem = s.hostMem ∧ partsSame s t)
    ∧ (∀ pa err, (∀ b, s.carve = some b → pa < b ∨ b + 2 ^ 23 ≤ pa) → exec (.hqReadResponse (.crew pa) lat err) s = .next s)
    ∧ (∀ pa err b, s.carve = some b → b ≤ pa → pa < b + 2 ^ 23 →
        exec (.hqReadResponse (.crew pa) lat err) s = .next { s with pilot := { s.pilot with refused := true } })
    ∧ (s.wload = [] →
      let hit := fun (q : Nat) => s.qState q = 1 ∧ s.qDevice q = false ∧ (s.qWaiting q ≠ 0 ∨ (s.getQueue q).ended ≠ [])
      ((∀ q < 64, ¬ hit q) → exec .hqAresetN s = .next s)
      ∧ ∃ t, exec .hqAresetN s = .next t ∧ t.core = s.core ∧ t.region = s.region ∧ outsideSame s t
          ∧ ∀ q < 64, hit q → (t.getQueue q).stuck = true
              ∧ ((s.ctxState (s.qCtx q) = 2 ∨ s.ctxState (s.qCtx q) = 3) → t.ctxState (s.qCtx q) = 4))

/-- The fall of RESET_N and a loss of power leave every register at its reset value, every core, region, context and
queue idle and the tide at 0, and neither memory changed; a loss of power also restarts the model's time (log 1).
The rise of RESET_N samples SLIP_MODE and leads to BOOTROM_WAIT, to FAILED with 0x721 when the self-test fails, and
to QUIET with TEST_EN at 1; outside reset it does nothing. A rise of TEST_EN clears the keys and images of the
Pilot, and outside reset asserts QUIET with every region clock stopped. (R1, R338, R340, R343, R354, R374, R447,
R489.) -/
def Obligations.ResetAndPower : Prop :=
  ∀ (s : State),
    (∀ i z, (i, z) ∈ [(Instr.resetAssert, s.clk.time), (.lossOfPower, 0)] →
      ∃ t, exec i s = .next t ∧ t.inReset = true ∧ t.quiet = true ∧ t.clk.time = z ∧ t.clk.tide = 0 ∧ t.clk.running = false
        ∧ (∀ a, t.rd a = State.reset.rd a) ∧ t.core = [] ∧ t.region = [] ∧ t.ctx = [] ∧ t.queue = [] ∧ t.bbol = []
        ∧ t.hostMem = s.hostMem ∧ t.devMem = s.devMem ∧ t.build = s.build ∧ t.pending = s.pending)
    ∧ (∀ mode ok, s.inReset = false → exec (.resetRelease mode ok) s = .next s)
    ∧ (∀ (mode : BitVec 2) ok, s.inReset = true → ∃ t, exec (.resetRelease mode ok) s = .next t ∧ t.inReset = false
        ∧ t.slipMode = mode ∧ fieldOf (t.rd (slipP + oSTATUS)) 28 27 = mode.toNat
        ∧ t.bootState = (if s.testEn then 15 else if ok then 1 else 6)
        ∧ (s.testEn = false → ok = false → t.faultCode bootP = 0x721 ∧ fieldOf (t.rd (bootP + oSTATUS)) 27 16 = 0x721)
        ∧ partsSame s t)
    ∧ ∃ t, exec .testEnRise s = .next t ∧ t.testEn = true ∧ t.pilot.ledgerKey = [] ∧ t.pilot.pilotImage = []
        ∧ t.pilot.crewImage = [] ∧ t.core = s.core ∧ outsideSame s t
        ∧ (s.inReset = false → t.quiet = true ∧ t.quays = [] ∧ (s.bootState ≠ 6 → t.bootState = 15)
            ∧ ∀ r < s.build.regions, (t.getRegion r).clockOn = false)

/-- In BOOTROM_WAIT with no route in use, GO starts the fetch of the Pilot image and a slipway transfer of KIND 1 takes
the other route; at any other time either is REFUSED. A complete image that passes the checks starts the Pilot at
PILOT_UP with its version in IDENT; one that fails leaves BOOTROM_WAIT, with the code of the first check that failed
and ATTEMPTS advanced. A write of BOOT_PARAM_ADDR_HI stores the address, and a waiting Pilot reads the block: a good
one gives the carve-out, a bad one is 0x722. (R337, R339, R340, R341, R439, R440, R441.) -/
def Obligations.BootRoutes : Prop :=
  ∀ (p : Party) (s : State),
    (s.admits p (bootP + oCTRL) →
      (s.bootState = 1 → s.boot.route = 0 → ∃ t, exec (.go p) s = .next t
        ∧ t.boot = ⟨1, fetchImage s.hostMem (s.rd64 (bootP + 0x40) / 256 * 256), true⟩ ∧ t.rd (bootP + oCTRL) = 1 ∧ partsSame s t)
      ∧ ((s.bootState ≠ 1 ∨ s.boot.route ≠ 0) → ∃ t, exec (.go p) s = .next t ∧ t.boot = s.boot
        ∧ bitOf (t.rd (bootP + oSTATUS)) 4 = true ∧ t.faultCode bootP = 0x600 ∧ t.bootState = s.bootState ∧ partsSame s t))
    ∧ (∀ (bytes : List Byte) (overrun : Bool),
      (s.inReset = true → ∃ t, exec (.slipTransfer bytes overrun) s = .next t ∧ bitOf (t.rd (bootP + oSTATUS)) 4 = true
        ∧ t.boot = s.boot ∧ partsSame s t)
      ∧ (s.inReset = false → s.awake = false → s.bootState ≠ 1 → exec (.slipTransfer bytes overrun) s = .next s)
      ∧ (s.inReset = false → s.bootState = 1 → 8 ≤ bytes.length → fieldAt bytes 0 1 = 1 → zeroAt bytes 1 3 = true →
        ∃ t, exec (.slipTransfer bytes overrun) s = .next t ∧ partsSame s t ∧ t.bootState = 1
          ∧ t.rd (slipP + 0x80) = satAdd (s.rd (slipP + 0x80)) bytes.length
          ∧ (s.boot.route = 0 → t.boot = ⟨2, bytes.drop 8, !overrun && decide (bytes.length - 8 = fieldAt bytes 4 4)⟩)
          ∧ (s.boot.route ≠ 0 → t.boot = s.boot ∧ bitOf (t.rd (bootP + oSTATUS)) 4 = true)))
    ∧ (∀ readErr, (s.bootState ≠ 1 ∨ s.boot.route = 0) → exec (.pilotImageComplete readErr) s = .next s)
    ∧ (∀ readErr, s.bootState = 1 → s.boot.route ≠ 0 →
      let c := imageCheck s.rootKey 1 (readErr && decide (s.boot.route = 1)) s.boot.whole s.boot.image
      ∃ t, exec (.pilotImageComplete readErr) s = .next t ∧ t.boot = {} ∧ t.core = s.core ∧ outsideSame s t
        ∧ (c = 0 → t.bootState = 3 ∧ t.rd (identP + 0x54) = imageVersion s.boot.image ∧ t.pilot.pilotImage = s.boot.image
            ∧ t.pilot.pubkey = (s.boot.image.drop 32).take 96)
        ∧ (c ≠ 0 → t.bootState = 1 ∧ t.faultCode bootP = c ∧ fieldOf (t.rd (bootP + oSTATUS)) 27 16 = c
            ∧ fieldOf (t.rd (bootP + oSTATUS)) 15 8 = min 255 (fieldOf (s.rd (bootP + oSTATUS)) 15 8 + 1)))
    ∧ ∀ hi, s.admits p (bootP + 0x4C) →
      let a := s.formed p (bootP + 0x4C) hi / 64 * 64
      let l := Mem.bytes zeroFill s.hostMem a 128
      let waits := s.awake = true ∧ bitOf (s.rd (bootP + oSTATUS)) 5 = true
      ∃ t, exec (.bootParamAddrHi p hi) s = .next t ∧ t.rd64 (bootP + 0x48) = a ∧ partsSame s t
        ∧ (¬ waits → t.pilot = s.pilot ∧ t.carve = s.carve)
        ∧ (waits → a ≠ 0 → paramsOk s.build l = true → t.pilot.params = some l ∧ t.carve = some (fieldAt l 48 8)
            ∧ bitOf (t.rd (bootP + oSTATUS)) 5 = false)
        ∧ (waits → a ≠ 0 → paramsOk s.build l = false → t.pilot = s.pilot ∧ t.faultCode bootP = 0x722
            ∧ bitOf (t.rd (bootP + oSTATUS)) 5 = true)

/-- From PILOT_UP with boot parameters: a tide counter that fails its check is 0x720 and STATE FAILED; otherwise the
tide starts at 0. A Crew image that fails with no golden one is 0x730 and FAILED. With every part good, no ledger
and no Wharf image STATE is READY, every region is ON at Spring T3 and 0.75 V with way 15 for the Crew. A due record
goes into the slot that its SEQ names, 256 bytes, and no other byte of host memory changes; one whose write the host
quay has answered with an error changes no byte; with nothing due, or within 60 s of the last, nothing changes. (R342, R343,
R344, R345, R346, R427, R127.) -/
def Obligations.BringUpAndLedger : Prop :=
  (∀ (e : BringUpFindings) (s : State) (l : List Byte), s.pilot.params = some l → s.bootState = 3 → s.testEn = false →
        s.build.legal = true →
      let img := fetchImage s.hostMem (fieldAt l 8 8)
      (e.tideOk = false → ∃ t, exec (.bringUp e) s = .next t ∧ t.bootState = 6 ∧ t.faultCode bootP = 0x720 ∧ t.quiet = true
        ∧ t.clk = s.clk ∧ t.core = s.core ∧ t.ctx = s.ctx)
      ∧ (e.tideOk = true → imageCheck s.rootKey 2 e.crewReadErr true img ≠ 0 → fieldAt l 16 8 = 0 →
        ∃ t, exec (.bringUp e) s = .next t ∧ t.bootState = 6 ∧ t.faultCode bootP = 0x730
          ∧ t.rd (bootP + oFINFO) = word (imageCheck s.rootKey 2 e.crewReadErr true img) ∧ t.quiet = true
          ∧ t.clk.running = true ∧ t.clk.tide = 0)
      ∧ (e.tideOk = true → imageCheck s.rootKey 2 e.crewReadErr true img = 0 → noWharfFlag l = true → s.ledgerChoice = none →
          s.retired = [] → e.coreBad = [] → e.wayBad = [] → (∀ x ∈ s.core, x.2.state ≠ 3) →
          (∀ r < s.build.regions, bitOf e.regionOk r = true ∧ bitOf e.gaugeOk r = true ∧ bitOf e.ackOk r = true
            ∧ bitOf (s.rd (regionP r + oSTATUS)) 29 = false) →
        ∃ t, exec (.bringUp e) s = .next t ∧ t.bootState = 4 ∧ t.clk.time = s.clk.time ∧ t.clk.running = true ∧ t.clk.tide = 0
          ∧ t.pilot.crewImage = img ∧ t.rd (identP + 0x58) = imageVersion img ∧ t.pilot.ledgerDue = true
          ∧ (∀ r < s.build.regions, t.power r = 2 ∧ (t.getRegion r).clockOn = true ∧ (t.getRegion r).tier = 3
              ∧ t.rd (regionP r + 0x40) = 0x396 ∧ t.wayUse r 15 = 2 ∧ ∀ w < 15, t.wayUse r w = 0)
          ∧ t.core = s.core ∧ t.ctx = s.ctx ∧ t.hostMem = s.hostMem ∧ t.devMem = s.devMem))
    ∧ ∀ (s : State), s.awake = true → s.clk.time < s.pilot.hourAt + hourTicks →
      ((s.pilot.ledgerDue = false ∨ ∃ z, s.pilot.ledgerAt = some z ∧ s.clk.time < z + minuteTicks) →
          exec .ledgerRecord s = .next s)
      ∧ (s.bootState ≠ 3 → s.handing = false → (∀ z, s.pilot.ledgerAt = some z → z + minuteTicks ≤ s.clk.time) →
          s.pilot.ledgerDue = true → s.ledgerAddr ≠ 0 →
        let seq := s.pilot.ledgerSeq + 1
        let a := s.ledgerAddr + 256 * (seq % 2)
        (Mem.wf zeroFill s.hostMem = true → s.pilot.writeErr = false →
          ∃ t, exec .ledgerRecord s = .next t ∧ Mem.bytes zeroFill t.hostMem a 256 = s.ledgerBytes seq
            ∧ (∀ x, x < a ∨ a + 256 ≤ x → Mem.get zeroFill t.hostMem x = Mem.get zeroFill s.hostMem x)
            ∧ t.rd (bootP + 0x50) = word seq ∧ t.pilot.ledgerSeq = seq ∧ t.pilot.ledgerDue = false
            ∧ t.pilot.ledgerAt = some s.clk.time ∧ t.devMem = s.devMem ∧ t.core = s.core ∧ t.region = s.region ∧ t.ctx = s.ctx)
        ∧ (s.pilot.writeErr = true → ∃ t, exec .ledgerRecord s = .next t ∧ t.pilot.ledgerSeq = s.pilot.ledgerSeq
            ∧ t.pilot.ledgerDue = false ∧ t.pilot.ledgerAt = some s.clk.time ∧ t.pilot.writeErr = false ∧ t.hostMem = s.hostMem
            ∧ t.reg = s.reg ∧ partsSame s t))

/-- A Crew trap or hang records 0x701 or 0x702, and the trap 0x703 where an access of a Crew core has been refused; it ends the
contexts with a standing task in execution, and restarts the Crew within a lead pause; the third within 60 s is 0x704, the
Crew stays down, STATE is DEGRADED and every context in use is LOST; of a new Crew image that is ACTIVE it brings the old one
back. A Pilot trap or double-bit error records 0x741 or 0x742 and stops the heartbeat, or reverts
the image that is ACTIVE. 4 µs without a heartbeat is 0x740 and QUIET, except in a handover. LIFELINE toggles every 500 ns
while the heartbeat is fresh and throughout a handover. (R335, R347, R348, R350, R353, R373, R374.) -/
def Obligations.CrewAndPilotFaults : Prop :=
  (∀ (i : Instr) (code : Nat) (s : State), s.awake = true → s.pilot.crewUp = true →
      ((i = .crewTrap ∧ code = (if s.pilot.refused then 0x703 else 0x701)) ∨ (i = .crewHang ∧ code = 0x702)) →
      let l := s.pilot.crewFaults.filter fun z => decide (s.clk.time < z + minuteTicks)
      (s.pilot.crewDown = false → ¬ (s.updStage = 3 ∧ s.updKind = 1) → l.length < 2 →
        ∃ t, exec i s = .next t ∧ t.faultCode bootP = code ∧ t.pilot.crewFaults = l ++ [s.clk.time]
          ∧ t.pilot.crewDown = false ∧ t.bootState = s.bootState
          ∧ (∀ q < 64, s.qState q ≠ 0 → s.qTask q = true → (s.getQueue q).exec ≠ none →
              (s.ctxState (s.qCtx q) = 2 ∨ s.ctxState (s.qCtx q) = 3) → t.ctxState (s.qCtx q) = 4)
          ∧ (∃ a b, t.pilot.pause = some (a, b) ∧ s.clk.time + State.restartPause ≤ b)
          ∧ t.core = s.core ∧ t.region = s.region ∧ outsideSame s t)
      ∧ (s.pilot.crewDown = false → ¬ (s.updStage = 3 ∧ s.updKind = 1) → 2 ≤ l.length →
        ∃ t, exec i s = .next t ∧ t.faultCode bootP = 0x704 ∧ t.pilot.crewDown = true ∧ t.bootState = 5
          ∧ (∀ c < 16, 1 ≤ s.ctxState c → s.ctxState c ≤ 3 → t.ctxState c = 4) ∧ t.core = s.core ∧ t.region = s.region
          ∧ outsideSame s t)
      ∧ (s.updStage = 3 → s.updKind = 1 →
        ∃ t, exec i s = .next t ∧ t.updStage = 5 ∧ t.pilot.crewImage = s.update.old
          ∧ (∃ a b, t.pilot.pause = some (a, b) ∧ s.clk.time + State.crewPause ≤ b)
          ∧ bitOf (t.rd (updateP + oSTATUS)) 11 = true ∧ fieldOf (t.rd (updateP + oSTATUS)) 23 12 = code ∧ outsideSame s t))
    ∧ (∀ (i : Instr) (code : Nat) (s : State), s.awake = true → (i, code) ∈ [(Instr.pilotTrap, 0x741), (.pilotSramUe, 0x742)] →
      (¬ (s.updStage = 3 ∧ s.updKind = 4) → ∃ t, exec i s = .next t ∧ t.faultCode bootP = code ∧ t.pilot.stopped = true
        ∧ t.bootState = s.bootState ∧ partsSame s t)
      ∧ (s.updStage = 3 → s.updKind = 4 → ∃ t, exec i s = .next t ∧ t.updStage = 5 ∧ t.pilot.pilotImage = s.update.old
        ∧ t.handing = false ∧ t.pilot.stopped = s.pilot.stopped ∧ fieldOf (t.rd (updateP + oSTATUS)) 23 12 = code
        ∧ partsSame s t))
    ∧ ∀ (s : State), s.awake = true →
      let fresh := s.clk.time < s.pilot.beat + 2500 ∨ s.handing = true
      (s.pilot.stopped = true → exec .pilotHeartbeat s = .next s)
      ∧ (s.pilot.stopped = false → ∃ t, exec .pilotHeartbeat s = .next t ∧ t.pilot.beat = s.clk.time ∧ t.reg = s.reg
          ∧ partsSame s t)
      ∧ (fresh → exec .pilotLost s = .next s)
      ∧ (¬ fresh → ∃ t, exec .pilotLost s = .next t ∧ t.faultCode bootP = 0x740 ∧ t.bootState = 15
          ∧ t.quiet = true ∧ t.lifeline = false ∧ t.quays = [] ∧ (∀ r < s.build.regions, (t.getRegion r).clockOn = false)
          ∧ t.core = s.core ∧ t.ctx = s.ctx ∧ outsideSame s t)
      ∧ (fresh → atLeastNs 500 (s.clk.time - s.lifelineAt) = true →
          ∃ t, exec .lifelineToggle s = .next t ∧ t.lifeline = !s.lifeline ∧ t.reg = s.reg ∧ partsSame s t)
      ∧ (¬ (fresh ∧ atLeastNs 500 (s.clk.time - s.lifelineAt) = true) → exec .lifelineToggle s = .next s)

/-- STAGE of a known KIND with no update under way makes STAGE STAGING and takes the image at its address; with one
under way, or during a Pilot handover, it is REFUSED. The checks lead to READY or to FAILED with their code. ACTIVATE of a
READY update sets PENDING and its stamp, at once later when it is too near. At the stamp a CREW image runs and the leads
pause, a Pilot handover begins, and two voyages change names, and the update is ACTIVE. A handover ends with the new image in
force, or with the old one, REVERTED with AUTO, at the latest 5 ms after it began; no command is taken and no window ends
while it lasts. CONFIRM in time makes it CONFIRMED. REVERT, and the end of the window, bring the old image back and make it
REVERTED, the latter with AUTO. ABORT in time makes it IDLE, too late it is REFUSED. (R191, R337, R349, R350, R351, R352,
R353, R355.) -/
def Obligations.LiveUpdates : Prop :=
  ∀ (p : Party) (v : Word) (s : State), s.awake = true → s.build.legal = true →
    let reverted := fun (auto : Bool) (t : State) => t.updStage = 5 ∧ bitOf (t.rd (updateP + oSTATUS)) 11 = auto
      ∧ outsideSame s t ∧ (s.updKind = 1 → t.pilot.crewImage = s.update.old)
      ∧ (s.updKind = 4 → t.pilot.pilotImage = s.update.old)
    (s.admits p (updateP + oCTRL) →
      let kind := fieldOf v 27 24
      (s.handing = false →
        ((s.updStage = 0 ∨ 4 ≤ s.updStage) → 1 ≤ kind → kind ≤ 4 →
          ∃ t, exec (.stage p v) s = .next t ∧ t.updStage = 1 ∧ t.updKind = kind ∧ t.update.ctx = fieldOf v 23 20
            ∧ t.update.voyage = fieldOf v 19 14 ∧ t.update.new_ = fieldOf v 13 8 ∧ outsideSame s t
            ∧ (kind = 1 → t.update.old = s.pilot.crewImage) ∧ (kind = 4 → t.update.old = s.pilot.pilotImage)
            ∧ (kind = 1 ∨ kind = 4 → t.update.image = fetchImage s.hostMem (s.rd64 (updateP + 0x40) / 256 * 256)))
        ∧ (s.updStage = 2 → s.updPending = false → s.updKind ≠ 2 →
          let want := s.rd64 (updateP + 0x48)
          ∃ t, exec (.activate p v) s = .next t ∧ t.updStage = 2 ∧ t.updPending = true ∧ partsSame s t
            ∧ t.update.stamp = (if want < s.clk.tide + 4096 then turnAfter s.clk.tide else want)
            ∧ (want < s.clk.tide + 4096 → t.faultCode updateP = 0x804))
        ∧ (s.updStage = 3 → s.clk.time ≤ s.update.activeAt + s.updWindow →
          ∃ t, exec (.confirm p v) s = .next t ∧ t.updStage = 4 ∧ t.update.old = [] ∧ t.update.image = []
            ∧ (s.updKind = 3 → (t.getCtx s.update.ctx).voyages = Tab.del (s.getCtx s.update.ctx).voyages s.update.new_)
            ∧ t.core = s.core ∧ t.region = s.region ∧ outsideSame s t)
        ∧ (s.updStage = 3 → ∃ t, exec (.revert p v) s = .next t ∧ reverted false t)
        ∧ ((s.updStage = 1 ∨ (s.updStage = 2 ∧ s.updPending = false)) →
          ∃ t, exec (.abort p v) s = .next t ∧ t.updStage = 0 ∧ outsideSame s t)
        ∧ (s.updStage = 2 → s.updPending = true → s.clk.tide + 4096 ≤ s.update.stamp → s.updKind ≠ 2 →
          ∃ t, exec (.abort p v) s = .next t ∧ t.updStage = 0 ∧ t.updPending = false ∧ partsSame s t))
      ∧ ∀ i, ((i = .stage p v ∧ 1 ≤ s.updStage ∧ s.updStage ≤ 3)
            ∨ (i = .abort p v ∧ s.updStage = 2 ∧ s.updPending = true ∧ s.update.stamp < s.clk.tide + 4096)
            ∨ (i ∈ [Instr.stage p v, .activate p v, .confirm p v, .revert p v, .abort p v] ∧ s.handing = true)) →
          ∃ t, exec i s = .next t ∧ t.updStage = s.updStage ∧ t.updPending = s.updPending ∧ t.faultCode updateP = 0x600
            ∧ bitOf (t.rd (updateP + oSTATUS)) 9 = true ∧ t.update = s.update ∧ t.pilot = s.pilot ∧ partsSame s t)
    ∧ (∀ readErr, s.updStage ≠ 1 → exec (.updateChecked readErr) s = .next s)
    ∧ (∀ readErr, s.updStage = 1 →
      let c := fun k => imageCheck s.rootKey k readErr true s.update.image
      let after := fun (n : Nat) => ∃ t, exec (.updateChecked readErr) s = .next t ∧ partsSame s t ∧ t.update = s.update
        ∧ (n = 0 → t.updStage = 2) ∧ (n ≠ 0 → t.updStage = 6 ∧ fieldOf (t.rd (updateP + oSTATUS)) 23 12 = n)
      (s.updKind = 1 → after (c 2)) ∧ (s.updKind = 4 → after (c 1))
        ∧ (s.updKind = 3 → after (if s.voyagesAgree s.update.ctx s.update.voyage s.update.new_ then 0 else 0x600)))
    ∧ (∀ ok, s.handing = false → (s.updStage ≠ 2 ∨ s.updPending = false ∨ s.clk.tide < s.update.stamp) →
        exec (.updateActivation ok) s = .next s)
    ∧ (∀ ok, s.handing = false → s.updStage = 2 → s.updPending = true → s.update.stamp ≤ s.clk.tide →
      (s.updKind = 1 → ∃ t, exec (.updateActivation ok) s = .next t ∧ t.updStage = 3 ∧ t.pilot.crewImage = s.update.image
        ∧ t.rd (identP + 0x58) = imageVersion s.update.image ∧ t.update.activeAt = s.clk.time ∧ t.updPending = false
        ∧ (∃ a b, t.pilot.pause = some (a, b) ∧ s.clk.time + State.crewPause ≤ b) ∧ outsideSame s t)
      ∧ (s.updKind = 4 → ∃ t, exec (.updateActivation ok) s = .next t ∧ t.updStage = 3 ∧ t.updPending = false
        ∧ t.update.activeAt = s.clk.time ∧ t.pilot = { s.pilot with handover := some (s.clk.time + State.handoverTicks) }
        ∧ partsSame s t)
      ∧ (s.updKind = 3 → ∀ a b, ((s.getCtx s.update.ctx).voyages.find? fun e => e.1 = s.update.voyage) = some a →
          ((s.getCtx s.update.ctx).voyages.find? fun e => e.1 = s.update.new_) = some b →
        ∃ t, exec (.updateActivation ok) s = .next t ∧ t.updStage = 3 ∧ t.updPending = false ∧ outsideSame s t
          ∧ (t.getCtx s.update.ctx).voyages
            = Tab.put (Tab.put (s.getCtx s.update.ctx).voyages s.update.voyage b.2) s.update.new_ a.2))
    ∧ (s.handing = true → s.updKind = 4 →
      (∃ t, exec (.updateActivation true) s = .next t ∧ t.updStage = s.updStage ∧ t.handing = false
        ∧ t.pilot.pilotImage = s.update.image ∧ t.pilot.beat = s.clk.time
        ∧ t.rd (identP + 0x54) = imageVersion s.update.image ∧ partsSame s t)
      ∧ (∃ t, exec (.updateActivation false) s = .next t ∧ reverted true t ∧ t.handing = false)
      ∧ (∀ z, s.pilot.handover = some z → (s.clk.time < z → s.handoverDue = s)
        ∧ (z ≤ s.clk.time → reverted true s.handoverDue ∧ s.handoverDue.handing = false)))
    ∧ (¬ (s.updStage = 3 ∧ s.handing = false ∧ s.update.activeAt + s.updWindow ≤ s.clk.time) →
        exec .updWindowExpiry s = .next s)
    ∧ (s.updStage = 3 → s.handing = false → s.update.activeAt + s.updWindow ≤ s.clk.time →
      ∃ t, exec .updWindowExpiry s = .next t ∧ reverted true t)

/-- GO for a slipway load makes the region wait; GO for a load from host memory with a good header makes the staging
planes of its cores LOADING, a bad one with no golden image resolves to none with its code. GO while a load or a
commit is pending is REFUSED. A FRAME record lands in the staging planes of its cores and no other, and END ends the
body; a record after END is rejected with 0x607. At the end a stream that passes its checks leaves its planes complete and RESOLVED as the stream used; one
that fails leaves none. (R282, R288, R289, R290, R291, R292, R296, R460.) -/
def Obligations.WharfLoads : Prop :=
  ∀ (r : Nat) (s : State), r < s.build.regions → s.build.legal = true → s.awake = true →
    (∀ (p : Party) (v : Word), s.admits p (wharfP r + oCTRL) → bitOf v 0 = true →
      let img := Mem.bytes zeroFill s.hostMem (s.rd64 (wharfP r + 0x40) / 8 * 8)
        (128 + fieldAt (Mem.bytes zeroFill s.hostMem (s.rd64 (wharfP r + 0x40) / 8 * 8) 128) 20 4)
      let c := s.wharfHeader r false r img
      ((s.loading r = true ∨ s.groupOf (wharfP r) ≠ none) →
        ∃ t, exec (.wloadGo p r v) s = .next t ∧ t.faultCode (wharfP r) = 0x600 ∧ bitOf (t.rd (wharfP r + oSTATUS)) 26 = true
          ∧ t.wload = s.wload ∧ partsSame s t)
      ∧ (s.loading r = false → s.groupOf (wharfP r) = none → bitOf v 1 = true →
        ∃ t, exec (.wloadGo p r v) s = .next t ∧ fieldOf (t.rd (wharfP r + oSTATUS)) 31 29 = 1
          ∧ bitOf (t.rd (wharfP r + oCTRL)) 0 = true ∧ t.loading r = true ∧ partsSame s t)
      ∧ (s.loading r = false → s.groupOf (wharfP r) = none → bitOf v 1 = false → c = 0 →
        ∃ t, exec (.wloadGo p r v) s = .next t ∧ fieldOf (t.rd (wharfP r + oSTATUS)) 31 29 = 2 ∧ t.loading r = true
          ∧ (∀ k ∈ targetOf s.build img, State.stagePlane (t.getCore k) = { state := 1 })
          ∧ (∀ k, k ∉ targetOf s.build img → t.getCore k = s.getCore k) ∧ t.region = s.region ∧ outsideSame s t)
      ∧ (s.loading r = false → s.groupOf (wharfP r) = none → bitOf v 1 = false → c ≠ 0 → s.rd64 (wharfP r + 0x48) / 8 = 0 →
        ∃ t, exec (.wloadGo p r v) s = .next t ∧ fieldOf (t.rd (wharfP r + oSTATUS)) 31 27 = 20
          ∧ fieldOf (t.rd (wharfP r + oSTATUS)) 23 12 = c ∧ t.faultCode (wharfP r) = c ∧ bitOf (t.rd (wharfP r + oCTRL)) 0 = false
          ∧ t.loading r = false ∧ partsSame s t))
    ∧ ∀ key (w : WLoad), s.wloadAt r = some (key, w) →
      let body := (w.bytes.drop 128).take (fieldAt w.bytes 20 4)
      (∀ x, recordAt body w.pos = some x → w.pos + x.len ≤ fieldAt w.bytes 20 4 → w.pos + x.len ≤ body.length →
          0 < x.len → w.ended = false →
        (∀ cores bay, x.typ = 1 → s.faddrOf w x.faddr = some (cores, bay) →
          ∃ t, exec (.wharfRecord r []) s = .next t ∧ t.region = s.region ∧ outsideSame s t
            ∧ (∀ k ∈ cores, Tab.get [] (State.stagePlane (t.getCore k)).frames bay = (body.drop (w.pos + 8)).take 512)
            ∧ (∀ k, k ∉ cores → t.getCore k = s.getCore k)
            ∧ t.wload = Tab.put s.wload key { w with pos := w.pos + x.len, frames := w.frames + 1,
                                                     frame := some ((body.drop (w.pos + 8)).take 512) })
        ∧ (x.typ = 15 → ∃ t, exec (.wharfRecord r []) s = .next t ∧ t.reg = s.reg ∧ partsSame s t
            ∧ t.wload = Tab.put s.wload key { w with pos := w.pos + x.len, ended := true }))
      ∧ (∀ x, recordAt body w.pos = some x → w.pos + x.len ≤ fieldAt w.bytes 20 4 → w.pos + x.len ≤ body.length →
          w.pos < fieldAt w.bytes 20 4 → w.ended = true → (w.golden = true ∨ w.alone = true) →
        ∃ t, exec (.wharfRecord r []) s = .next t ∧ t.faultCode (wharfP r) = 0x607 ∧ t.region = s.region ∧ outsideSame s t
          ∧ fieldOf (t.rd (wharfP r + oSTATUS)) 31 27 = 20
          ∧ ∀ k ∈ targetOf s.build w.bytes, (State.stagePlane (t.getCore k)).state ≠ 1)
      ∧ (w.pos < fieldAt w.bytes 20 4 → exec (.wloadDone r) s = .next s)
      ∧ (fieldAt w.bytes 20 4 ≤ w.pos → s.wharfFinish w = 0 →
        ∃ t, exec (.wloadDone r) s = .next t
          ∧ fieldOf (t.rd (wharfP r + oSTATUS)) 31 27 = (if w.golden then 22 else 21)
          ∧ bitOf (t.rd (wharfP r + oCTRL)) 0 = false ∧ bitOf (t.rd (wharfP r + oEVENT)) 0 = true
          ∧ (∀ k ∈ targetOf s.build w.bytes, (State.stagePlane (t.getCore k)).state = 2
              ∧ (State.stagePlane (t.getCore k)).lat = fieldAt w.bytes 6 1
              ∧ (State.stagePlane (t.getCore k)).frames = (State.stagePlane (s.getCore k)).frames)
          ∧ (∀ k, k ∉ targetOf s.build w.bytes → t.getCore k = s.getCore k) ∧ t.region = s.region ∧ outsideSame s t)
      ∧ (fieldAt w.bytes 20 4 ≤ w.pos → s.wharfFinish w ≠ 0 → (w.golden = true ∨ w.alone = true) →
        ∃ t, exec (.wloadDone r) s = .next t ∧ fieldOf (t.rd (wharfP r + oSTATUS)) 31 27 = 20
          ∧ t.faultCode (wharfP r) = s.wharfFinish w ∧ (∀ k ∈ targetOf s.build w.bytes,
              (State.stagePlane (t.getCore k)).state ≠ 1) ∧ t.region = s.region ∧ outsideSame s t)

/-- MUSTER with a convoy context makes STATE MUSTERING and keeps and floods the own record; while MUSTERING or with none
it records 0x600. After 5 ms a member not heard from ends the muster REFUSED with RESULT 9; records that agree form
the convoy, with the highest epoch plus 1, the lowest floor and the tide master. The forward step is made only at a turn, and
the running regions' tide units are reloaded. LEAVE makes STATE LEFT. The master sends TIDE_SYNC at every turn. A lag outside 0 to 8 tt for 1,024 tt is 0x505 and the member
leaves. (R409, R410, R412, R414, R415, R416, R418.) -/
def Obligations.MustersAndConvoyTide : Prop :=
  ∀ (s : State), s.awake = true → s.build.legal = true →
    let st := fieldOf (s.rd (convoyP + oSTATUS)) 31 29
    let state := fun (t : State) => fieldOf (t.rd (convoyP + oSTATUS)) 31 29
    (∀ p rate, s.admits p (convoyP + oCTRL) →
      (st ≠ 1 → s.convoyCtx ≠ none → ∃ t, exec (.muster p rate) s = .next t ∧ state t = 1 ∧ t.convoy.musterAt = s.clk.time
        ∧ (s.musterRecord rate false, s.clk.tide) ∈ t.convoy.records
        ∧ (∀ j ∈ s.portsUp, t.rd (jettyP j + 0x80) = satAdd (s.rd (jettyP j + 0x80)) 1 ∧ fieldAt (t.getLink j).out 4 1 = 4)
        ∧ partsSame s t)
      ∧ ((st = 1 ∨ s.convoyCtx = none) → ∃ t, exec (.muster p rate) s = .next t ∧ state t = st ∧ t.faultCode convoyP = 0x600
        ∧ t.convoy = s.convoy ∧ t.link = s.link ∧ partsSame s t)
      ∧ ∃ t, exec (.leave p) s = .next t ∧ state t = 4 ∧ partsSame s t
        ∧ ∀ j ∈ s.portsUp, t.rd (jettyP j + 0x80) = satAdd (s.rd (jettyP j + 0x80)) 1)
    ∧ (st = 1 → s.convoy.forming = none → atLeastNs 5000000 (s.clk.time - s.convoy.musterAt) = true → s.convoy.excluded = [] →
        s.convoy.cap = none →
      let l := State.byMember (s.convoy.records.filter fun e => !recLeave e.1)
      (∀ m, ((List.range s.members).find? fun m => ¬ (l.any fun e => recMember e.1 = m)) = some m →
        ∃ t, exec .musterDecide s = .next t ∧ state t = 3 ∧ fieldOf (t.rd (convoyP + oSTATUS)) 28 25 = 9
          ∧ fieldOf (t.rd (convoyP + oSTATUS)) 7 0 = m % 256 ∧ t.faultCode convoyP = 0x610 ∧ partsSame s t)
      ∧ ((∀ m < s.members, (l.filter fun e => recMember e.1 = m).length = 1) → (∀ e ∈ l, recMember e.1 < s.members) →
          (∀ x ∈ l, ∀ y ∈ l, (x.1.drop 6).take 1 = (y.1.drop 6).take 1 ∧ (x.1.drop 8).take 16 = (y.1.drop 8).take 16
            ∧ (x.1.drop 92).take 48 = (y.1.drop 92).take 48) →
          (∀ e ∈ l, (e.1.drop 92).take 48 = sha384 (l.flatMap fun e => (e.1.drop 44).take 48)) →
          (∀ e ∈ l, recConvoyRunning e.1 = false) → State.tideMisfit l = none →
          (∀ x ∈ l, ∀ y ∈ l, fieldAt x.1 40 1 ≤ fieldAt y.1 41 1 ∧ fieldAt x.1 40 1 = fieldAt y.1 40 1) →
          (∀ e ∈ l, fieldAt e.1 40 1 ≤ 7) → fieldOf (s.rd (convoyP + oSTATUS)) 11 8 = 0 → State.convoyTide l ≤ 8 →
        ∃ t, exec .musterDecide s = .next t ∧ state t = 2 ∧ fieldOf (t.rd (convoyP + oSTATUS)) 28 25 = 1
          ∧ t.rd (convoyP + 0x44) = word ((l.map fun e => fieldAt e.1 24 4).foldl max 0 + 1)
          ∧ (∀ e, State.masterOf l = some e → fieldOf (t.rd (convoyP + oSTATUS)) 23 16 = recMember e)
          ∧ t.convoy.floor = (l.map fun e => fieldAt e.1 41 1).foldl min 7
          ∧ t.convoy.records = [] ∧ t.convoy.lost = [] ∧ t.core = s.core ∧ t.region = s.region ∧ outsideSame s t))
    ∧ ((st ≠ 1 ∨ atLeastNs 5000000 (s.clk.time - s.convoy.musterAt) = false) → s.convoy.cap = none →
        exec .musterDecide s = .next s)
    ∧ ((s.convoy.step = none ∨ s.clk.running = false ∨ s.clk.tide % 1024 ≠ 0) → exec .tideForwardStep s = .next s)
    ∧ (∀ n, s.convoy.step = some n → s.clk.running = true → s.clk.tide % 1024 = 0 → s.groups = [] →
        ∃ t, exec .tideForwardStep s = .next t ∧ t.clk = { s.clk with tide := s.clk.tide + n } ∧ t.convoy.step = none
          ∧ (∀ r < s.build.regions, (s.getRegion r).clockOn = true → t.localTide r = s.clk.tide + n)
          ∧ (∀ r, (t.getRegion r).basin = (s.getRegion r).basin)
          ∧ t.core = s.core ∧ t.ctx = s.ctx ∧ t.devMem = s.devMem ∧ t.hostMem = s.hostMem)
    ∧ (¬ (st = 2 ∧ fieldOf (s.rd (convoyP + oSTATUS)) 23 16 = s.member ∧ s.clk.tide % 1024 = 0) → exec .tideSync s = .next s)
    ∧ (st = 2 → fieldOf (s.rd (convoyP + oSTATUS)) 23 16 = s.member → s.clk.tide % 1024 = 0 →
        ∃ t, exec .tideSync s = .next t ∧ partsSame s t ∧ ∀ j ∈ s.syncPorts none,
          t.rd (jettyP j + 0x80) = satAdd (s.rd (jettyP j + 0x80)) 1 ∧ fieldAt (t.getLink j).out 4 1 = 3
          ∧ fieldAt (t.getLink j).out 16 8 = s.clk.tide % 2 ^ 64)
    ∧ ∀ lag : Int,
      ((0 ≤ lag ∧ lag ≤ 80) → ∃ t, exec (.tideSkew lag) s = .next t ∧ t.convoy.skewSince = none ∧ state t = st
        ∧ t.rd (convoyP + 0x60) = BitVec.ofInt 32 lag ∧ partsSame s t)
      ∧ (st = 2 → fieldOf (s.rd (convoyP + oSTATUS)) 23 16 ≠ s.member → (lag < 0 ∨ 80 < lag) →
        (s.convoy.skewSince = none → ∃ t, exec (.tideSkew lag) s = .next t ∧ t.convoy.skewSince = some s.clk.tide
          ∧ state t = 2 ∧ partsSame s t)
        ∧ (∀ z, s.convoy.skewSince = some z → z + 1024 ≤ s.clk.tide → ∃ t, exec (.tideSkew lag) s = .next t
          ∧ t.faultCode convoyP = 0x505 ∧ state t = 4 ∧ t.core = s.core ∧ t.region = s.region ∧ outsideSame s t
          ∧ ∀ c, s.convoyCtx = some c → (s.ctxState c = 2 ∨ s.ctxState c = 3) → t.ctxState c = 4))

/-- A flit with a bad check is 0x107 and asks once for the expected one; one that breaks a rule of its format is 0x503
and the port is DARK; the expected DATA flit moves the expected number on, an earlier one is only counted; a DARK
port hears nothing. A slot for another member goes through the block switch to the port of its route, waits there, and its
credit is owed with the last of its flit. A NAK and 256 ns without progress send the unacknowledged flits again. A flit not acknowledged
within RETRY_BOUND is 0x502, 1 µs of silence 0x501, and the port is DARK with nothing buffered. A port that has sent
nothing for 256 ns, or that owes an ACK, sends an IDLE flit. RESTART of a DARK port starts its numbers again, and
after 1 ms without answer it is DARK. The slots of this member that waited for a detour fence are counted at its end. (R399,
R400, R401, R402, R403, R404, R405, R406, R407, R416, R419, R436.) -/
def Obligations.JettiesKeepTheirLinks : Prop :=
  ∀ (j : Nat) (s : State), j < s.build.jetties → s.build.legal = true → s.awake = true →
    let st := s.linkState j
    let x := s.getLink j
    let now := s.clk.time
    let emits := fun (typ : Nat) (t : State) => fieldAt (t.getLink j).out 4 1 = typ ∧ (t.getLink j).sentAt = now
      ∧ t.rd (jettyP j + 0x80) = satAdd (s.rd (jettyP j + 0x80)) 1
    let again := fun (buf : List (Nat × List Byte × Nat)) (t : State) => (t.getLink j).buf = buf ∧ t.linkState j = 1
      ∧ (buf ≠ [] → t.rd (jettyP j + 0x80) = satAdd (s.rd (jettyP j + 0x80)) buf.length
          ∧ t.rd (jettyP j + 0x88) = satAdd (s.rd (jettyP j + 0x88)) 1)
    (∀ l : List Byte, s.convoy.outbox = [] →
      (st = 2 → exec (.hersilFlitRx j l) s = .next s)
      ∧ (st = 1 → flitGood l = false → ∃ t, exec (.hersilFlitRx j l) s = .next t ∧ t.faultCode (jettyP j) = 0x107
        ∧ (t.getLink j).deaf = true ∧ t.rd (jettyP j + 0x90) = satAdd (s.rd (jettyP j + 0x90)) 1 ∧ t.linkState j = 1
        ∧ (x.deaf = false → emits 2 t) ∧ (t.getLink j).rx = x.rx ∧ partsSame s t)
      ∧ (∀ d, st = 1 → flitGood l = true → s.flitDetail j l = some d →
        ∃ t, exec (.hersilFlitRx j l) s = .next t ∧ t.faultCode (jettyP j) = 0x503 ∧ t.linkState j = 2
          ∧ fieldOf (t.rd (jettyP j + oFINFO)) 31 28 = d ∧ partsSame s t)
      ∧ (st = 1 → flitGood l = true → s.flitDetail j l = none →
        ∃ t, exec (.hersilFlitRx j l) s = .next t ∧ t.linkState j = 1 ∧ (t.getLink j).heardAt = now
          ∧ (fieldAt l 4 1 = 1 → (t.getLink j).rx = x.rx ∧ partsSame s t)
          ∧ (fieldAt l 4 1 = 0 → seqBehind (fieldAt l 0 2) x.rx = 0 →
              (t.getLink j).rx = (x.rx + 1) % 2 ^ 16 ∧ (t.getLink j).deaf = false ∧ outsideSame s t)
          ∧ (fieldAt l 4 1 = 0 → 1 ≤ seqBehind (fieldAt l 0 2) x.rx → seqBehind (fieldAt l 0 2) x.rx ≤ 32768 →
              (t.getLink j).rx = x.rx ∧ t.rd (jettyP j + 0x8C) = satAdd (s.rd (jettyP j + 0x8C)) 1 ∧ partsSame s t)
          ∧ (∀ k, fieldAt l 4 1 = 0 → seqBehind (fieldAt l 0 2) x.rx = 0 → fieldAt l 8 1 ≠ s.member → fieldAt l 10 1 < 7 →
              s.portTo (fieldAt l 8 1) = some k → fieldAt l 5 1 / 8 % 4 = 1 →
              sends (.slot ⟨fieldAt l 8 1, fieldAt l 9 1, fieldAt l 5 1 % 8, fieldAt l 10 1 + 1, (l.drop 16).take 72, now, s.rcOf 0,
                some j, true⟩) (.jetty j) (.jetty k) (fieldAt l 5 1 % 8) 1 s t ∧ partsSame s t)))
    ∧ (∀ p (o : OutSlot), o.via = some j → o.last = true →
      let t := s.deliver p (.slot o)
      t.convoy.outbox = s.convoy.outbox ++ [{ o with via := none, last := false }]
        ∧ (t.getLink j).owed = Tab.put x.owed o.vc (Tab.get 0 x.owed o.vc + 1) ∧ netSame s t ∧ t.reg = s.reg ∧ partsSame s t)
    ∧ (∀ e : BitVec 16, (st ≠ 1 → exec (.nak j e) s = .next s)
      ∧ (st = 1 → ∃ t, exec (.nak j e) s = .next t ∧ partsSame s t
        ∧ again (x.buf.filter fun b => decide (seqBehind b.1 (e.toNat + 65535) ≥ 2 ^ 15)) t))
    ∧ (¬ (st = 1 ∧ atLeastNs 256 (now - x.ackAt) = true) → exec (.replayTimeout j) s = .next s)
    ∧ (st = 1 → atLeastNs 256 (now - x.ackAt) = true → ∃ t, exec (.replayTimeout j) s = .next t ∧ again x.buf t ∧ partsSame s t)
    ∧ (∀ b rest, x.buf = b :: rest →
      let due := atLeastNs (125 * fieldOf (s.rd (jettyP j + 0x40)) 7 0) (now - b.2.2)
      (¬ (st = 1 ∧ due = true) → exec (.jettyRetry j) s = .next s)
      ∧ (st = 1 → due = true → ∃ t, exec (.jettyRetry j) s = .next t ∧ t.faultCode (jettyP j) = 0x502 ∧ t.linkState j = 2
        ∧ (t.getLink j).buf = [] ∧ partsSame s t))
    ∧ (¬ (st = 1 ∧ atLeastNs 1000 (now - x.heardAt) = true) → exec (.jettyDark j) s = .next s)
    ∧ (st = 1 → atLeastNs 1000 (now - x.heardAt) = true → ∃ t, exec (.jettyDark j) s = .next t
        ∧ t.faultCode (jettyP j) = 0x501 ∧ t.linkState j = 2 ∧ (t.getLink j).buf = [] ∧ partsSame s t)
    ∧ (atLeastNs 256 (now - x.sentAt) = false → exec (.keepalive j) s = .next s)
    ∧ (atLeastNs 256 (now - x.sentAt) = true → (st = 1 ∨ st = 3) → ∃ t, exec (.keepalive j) s = .next t
        ∧ emits (if st = 1 then 1 else 5) t ∧ t.linkState j = st ∧ partsSame s t)
    ∧ (¬ (st = 1 ∧ x.unacked ≠ 0 ∧ (32 ≤ x.unacked ∨ atLeastNs 32 (now - x.unackedAt) = true)) →
        exec (.idleForAck j) s = .next s)
    ∧ (st = 1 → x.unacked ≠ 0 → (32 ≤ x.unacked ∨ atLeastNs 32 (now - x.unackedAt) = true) →
        ∃ t, exec (.idleForAck j) s = .next t ∧ emits 1 t ∧ (t.getLink j).unacked = 0
          ∧ fieldAt (t.getLink j).out 2 2 = (x.rx + 65535) % 2 ^ 16 ∧ partsSame s t)
    ∧ (∃ t, exec (.linkUp j) s = .next t ∧ (t.getLink j).up = true ∧ t.linkState j = st ∧ partsSame s t
        ∧ (st = 0 → bitOf (s.rd (jettyP j + oCTRL)) 0 = true → emits 1 t))
    ∧ (∀ p v, s.admits p (jettyP j + oCTRL) →
      (st = 2 → ∃ t, exec (.restart p j v) s = .next t ∧ t.linkState j = 3 ∧ (t.getLink j).tx = 0 ∧ (t.getLink j).rx = 0
        ∧ bitOf (t.rd (jettyP j + oCTRL)) 1 = true ∧ emits 5 t ∧ partsSame s t)
      ∧ ((st = 1 ∨ st = 3) → ∃ t, exec (.restart p j v) s = .next t ∧ t.linkState j = st ∧ t.link = s.link ∧ partsSame s t))
    ∧ (¬ (st = 3 ∧ atLeastNs 1000000 (now - x.restartAt) = true) → exec (.restartExpiry j) s = .next s)
    ∧ (st = 3 → atLeastNs 1000000 (now - x.restartAt) = true → ∃ t, exec (.restartExpiry j) s = .next t ∧ t.linkState j = 2
        ∧ bitOf (t.rd (jettyP j + oCTRL)) 1 = false ∧ partsSame s t)
    ∧ (∀ m start len, (s.convoy.fences.find? fun f => f.1 = m) = some (m, start, len) →
      (now < start + len → s.convoy.outbox = [] → exec (.detourFenceEnd m) s = .next s)
      ∧ (start + len ≤ now → ∃ t, exec (.detourFenceEnd m) s = .next t ∧ outsideSame s t
        ∧ t.rd (convoyP + 0xC8) = satAdd (s.rd (convoyP + 0xC8))
            ((s.convoy.outbox.filter fun o => o.dst = m && o.src = s.member).map fun o => s.rcOf 0 - o.rc).sum
        ∧ (s.convoy.outbox = [] → t.convoy.fences = Tab.del s.convoy.fences m)))
    ∧ ∀ (a : WindowAdd) rest, s.convoy.adds = a :: rest →
      let earlier := s.quays.any fun q => decide (q.id < a.before) && q.reqs.any fun r =>
        decide (r.core = State.foreign) && r.store && decide (r.member = some a.src) && decide (r.slot = a.vc)
      (earlier = true → exec .bollardWindowAdd s = .next s)
      ∧ (earlier = false → ∃ t, exec .bollardWindowAdd s = .next t ∧ t.convoy.adds = rest
        ∧ t.bbolIn = s.bbolIn ++ [⟨a.bol, false, a.amount, false, 0, 0xFFF, []⟩] ∧ t.bbol = s.bbol ∧ partsSame s t)

/-- ARM that the Pilot accepts makes the capture ARMED for its region and stamp, another one leaves it as it was with
RESULT 2. CANCEL in time makes it IDLE with RESULT 3, later it is ignored. When its tide reaches the stamp the region freezes with
RESULT 1, and every unpaired running context that holds it ends with 0x915. RELEASE of a FROZEN capture makes it
RELEASING, otherwise it is 0x600; its end makes it IDLE, thaws the region, sets its flip-flops and tide unit, and keeps berths,
chart memory and Basin. The instruction of a test access stays in the register of its port: the network shows a memory word
where access is granted and zero elsewhere, every other value of the TAP, and what needs TEST_EN without it, is a bypass
of one bit, and the boundary register keeps what is shifted in. (R460, R467, R479, R480, R481, R483, R484, R485, R487, R488,
R489.) -/
def Obligations.CapturesFreezeOneRegion : Prop :=
  ∀ (s : State), s.awake = true →
    let r := fieldOf (s.rd (captureP + oSTATUS)) 11 8
    let result := fun (t : State) => fieldOf (t.rd (captureP + oSTATUS)) 28 26
    (∀ (p : Party) (v : Word), s.admits p (captureP + oCTRL) →
      let stamp := s.rd64 (captureP + 0x40)
      (s.capAccepts (fieldOf v 11 8) stamp = true → ∃ t, exec (.captureArm p v) s = .next t ∧ t.capState = 1
        ∧ fieldOf (t.rd (captureP + oSTATUS)) 11 8 = fieldOf v 11 8 ∧ t.capStamp = stamp ∧ result t = 0 ∧ partsSame s t)
      ∧ (s.capAccepts (fieldOf v 11 8) stamp = false → ∃ t, exec (.captureArm p v) s = .next t ∧ t.capState = s.capState
        ∧ result t = 2 ∧ t.capStamp = s.capStamp ∧ partsSame s t)
      ∧ (s.capState = 1 → s.clk.tide + 4096 ≤ s.capStamp → ∃ t, exec (.captureCancel p v) s = .next t ∧ t.capState = 0
        ∧ result t = 3 ∧ partsSame s t)
      ∧ ((s.capState ≠ 1 ∨ s.capStamp < s.clk.tide + 4096) → ∃ t, exec (.captureCancel p v) s = .next t
        ∧ t.rd (captureP + oSTATUS) = s.rd (captureP + oSTATUS) ∧ partsSame s t)
      ∧ (s.capState = 2 → ∃ t, exec (.captureRelease p v) s = .next t ∧ t.capState = 3 ∧ partsSame s t)
      ∧ (s.capState ≠ 2 → ∃ t, exec (.captureRelease p v) s = .next t ∧ t.capState = s.capState
        ∧ t.faultCode captureP = 0x600 ∧ partsSame s t))
    ∧ (¬ (s.capState = 1 ∧ s.capStamp ≤ s.localTide r ∧ s.clocked r = true) → exec .captureFreeze s = .next s)
    ∧ (s.capState = 1 → s.capStamp ≤ s.localTide r → s.clocked r = true →
      ∃ t, exec .captureFreeze s = .next t ∧ t.capState = 2 ∧ result t = 1 ∧ bitOf (t.rd (captureP + oEVENT)) 0 = true
        ∧ (t.getRegion r).frozen = true ∧ (t.getRegion r).basin = (s.getRegion r).basin ∧ t.core = s.core
        ∧ (∀ c < 16, r ∈ (s.getCtx c).regions → (s.getCtx c).paired = false → (s.ctxState c = 2 ∨ s.ctxState c = 3) →
            t.ctxState c = 4 ∧ t.faultCode (ctxP c) = 0x915)
        ∧ (∀ c < 16, r ∉ (s.getCtx c).regions → t.getCtx c = s.getCtx c) ∧ regionFrame r s t)
    ∧ (s.capState ≠ 3 → exec .captureReleased s = .next s)
    ∧ (s.capState = 3 → ∃ t, exec .captureReleased s = .next t ∧ t.capState = 0 ∧ (t.getRegion r).frozen = false
        ∧ bitOf (t.rd (captureP + oEVENT)) 1 = true ∧ (t.getRegion r).basin = (s.getRegion r).basin
        ∧ (∀ k, (t.getCore k).wb = (s.getCore k).wb ∧ (t.getCore k).ab = (s.getCore k).ab ∧ (t.getCore k).pb = (s.getCore k).pb
            ∧ (t.getCore k).chart = (s.getCore k).chart)
        ∧ (∀ k, s.regionOf k = r → k < s.build.physCores →
            (t.getCore k).progs = [] ∧ (t.getCore k).mx = [] ∧ (t.getCore k).vx = []
              ∧ (t.getCore k).flops
                = initFlops (if (s.getCore k).activeB then (s.getCore k).planeB else (s.getCore k).planeA).frames)
        ∧ t.localTide r = s.clk.tide ∧ (∀ a, State.capResets s.build r a = true → t.rd a = regReset a)
        ∧ t.ctx = s.ctx ∧ outsideSame s t)
    ∧ (∀ (port : TestPort) (shift : BitVec 80) (what : Instrument) (x v : Nat), s.instrumentWord what = some (x, v) →
        (port = .wrapper 4 ∨ port = .tap 8) →
      ∃ t, exec (.instrumentAccess ⟨port, shift, what⟩) s = .next t ∧ t.reg = s.reg ∧ partsSame s t
        ∧ (s.granted x = true → t.scan.toNat % 2 ^ 64 = v % 2 ^ 64) ∧ (s.granted x = false → t.scan = 0))
    ∧ ∀ (w : BitVec 8) (i : BitVec 4) (shift : BitVec 80) (what : Instrument),
      (s.testEn = false → w ≠ 4 → exec (.instrumentAccess ⟨(.wrapper w), shift, what⟩) s
        = .next { s with wir := w, scan := shift <<< 1 })
      ∧ (i ≠ 8 → exec (.instrumentAccess ⟨(.tap i), shift, what⟩) s = .next { s with tapIr := i, scan := shift <<< 1 })
      ∧ (s.testEn = true → ∃ t, exec (.instrumentAccess ⟨(.wrapper 1), shift, what⟩) s = .next t ∧ t.boundary = shift ∧ t.wir = 1
          ∧ t.reg = s.reg ∧ partsSame s t)

/-- Whatever the state, a command that completes leaves every byte of device memory as it was, unless it is a quay
response, the end of a COPY or FILL, a TIMESTAMP, an ENQUEUE or its next deposit, or the completion of an item; and
every byte of host memory, unless it is the completion of an item or a ledger record. A step on an empty queue
changes neither. (R126, R243, R310, R312, R313, R344, R427, R495.) -/
def Obligations.MemoryChangesOnlyWhereItIsWritten : Prop :=
  ∀ (s t : State),
    (∀ i, exec i s = .next t →
      ((∀ m id resp lat, i ≠ .quayResponse m id resp lat) →
        (∀ q, i ≠ .copyComplete q ∧ i ≠ .cmdTimestamp q ∧ i ≠ .cmdEnqueue q ∧ i ≠ .enqueueDeposit q ∧ i ≠ .itemComplete q) →
        t.devMem = s.devMem)
      ∧ ((∀ q, i ≠ .itemComplete q) → i ≠ .ledgerRecord → t.hostMem = s.hostMem))
    ∧ (s.pending = [] → step s = .next t → t.devMem = s.devMem ∧ t.hostMem = s.hostMem)

/-- While BOOT STATE is not PILOT_UP, READY or DEGRADED, a well-formed command leaves the whole state as it is, unless
it is one of the boot ROM, the reset and test pins, the host quay, LINK_UP, the instrument network, the bring-up, or
a read or write of the register window by its address. (R338, R340, R374.) -/
def Obligations.AsleepBlockIgnoresCommands : Prop :=
  ∀ (i : Instr) (s : State), i.wellFormed s.build = true → s.awake = false →
    i ≠ .resetAssert → i ≠ .lossOfPower → (∀ m ok, i ≠ .resetRelease m ok) → i ≠ .testEnRise → (∀ p, i ≠ .go p) →
    (∀ b o, i ≠ .slipTransfer b o) → (∀ e, i ≠ .pilotImageComplete e) → (∀ p v, i ≠ .bootParamAddrHi p v) →
    (∀ q l e, i ≠ .hqReadResponse q l e) → i ≠ .hqAresetN → (∀ p a, i ≠ .loRead p a) → (∀ p a v, i ≠ .hiWrite p a v) →
    (∀ p a v, i ≠ .registerWrite p a v) → (∀ a, i ≠ .instrumentAccess a) → (∀ p k, i ≠ .chartDataLoRead p k) →
    (∀ p k w, i ≠ .winData p k w) → (∀ p m, i ≠ .quayLatMaxRead p m) → (∀ p, i ≠ .flogE0Read p) → (∀ j, i ≠ .linkUp j) →
    (∀ e, i ≠ .bringUp e) → exec i s = .next s
end

