-- ==== Sys2Proof/Laws/Sparse.lean ====
section
/-! SUPPORT. What the two containers of the state do: reading after writing, and the canonical form of a memory. -/

namespace Sys2Proof.Machine

/-! Tables. -/

@[simp] theorem Tab.get_nil {α : Type} (d : α) (k : Nat) : Tab.get d [] k = d := rfl

theorem Tab.get_put {α : Type} (d : α) (t : Tab α) (k j : Nat) (v : α) :
    Tab.get d (Tab.put t k v) j = if k = j then v else Tab.get d t j := by
  induction t with
  | nil => simp [Tab.put, Tab.get]
  | cons e t ih =>
    obtain ⟨i, w⟩ := e
    by_cases h : i = k
    · subst h; by_cases hj : i = j <;> simp [Tab.put, Tab.get, hj]
    · by_cases hj : i = j
      · subst hj; simp [Tab.put, Tab.get, h, Ne.symm h]
      · simp [Tab.put, Tab.get, h, hj, ih]

@[simp] theorem Tab.get_put_self {α : Type} (d : α) (t : Tab α) (k : Nat) (v : α) :
    Tab.get d (Tab.put t k v) k = v := by simp [Tab.get_put]

@[simp] theorem Tab.get_put_ne {α : Type} (d : α) (t : Tab α) {k j : Nat} (v : α) (h : k ≠ j) :
    Tab.get d (Tab.put t k v) j = Tab.get d t j := by simp [Tab.get_put, h]

/-- Writing twice at one index leaves the later value. -/
@[simp] theorem Tab.put_put {α : Type} (t : Tab α) (k : Nat) (v w : α) :
    Tab.put (Tab.put t k v) k w = Tab.put t k w := by
  induction t with
  | nil => simp [Tab.put]
  | cons e t ih =>
    obtain ⟨i, x⟩ := e
    by_cases h : i = k <;> simp [Tab.put, h, ih]

/-! Memories. -/

/-- Every listed address lies above `a`. -/
def Mem.above (a : Nat) (m : Mem) : Prop := ∀ e ∈ m, a < e.1

theorem Mem.above_mono {a b : Nat} {m : Mem} (h : Mem.above b m) (hab : a ≤ b) : Mem.above a m :=
  fun e he => lt_of_le_of_lt hab (h e he)

/-- The canonical form of a longer list, unfolded once. -/
theorem Mem.wf_cons (d : Nat → Byte) (a : Nat) (v : Byte) (m : Mem) :
    Mem.wf d ((a, v) :: m) = true ↔ v ≠ d a ∧ Mem.above a m ∧ Mem.wf d m = true := by
  induction m generalizing a v with
  | nil => simp [Mem.wf, Mem.above]
  | cons e m ih =>
    obtain ⟨b, w⟩ := e
    constructor
    · intro h
      simp only [Mem.wf, Bool.and_eq_true, bne_iff_ne, decide_eq_true_eq] at h
      obtain ⟨⟨h1, h2⟩, h3⟩ := h
      refine ⟨h1, ?_, h3⟩
      have := (ih b w).1 h3
      intro e he
      rcases List.mem_cons.1 he with rfl | he
      · exact h2
      · exact lt_trans h2 (this.2.1 e he)
    · rintro ⟨h1, h2, h3⟩
      simp only [Mem.wf, Bool.and_eq_true, bne_iff_ne, decide_eq_true_eq]
      exact ⟨⟨h1, h2 (b, w) (by simp)⟩, h3⟩

/-- Below its first address a memory reads as unlisted. -/
theorem Mem.get_above {d : Nat → Byte} {m : Mem} {a : Nat} (h : Mem.above a m) : Mem.get d m a = d a := by
  cases m with
  | nil => rfl
  | cons e m =>
    have := h e (by simp)
    obtain ⟨b, w⟩ := e
    simp only [Mem.get]
    rw [if_neg (by simp at this; omega), if_pos this]

theorem Mem.above_put {d : Nat → Byte} {m : Mem} {a b : Nat} {v : Byte} (h : Mem.above a m) (hab : a < b) :
    Mem.above a (Mem.put d m b v) := by
  induction m with
  | nil => unfold Mem.put; split <;> simp [Mem.above, hab]
  | cons e m ih =>
    obtain ⟨i, w⟩ := e
    have hi : a < i := h (i, w) (by simp)
    have hm : Mem.above a m := fun e he => h e (by simp [he])
    intro e he
    unfold Mem.put at he
    split at he
    · split at he
      · exact h e he
      · rcases List.mem_cons.1 he with rfl | he
        · exact hab
        · exact h e he
    · split at he
      · split at he
        · exact hm e he
        · rcases List.mem_cons.1 he with rfl | he
          · exact hab
          · exact hm e he
      · rcases List.mem_cons.1 he with rfl | he
        · exact hi
        · exact ih hm e he

/-- A write keeps the canonical form. -/
theorem Mem.wf_put {d : Nat → Byte} {m : Mem} (a : Nat) (v : Byte) (h : Mem.wf d m = true) :
    Mem.wf d (Mem.put d m a v) = true := by
  induction m with
  | nil => unfold Mem.put; split <;> simp_all [Mem.wf]
  | cons e m ih =>
    obtain ⟨i, w⟩ := e
    obtain ⟨h1, h2, h3⟩ := (Mem.wf_cons d i w m).1 h
    unfold Mem.put
    split
    · next hlt =>
      split
      · exact h
      · next hv =>
        refine (Mem.wf_cons d a v _).2 ⟨hv, ?_, h⟩
        intro e he
        rcases List.mem_cons.1 he with rfl | he
        · exact hlt
        · exact lt_trans hlt (h2 e he)
    · split
      · next heq =>
        subst heq
        split
        · exact h3
        · next hv => exact (Mem.wf_cons d a v m).2 ⟨hv, h2, h3⟩
      · exact (Mem.wf_cons d i w _).2 ⟨h1, Mem.above_put h2 (by omega), ih h3⟩

/-- Reading after a write. -/
theorem Mem.get_put {d : Nat → Byte} {m : Mem} (a : Nat) (v : Byte) (b : Nat) (h : Mem.wf d m = true) :
    Mem.get d (Mem.put d m a v) b = if a = b then v else Mem.get d m b := by
  induction m with
  | nil =>
    unfold Mem.put
    split
    · next hv => split <;> simp_all [Mem.get]
    · simp only [Mem.get]
      split
      · rfl
      · split <;> rfl
  | cons e m ih =>
    obtain ⟨i, w⟩ := e
    obtain ⟨_, h2, h3⟩ := (Mem.wf_cons d i w m).1 h
    unfold Mem.put
    split
    · next hlt =>
      split
      · next hv =>
        split
        · next hab => subst hab; rw [Mem.get_above (a := a)]; exact hv.symm
                      intro e he; rcases List.mem_cons.1 he with rfl | he
                      · exact hlt
                      · exact lt_trans hlt (h2 e he)
        · rfl
      · by_cases hab : a = b
        · simp [Mem.get, hab]
        · rw [if_neg hab, Mem.get, if_neg hab]
          split
          · next hb => rw [Mem.get_above]; intro e he; rcases List.mem_cons.1 he with rfl | he
                       · exact lt_trans hb hlt
                       · exact lt_trans (lt_trans hb hlt) (h2 e he)
          · rfl
    · split
      · next heq =>
        subst heq
        split
        · next hv =>
          by_cases hab : a = b
          · subst hab; rw [if_pos rfl, Mem.get_above h2]; exact hv.symm
          · rw [if_neg hab]
            simp only [Mem.get, if_neg hab]
            split
            · next hb => exact Mem.get_above (Mem.above_mono h2 (le_of_lt hb))
            · rfl
        · by_cases hab : a = b <;> simp [Mem.get, hab]
      · next hlt hne =>
        by_cases hib : i = b
        · subst hib; simp [Mem.get, hne]
        · simp only [Mem.get, if_neg hib]
          split
          · next hb => rw [if_neg (by omega)]
          · exact ih h3

/-- A write of several bytes keeps the canonical form. -/
theorem Mem.wf_putBytes {d : Nat → Byte} (l : List Byte) {m : Mem} (a : Nat) (h : Mem.wf d m = true) :
    Mem.wf d (Mem.putBytes d m a l) = true := by
  induction l generalizing m a with
  | nil => exact h
  | cons v l ih => exact ih (a + 1) (Mem.wf_put a v h)

/-- Reading after a write of several bytes. -/
theorem Mem.get_putBytes {d : Nat → Byte} (l : List Byte) {m : Mem} (a b : Nat) (h : Mem.wf d m = true) :
    Mem.get d (Mem.putBytes d m a l) b = if a ≤ b ∧ b < a + l.length then l.getD (b - a) 0 else Mem.get d m b := by
  induction l generalizing m a with
  | nil =>
    rw [if_neg (by simp)]; rfl
  | cons v l ih =>
    rw [Mem.putBytes, ih (a + 1) (Mem.wf_put a v h), Mem.get_put a v b h]
    by_cases hab : a = b
    · subst hab; simp
    · by_cases h1 : a + 1 ≤ b ∧ b < a + 1 + l.length
      · rw [if_pos h1, if_pos (by simp; omega)]
        obtain ⟨n, hn⟩ : ∃ n, b - a = n + 1 := ⟨b - a - 1, by omega⟩
        rw [hn, show b - (a + 1) = n by omega]; rfl
      · rw [if_neg h1, if_neg hab, if_neg (by simp; omega)]

/-- Bytes read one by one. -/
theorem Mem.bytes_eq_map (d : Nat → Byte) (m : Mem) (n a : Nat) :
    Mem.bytes d m a n = (List.range n).map fun i => Mem.get d m (a + i) := by
  induction n generalizing a with
  | zero => rfl
  | succ n ih =>
    rw [Mem.bytes, ih, List.range_succ_eq_map, List.map_cons, List.map_map]
    refine congrArg₂ _ rfl (List.map_congr_left fun i _ => ?_)
    exact congrArg _ (by simp only [Nat.succ_eq_add_one]; omega)

/-- What has been written is read. -/
theorem Mem.bytes_putBytes {d : Nat → Byte} (l : List Byte) {m : Mem} (a : Nat) (h : Mem.wf d m = true) :
    Mem.bytes d (Mem.putBytes d m a l) a l.length = l := by
  rw [Mem.bytes_eq_map]
  refine List.ext_getElem (by simp) fun i h1 h2 => ?_
  rw [List.getElem_map, List.getElem_range, Mem.get_putBytes l a (a + i) h]
  simp [h2]

/-- Equal readings of canonical memories are equal memories. -/
theorem Mem.ext_of_get {d : Nat → Byte} {m n : Mem} (hm : Mem.wf d m = true) (hn : Mem.wf d n = true)
    (h : ∀ a, Mem.get d m a = Mem.get d n a) : m = n := by
  induction m generalizing n with
  | nil =>
    cases n with
    | nil => rfl
    | cons e n =>
      obtain ⟨b, w⟩ := e
      obtain ⟨h1, _, _⟩ := (Mem.wf_cons d b w n).1 hn
      have := h b
      simp [Mem.get] at this
      exact absurd this.symm h1
  | cons e m ih =>
    obtain ⟨a, v⟩ := e
    obtain ⟨h1, h2, h3⟩ := (Mem.wf_cons d a v m).1 hm
    cases n with
    | nil => have := h a; simp [Mem.get] at this; exact absurd this h1
    | cons e n =>
      obtain ⟨b, w⟩ := e
      obtain ⟨k1, k2, k3⟩ := (Mem.wf_cons d b w n).1 hn
      have hab : a = b := by
        rcases Nat.lt_trichotomy a b with hlt | heq | hgt
        · have := h a
          simp [Mem.get, Nat.ne_of_gt hlt, hlt] at this
          exact absurd this h1
        · exact heq
        · have := h b
          simp [Mem.get, Nat.ne_of_gt hgt, hgt] at this
          exact absurd this.symm k1
      subst hab
      have hvw : v = w := by have := h a; simpa [Mem.get] using this
      subst hvw
      congr 1
      apply ih h3 k3
      intro c
      by_cases hac : a = c
      · subst hac; rw [Mem.get_above h2, Mem.get_above k2]
      · by_cases hca : c < a
        · rw [Mem.get_above (Mem.above_mono h2 (le_of_lt hca)), Mem.get_above (Mem.above_mono k2 (le_of_lt hca))]
        · have := h c
          simpa [Mem.get, hac, hca] using this

/-! Scratch memories. -/

@[simp] theorem Scratch.fill_put (s : Scratch) (a : Nat) (v : Byte) : (s.put a v).fill = s.fill := rfl

/-- A write keeps the canonical form of a scratch memory. -/
theorem Scratch.wf_put {s : Scratch} (a : Nat) (v : Byte) (h : s.wf = true) : (s.put a v).wf = true :=
  Mem.wf_put a v h

/-- Reading a scratch memory after a write. -/
theorem Scratch.get_put {s : Scratch} (a : Nat) (v : Byte) (b : Nat) (h : s.wf = true) :
    (s.put a v).get b = if a = b then v else s.get b := Mem.get_put a v b h

theorem Scratch.wf_putBytes (l : List Byte) {s : Scratch} (a : Nat) (h : s.wf = true) :
    (s.putBytes a l).wf = true := by
  induction l generalizing s a with
  | nil => exact h
  | cons v l ih => exact ih (a + 1) (Scratch.wf_put a v h)

theorem Scratch.get_putBytes (l : List Byte) {s : Scratch} (a b : Nat) (h : s.wf = true) :
    (s.putBytes a l).get b = if a ≤ b ∧ b < a + l.length then l.getD (b - a) 0 else s.get b := by
  induction l generalizing s a with
  | nil => rw [if_neg (by simp)]; rfl
  | cons v l ih =>
    rw [Scratch.putBytes, ih (a + 1) (Scratch.wf_put a v h), Scratch.get_put a v b h]
    by_cases hab : a = b
    · subst hab; simp
    · by_cases h1 : a + 1 ≤ b ∧ b < a + 1 + l.length
      · rw [if_pos h1, if_pos (by simp; omega)]
        obtain ⟨n, hn⟩ : ∃ n, b - a = n + 1 := ⟨b - a - 1, by omega⟩
        rw [hn, show b - (a + 1) = n by omega]; rfl
      · rw [if_neg h1, if_neg hab, if_neg (by simp; omega)]

end Sys2Proof.Machine
end

