-- ==== Sys2Proof/Laws/State.lean ====
section
/-! SUPPORT. One lemma per field per update of the state: the named updates of Machine/Ops.lean and Machine/Window.lean, the
frame of a command, and the report of a fault, which changes registers, the log of faults and nothing else. -/

namespace Sys2Proof.Machine.State

/-! `wr` changes `reg`. -/

@[simp] theorem wr_pending (s : State) (a : Nat) (v : Word) : (s.wr a v).pending = s.pending := rfl
@[simp] theorem wr_clk (s : State) (a : Nat) (v : Word) : (s.wr a v).clk = s.clk := rfl
@[simp] theorem wr_build (s : State) (a : Nat) (v : Word) : (s.wr a v).build = s.build := rfl
@[simp] theorem wr_reg (s : State) (a : Nat) (v : Word) : (s.wr a v).reg = Tab.put s.reg a v := rfl
@[simp] theorem wr_core (s : State) (a : Nat) (v : Word) : (s.wr a v).core = s.core := rfl
@[simp] theorem wr_region (s : State) (a : Nat) (v : Word) : (s.wr a v).region = s.region := rfl
@[simp] theorem wr_ctx (s : State) (a : Nat) (v : Word) : (s.wr a v).ctx = s.ctx := rfl
@[simp] theorem wr_queue (s : State) (a : Nat) (v : Word) : (s.wr a v).queue = s.queue := rfl
@[simp] theorem wr_bbol (s : State) (a : Nat) (v : Word) : (s.wr a v).bbol = s.bbol := rfl
@[simp] theorem wr_hostMem (s : State) (a : Nat) (v : Word) : (s.wr a v).hostMem = s.hostMem := rfl
@[simp] theorem wr_devMem (s : State) (a : Nat) (v : Word) : (s.wr a v).devMem = s.devMem := rfl
@[simp] theorem wr_rdata (s : State) (a : Nat) (v : Word) : (s.wr a v).rdata = s.rdata := rfl
@[simp] theorem wr_flog (s : State) (a : Nat) (v : Word) : (s.wr a v).flog = s.flog := rfl
@[simp] theorem wr_inReset (s : State) (a : Nat) (v : Word) : (s.wr a v).inReset = s.inReset := rfl
@[simp] theorem wr_quiet (s : State) (a : Nat) (v : Word) : (s.wr a v).quiet = s.quiet := rfl
@[simp] theorem wr_staged (s : State) (a : Nat) (v : Word) : (s.wr a v).staged = s.staged := rfl
@[simp] theorem wr_latched (s : State) (a : Nat) (v : Word) : (s.wr a v).latched = s.latched := rfl
@[simp] theorem wr_select (s : State) (a : Nat) (v : Word) : (s.wr a v).select = s.select := rfl
@[simp] theorem wr_quays (s : State) (a : Nat) (v : Word) : (s.wr a v).quays = s.quays := rfl
@[simp] theorem wr_remote (s : State) (a : Nat) (v : Word) : (s.wr a v).remote = s.remote := rfl
@[simp] theorem wr_nextId (s : State) (a : Nat) (v : Word) : (s.wr a v).nextId = s.nextId := rfl
@[simp] theorem wr_bbolIn (s : State) (a : Nat) (v : Word) : (s.wr a v).bbolIn = s.bbolIn := rfl
@[simp] theorem wr_bbolNow (s : State) (a : Nat) (v : Word) : (s.wr a v).bbolNow = s.bbolNow := rfl
@[simp] theorem wr_carve (s : State) (a : Nat) (v : Word) : (s.wr a v).carve = s.carve := rfl
@[simp] theorem wr_net (s : State) (a : Nat) (v : Word) : (s.wr a v).net = s.net := rfl
@[simp] theorem wr_nextPkt (s : State) (a : Nat) (v : Word) : (s.wr a v).nextPkt = s.nextPkt := rfl
@[simp] theorem wr_wir (s : State) (a : Nat) (v : Word) : (s.wr a v).wir = s.wir := rfl
@[simp] theorem wr_tapIr (s : State) (a : Nat) (v : Word) : (s.wr a v).tapIr = s.tapIr := rfl
@[simp] theorem wr_boundary (s : State) (a : Nat) (v : Word) : (s.wr a v).boundary = s.boundary := rfl
@[simp] theorem wr_rtWas (s : State) (a : Nat) (v : Word) : (s.wr a v).rtWas = s.rtWas := rfl
@[simp] theorem wr_retired (s : State) (a : Nat) (v : Word) : (s.wr a v).retired = s.retired := rfl
@[simp] theorem wr_share (s : State) (a : Nat) (v : Word) : (s.wr a v).share = s.share := rfl
@[simp] theorem wr_once (s : State) (a : Nat) (v : Word) : (s.wr a v).once = s.once := rfl
@[simp] theorem wr_subst (s : State) (a : Nat) (v : Word) : (s.wr a v).subst = s.subst := rfl
@[simp] theorem wr_groups (s : State) (a : Nat) (v : Word) : (s.wr a v).groups = s.groups := rfl
@[simp] theorem wr_wload (s : State) (a : Nat) (v : Word) : (s.wr a v).wload = s.wload := rfl
@[simp] theorem wr_pilot (s : State) (a : Nat) (v : Word) : (s.wr a v).pilot = s.pilot := rfl
@[simp] theorem wr_boot (s : State) (a : Nat) (v : Word) : (s.wr a v).boot = s.boot := rfl
@[simp] theorem wr_update (s : State) (a : Nat) (v : Word) : (s.wr a v).update = s.update := rfl
@[simp] theorem wr_link (s : State) (a : Nat) (v : Word) : (s.wr a v).link = s.link := rfl
@[simp] theorem wr_convoy (s : State) (a : Nat) (v : Word) : (s.wr a v).convoy = s.convoy := rfl
@[simp] theorem wr_capStamp (s : State) (a : Nat) (v : Word) : (s.wr a v).capStamp = s.capStamp := rfl
@[simp] theorem wr_scan (s : State) (a : Nat) (v : Word) : (s.wr a v).scan = s.scan := rfl
@[simp] theorem wr_lifeline (s : State) (a : Nat) (v : Word) : (s.wr a v).lifeline = s.lifeline := rfl
@[simp] theorem wr_lifelineAt (s : State) (a : Nat) (v : Word) : (s.wr a v).lifelineAt = s.lifelineAt := rfl
@[simp] theorem wr_testEn (s : State) (a : Nat) (v : Word) : (s.wr a v).testEn = s.testEn := rfl
@[simp] theorem wr_slipMode (s : State) (a : Nat) (v : Word) : (s.wr a v).slipMode = s.slipMode := rfl
@[simp] theorem wr_rootKey (s : State) (a : Nat) (v : Word) : (s.wr a v).rootKey = s.rootKey := rfl
@[simp] theorem wr_uniqueId (s : State) (a : Nat) (v : Word) : (s.wr a v).uniqueId = s.uniqueId := rfl
@[simp] theorem wr_quayPs (s : State) (a : Nat) (v : Word) : (s.wr a v).quayPs = s.quayPs := rfl

/-! `setCore` changes `core`. -/

@[simp] theorem setCore_pending (s : State) (k : Nat) (x : Core) : (s.setCore k x).pending = s.pending := rfl
@[simp] theorem setCore_clk (s : State) (k : Nat) (x : Core) : (s.setCore k x).clk = s.clk := rfl
@[simp] theorem setCore_build (s : State) (k : Nat) (x : Core) : (s.setCore k x).build = s.build := rfl
@[simp] theorem setCore_reg (s : State) (k : Nat) (x : Core) : (s.setCore k x).reg = s.reg := rfl
@[simp] theorem setCore_core (s : State) (k : Nat) (x : Core) : (s.setCore k x).core = Tab.put s.core k x := rfl
@[simp] theorem setCore_region (s : State) (k : Nat) (x : Core) : (s.setCore k x).region = s.region := rfl
@[simp] theorem setCore_ctx (s : State) (k : Nat) (x : Core) : (s.setCore k x).ctx = s.ctx := rfl
@[simp] theorem setCore_queue (s : State) (k : Nat) (x : Core) : (s.setCore k x).queue = s.queue := rfl
@[simp] theorem setCore_bbol (s : State) (k : Nat) (x : Core) : (s.setCore k x).bbol = s.bbol := rfl
@[simp] theorem setCore_hostMem (s : State) (k : Nat) (x : Core) : (s.setCore k x).hostMem = s.hostMem := rfl
@[simp] theorem setCore_devMem (s : State) (k : Nat) (x : Core) : (s.setCore k x).devMem = s.devMem := rfl
@[simp] theorem setCore_rdata (s : State) (k : Nat) (x : Core) : (s.setCore k x).rdata = s.rdata := rfl
@[simp] theorem setCore_flog (s : State) (k : Nat) (x : Core) : (s.setCore k x).flog = s.flog := rfl
@[simp] theorem setCore_inReset (s : State) (k : Nat) (x : Core) : (s.setCore k x).inReset = s.inReset := rfl
@[simp] theorem setCore_quiet (s : State) (k : Nat) (x : Core) : (s.setCore k x).quiet = s.quiet := rfl
@[simp] theorem setCore_staged (s : State) (k : Nat) (x : Core) : (s.setCore k x).staged = s.staged := rfl
@[simp] theorem setCore_latched (s : State) (k : Nat) (x : Core) : (s.setCore k x).latched = s.latched := rfl
@[simp] theorem setCore_select (s : State) (k : Nat) (x : Core) : (s.setCore k x).select = s.select := rfl
@[simp] theorem setCore_quays (s : State) (k : Nat) (x : Core) : (s.setCore k x).quays = s.quays := rfl
@[simp] theorem setCore_remote (s : State) (k : Nat) (x : Core) : (s.setCore k x).remote = s.remote := rfl
@[simp] theorem setCore_nextId (s : State) (k : Nat) (x : Core) : (s.setCore k x).nextId = s.nextId := rfl
@[simp] theorem setCore_bbolIn (s : State) (k : Nat) (x : Core) : (s.setCore k x).bbolIn = s.bbolIn := rfl
@[simp] theorem setCore_bbolNow (s : State) (k : Nat) (x : Core) : (s.setCore k x).bbolNow = s.bbolNow := rfl
@[simp] theorem setCore_carve (s : State) (k : Nat) (x : Core) : (s.setCore k x).carve = s.carve := rfl
@[simp] theorem setCore_net (s : State) (k : Nat) (x : Core) : (s.setCore k x).net = s.net := rfl
@[simp] theorem setCore_nextPkt (s : State) (k : Nat) (x : Core) : (s.setCore k x).nextPkt = s.nextPkt := rfl
@[simp] theorem setCore_wir (s : State) (k : Nat) (x : Core) : (s.setCore k x).wir = s.wir := rfl
@[simp] theorem setCore_tapIr (s : State) (k : Nat) (x : Core) : (s.setCore k x).tapIr = s.tapIr := rfl
@[simp] theorem setCore_boundary (s : State) (k : Nat) (x : Core) : (s.setCore k x).boundary = s.boundary := rfl
@[simp] theorem setCore_rtWas (s : State) (k : Nat) (x : Core) : (s.setCore k x).rtWas = s.rtWas := rfl
@[simp] theorem setCore_retired (s : State) (k : Nat) (x : Core) : (s.setCore k x).retired = s.retired := rfl
@[simp] theorem setCore_share (s : State) (k : Nat) (x : Core) : (s.setCore k x).share = s.share := rfl
@[simp] theorem setCore_once (s : State) (k : Nat) (x : Core) : (s.setCore k x).once = s.once := rfl
@[simp] theorem setCore_subst (s : State) (k : Nat) (x : Core) : (s.setCore k x).subst = s.subst := rfl
@[simp] theorem setCore_groups (s : State) (k : Nat) (x : Core) : (s.setCore k x).groups = s.groups := rfl
@[simp] theorem setCore_wload (s : State) (k : Nat) (x : Core) : (s.setCore k x).wload = s.wload := rfl
@[simp] theorem setCore_pilot (s : State) (k : Nat) (x : Core) : (s.setCore k x).pilot = s.pilot := rfl
@[simp] theorem setCore_boot (s : State) (k : Nat) (x : Core) : (s.setCore k x).boot = s.boot := rfl
@[simp] theorem setCore_update (s : State) (k : Nat) (x : Core) : (s.setCore k x).update = s.update := rfl
@[simp] theorem setCore_link (s : State) (k : Nat) (x : Core) : (s.setCore k x).link = s.link := rfl
@[simp] theorem setCore_convoy (s : State) (k : Nat) (x : Core) : (s.setCore k x).convoy = s.convoy := rfl
@[simp] theorem setCore_capStamp (s : State) (k : Nat) (x : Core) : (s.setCore k x).capStamp = s.capStamp := rfl
@[simp] theorem setCore_scan (s : State) (k : Nat) (x : Core) : (s.setCore k x).scan = s.scan := rfl
@[simp] theorem setCore_lifeline (s : State) (k : Nat) (x : Core) : (s.setCore k x).lifeline = s.lifeline := rfl
@[simp] theorem setCore_lifelineAt (s : State) (k : Nat) (x : Core) : (s.setCore k x).lifelineAt = s.lifelineAt := rfl
@[simp] theorem setCore_testEn (s : State) (k : Nat) (x : Core) : (s.setCore k x).testEn = s.testEn := rfl
@[simp] theorem setCore_slipMode (s : State) (k : Nat) (x : Core) : (s.setCore k x).slipMode = s.slipMode := rfl
@[simp] theorem setCore_rootKey (s : State) (k : Nat) (x : Core) : (s.setCore k x).rootKey = s.rootKey := rfl
@[simp] theorem setCore_uniqueId (s : State) (k : Nat) (x : Core) : (s.setCore k x).uniqueId = s.uniqueId := rfl
@[simp] theorem setCore_quayPs (s : State) (k : Nat) (x : Core) : (s.setCore k x).quayPs = s.quayPs := rfl

/-! `setRegion` changes `region`. -/

@[simp] theorem setRegion_pending (s : State) (k : Nat) (x : Region) : (s.setRegion k x).pending = s.pending := rfl
@[simp] theorem setRegion_clk (s : State) (k : Nat) (x : Region) : (s.setRegion k x).clk = s.clk := rfl
@[simp] theorem setRegion_build (s : State) (k : Nat) (x : Region) : (s.setRegion k x).build = s.build := rfl
@[simp] theorem setRegion_reg (s : State) (k : Nat) (x : Region) : (s.setRegion k x).reg = s.reg := rfl
@[simp] theorem setRegion_core (s : State) (k : Nat) (x : Region) : (s.setRegion k x).core = s.core := rfl
@[simp] theorem setRegion_region (s : State) (k : Nat) (x : Region) : (s.setRegion k x).region = Tab.put s.region k x := rfl
@[simp] theorem setRegion_ctx (s : State) (k : Nat) (x : Region) : (s.setRegion k x).ctx = s.ctx := rfl
@[simp] theorem setRegion_queue (s : State) (k : Nat) (x : Region) : (s.setRegion k x).queue = s.queue := rfl
@[simp] theorem setRegion_bbol (s : State) (k : Nat) (x : Region) : (s.setRegion k x).bbol = s.bbol := rfl
@[simp] theorem setRegion_hostMem (s : State) (k : Nat) (x : Region) : (s.setRegion k x).hostMem = s.hostMem := rfl
@[simp] theorem setRegion_devMem (s : State) (k : Nat) (x : Region) : (s.setRegion k x).devMem = s.devMem := rfl
@[simp] theorem setRegion_rdata (s : State) (k : Nat) (x : Region) : (s.setRegion k x).rdata = s.rdata := rfl
@[simp] theorem setRegion_flog (s : State) (k : Nat) (x : Region) : (s.setRegion k x).flog = s.flog := rfl
@[simp] theorem setRegion_inReset (s : State) (k : Nat) (x : Region) : (s.setRegion k x).inReset = s.inReset := rfl
@[simp] theorem setRegion_quiet (s : State) (k : Nat) (x : Region) : (s.setRegion k x).quiet = s.quiet := rfl
@[simp] theorem setRegion_staged (s : State) (k : Nat) (x : Region) : (s.setRegion k x).staged = s.staged := rfl
@[simp] theorem setRegion_latched (s : State) (k : Nat) (x : Region) : (s.setRegion k x).latched = s.latched := rfl
@[simp] theorem setRegion_select (s : State) (k : Nat) (x : Region) : (s.setRegion k x).select = s.select := rfl
@[simp] theorem setRegion_quays (s : State) (k : Nat) (x : Region) : (s.setRegion k x).quays = s.quays := rfl
@[simp] theorem setRegion_remote (s : State) (k : Nat) (x : Region) : (s.setRegion k x).remote = s.remote := rfl
@[simp] theorem setRegion_nextId (s : State) (k : Nat) (x : Region) : (s.setRegion k x).nextId = s.nextId := rfl
@[simp] theorem setRegion_bbolIn (s : State) (k : Nat) (x : Region) : (s.setRegion k x).bbolIn = s.bbolIn := rfl
@[simp] theorem setRegion_bbolNow (s : State) (k : Nat) (x : Region) : (s.setRegion k x).bbolNow = s.bbolNow := rfl
@[simp] theorem setRegion_carve (s : State) (k : Nat) (x : Region) : (s.setRegion k x).carve = s.carve := rfl
@[simp] theorem setRegion_net (s : State) (k : Nat) (x : Region) : (s.setRegion k x).net = s.net := rfl
@[simp] theorem setRegion_nextPkt (s : State) (k : Nat) (x : Region) : (s.setRegion k x).nextPkt = s.nextPkt := rfl
@[simp] theorem setRegion_wir (s : State) (k : Nat) (x : Region) : (s.setRegion k x).wir = s.wir := rfl
@[simp] theorem setRegion_tapIr (s : State) (k : Nat) (x : Region) : (s.setRegion k x).tapIr = s.tapIr := rfl
@[simp] theorem setRegion_boundary (s : State) (k : Nat) (x : Region) : (s.setRegion k x).boundary = s.boundary := rfl
@[simp] theorem setRegion_rtWas (s : State) (k : Nat) (x : Region) : (s.setRegion k x).rtWas = s.rtWas := rfl
@[simp] theorem setRegion_retired (s : State) (k : Nat) (x : Region) : (s.setRegion k x).retired = s.retired := rfl
@[simp] theorem setRegion_share (s : State) (k : Nat) (x : Region) : (s.setRegion k x).share = s.share := rfl
@[simp] theorem setRegion_once (s : State) (k : Nat) (x : Region) : (s.setRegion k x).once = s.once := rfl
@[simp] theorem setRegion_subst (s : State) (k : Nat) (x : Region) : (s.setRegion k x).subst = s.subst := rfl
@[simp] theorem setRegion_groups (s : State) (k : Nat) (x : Region) : (s.setRegion k x).groups = s.groups := rfl
@[simp] theorem setRegion_wload (s : State) (k : Nat) (x : Region) : (s.setRegion k x).wload = s.wload := rfl
@[simp] theorem setRegion_pilot (s : State) (k : Nat) (x : Region) : (s.setRegion k x).pilot = s.pilot := rfl
@[simp] theorem setRegion_boot (s : State) (k : Nat) (x : Region) : (s.setRegion k x).boot = s.boot := rfl
@[simp] theorem setRegion_update (s : State) (k : Nat) (x : Region) : (s.setRegion k x).update = s.update := rfl
@[simp] theorem setRegion_link (s : State) (k : Nat) (x : Region) : (s.setRegion k x).link = s.link := rfl
@[simp] theorem setRegion_convoy (s : State) (k : Nat) (x : Region) : (s.setRegion k x).convoy = s.convoy := rfl
@[simp] theorem setRegion_capStamp (s : State) (k : Nat) (x : Region) : (s.setRegion k x).capStamp = s.capStamp := rfl
@[simp] theorem setRegion_scan (s : State) (k : Nat) (x : Region) : (s.setRegion k x).scan = s.scan := rfl
@[simp] theorem setRegion_lifeline (s : State) (k : Nat) (x : Region) : (s.setRegion k x).lifeline = s.lifeline := rfl
@[simp] theorem setRegion_lifelineAt (s : State) (k : Nat) (x : Region) : (s.setRegion k x).lifelineAt = s.lifelineAt := rfl
@[simp] theorem setRegion_testEn (s : State) (k : Nat) (x : Region) : (s.setRegion k x).testEn = s.testEn := rfl
@[simp] theorem setRegion_slipMode (s : State) (k : Nat) (x : Region) : (s.setRegion k x).slipMode = s.slipMode := rfl
@[simp] theorem setRegion_rootKey (s : State) (k : Nat) (x : Region) : (s.setRegion k x).rootKey = s.rootKey := rfl
@[simp] theorem setRegion_uniqueId (s : State) (k : Nat) (x : Region) : (s.setRegion k x).uniqueId = s.uniqueId := rfl
@[simp] theorem setRegion_quayPs (s : State) (k : Nat) (x : Region) : (s.setRegion k x).quayPs = s.quayPs := rfl

/-! `setCtx` changes `ctx`. -/

@[simp] theorem setCtx_pending (s : State) (k : Nat) (x : Ctx) : (s.setCtx k x).pending = s.pending := rfl
@[simp] theorem setCtx_clk (s : State) (k : Nat) (x : Ctx) : (s.setCtx k x).clk = s.clk := rfl
@[simp] theorem setCtx_build (s : State) (k : Nat) (x : Ctx) : (s.setCtx k x).build = s.build := rfl
@[simp] theorem setCtx_reg (s : State) (k : Nat) (x : Ctx) : (s.setCtx k x).reg = s.reg := rfl
@[simp] theorem setCtx_core (s : State) (k : Nat) (x : Ctx) : (s.setCtx k x).core = s.core := rfl
@[simp] theorem setCtx_region (s : State) (k : Nat) (x : Ctx) : (s.setCtx k x).region = s.region := rfl
@[simp] theorem setCtx_ctx (s : State) (k : Nat) (x : Ctx) : (s.setCtx k x).ctx = Tab.put s.ctx k x := rfl
@[simp] theorem setCtx_queue (s : State) (k : Nat) (x : Ctx) : (s.setCtx k x).queue = s.queue := rfl
@[simp] theorem setCtx_bbol (s : State) (k : Nat) (x : Ctx) : (s.setCtx k x).bbol = s.bbol := rfl
@[simp] theorem setCtx_hostMem (s : State) (k : Nat) (x : Ctx) : (s.setCtx k x).hostMem = s.hostMem := rfl
@[simp] theorem setCtx_devMem (s : State) (k : Nat) (x : Ctx) : (s.setCtx k x).devMem = s.devMem := rfl
@[simp] theorem setCtx_rdata (s : State) (k : Nat) (x : Ctx) : (s.setCtx k x).rdata = s.rdata := rfl
@[simp] theorem setCtx_flog (s : State) (k : Nat) (x : Ctx) : (s.setCtx k x).flog = s.flog := rfl
@[simp] theorem setCtx_inReset (s : State) (k : Nat) (x : Ctx) : (s.setCtx k x).inReset = s.inReset := rfl
@[simp] theorem setCtx_quiet (s : State) (k : Nat) (x : Ctx) : (s.setCtx k x).quiet = s.quiet := rfl
@[simp] theorem setCtx_staged (s : State) (k : Nat) (x : Ctx) : (s.setCtx k x).staged = s.staged := rfl
@[simp] theorem setCtx_latched (s : State) (k : Nat) (x : Ctx) : (s.setCtx k x).latched = s.latched := rfl
@[simp] theorem setCtx_select (s : State) (k : Nat) (x : Ctx) : (s.setCtx k x).select = s.select := rfl
@[simp] theorem setCtx_quays (s : State) (k : Nat) (x : Ctx) : (s.setCtx k x).quays = s.quays := rfl
@[simp] theorem setCtx_remote (s : State) (k : Nat) (x : Ctx) : (s.setCtx k x).remote = s.remote := rfl
@[simp] theorem setCtx_nextId (s : State) (k : Nat) (x : Ctx) : (s.setCtx k x).nextId = s.nextId := rfl
@[simp] theorem setCtx_bbolIn (s : State) (k : Nat) (x : Ctx) : (s.setCtx k x).bbolIn = s.bbolIn := rfl
@[simp] theorem setCtx_bbolNow (s : State) (k : Nat) (x : Ctx) : (s.setCtx k x).bbolNow = s.bbolNow := rfl
@[simp] theorem setCtx_carve (s : State) (k : Nat) (x : Ctx) : (s.setCtx k x).carve = s.carve := rfl
@[simp] theorem setCtx_net (s : State) (k : Nat) (x : Ctx) : (s.setCtx k x).net = s.net := rfl
@[simp] theorem setCtx_nextPkt (s : State) (k : Nat) (x : Ctx) : (s.setCtx k x).nextPkt = s.nextPkt := rfl
@[simp] theorem setCtx_wir (s : State) (k : Nat) (x : Ctx) : (s.setCtx k x).wir = s.wir := rfl
@[simp] theorem setCtx_tapIr (s : State) (k : Nat) (x : Ctx) : (s.setCtx k x).tapIr = s.tapIr := rfl
@[simp] theorem setCtx_boundary (s : State) (k : Nat) (x : Ctx) : (s.setCtx k x).boundary = s.boundary := rfl
@[simp] theorem setCtx_rtWas (s : State) (k : Nat) (x : Ctx) : (s.setCtx k x).rtWas = s.rtWas := rfl
@[simp] theorem setCtx_retired (s : State) (k : Nat) (x : Ctx) : (s.setCtx k x).retired = s.retired := rfl
@[simp] theorem setCtx_share (s : State) (k : Nat) (x : Ctx) : (s.setCtx k x).share = s.share := rfl
@[simp] theorem setCtx_once (s : State) (k : Nat) (x : Ctx) : (s.setCtx k x).once = s.once := rfl
@[simp] theorem setCtx_subst (s : State) (k : Nat) (x : Ctx) : (s.setCtx k x).subst = s.subst := rfl
@[simp] theorem setCtx_groups (s : State) (k : Nat) (x : Ctx) : (s.setCtx k x).groups = s.groups := rfl
@[simp] theorem setCtx_wload (s : State) (k : Nat) (x : Ctx) : (s.setCtx k x).wload = s.wload := rfl
@[simp] theorem setCtx_pilot (s : State) (k : Nat) (x : Ctx) : (s.setCtx k x).pilot = s.pilot := rfl
@[simp] theorem setCtx_boot (s : State) (k : Nat) (x : Ctx) : (s.setCtx k x).boot = s.boot := rfl
@[simp] theorem setCtx_update (s : State) (k : Nat) (x : Ctx) : (s.setCtx k x).update = s.update := rfl
@[simp] theorem setCtx_link (s : State) (k : Nat) (x : Ctx) : (s.setCtx k x).link = s.link := rfl
@[simp] theorem setCtx_convoy (s : State) (k : Nat) (x : Ctx) : (s.setCtx k x).convoy = s.convoy := rfl
@[simp] theorem setCtx_capStamp (s : State) (k : Nat) (x : Ctx) : (s.setCtx k x).capStamp = s.capStamp := rfl
@[simp] theorem setCtx_scan (s : State) (k : Nat) (x : Ctx) : (s.setCtx k x).scan = s.scan := rfl
@[simp] theorem setCtx_lifeline (s : State) (k : Nat) (x : Ctx) : (s.setCtx k x).lifeline = s.lifeline := rfl
@[simp] theorem setCtx_lifelineAt (s : State) (k : Nat) (x : Ctx) : (s.setCtx k x).lifelineAt = s.lifelineAt := rfl
@[simp] theorem setCtx_testEn (s : State) (k : Nat) (x : Ctx) : (s.setCtx k x).testEn = s.testEn := rfl
@[simp] theorem setCtx_slipMode (s : State) (k : Nat) (x : Ctx) : (s.setCtx k x).slipMode = s.slipMode := rfl
@[simp] theorem setCtx_rootKey (s : State) (k : Nat) (x : Ctx) : (s.setCtx k x).rootKey = s.rootKey := rfl
@[simp] theorem setCtx_uniqueId (s : State) (k : Nat) (x : Ctx) : (s.setCtx k x).uniqueId = s.uniqueId := rfl
@[simp] theorem setCtx_quayPs (s : State) (k : Nat) (x : Ctx) : (s.setCtx k x).quayPs = s.quayPs := rfl

/-! `setQueue` changes `queue`. -/

@[simp] theorem setQueue_pending (s : State) (k : Nat) (x : Queue) : (s.setQueue k x).pending = s.pending := rfl
@[simp] theorem setQueue_clk (s : State) (k : Nat) (x : Queue) : (s.setQueue k x).clk = s.clk := rfl
@[simp] theorem setQueue_build (s : State) (k : Nat) (x : Queue) : (s.setQueue k x).build = s.build := rfl
@[simp] theorem setQueue_reg (s : State) (k : Nat) (x : Queue) : (s.setQueue k x).reg = s.reg := rfl
@[simp] theorem setQueue_core (s : State) (k : Nat) (x : Queue) : (s.setQueue k x).core = s.core := rfl
@[simp] theorem setQueue_region (s : State) (k : Nat) (x : Queue) : (s.setQueue k x).region = s.region := rfl
@[simp] theorem setQueue_ctx (s : State) (k : Nat) (x : Queue) : (s.setQueue k x).ctx = s.ctx := rfl
@[simp] theorem setQueue_queue (s : State) (k : Nat) (x : Queue) : (s.setQueue k x).queue = Tab.put s.queue k x := rfl
@[simp] theorem setQueue_bbol (s : State) (k : Nat) (x : Queue) : (s.setQueue k x).bbol = s.bbol := rfl
@[simp] theorem setQueue_hostMem (s : State) (k : Nat) (x : Queue) : (s.setQueue k x).hostMem = s.hostMem := rfl
@[simp] theorem setQueue_devMem (s : State) (k : Nat) (x : Queue) : (s.setQueue k x).devMem = s.devMem := rfl
@[simp] theorem setQueue_rdata (s : State) (k : Nat) (x : Queue) : (s.setQueue k x).rdata = s.rdata := rfl
@[simp] theorem setQueue_flog (s : State) (k : Nat) (x : Queue) : (s.setQueue k x).flog = s.flog := rfl
@[simp] theorem setQueue_inReset (s : State) (k : Nat) (x : Queue) : (s.setQueue k x).inReset = s.inReset := rfl
@[simp] theorem setQueue_quiet (s : State) (k : Nat) (x : Queue) : (s.setQueue k x).quiet = s.quiet := rfl
@[simp] theorem setQueue_staged (s : State) (k : Nat) (x : Queue) : (s.setQueue k x).staged = s.staged := rfl
@[simp] theorem setQueue_latched (s : State) (k : Nat) (x : Queue) : (s.setQueue k x).latched = s.latched := rfl
@[simp] theorem setQueue_select (s : State) (k : Nat) (x : Queue) : (s.setQueue k x).select = s.select := rfl
@[simp] theorem setQueue_quays (s : State) (k : Nat) (x : Queue) : (s.setQueue k x).quays = s.quays := rfl
@[simp] theorem setQueue_remote (s : State) (k : Nat) (x : Queue) : (s.setQueue k x).remote = s.remote := rfl
@[simp] theorem setQueue_nextId (s : State) (k : Nat) (x : Queue) : (s.setQueue k x).nextId = s.nextId := rfl
@[simp] theorem setQueue_bbolIn (s : State) (k : Nat) (x : Queue) : (s.setQueue k x).bbolIn = s.bbolIn := rfl
@[simp] theorem setQueue_bbolNow (s : State) (k : Nat) (x : Queue) : (s.setQueue k x).bbolNow = s.bbolNow := rfl
@[simp] theorem setQueue_carve (s : State) (k : Nat) (x : Queue) : (s.setQueue k x).carve = s.carve := rfl
@[simp] theorem setQueue_net (s : State) (k : Nat) (x : Queue) : (s.setQueue k x).net = s.net := rfl
@[simp] theorem setQueue_nextPkt (s : State) (k : Nat) (x : Queue) : (s.setQueue k x).nextPkt = s.nextPkt := rfl
@[simp] theorem setQueue_wir (s : State) (k : Nat) (x : Queue) : (s.setQueue k x).wir = s.wir := rfl
@[simp] theorem setQueue_tapIr (s : State) (k : Nat) (x : Queue) : (s.setQueue k x).tapIr = s.tapIr := rfl
@[simp] theorem setQueue_boundary (s : State) (k : Nat) (x : Queue) : (s.setQueue k x).boundary = s.boundary := rfl
@[simp] theorem setQueue_rtWas (s : State) (k : Nat) (x : Queue) : (s.setQueue k x).rtWas = s.rtWas := rfl
@[simp] theorem setQueue_retired (s : State) (k : Nat) (x : Queue) : (s.setQueue k x).retired = s.retired := rfl
@[simp] theorem setQueue_share (s : State) (k : Nat) (x : Queue) : (s.setQueue k x).share = s.share := rfl
@[simp] theorem setQueue_once (s : State) (k : Nat) (x : Queue) : (s.setQueue k x).once = s.once := rfl
@[simp] theorem setQueue_subst (s : State) (k : Nat) (x : Queue) : (s.setQueue k x).subst = s.subst := rfl
@[simp] theorem setQueue_groups (s : State) (k : Nat) (x : Queue) : (s.setQueue k x).groups = s.groups := rfl
@[simp] theorem setQueue_wload (s : State) (k : Nat) (x : Queue) : (s.setQueue k x).wload = s.wload := rfl
@[simp] theorem setQueue_pilot (s : State) (k : Nat) (x : Queue) : (s.setQueue k x).pilot = s.pilot := rfl
@[simp] theorem setQueue_boot (s : State) (k : Nat) (x : Queue) : (s.setQueue k x).boot = s.boot := rfl
@[simp] theorem setQueue_update (s : State) (k : Nat) (x : Queue) : (s.setQueue k x).update = s.update := rfl
@[simp] theorem setQueue_link (s : State) (k : Nat) (x : Queue) : (s.setQueue k x).link = s.link := rfl
@[simp] theorem setQueue_convoy (s : State) (k : Nat) (x : Queue) : (s.setQueue k x).convoy = s.convoy := rfl
@[simp] theorem setQueue_capStamp (s : State) (k : Nat) (x : Queue) : (s.setQueue k x).capStamp = s.capStamp := rfl
@[simp] theorem setQueue_scan (s : State) (k : Nat) (x : Queue) : (s.setQueue k x).scan = s.scan := rfl
@[simp] theorem setQueue_lifeline (s : State) (k : Nat) (x : Queue) : (s.setQueue k x).lifeline = s.lifeline := rfl
@[simp] theorem setQueue_lifelineAt (s : State) (k : Nat) (x : Queue) : (s.setQueue k x).lifelineAt = s.lifelineAt := rfl
@[simp] theorem setQueue_testEn (s : State) (k : Nat) (x : Queue) : (s.setQueue k x).testEn = s.testEn := rfl
@[simp] theorem setQueue_slipMode (s : State) (k : Nat) (x : Queue) : (s.setQueue k x).slipMode = s.slipMode := rfl
@[simp] theorem setQueue_rootKey (s : State) (k : Nat) (x : Queue) : (s.setQueue k x).rootKey = s.rootKey := rfl
@[simp] theorem setQueue_uniqueId (s : State) (k : Nat) (x : Queue) : (s.setQueue k x).uniqueId = s.uniqueId := rfl
@[simp] theorem setQueue_quayPs (s : State) (k : Nat) (x : Queue) : (s.setQueue k x).quayPs = s.quayPs := rfl

/-! `modCore` changes `core`. -/

@[simp] theorem modCore_pending (s : State) (k : Nat) (f : Core → Core) : (s.modCore k f).pending = s.pending := rfl
@[simp] theorem modCore_clk (s : State) (k : Nat) (f : Core → Core) : (s.modCore k f).clk = s.clk := rfl
@[simp] theorem modCore_build (s : State) (k : Nat) (f : Core → Core) : (s.modCore k f).build = s.build := rfl
@[simp] theorem modCore_reg (s : State) (k : Nat) (f : Core → Core) : (s.modCore k f).reg = s.reg := rfl
@[simp] theorem modCore_core (s : State) (k : Nat) (f : Core → Core) : (s.modCore k f).core = Tab.put s.core k (f (s.getCore k)) := rfl
@[simp] theorem modCore_region (s : State) (k : Nat) (f : Core → Core) : (s.modCore k f).region = s.region := rfl
@[simp] theorem modCore_ctx (s : State) (k : Nat) (f : Core → Core) : (s.modCore k f).ctx = s.ctx := rfl
@[simp] theorem modCore_queue (s : State) (k : Nat) (f : Core → Core) : (s.modCore k f).queue = s.queue := rfl
@[simp] theorem modCore_bbol (s : State) (k : Nat) (f : Core → Core) : (s.modCore k f).bbol = s.bbol := rfl
@[simp] theorem modCore_hostMem (s : State) (k : Nat) (f : Core → Core) : (s.modCore k f).hostMem = s.hostMem := rfl
@[simp] theorem modCore_devMem (s : State) (k : Nat) (f : Core → Core) : (s.modCore k f).devMem = s.devMem := rfl
@[simp] theorem modCore_rdata (s : State) (k : Nat) (f : Core → Core) : (s.modCore k f).rdata = s.rdata := rfl
@[simp] theorem modCore_flog (s : State) (k : Nat) (f : Core → Core) : (s.modCore k f).flog = s.flog := rfl
@[simp] theorem modCore_inReset (s : State) (k : Nat) (f : Core → Core) : (s.modCore k f).inReset = s.inReset := rfl
@[simp] theorem modCore_quiet (s : State) (k : Nat) (f : Core → Core) : (s.modCore k f).quiet = s.quiet := rfl
@[simp] theorem modCore_staged (s : State) (k : Nat) (f : Core → Core) : (s.modCore k f).staged = s.staged := rfl
@[simp] theorem modCore_latched (s : State) (k : Nat) (f : Core → Core) : (s.modCore k f).latched = s.latched := rfl
@[simp] theorem modCore_select (s : State) (k : Nat) (f : Core → Core) : (s.modCore k f).select = s.select := rfl
@[simp] theorem modCore_quays (s : State) (k : Nat) (f : Core → Core) : (s.modCore k f).quays = s.quays := rfl
@[simp] theorem modCore_remote (s : State) (k : Nat) (f : Core → Core) : (s.modCore k f).remote = s.remote := rfl
@[simp] theorem modCore_nextId (s : State) (k : Nat) (f : Core → Core) : (s.modCore k f).nextId = s.nextId := rfl
@[simp] theorem modCore_bbolIn (s : State) (k : Nat) (f : Core → Core) : (s.modCore k f).bbolIn = s.bbolIn := rfl
@[simp] theorem modCore_bbolNow (s : State) (k : Nat) (f : Core → Core) : (s.modCore k f).bbolNow = s.bbolNow := rfl
@[simp] theorem modCore_carve (s : State) (k : Nat) (f : Core → Core) : (s.modCore k f).carve = s.carve := rfl
@[simp] theorem modCore_net (s : State) (k : Nat) (f : Core → Core) : (s.modCore k f).net = s.net := rfl
@[simp] theorem modCore_nextPkt (s : State) (k : Nat) (f : Core → Core) : (s.modCore k f).nextPkt = s.nextPkt := rfl
@[simp] theorem modCore_wir (s : State) (k : Nat) (f : Core → Core) : (s.modCore k f).wir = s.wir := rfl
@[simp] theorem modCore_tapIr (s : State) (k : Nat) (f : Core → Core) : (s.modCore k f).tapIr = s.tapIr := rfl
@[simp] theorem modCore_boundary (s : State) (k : Nat) (f : Core → Core) : (s.modCore k f).boundary = s.boundary := rfl
@[simp] theorem modCore_rtWas (s : State) (k : Nat) (f : Core → Core) : (s.modCore k f).rtWas = s.rtWas := rfl
@[simp] theorem modCore_retired (s : State) (k : Nat) (f : Core → Core) : (s.modCore k f).retired = s.retired := rfl
@[simp] theorem modCore_share (s : State) (k : Nat) (f : Core → Core) : (s.modCore k f).share = s.share := rfl
@[simp] theorem modCore_once (s : State) (k : Nat) (f : Core → Core) : (s.modCore k f).once = s.once := rfl
@[simp] theorem modCore_subst (s : State) (k : Nat) (f : Core → Core) : (s.modCore k f).subst = s.subst := rfl
@[simp] theorem modCore_groups (s : State) (k : Nat) (f : Core → Core) : (s.modCore k f).groups = s.groups := rfl
@[simp] theorem modCore_wload (s : State) (k : Nat) (f : Core → Core) : (s.modCore k f).wload = s.wload := rfl
@[simp] theorem modCore_pilot (s : State) (k : Nat) (f : Core → Core) : (s.modCore k f).pilot = s.pilot := rfl
@[simp] theorem modCore_boot (s : State) (k : Nat) (f : Core → Core) : (s.modCore k f).boot = s.boot := rfl
@[simp] theorem modCore_update (s : State) (k : Nat) (f : Core → Core) : (s.modCore k f).update = s.update := rfl
@[simp] theorem modCore_link (s : State) (k : Nat) (f : Core → Core) : (s.modCore k f).link = s.link := rfl
@[simp] theorem modCore_convoy (s : State) (k : Nat) (f : Core → Core) : (s.modCore k f).convoy = s.convoy := rfl
@[simp] theorem modCore_capStamp (s : State) (k : Nat) (f : Core → Core) : (s.modCore k f).capStamp = s.capStamp := rfl
@[simp] theorem modCore_scan (s : State) (k : Nat) (f : Core → Core) : (s.modCore k f).scan = s.scan := rfl
@[simp] theorem modCore_lifeline (s : State) (k : Nat) (f : Core → Core) : (s.modCore k f).lifeline = s.lifeline := rfl
@[simp] theorem modCore_lifelineAt (s : State) (k : Nat) (f : Core → Core) : (s.modCore k f).lifelineAt = s.lifelineAt := rfl
@[simp] theorem modCore_testEn (s : State) (k : Nat) (f : Core → Core) : (s.modCore k f).testEn = s.testEn := rfl
@[simp] theorem modCore_slipMode (s : State) (k : Nat) (f : Core → Core) : (s.modCore k f).slipMode = s.slipMode := rfl
@[simp] theorem modCore_rootKey (s : State) (k : Nat) (f : Core → Core) : (s.modCore k f).rootKey = s.rootKey := rfl
@[simp] theorem modCore_uniqueId (s : State) (k : Nat) (f : Core → Core) : (s.modCore k f).uniqueId = s.uniqueId := rfl
@[simp] theorem modCore_quayPs (s : State) (k : Nat) (f : Core → Core) : (s.modCore k f).quayPs = s.quayPs := rfl

/-! `modRegion` changes `region`. -/

@[simp] theorem modRegion_pending (s : State) (k : Nat) (f : Region → Region) : (s.modRegion k f).pending = s.pending := rfl
@[simp] theorem modRegion_clk (s : State) (k : Nat) (f : Region → Region) : (s.modRegion k f).clk = s.clk := rfl
@[simp] theorem modRegion_build (s : State) (k : Nat) (f : Region → Region) : (s.modRegion k f).build = s.build := rfl
@[simp] theorem modRegion_reg (s : State) (k : Nat) (f : Region → Region) : (s.modRegion k f).reg = s.reg := rfl
@[simp] theorem modRegion_core (s : State) (k : Nat) (f : Region → Region) : (s.modRegion k f).core = s.core := rfl
@[simp] theorem modRegion_region (s : State) (k : Nat) (f : Region → Region) : (s.modRegion k f).region = Tab.put s.region k (f (s.getRegion k)) := rfl
@[simp] theorem modRegion_ctx (s : State) (k : Nat) (f : Region → Region) : (s.modRegion k f).ctx = s.ctx := rfl
@[simp] theorem modRegion_queue (s : State) (k : Nat) (f : Region → Region) : (s.modRegion k f).queue = s.queue := rfl
@[simp] theorem modRegion_bbol (s : State) (k : Nat) (f : Region → Region) : (s.modRegion k f).bbol = s.bbol := rfl
@[simp] theorem modRegion_hostMem (s : State) (k : Nat) (f : Region → Region) : (s.modRegion k f).hostMem = s.hostMem := rfl
@[simp] theorem modRegion_devMem (s : State) (k : Nat) (f : Region → Region) : (s.modRegion k f).devMem = s.devMem := rfl
@[simp] theorem modRegion_rdata (s : State) (k : Nat) (f : Region → Region) : (s.modRegion k f).rdata = s.rdata := rfl
@[simp] theorem modRegion_flog (s : State) (k : Nat) (f : Region → Region) : (s.modRegion k f).flog = s.flog := rfl
@[simp] theorem modRegion_inReset (s : State) (k : Nat) (f : Region → Region) : (s.modRegion k f).inReset = s.inReset := rfl
@[simp] theorem modRegion_quiet (s : State) (k : Nat) (f : Region → Region) : (s.modRegion k f).quiet = s.quiet := rfl
@[simp] theorem modRegion_staged (s : State) (k : Nat) (f : Region → Region) : (s.modRegion k f).staged = s.staged := rfl
@[simp] theorem modRegion_latched (s : State) (k : Nat) (f : Region → Region) : (s.modRegion k f).latched = s.latched := rfl
@[simp] theorem modRegion_select (s : State) (k : Nat) (f : Region → Region) : (s.modRegion k f).select = s.select := rfl
@[simp] theorem modRegion_quays (s : State) (k : Nat) (f : Region → Region) : (s.modRegion k f).quays = s.quays := rfl
@[simp] theorem modRegion_remote (s : State) (k : Nat) (f : Region → Region) : (s.modRegion k f).remote = s.remote := rfl
@[simp] theorem modRegion_nextId (s : State) (k : Nat) (f : Region → Region) : (s.modRegion k f).nextId = s.nextId := rfl
@[simp] theorem modRegion_bbolIn (s : State) (k : Nat) (f : Region → Region) : (s.modRegion k f).bbolIn = s.bbolIn := rfl
@[simp] theorem modRegion_bbolNow (s : State) (k : Nat) (f : Region → Region) : (s.modRegion k f).bbolNow = s.bbolNow := rfl
@[simp] theorem modRegion_carve (s : State) (k : Nat) (f : Region → Region) : (s.modRegion k f).carve = s.carve := rfl
@[simp] theorem modRegion_net (s : State) (k : Nat) (f : Region → Region) : (s.modRegion k f).net = s.net := rfl
@[simp] theorem modRegion_nextPkt (s : State) (k : Nat) (f : Region → Region) : (s.modRegion k f).nextPkt = s.nextPkt := rfl
@[simp] theorem modRegion_wir (s : State) (k : Nat) (f : Region → Region) : (s.modRegion k f).wir = s.wir := rfl
@[simp] theorem modRegion_tapIr (s : State) (k : Nat) (f : Region → Region) : (s.modRegion k f).tapIr = s.tapIr := rfl
@[simp] theorem modRegion_boundary (s : State) (k : Nat) (f : Region → Region) : (s.modRegion k f).boundary = s.boundary := rfl
@[simp] theorem modRegion_rtWas (s : State) (k : Nat) (f : Region → Region) : (s.modRegion k f).rtWas = s.rtWas := rfl
@[simp] theorem modRegion_retired (s : State) (k : Nat) (f : Region → Region) : (s.modRegion k f).retired = s.retired := rfl
@[simp] theorem modRegion_share (s : State) (k : Nat) (f : Region → Region) : (s.modRegion k f).share = s.share := rfl
@[simp] theorem modRegion_once (s : State) (k : Nat) (f : Region → Region) : (s.modRegion k f).once = s.once := rfl
@[simp] theorem modRegion_subst (s : State) (k : Nat) (f : Region → Region) : (s.modRegion k f).subst = s.subst := rfl
@[simp] theorem modRegion_groups (s : State) (k : Nat) (f : Region → Region) : (s.modRegion k f).groups = s.groups := rfl
@[simp] theorem modRegion_wload (s : State) (k : Nat) (f : Region → Region) : (s.modRegion k f).wload = s.wload := rfl
@[simp] theorem modRegion_pilot (s : State) (k : Nat) (f : Region → Region) : (s.modRegion k f).pilot = s.pilot := rfl
@[simp] theorem modRegion_boot (s : State) (k : Nat) (f : Region → Region) : (s.modRegion k f).boot = s.boot := rfl
@[simp] theorem modRegion_update (s : State) (k : Nat) (f : Region → Region) : (s.modRegion k f).update = s.update := rfl
@[simp] theorem modRegion_link (s : State) (k : Nat) (f : Region → Region) : (s.modRegion k f).link = s.link := rfl
@[simp] theorem modRegion_convoy (s : State) (k : Nat) (f : Region → Region) : (s.modRegion k f).convoy = s.convoy := rfl
@[simp] theorem modRegion_capStamp (s : State) (k : Nat) (f : Region → Region) : (s.modRegion k f).capStamp = s.capStamp := rfl
@[simp] theorem modRegion_scan (s : State) (k : Nat) (f : Region → Region) : (s.modRegion k f).scan = s.scan := rfl
@[simp] theorem modRegion_lifeline (s : State) (k : Nat) (f : Region → Region) : (s.modRegion k f).lifeline = s.lifeline := rfl
@[simp] theorem modRegion_lifelineAt (s : State) (k : Nat) (f : Region → Region) : (s.modRegion k f).lifelineAt = s.lifelineAt := rfl
@[simp] theorem modRegion_testEn (s : State) (k : Nat) (f : Region → Region) : (s.modRegion k f).testEn = s.testEn := rfl
@[simp] theorem modRegion_slipMode (s : State) (k : Nat) (f : Region → Region) : (s.modRegion k f).slipMode = s.slipMode := rfl
@[simp] theorem modRegion_rootKey (s : State) (k : Nat) (f : Region → Region) : (s.modRegion k f).rootKey = s.rootKey := rfl
@[simp] theorem modRegion_uniqueId (s : State) (k : Nat) (f : Region → Region) : (s.modRegion k f).uniqueId = s.uniqueId := rfl
@[simp] theorem modRegion_quayPs (s : State) (k : Nat) (f : Region → Region) : (s.modRegion k f).quayPs = s.quayPs := rfl

/-! `modCtx` changes `ctx`. -/

@[simp] theorem modCtx_pending (s : State) (k : Nat) (f : Ctx → Ctx) : (s.modCtx k f).pending = s.pending := rfl
@[simp] theorem modCtx_clk (s : State) (k : Nat) (f : Ctx → Ctx) : (s.modCtx k f).clk = s.clk := rfl
@[simp] theorem modCtx_build (s : State) (k : Nat) (f : Ctx → Ctx) : (s.modCtx k f).build = s.build := rfl
@[simp] theorem modCtx_reg (s : State) (k : Nat) (f : Ctx → Ctx) : (s.modCtx k f).reg = s.reg := rfl
@[simp] theorem modCtx_core (s : State) (k : Nat) (f : Ctx → Ctx) : (s.modCtx k f).core = s.core := rfl
@[simp] theorem modCtx_region (s : State) (k : Nat) (f : Ctx → Ctx) : (s.modCtx k f).region = s.region := rfl
@[simp] theorem modCtx_ctx (s : State) (k : Nat) (f : Ctx → Ctx) : (s.modCtx k f).ctx = Tab.put s.ctx k (f (s.getCtx k)) := rfl
@[simp] theorem modCtx_queue (s : State) (k : Nat) (f : Ctx → Ctx) : (s.modCtx k f).queue = s.queue := rfl
@[simp] theorem modCtx_bbol (s : State) (k : Nat) (f : Ctx → Ctx) : (s.modCtx k f).bbol = s.bbol := rfl
@[simp] theorem modCtx_hostMem (s : State) (k : Nat) (f : Ctx → Ctx) : (s.modCtx k f).hostMem = s.hostMem := rfl
@[simp] theorem modCtx_devMem (s : State) (k : Nat) (f : Ctx → Ctx) : (s.modCtx k f).devMem = s.devMem := rfl
@[simp] theorem modCtx_rdata (s : State) (k : Nat) (f : Ctx → Ctx) : (s.modCtx k f).rdata = s.rdata := rfl
@[simp] theorem modCtx_flog (s : State) (k : Nat) (f : Ctx → Ctx) : (s.modCtx k f).flog = s.flog := rfl
@[simp] theorem modCtx_inReset (s : State) (k : Nat) (f : Ctx → Ctx) : (s.modCtx k f).inReset = s.inReset := rfl
@[simp] theorem modCtx_quiet (s : State) (k : Nat) (f : Ctx → Ctx) : (s.modCtx k f).quiet = s.quiet := rfl
@[simp] theorem modCtx_staged (s : State) (k : Nat) (f : Ctx → Ctx) : (s.modCtx k f).staged = s.staged := rfl
@[simp] theorem modCtx_latched (s : State) (k : Nat) (f : Ctx → Ctx) : (s.modCtx k f).latched = s.latched := rfl
@[simp] theorem modCtx_select (s : State) (k : Nat) (f : Ctx → Ctx) : (s.modCtx k f).select = s.select := rfl
@[simp] theorem modCtx_quays (s : State) (k : Nat) (f : Ctx → Ctx) : (s.modCtx k f).quays = s.quays := rfl
@[simp] theorem modCtx_remote (s : State) (k : Nat) (f : Ctx → Ctx) : (s.modCtx k f).remote = s.remote := rfl
@[simp] theorem modCtx_nextId (s : State) (k : Nat) (f : Ctx → Ctx) : (s.modCtx k f).nextId = s.nextId := rfl
@[simp] theorem modCtx_bbolIn (s : State) (k : Nat) (f : Ctx → Ctx) : (s.modCtx k f).bbolIn = s.bbolIn := rfl
@[simp] theorem modCtx_bbolNow (s : State) (k : Nat) (f : Ctx → Ctx) : (s.modCtx k f).bbolNow = s.bbolNow := rfl
@[simp] theorem modCtx_carve (s : State) (k : Nat) (f : Ctx → Ctx) : (s.modCtx k f).carve = s.carve := rfl
@[simp] theorem modCtx_net (s : State) (k : Nat) (f : Ctx → Ctx) : (s.modCtx k f).net = s.net := rfl
@[simp] theorem modCtx_nextPkt (s : State) (k : Nat) (f : Ctx → Ctx) : (s.modCtx k f).nextPkt = s.nextPkt := rfl
@[simp] theorem modCtx_wir (s : State) (k : Nat) (f : Ctx → Ctx) : (s.modCtx k f).wir = s.wir := rfl
@[simp] theorem modCtx_tapIr (s : State) (k : Nat) (f : Ctx → Ctx) : (s.modCtx k f).tapIr = s.tapIr := rfl
@[simp] theorem modCtx_boundary (s : State) (k : Nat) (f : Ctx → Ctx) : (s.modCtx k f).boundary = s.boundary := rfl
@[simp] theorem modCtx_rtWas (s : State) (k : Nat) (f : Ctx → Ctx) : (s.modCtx k f).rtWas = s.rtWas := rfl
@[simp] theorem modCtx_retired (s : State) (k : Nat) (f : Ctx → Ctx) : (s.modCtx k f).retired = s.retired := rfl
@[simp] theorem modCtx_share (s : State) (k : Nat) (f : Ctx → Ctx) : (s.modCtx k f).share = s.share := rfl
@[simp] theorem modCtx_once (s : State) (k : Nat) (f : Ctx → Ctx) : (s.modCtx k f).once = s.once := rfl
@[simp] theorem modCtx_subst (s : State) (k : Nat) (f : Ctx → Ctx) : (s.modCtx k f).subst = s.subst := rfl
@[simp] theorem modCtx_groups (s : State) (k : Nat) (f : Ctx → Ctx) : (s.modCtx k f).groups = s.groups := rfl
@[simp] theorem modCtx_wload (s : State) (k : Nat) (f : Ctx → Ctx) : (s.modCtx k f).wload = s.wload := rfl
@[simp] theorem modCtx_pilot (s : State) (k : Nat) (f : Ctx → Ctx) : (s.modCtx k f).pilot = s.pilot := rfl
@[simp] theorem modCtx_boot (s : State) (k : Nat) (f : Ctx → Ctx) : (s.modCtx k f).boot = s.boot := rfl
@[simp] theorem modCtx_update (s : State) (k : Nat) (f : Ctx → Ctx) : (s.modCtx k f).update = s.update := rfl
@[simp] theorem modCtx_link (s : State) (k : Nat) (f : Ctx → Ctx) : (s.modCtx k f).link = s.link := rfl
@[simp] theorem modCtx_convoy (s : State) (k : Nat) (f : Ctx → Ctx) : (s.modCtx k f).convoy = s.convoy := rfl
@[simp] theorem modCtx_capStamp (s : State) (k : Nat) (f : Ctx → Ctx) : (s.modCtx k f).capStamp = s.capStamp := rfl
@[simp] theorem modCtx_scan (s : State) (k : Nat) (f : Ctx → Ctx) : (s.modCtx k f).scan = s.scan := rfl
@[simp] theorem modCtx_lifeline (s : State) (k : Nat) (f : Ctx → Ctx) : (s.modCtx k f).lifeline = s.lifeline := rfl
@[simp] theorem modCtx_lifelineAt (s : State) (k : Nat) (f : Ctx → Ctx) : (s.modCtx k f).lifelineAt = s.lifelineAt := rfl
@[simp] theorem modCtx_testEn (s : State) (k : Nat) (f : Ctx → Ctx) : (s.modCtx k f).testEn = s.testEn := rfl
@[simp] theorem modCtx_slipMode (s : State) (k : Nat) (f : Ctx → Ctx) : (s.modCtx k f).slipMode = s.slipMode := rfl
@[simp] theorem modCtx_rootKey (s : State) (k : Nat) (f : Ctx → Ctx) : (s.modCtx k f).rootKey = s.rootKey := rfl
@[simp] theorem modCtx_uniqueId (s : State) (k : Nat) (f : Ctx → Ctx) : (s.modCtx k f).uniqueId = s.uniqueId := rfl
@[simp] theorem modCtx_quayPs (s : State) (k : Nat) (f : Ctx → Ctx) : (s.modCtx k f).quayPs = s.quayPs := rfl

/-! `modQueue` changes `queue`. -/

@[simp] theorem modQueue_pending (s : State) (k : Nat) (f : Queue → Queue) : (s.modQueue k f).pending = s.pending := rfl
@[simp] theorem modQueue_clk (s : State) (k : Nat) (f : Queue → Queue) : (s.modQueue k f).clk = s.clk := rfl
@[simp] theorem modQueue_build (s : State) (k : Nat) (f : Queue → Queue) : (s.modQueue k f).build = s.build := rfl
@[simp] theorem modQueue_reg (s : State) (k : Nat) (f : Queue → Queue) : (s.modQueue k f).reg = s.reg := rfl
@[simp] theorem modQueue_core (s : State) (k : Nat) (f : Queue → Queue) : (s.modQueue k f).core = s.core := rfl
@[simp] theorem modQueue_region (s : State) (k : Nat) (f : Queue → Queue) : (s.modQueue k f).region = s.region := rfl
@[simp] theorem modQueue_ctx (s : State) (k : Nat) (f : Queue → Queue) : (s.modQueue k f).ctx = s.ctx := rfl
@[simp] theorem modQueue_queue (s : State) (k : Nat) (f : Queue → Queue) : (s.modQueue k f).queue = Tab.put s.queue k (f (s.getQueue k)) := rfl
@[simp] theorem modQueue_bbol (s : State) (k : Nat) (f : Queue → Queue) : (s.modQueue k f).bbol = s.bbol := rfl
@[simp] theorem modQueue_hostMem (s : State) (k : Nat) (f : Queue → Queue) : (s.modQueue k f).hostMem = s.hostMem := rfl
@[simp] theorem modQueue_devMem (s : State) (k : Nat) (f : Queue → Queue) : (s.modQueue k f).devMem = s.devMem := rfl
@[simp] theorem modQueue_rdata (s : State) (k : Nat) (f : Queue → Queue) : (s.modQueue k f).rdata = s.rdata := rfl
@[simp] theorem modQueue_flog (s : State) (k : Nat) (f : Queue → Queue) : (s.modQueue k f).flog = s.flog := rfl
@[simp] theorem modQueue_inReset (s : State) (k : Nat) (f : Queue → Queue) : (s.modQueue k f).inReset = s.inReset := rfl
@[simp] theorem modQueue_quiet (s : State) (k : Nat) (f : Queue → Queue) : (s.modQueue k f).quiet = s.quiet := rfl
@[simp] theorem modQueue_staged (s : State) (k : Nat) (f : Queue → Queue) : (s.modQueue k f).staged = s.staged := rfl
@[simp] theorem modQueue_latched (s : State) (k : Nat) (f : Queue → Queue) : (s.modQueue k f).latched = s.latched := rfl
@[simp] theorem modQueue_select (s : State) (k : Nat) (f : Queue → Queue) : (s.modQueue k f).select = s.select := rfl
@[simp] theorem modQueue_quays (s : State) (k : Nat) (f : Queue → Queue) : (s.modQueue k f).quays = s.quays := rfl
@[simp] theorem modQueue_remote (s : State) (k : Nat) (f : Queue → Queue) : (s.modQueue k f).remote = s.remote := rfl
@[simp] theorem modQueue_nextId (s : State) (k : Nat) (f : Queue → Queue) : (s.modQueue k f).nextId = s.nextId := rfl
@[simp] theorem modQueue_bbolIn (s : State) (k : Nat) (f : Queue → Queue) : (s.modQueue k f).bbolIn = s.bbolIn := rfl
@[simp] theorem modQueue_bbolNow (s : State) (k : Nat) (f : Queue → Queue) : (s.modQueue k f).bbolNow = s.bbolNow := rfl
@[simp] theorem modQueue_carve (s : State) (k : Nat) (f : Queue → Queue) : (s.modQueue k f).carve = s.carve := rfl
@[simp] theorem modQueue_net (s : State) (k : Nat) (f : Queue → Queue) : (s.modQueue k f).net = s.net := rfl
@[simp] theorem modQueue_nextPkt (s : State) (k : Nat) (f : Queue → Queue) : (s.modQueue k f).nextPkt = s.nextPkt := rfl
@[simp] theorem modQueue_wir (s : State) (k : Nat) (f : Queue → Queue) : (s.modQueue k f).wir = s.wir := rfl
@[simp] theorem modQueue_tapIr (s : State) (k : Nat) (f : Queue → Queue) : (s.modQueue k f).tapIr = s.tapIr := rfl
@[simp] theorem modQueue_boundary (s : State) (k : Nat) (f : Queue → Queue) : (s.modQueue k f).boundary = s.boundary := rfl
@[simp] theorem modQueue_rtWas (s : State) (k : Nat) (f : Queue → Queue) : (s.modQueue k f).rtWas = s.rtWas := rfl
@[simp] theorem modQueue_retired (s : State) (k : Nat) (f : Queue → Queue) : (s.modQueue k f).retired = s.retired := rfl
@[simp] theorem modQueue_share (s : State) (k : Nat) (f : Queue → Queue) : (s.modQueue k f).share = s.share := rfl
@[simp] theorem modQueue_once (s : State) (k : Nat) (f : Queue → Queue) : (s.modQueue k f).once = s.once := rfl
@[simp] theorem modQueue_subst (s : State) (k : Nat) (f : Queue → Queue) : (s.modQueue k f).subst = s.subst := rfl
@[simp] theorem modQueue_groups (s : State) (k : Nat) (f : Queue → Queue) : (s.modQueue k f).groups = s.groups := rfl
@[simp] theorem modQueue_wload (s : State) (k : Nat) (f : Queue → Queue) : (s.modQueue k f).wload = s.wload := rfl
@[simp] theorem modQueue_pilot (s : State) (k : Nat) (f : Queue → Queue) : (s.modQueue k f).pilot = s.pilot := rfl
@[simp] theorem modQueue_boot (s : State) (k : Nat) (f : Queue → Queue) : (s.modQueue k f).boot = s.boot := rfl
@[simp] theorem modQueue_update (s : State) (k : Nat) (f : Queue → Queue) : (s.modQueue k f).update = s.update := rfl
@[simp] theorem modQueue_link (s : State) (k : Nat) (f : Queue → Queue) : (s.modQueue k f).link = s.link := rfl
@[simp] theorem modQueue_convoy (s : State) (k : Nat) (f : Queue → Queue) : (s.modQueue k f).convoy = s.convoy := rfl
@[simp] theorem modQueue_capStamp (s : State) (k : Nat) (f : Queue → Queue) : (s.modQueue k f).capStamp = s.capStamp := rfl
@[simp] theorem modQueue_scan (s : State) (k : Nat) (f : Queue → Queue) : (s.modQueue k f).scan = s.scan := rfl
@[simp] theorem modQueue_lifeline (s : State) (k : Nat) (f : Queue → Queue) : (s.modQueue k f).lifeline = s.lifeline := rfl
@[simp] theorem modQueue_lifelineAt (s : State) (k : Nat) (f : Queue → Queue) : (s.modQueue k f).lifelineAt = s.lifelineAt := rfl
@[simp] theorem modQueue_testEn (s : State) (k : Nat) (f : Queue → Queue) : (s.modQueue k f).testEn = s.testEn := rfl
@[simp] theorem modQueue_slipMode (s : State) (k : Nat) (f : Queue → Queue) : (s.modQueue k f).slipMode = s.slipMode := rfl
@[simp] theorem modQueue_rootKey (s : State) (k : Nat) (f : Queue → Queue) : (s.modQueue k f).rootKey = s.rootKey := rfl
@[simp] theorem modQueue_uniqueId (s : State) (k : Nat) (f : Queue → Queue) : (s.modQueue k f).uniqueId = s.uniqueId := rfl
@[simp] theorem modQueue_quayPs (s : State) (k : Nat) (f : Queue → Queue) : (s.modQueue k f).quayPs = s.quayPs := rfl

/-! `give` changes `rdata`. -/

@[simp] theorem give_pending (s : State) (p : Party) (v : Word) : (s.give p v).pending = s.pending := rfl
@[simp] theorem give_clk (s : State) (p : Party) (v : Word) : (s.give p v).clk = s.clk := rfl
@[simp] theorem give_build (s : State) (p : Party) (v : Word) : (s.give p v).build = s.build := rfl
@[simp] theorem give_reg (s : State) (p : Party) (v : Word) : (s.give p v).reg = s.reg := rfl
@[simp] theorem give_core (s : State) (p : Party) (v : Word) : (s.give p v).core = s.core := rfl
@[simp] theorem give_region (s : State) (p : Party) (v : Word) : (s.give p v).region = s.region := rfl
@[simp] theorem give_ctx (s : State) (p : Party) (v : Word) : (s.give p v).ctx = s.ctx := rfl
@[simp] theorem give_queue (s : State) (p : Party) (v : Word) : (s.give p v).queue = s.queue := rfl
@[simp] theorem give_bbol (s : State) (p : Party) (v : Word) : (s.give p v).bbol = s.bbol := rfl
@[simp] theorem give_hostMem (s : State) (p : Party) (v : Word) : (s.give p v).hostMem = s.hostMem := rfl
@[simp] theorem give_devMem (s : State) (p : Party) (v : Word) : (s.give p v).devMem = s.devMem := rfl
@[simp] theorem give_rdata (s : State) (p : Party) (v : Word) : (s.give p v).rdata = Tab.put s.rdata (partyNo p) v := rfl
@[simp] theorem give_flog (s : State) (p : Party) (v : Word) : (s.give p v).flog = s.flog := rfl
@[simp] theorem give_inReset (s : State) (p : Party) (v : Word) : (s.give p v).inReset = s.inReset := rfl
@[simp] theorem give_quiet (s : State) (p : Party) (v : Word) : (s.give p v).quiet = s.quiet := rfl
@[simp] theorem give_staged (s : State) (p : Party) (v : Word) : (s.give p v).staged = s.staged := rfl
@[simp] theorem give_latched (s : State) (p : Party) (v : Word) : (s.give p v).latched = s.latched := rfl
@[simp] theorem give_select (s : State) (p : Party) (v : Word) : (s.give p v).select = s.select := rfl
@[simp] theorem give_quays (s : State) (p : Party) (v : Word) : (s.give p v).quays = s.quays := rfl
@[simp] theorem give_remote (s : State) (p : Party) (v : Word) : (s.give p v).remote = s.remote := rfl
@[simp] theorem give_nextId (s : State) (p : Party) (v : Word) : (s.give p v).nextId = s.nextId := rfl
@[simp] theorem give_bbolIn (s : State) (p : Party) (v : Word) : (s.give p v).bbolIn = s.bbolIn := rfl
@[simp] theorem give_bbolNow (s : State) (p : Party) (v : Word) : (s.give p v).bbolNow = s.bbolNow := rfl
@[simp] theorem give_carve (s : State) (p : Party) (v : Word) : (s.give p v).carve = s.carve := rfl
@[simp] theorem give_net (s : State) (p : Party) (v : Word) : (s.give p v).net = s.net := rfl
@[simp] theorem give_nextPkt (s : State) (p : Party) (v : Word) : (s.give p v).nextPkt = s.nextPkt := rfl
@[simp] theorem give_wir (s : State) (p : Party) (v : Word) : (s.give p v).wir = s.wir := rfl
@[simp] theorem give_tapIr (s : State) (p : Party) (v : Word) : (s.give p v).tapIr = s.tapIr := rfl
@[simp] theorem give_boundary (s : State) (p : Party) (v : Word) : (s.give p v).boundary = s.boundary := rfl
@[simp] theorem give_rtWas (s : State) (p : Party) (v : Word) : (s.give p v).rtWas = s.rtWas := rfl
@[simp] theorem give_retired (s : State) (p : Party) (v : Word) : (s.give p v).retired = s.retired := rfl
@[simp] theorem give_share (s : State) (p : Party) (v : Word) : (s.give p v).share = s.share := rfl
@[simp] theorem give_once (s : State) (p : Party) (v : Word) : (s.give p v).once = s.once := rfl
@[simp] theorem give_subst (s : State) (p : Party) (v : Word) : (s.give p v).subst = s.subst := rfl
@[simp] theorem give_groups (s : State) (p : Party) (v : Word) : (s.give p v).groups = s.groups := rfl
@[simp] theorem give_wload (s : State) (p : Party) (v : Word) : (s.give p v).wload = s.wload := rfl
@[simp] theorem give_pilot (s : State) (p : Party) (v : Word) : (s.give p v).pilot = s.pilot := rfl
@[simp] theorem give_boot (s : State) (p : Party) (v : Word) : (s.give p v).boot = s.boot := rfl
@[simp] theorem give_update (s : State) (p : Party) (v : Word) : (s.give p v).update = s.update := rfl
@[simp] theorem give_link (s : State) (p : Party) (v : Word) : (s.give p v).link = s.link := rfl
@[simp] theorem give_convoy (s : State) (p : Party) (v : Word) : (s.give p v).convoy = s.convoy := rfl
@[simp] theorem give_capStamp (s : State) (p : Party) (v : Word) : (s.give p v).capStamp = s.capStamp := rfl
@[simp] theorem give_scan (s : State) (p : Party) (v : Word) : (s.give p v).scan = s.scan := rfl
@[simp] theorem give_lifeline (s : State) (p : Party) (v : Word) : (s.give p v).lifeline = s.lifeline := rfl
@[simp] theorem give_lifelineAt (s : State) (p : Party) (v : Word) : (s.give p v).lifelineAt = s.lifelineAt := rfl
@[simp] theorem give_testEn (s : State) (p : Party) (v : Word) : (s.give p v).testEn = s.testEn := rfl
@[simp] theorem give_slipMode (s : State) (p : Party) (v : Word) : (s.give p v).slipMode = s.slipMode := rfl
@[simp] theorem give_rootKey (s : State) (p : Party) (v : Word) : (s.give p v).rootKey = s.rootKey := rfl
@[simp] theorem give_uniqueId (s : State) (p : Party) (v : Word) : (s.give p v).uniqueId = s.uniqueId := rfl
@[simp] theorem give_quayPs (s : State) (p : Party) (v : Word) : (s.give p v).quayPs = s.quayPs := rfl

/-! `setSel` changes `select`. -/

@[simp] theorem setSel_pending (s : State) (p : Party) (a : Nat) (v : Word) : (s.setSel p a v).pending = s.pending := rfl
@[simp] theorem setSel_clk (s : State) (p : Party) (a : Nat) (v : Word) : (s.setSel p a v).clk = s.clk := rfl
@[simp] theorem setSel_build (s : State) (p : Party) (a : Nat) (v : Word) : (s.setSel p a v).build = s.build := rfl
@[simp] theorem setSel_reg (s : State) (p : Party) (a : Nat) (v : Word) : (s.setSel p a v).reg = s.reg := rfl
@[simp] theorem setSel_core (s : State) (p : Party) (a : Nat) (v : Word) : (s.setSel p a v).core = s.core := rfl
@[simp] theorem setSel_region (s : State) (p : Party) (a : Nat) (v : Word) : (s.setSel p a v).region = s.region := rfl
@[simp] theorem setSel_ctx (s : State) (p : Party) (a : Nat) (v : Word) : (s.setSel p a v).ctx = s.ctx := rfl
@[simp] theorem setSel_queue (s : State) (p : Party) (a : Nat) (v : Word) : (s.setSel p a v).queue = s.queue := rfl
@[simp] theorem setSel_bbol (s : State) (p : Party) (a : Nat) (v : Word) : (s.setSel p a v).bbol = s.bbol := rfl
@[simp] theorem setSel_hostMem (s : State) (p : Party) (a : Nat) (v : Word) : (s.setSel p a v).hostMem = s.hostMem := rfl
@[simp] theorem setSel_devMem (s : State) (p : Party) (a : Nat) (v : Word) : (s.setSel p a v).devMem = s.devMem := rfl
@[simp] theorem setSel_rdata (s : State) (p : Party) (a : Nat) (v : Word) : (s.setSel p a v).rdata = s.rdata := rfl
@[simp] theorem setSel_flog (s : State) (p : Party) (a : Nat) (v : Word) : (s.setSel p a v).flog = s.flog := rfl
@[simp] theorem setSel_inReset (s : State) (p : Party) (a : Nat) (v : Word) : (s.setSel p a v).inReset = s.inReset := rfl
@[simp] theorem setSel_quiet (s : State) (p : Party) (a : Nat) (v : Word) : (s.setSel p a v).quiet = s.quiet := rfl
@[simp] theorem setSel_staged (s : State) (p : Party) (a : Nat) (v : Word) : (s.setSel p a v).staged = s.staged := rfl
@[simp] theorem setSel_latched (s : State) (p : Party) (a : Nat) (v : Word) : (s.setSel p a v).latched = s.latched := rfl
@[simp] theorem setSel_select (s : State) (p : Party) (a : Nat) (v : Word) : (s.setSel p a v).select = Tab.put s.select (own p a) v := rfl
@[simp] theorem setSel_quays (s : State) (p : Party) (a : Nat) (v : Word) : (s.setSel p a v).quays = s.quays := rfl
@[simp] theorem setSel_remote (s : State) (p : Party) (a : Nat) (v : Word) : (s.setSel p a v).remote = s.remote := rfl
@[simp] theorem setSel_nextId (s : State) (p : Party) (a : Nat) (v : Word) : (s.setSel p a v).nextId = s.nextId := rfl
@[simp] theorem setSel_bbolIn (s : State) (p : Party) (a : Nat) (v : Word) : (s.setSel p a v).bbolIn = s.bbolIn := rfl
@[simp] theorem setSel_bbolNow (s : State) (p : Party) (a : Nat) (v : Word) : (s.setSel p a v).bbolNow = s.bbolNow := rfl
@[simp] theorem setSel_carve (s : State) (p : Party) (a : Nat) (v : Word) : (s.setSel p a v).carve = s.carve := rfl
@[simp] theorem setSel_net (s : State) (p : Party) (a : Nat) (v : Word) : (s.setSel p a v).net = s.net := rfl
@[simp] theorem setSel_nextPkt (s : State) (p : Party) (a : Nat) (v : Word) : (s.setSel p a v).nextPkt = s.nextPkt := rfl
@[simp] theorem setSel_wir (s : State) (p : Party) (a : Nat) (v : Word) : (s.setSel p a v).wir = s.wir := rfl
@[simp] theorem setSel_tapIr (s : State) (p : Party) (a : Nat) (v : Word) : (s.setSel p a v).tapIr = s.tapIr := rfl
@[simp] theorem setSel_boundary (s : State) (p : Party) (a : Nat) (v : Word) : (s.setSel p a v).boundary = s.boundary := rfl
@[simp] theorem setSel_rtWas (s : State) (p : Party) (a : Nat) (v : Word) : (s.setSel p a v).rtWas = s.rtWas := rfl
@[simp] theorem setSel_retired (s : State) (p : Party) (a : Nat) (v : Word) : (s.setSel p a v).retired = s.retired := rfl
@[simp] theorem setSel_share (s : State) (p : Party) (a : Nat) (v : Word) : (s.setSel p a v).share = s.share := rfl
@[simp] theorem setSel_once (s : State) (p : Party) (a : Nat) (v : Word) : (s.setSel p a v).once = s.once := rfl
@[simp] theorem setSel_subst (s : State) (p : Party) (a : Nat) (v : Word) : (s.setSel p a v).subst = s.subst := rfl
@[simp] theorem setSel_groups (s : State) (p : Party) (a : Nat) (v : Word) : (s.setSel p a v).groups = s.groups := rfl
@[simp] theorem setSel_wload (s : State) (p : Party) (a : Nat) (v : Word) : (s.setSel p a v).wload = s.wload := rfl
@[simp] theorem setSel_pilot (s : State) (p : Party) (a : Nat) (v : Word) : (s.setSel p a v).pilot = s.pilot := rfl
@[simp] theorem setSel_boot (s : State) (p : Party) (a : Nat) (v : Word) : (s.setSel p a v).boot = s.boot := rfl
@[simp] theorem setSel_update (s : State) (p : Party) (a : Nat) (v : Word) : (s.setSel p a v).update = s.update := rfl
@[simp] theorem setSel_link (s : State) (p : Party) (a : Nat) (v : Word) : (s.setSel p a v).link = s.link := rfl
@[simp] theorem setSel_convoy (s : State) (p : Party) (a : Nat) (v : Word) : (s.setSel p a v).convoy = s.convoy := rfl
@[simp] theorem setSel_capStamp (s : State) (p : Party) (a : Nat) (v : Word) : (s.setSel p a v).capStamp = s.capStamp := rfl
@[simp] theorem setSel_scan (s : State) (p : Party) (a : Nat) (v : Word) : (s.setSel p a v).scan = s.scan := rfl
@[simp] theorem setSel_lifeline (s : State) (p : Party) (a : Nat) (v : Word) : (s.setSel p a v).lifeline = s.lifeline := rfl
@[simp] theorem setSel_lifelineAt (s : State) (p : Party) (a : Nat) (v : Word) : (s.setSel p a v).lifelineAt = s.lifelineAt := rfl
@[simp] theorem setSel_testEn (s : State) (p : Party) (a : Nat) (v : Word) : (s.setSel p a v).testEn = s.testEn := rfl
@[simp] theorem setSel_slipMode (s : State) (p : Party) (a : Nat) (v : Word) : (s.setSel p a v).slipMode = s.slipMode := rfl
@[simp] theorem setSel_rootKey (s : State) (p : Party) (a : Nat) (v : Word) : (s.setSel p a v).rootKey = s.rootKey := rfl
@[simp] theorem setSel_uniqueId (s : State) (p : Party) (a : Nat) (v : Word) : (s.setSel p a v).uniqueId = s.uniqueId := rfl
@[simp] theorem setSel_quayPs (s : State) (p : Party) (a : Nat) (v : Word) : (s.setSel p a v).quayPs = s.quayPs := rfl

/-! `stageLo` changes `staged`. -/

@[simp] theorem stageLo_pending (s : State) (p : Party) (a : Nat) (v : Word) : (s.stageLo p a v).pending = s.pending := rfl
@[simp] theorem stageLo_clk (s : State) (p : Party) (a : Nat) (v : Word) : (s.stageLo p a v).clk = s.clk := rfl
@[simp] theorem stageLo_build (s : State) (p : Party) (a : Nat) (v : Word) : (s.stageLo p a v).build = s.build := rfl
@[simp] theorem stageLo_reg (s : State) (p : Party) (a : Nat) (v : Word) : (s.stageLo p a v).reg = s.reg := rfl
@[simp] theorem stageLo_core (s : State) (p : Party) (a : Nat) (v : Word) : (s.stageLo p a v).core = s.core := rfl
@[simp] theorem stageLo_region (s : State) (p : Party) (a : Nat) (v : Word) : (s.stageLo p a v).region = s.region := rfl
@[simp] theorem stageLo_ctx (s : State) (p : Party) (a : Nat) (v : Word) : (s.stageLo p a v).ctx = s.ctx := rfl
@[simp] theorem stageLo_queue (s : State) (p : Party) (a : Nat) (v : Word) : (s.stageLo p a v).queue = s.queue := rfl
@[simp] theorem stageLo_bbol (s : State) (p : Party) (a : Nat) (v : Word) : (s.stageLo p a v).bbol = s.bbol := rfl
@[simp] theorem stageLo_hostMem (s : State) (p : Party) (a : Nat) (v : Word) : (s.stageLo p a v).hostMem = s.hostMem := rfl
@[simp] theorem stageLo_devMem (s : State) (p : Party) (a : Nat) (v : Word) : (s.stageLo p a v).devMem = s.devMem := rfl
@[simp] theorem stageLo_rdata (s : State) (p : Party) (a : Nat) (v : Word) : (s.stageLo p a v).rdata = s.rdata := rfl
@[simp] theorem stageLo_flog (s : State) (p : Party) (a : Nat) (v : Word) : (s.stageLo p a v).flog = s.flog := rfl
@[simp] theorem stageLo_inReset (s : State) (p : Party) (a : Nat) (v : Word) : (s.stageLo p a v).inReset = s.inReset := rfl
@[simp] theorem stageLo_quiet (s : State) (p : Party) (a : Nat) (v : Word) : (s.stageLo p a v).quiet = s.quiet := rfl
@[simp] theorem stageLo_staged (s : State) (p : Party) (a : Nat) (v : Word) : (s.stageLo p a v).staged = Tab.put s.staged (own p a) v := rfl
@[simp] theorem stageLo_latched (s : State) (p : Party) (a : Nat) (v : Word) : (s.stageLo p a v).latched = s.latched := rfl
@[simp] theorem stageLo_select (s : State) (p : Party) (a : Nat) (v : Word) : (s.stageLo p a v).select = s.select := rfl
@[simp] theorem stageLo_quays (s : State) (p : Party) (a : Nat) (v : Word) : (s.stageLo p a v).quays = s.quays := rfl
@[simp] theorem stageLo_remote (s : State) (p : Party) (a : Nat) (v : Word) : (s.stageLo p a v).remote = s.remote := rfl
@[simp] theorem stageLo_nextId (s : State) (p : Party) (a : Nat) (v : Word) : (s.stageLo p a v).nextId = s.nextId := rfl
@[simp] theorem stageLo_bbolIn (s : State) (p : Party) (a : Nat) (v : Word) : (s.stageLo p a v).bbolIn = s.bbolIn := rfl
@[simp] theorem stageLo_bbolNow (s : State) (p : Party) (a : Nat) (v : Word) : (s.stageLo p a v).bbolNow = s.bbolNow := rfl
@[simp] theorem stageLo_carve (s : State) (p : Party) (a : Nat) (v : Word) : (s.stageLo p a v).carve = s.carve := rfl
@[simp] theorem stageLo_net (s : State) (p : Party) (a : Nat) (v : Word) : (s.stageLo p a v).net = s.net := rfl
@[simp] theorem stageLo_nextPkt (s : State) (p : Party) (a : Nat) (v : Word) : (s.stageLo p a v).nextPkt = s.nextPkt := rfl
@[simp] theorem stageLo_wir (s : State) (p : Party) (a : Nat) (v : Word) : (s.stageLo p a v).wir = s.wir := rfl
@[simp] theorem stageLo_tapIr (s : State) (p : Party) (a : Nat) (v : Word) : (s.stageLo p a v).tapIr = s.tapIr := rfl
@[simp] theorem stageLo_boundary (s : State) (p : Party) (a : Nat) (v : Word) : (s.stageLo p a v).boundary = s.boundary := rfl
@[simp] theorem stageLo_rtWas (s : State) (p : Party) (a : Nat) (v : Word) : (s.stageLo p a v).rtWas = s.rtWas := rfl
@[simp] theorem stageLo_retired (s : State) (p : Party) (a : Nat) (v : Word) : (s.stageLo p a v).retired = s.retired := rfl
@[simp] theorem stageLo_share (s : State) (p : Party) (a : Nat) (v : Word) : (s.stageLo p a v).share = s.share := rfl
@[simp] theorem stageLo_once (s : State) (p : Party) (a : Nat) (v : Word) : (s.stageLo p a v).once = s.once := rfl
@[simp] theorem stageLo_subst (s : State) (p : Party) (a : Nat) (v : Word) : (s.stageLo p a v).subst = s.subst := rfl
@[simp] theorem stageLo_groups (s : State) (p : Party) (a : Nat) (v : Word) : (s.stageLo p a v).groups = s.groups := rfl
@[simp] theorem stageLo_wload (s : State) (p : Party) (a : Nat) (v : Word) : (s.stageLo p a v).wload = s.wload := rfl
@[simp] theorem stageLo_pilot (s : State) (p : Party) (a : Nat) (v : Word) : (s.stageLo p a v).pilot = s.pilot := rfl
@[simp] theorem stageLo_boot (s : State) (p : Party) (a : Nat) (v : Word) : (s.stageLo p a v).boot = s.boot := rfl
@[simp] theorem stageLo_update (s : State) (p : Party) (a : Nat) (v : Word) : (s.stageLo p a v).update = s.update := rfl
@[simp] theorem stageLo_link (s : State) (p : Party) (a : Nat) (v : Word) : (s.stageLo p a v).link = s.link := rfl
@[simp] theorem stageLo_convoy (s : State) (p : Party) (a : Nat) (v : Word) : (s.stageLo p a v).convoy = s.convoy := rfl
@[simp] theorem stageLo_capStamp (s : State) (p : Party) (a : Nat) (v : Word) : (s.stageLo p a v).capStamp = s.capStamp := rfl
@[simp] theorem stageLo_scan (s : State) (p : Party) (a : Nat) (v : Word) : (s.stageLo p a v).scan = s.scan := rfl
@[simp] theorem stageLo_lifeline (s : State) (p : Party) (a : Nat) (v : Word) : (s.stageLo p a v).lifeline = s.lifeline := rfl
@[simp] theorem stageLo_lifelineAt (s : State) (p : Party) (a : Nat) (v : Word) : (s.stageLo p a v).lifelineAt = s.lifelineAt := rfl
@[simp] theorem stageLo_testEn (s : State) (p : Party) (a : Nat) (v : Word) : (s.stageLo p a v).testEn = s.testEn := rfl
@[simp] theorem stageLo_slipMode (s : State) (p : Party) (a : Nat) (v : Word) : (s.stageLo p a v).slipMode = s.slipMode := rfl
@[simp] theorem stageLo_rootKey (s : State) (p : Party) (a : Nat) (v : Word) : (s.stageLo p a v).rootKey = s.rootKey := rfl
@[simp] theorem stageLo_uniqueId (s : State) (p : Party) (a : Nat) (v : Word) : (s.stageLo p a v).uniqueId = s.uniqueId := rfl
@[simp] theorem stageLo_quayPs (s : State) (p : Party) (a : Nat) (v : Word) : (s.stageLo p a v).quayPs = s.quayPs := rfl

/-! The frames of the commands. -/

@[simp] theorem keep_pending (s t : State) : (s.keep t).pending = s.pending := rfl
@[simp] theorem keep_clk (s t : State) : (s.keep t).clk = t.clk := rfl
@[simp] theorem keep_build (s t : State) : (s.keep t).build = s.build := rfl
@[simp] theorem keep_reg (s t : State) : (s.keep t).reg = t.reg := rfl
@[simp] theorem keep_core (s t : State) : (s.keep t).core = t.core := rfl
@[simp] theorem keep_region (s t : State) : (s.keep t).region = t.region := rfl
@[simp] theorem keep_ctx (s t : State) : (s.keep t).ctx = t.ctx := rfl
@[simp] theorem keep_queue (s t : State) : (s.keep t).queue = t.queue := rfl
@[simp] theorem keep_bbol (s t : State) : (s.keep t).bbol = t.bbol := rfl
@[simp] theorem keep_hostMem (s t : State) : (s.keep t).hostMem = t.hostMem := rfl
@[simp] theorem keep_devMem (s t : State) : (s.keep t).devMem = t.devMem := rfl
@[simp] theorem keep_rdata (s t : State) : (s.keep t).rdata = t.rdata := rfl
@[simp] theorem keep_flog (s t : State) : (s.keep t).flog = t.flog := rfl
@[simp] theorem keep_inReset (s t : State) : (s.keep t).inReset = t.inReset := rfl
@[simp] theorem keep_quiet (s t : State) : (s.keep t).quiet = t.quiet := rfl
@[simp] theorem keep_staged (s t : State) : (s.keep t).staged = t.staged := rfl
@[simp] theorem keep_latched (s t : State) : (s.keep t).latched = t.latched := rfl
@[simp] theorem keep_select (s t : State) : (s.keep t).select = t.select := rfl
@[simp] theorem keep_quays (s t : State) : (s.keep t).quays = t.quays := rfl
@[simp] theorem keep_remote (s t : State) : (s.keep t).remote = t.remote := rfl
@[simp] theorem keep_nextId (s t : State) : (s.keep t).nextId = t.nextId := rfl
@[simp] theorem keep_bbolIn (s t : State) : (s.keep t).bbolIn = t.bbolIn := rfl
@[simp] theorem keep_bbolNow (s t : State) : (s.keep t).bbolNow = t.bbolNow := rfl
@[simp] theorem keep_carve (s t : State) : (s.keep t).carve = t.carve := rfl
@[simp] theorem keep_net (s t : State) : (s.keep t).net = t.net := rfl
@[simp] theorem keep_nextPkt (s t : State) : (s.keep t).nextPkt = t.nextPkt := rfl
@[simp] theorem keep_wir (s t : State) : (s.keep t).wir = t.wir := rfl
@[simp] theorem keep_tapIr (s t : State) : (s.keep t).tapIr = t.tapIr := rfl
@[simp] theorem keep_boundary (s t : State) : (s.keep t).boundary = t.boundary := rfl
@[simp] theorem keep_rtWas (s t : State) : (s.keep t).rtWas = t.rtWas := rfl
@[simp] theorem keep_retired (s t : State) : (s.keep t).retired = t.retired := rfl
@[simp] theorem keep_share (s t : State) : (s.keep t).share = t.share := rfl
@[simp] theorem keep_once (s t : State) : (s.keep t).once = t.once := rfl
@[simp] theorem keep_subst (s t : State) : (s.keep t).subst = t.subst := rfl
@[simp] theorem keep_groups (s t : State) : (s.keep t).groups = t.groups := rfl
@[simp] theorem keep_wload (s t : State) : (s.keep t).wload = t.wload := rfl
@[simp] theorem keep_pilot (s t : State) : (s.keep t).pilot = t.pilot := rfl
@[simp] theorem keep_boot (s t : State) : (s.keep t).boot = t.boot := rfl
@[simp] theorem keep_update (s t : State) : (s.keep t).update = t.update := rfl
@[simp] theorem keep_link (s t : State) : (s.keep t).link = t.link := rfl
@[simp] theorem keep_convoy (s t : State) : (s.keep t).convoy = t.convoy := rfl
@[simp] theorem keep_capStamp (s t : State) : (s.keep t).capStamp = t.capStamp := rfl
@[simp] theorem keep_scan (s t : State) : (s.keep t).scan = t.scan := rfl
@[simp] theorem keep_lifeline (s t : State) : (s.keep t).lifeline = t.lifeline := rfl
@[simp] theorem keep_lifelineAt (s t : State) : (s.keep t).lifelineAt = t.lifelineAt := rfl
@[simp] theorem keep_testEn (s t : State) : (s.keep t).testEn = t.testEn := rfl
@[simp] theorem keep_slipMode (s t : State) : (s.keep t).slipMode = t.slipMode := rfl
@[simp] theorem keep_rootKey (s t : State) : (s.keep t).rootKey = s.rootKey := rfl
@[simp] theorem keep_uniqueId (s t : State) : (s.keep t).uniqueId = s.uniqueId := rfl
@[simp] theorem keep_quayPs (s t : State) : (s.keep t).quayPs = s.quayPs := rfl

@[simp] theorem framed_pending (s t : State) : (s.framed t).pending = s.pending := rfl
@[simp] theorem framed_clk (s t : State) : (s.framed t).clk = s.clk := rfl
@[simp] theorem framed_build (s t : State) : (s.framed t).build = s.build := rfl
@[simp] theorem framed_reg (s t : State) : (s.framed t).reg = t.reg := rfl
@[simp] theorem framed_core (s t : State) : (s.framed t).core = t.core := rfl
@[simp] theorem framed_region (s t : State) : (s.framed t).region = t.region := rfl
@[simp] theorem framed_ctx (s t : State) : (s.framed t).ctx = t.ctx := rfl
@[simp] theorem framed_queue (s t : State) : (s.framed t).queue = t.queue := rfl
@[simp] theorem framed_bbol (s t : State) : (s.framed t).bbol = t.bbol := rfl
@[simp] theorem framed_hostMem (s t : State) : (s.framed t).hostMem = t.hostMem := rfl
@[simp] theorem framed_devMem (s t : State) : (s.framed t).devMem = t.devMem := rfl
@[simp] theorem framed_rdata (s t : State) : (s.framed t).rdata = t.rdata := rfl
@[simp] theorem framed_flog (s t : State) : (s.framed t).flog = t.flog := rfl
@[simp] theorem framed_inReset (s t : State) : (s.framed t).inReset = t.inReset := rfl
@[simp] theorem framed_quiet (s t : State) : (s.framed t).quiet = t.quiet := rfl
@[simp] theorem framed_staged (s t : State) : (s.framed t).staged = t.staged := rfl
@[simp] theorem framed_latched (s t : State) : (s.framed t).latched = t.latched := rfl
@[simp] theorem framed_select (s t : State) : (s.framed t).select = t.select := rfl
@[simp] theorem framed_quays (s t : State) : (s.framed t).quays = t.quays := rfl
@[simp] theorem framed_remote (s t : State) : (s.framed t).remote = t.remote := rfl
@[simp] theorem framed_nextId (s t : State) : (s.framed t).nextId = t.nextId := rfl
@[simp] theorem framed_bbolIn (s t : State) : (s.framed t).bbolIn = t.bbolIn := rfl
@[simp] theorem framed_bbolNow (s t : State) : (s.framed t).bbolNow = t.bbolNow := rfl
@[simp] theorem framed_carve (s t : State) : (s.framed t).carve = t.carve := rfl
@[simp] theorem framed_net (s t : State) : (s.framed t).net = t.net := rfl
@[simp] theorem framed_nextPkt (s t : State) : (s.framed t).nextPkt = t.nextPkt := rfl
@[simp] theorem framed_wir (s t : State) : (s.framed t).wir = t.wir := rfl
@[simp] theorem framed_tapIr (s t : State) : (s.framed t).tapIr = t.tapIr := rfl
@[simp] theorem framed_boundary (s t : State) : (s.framed t).boundary = t.boundary := rfl
@[simp] theorem framed_rtWas (s t : State) : (s.framed t).rtWas = t.rtWas := rfl
@[simp] theorem framed_retired (s t : State) : (s.framed t).retired = t.retired := rfl
@[simp] theorem framed_share (s t : State) : (s.framed t).share = t.share := rfl
@[simp] theorem framed_once (s t : State) : (s.framed t).once = t.once := rfl
@[simp] theorem framed_subst (s t : State) : (s.framed t).subst = t.subst := rfl
@[simp] theorem framed_groups (s t : State) : (s.framed t).groups = t.groups := rfl
@[simp] theorem framed_wload (s t : State) : (s.framed t).wload = t.wload := rfl
@[simp] theorem framed_pilot (s t : State) : (s.framed t).pilot = t.pilot := rfl
@[simp] theorem framed_boot (s t : State) : (s.framed t).boot = t.boot := rfl
@[simp] theorem framed_update (s t : State) : (s.framed t).update = t.update := rfl
@[simp] theorem framed_link (s t : State) : (s.framed t).link = t.link := rfl
@[simp] theorem framed_convoy (s t : State) : (s.framed t).convoy = t.convoy := rfl
@[simp] theorem framed_capStamp (s t : State) : (s.framed t).capStamp = t.capStamp := rfl
@[simp] theorem framed_scan (s t : State) : (s.framed t).scan = t.scan := rfl
@[simp] theorem framed_lifeline (s t : State) : (s.framed t).lifeline = t.lifeline := rfl
@[simp] theorem framed_lifelineAt (s t : State) : (s.framed t).lifelineAt = t.lifelineAt := rfl
@[simp] theorem framed_testEn (s t : State) : (s.framed t).testEn = t.testEn := rfl
@[simp] theorem framed_slipMode (s t : State) : (s.framed t).slipMode = t.slipMode := rfl
@[simp] theorem framed_rootKey (s t : State) : (s.framed t).rootKey = s.rootKey := rfl
@[simp] theorem framed_uniqueId (s t : State) : (s.framed t).uniqueId = s.uniqueId := rfl
@[simp] theorem framed_quayPs (s t : State) : (s.framed t).quayPs = s.quayPs := rfl

/-! Updates made of `wr`. -/

@[simp] theorem wr64_pending (s : State) (a v : Nat) : (s.wr64 a v).pending = s.pending := rfl
@[simp] theorem wr64_clk (s : State) (a v : Nat) : (s.wr64 a v).clk = s.clk := rfl
@[simp] theorem wr64_build (s : State) (a v : Nat) : (s.wr64 a v).build = s.build := rfl
@[simp] theorem wr64_core (s : State) (a v : Nat) : (s.wr64 a v).core = s.core := rfl
@[simp] theorem wr64_region (s : State) (a v : Nat) : (s.wr64 a v).region = s.region := rfl
@[simp] theorem wr64_ctx (s : State) (a v : Nat) : (s.wr64 a v).ctx = s.ctx := rfl
@[simp] theorem wr64_queue (s : State) (a v : Nat) : (s.wr64 a v).queue = s.queue := rfl
@[simp] theorem wr64_bbol (s : State) (a v : Nat) : (s.wr64 a v).bbol = s.bbol := rfl
@[simp] theorem wr64_hostMem (s : State) (a v : Nat) : (s.wr64 a v).hostMem = s.hostMem := rfl
@[simp] theorem wr64_devMem (s : State) (a v : Nat) : (s.wr64 a v).devMem = s.devMem := rfl
@[simp] theorem wr64_rdata (s : State) (a v : Nat) : (s.wr64 a v).rdata = s.rdata := rfl
@[simp] theorem wr64_flog (s : State) (a v : Nat) : (s.wr64 a v).flog = s.flog := rfl
@[simp] theorem wr64_inReset (s : State) (a v : Nat) : (s.wr64 a v).inReset = s.inReset := rfl
@[simp] theorem wr64_quiet (s : State) (a v : Nat) : (s.wr64 a v).quiet = s.quiet := rfl
@[simp] theorem wr64_staged (s : State) (a v : Nat) : (s.wr64 a v).staged = s.staged := rfl
@[simp] theorem wr64_latched (s : State) (a v : Nat) : (s.wr64 a v).latched = s.latched := rfl
@[simp] theorem wr64_select (s : State) (a v : Nat) : (s.wr64 a v).select = s.select := rfl
@[simp] theorem wr64_quays (s : State) (a v : Nat) : (s.wr64 a v).quays = s.quays := rfl
@[simp] theorem wr64_remote (s : State) (a v : Nat) : (s.wr64 a v).remote = s.remote := rfl
@[simp] theorem wr64_nextId (s : State) (a v : Nat) : (s.wr64 a v).nextId = s.nextId := rfl
@[simp] theorem wr64_bbolIn (s : State) (a v : Nat) : (s.wr64 a v).bbolIn = s.bbolIn := rfl
@[simp] theorem wr64_bbolNow (s : State) (a v : Nat) : (s.wr64 a v).bbolNow = s.bbolNow := rfl
@[simp] theorem wr64_carve (s : State) (a v : Nat) : (s.wr64 a v).carve = s.carve := rfl
@[simp] theorem wr64_net (s : State) (a v : Nat) : (s.wr64 a v).net = s.net := rfl
@[simp] theorem wr64_nextPkt (s : State) (a v : Nat) : (s.wr64 a v).nextPkt = s.nextPkt := rfl
@[simp] theorem wr64_wir (s : State) (a v : Nat) : (s.wr64 a v).wir = s.wir := rfl
@[simp] theorem wr64_tapIr (s : State) (a v : Nat) : (s.wr64 a v).tapIr = s.tapIr := rfl
@[simp] theorem wr64_boundary (s : State) (a v : Nat) : (s.wr64 a v).boundary = s.boundary := rfl
@[simp] theorem wr64_rtWas (s : State) (a v : Nat) : (s.wr64 a v).rtWas = s.rtWas := rfl
@[simp] theorem wr64_retired (s : State) (a v : Nat) : (s.wr64 a v).retired = s.retired := rfl
@[simp] theorem wr64_share (s : State) (a v : Nat) : (s.wr64 a v).share = s.share := rfl
@[simp] theorem wr64_once (s : State) (a v : Nat) : (s.wr64 a v).once = s.once := rfl
@[simp] theorem wr64_subst (s : State) (a v : Nat) : (s.wr64 a v).subst = s.subst := rfl
@[simp] theorem wr64_groups (s : State) (a v : Nat) : (s.wr64 a v).groups = s.groups := rfl
@[simp] theorem wr64_wload (s : State) (a v : Nat) : (s.wr64 a v).wload = s.wload := rfl
@[simp] theorem wr64_pilot (s : State) (a v : Nat) : (s.wr64 a v).pilot = s.pilot := rfl
@[simp] theorem wr64_boot (s : State) (a v : Nat) : (s.wr64 a v).boot = s.boot := rfl
@[simp] theorem wr64_update (s : State) (a v : Nat) : (s.wr64 a v).update = s.update := rfl
@[simp] theorem wr64_link (s : State) (a v : Nat) : (s.wr64 a v).link = s.link := rfl
@[simp] theorem wr64_convoy (s : State) (a v : Nat) : (s.wr64 a v).convoy = s.convoy := rfl
@[simp] theorem wr64_capStamp (s : State) (a v : Nat) : (s.wr64 a v).capStamp = s.capStamp := rfl
@[simp] theorem wr64_scan (s : State) (a v : Nat) : (s.wr64 a v).scan = s.scan := rfl
@[simp] theorem wr64_lifeline (s : State) (a v : Nat) : (s.wr64 a v).lifeline = s.lifeline := rfl
@[simp] theorem wr64_lifelineAt (s : State) (a v : Nat) : (s.wr64 a v).lifelineAt = s.lifelineAt := rfl
@[simp] theorem wr64_testEn (s : State) (a v : Nat) : (s.wr64 a v).testEn = s.testEn := rfl
@[simp] theorem wr64_slipMode (s : State) (a v : Nat) : (s.wr64 a v).slipMode = s.slipMode := rfl
@[simp] theorem wr64_rootKey (s : State) (a v : Nat) : (s.wr64 a v).rootKey = s.rootKey := rfl
@[simp] theorem wr64_uniqueId (s : State) (a v : Nat) : (s.wr64 a v).uniqueId = s.uniqueId := rfl
@[simp] theorem wr64_quayPs (s : State) (a v : Nat) : (s.wr64 a v).quayPs = s.quayPs := rfl

@[simp] theorem wrField_pending (s : State) (a hi lo x : Nat) : (s.wrField a hi lo x).pending = s.pending := rfl
@[simp] theorem wrField_clk (s : State) (a hi lo x : Nat) : (s.wrField a hi lo x).clk = s.clk := rfl
@[simp] theorem wrField_build (s : State) (a hi lo x : Nat) : (s.wrField a hi lo x).build = s.build := rfl
@[simp] theorem wrField_core (s : State) (a hi lo x : Nat) : (s.wrField a hi lo x).core = s.core := rfl
@[simp] theorem wrField_region (s : State) (a hi lo x : Nat) : (s.wrField a hi lo x).region = s.region := rfl
@[simp] theorem wrField_ctx (s : State) (a hi lo x : Nat) : (s.wrField a hi lo x).ctx = s.ctx := rfl
@[simp] theorem wrField_queue (s : State) (a hi lo x : Nat) : (s.wrField a hi lo x).queue = s.queue := rfl
@[simp] theorem wrField_bbol (s : State) (a hi lo x : Nat) : (s.wrField a hi lo x).bbol = s.bbol := rfl
@[simp] theorem wrField_hostMem (s : State) (a hi lo x : Nat) : (s.wrField a hi lo x).hostMem = s.hostMem := rfl
@[simp] theorem wrField_devMem (s : State) (a hi lo x : Nat) : (s.wrField a hi lo x).devMem = s.devMem := rfl
@[simp] theorem wrField_rdata (s : State) (a hi lo x : Nat) : (s.wrField a hi lo x).rdata = s.rdata := rfl
@[simp] theorem wrField_flog (s : State) (a hi lo x : Nat) : (s.wrField a hi lo x).flog = s.flog := rfl
@[simp] theorem wrField_inReset (s : State) (a hi lo x : Nat) : (s.wrField a hi lo x).inReset = s.inReset := rfl
@[simp] theorem wrField_quiet (s : State) (a hi lo x : Nat) : (s.wrField a hi lo x).quiet = s.quiet := rfl
@[simp] theorem wrField_staged (s : State) (a hi lo x : Nat) : (s.wrField a hi lo x).staged = s.staged := rfl
@[simp] theorem wrField_latched (s : State) (a hi lo x : Nat) : (s.wrField a hi lo x).latched = s.latched := rfl
@[simp] theorem wrField_select (s : State) (a hi lo x : Nat) : (s.wrField a hi lo x).select = s.select := rfl
@[simp] theorem wrField_quays (s : State) (a hi lo x : Nat) : (s.wrField a hi lo x).quays = s.quays := rfl
@[simp] theorem wrField_remote (s : State) (a hi lo x : Nat) : (s.wrField a hi lo x).remote = s.remote := rfl
@[simp] theorem wrField_nextId (s : State) (a hi lo x : Nat) : (s.wrField a hi lo x).nextId = s.nextId := rfl
@[simp] theorem wrField_bbolIn (s : State) (a hi lo x : Nat) : (s.wrField a hi lo x).bbolIn = s.bbolIn := rfl
@[simp] theorem wrField_bbolNow (s : State) (a hi lo x : Nat) : (s.wrField a hi lo x).bbolNow = s.bbolNow := rfl
@[simp] theorem wrField_carve (s : State) (a hi lo x : Nat) : (s.wrField a hi lo x).carve = s.carve := rfl
@[simp] theorem wrField_net (s : State) (a hi lo x : Nat) : (s.wrField a hi lo x).net = s.net := rfl
@[simp] theorem wrField_nextPkt (s : State) (a hi lo x : Nat) : (s.wrField a hi lo x).nextPkt = s.nextPkt := rfl
@[simp] theorem wrField_wir (s : State) (a hi lo x : Nat) : (s.wrField a hi lo x).wir = s.wir := rfl
@[simp] theorem wrField_tapIr (s : State) (a hi lo x : Nat) : (s.wrField a hi lo x).tapIr = s.tapIr := rfl
@[simp] theorem wrField_boundary (s : State) (a hi lo x : Nat) : (s.wrField a hi lo x).boundary = s.boundary := rfl
@[simp] theorem wrField_rtWas (s : State) (a hi lo x : Nat) : (s.wrField a hi lo x).rtWas = s.rtWas := rfl
@[simp] theorem wrField_retired (s : State) (a hi lo x : Nat) : (s.wrField a hi lo x).retired = s.retired := rfl
@[simp] theorem wrField_share (s : State) (a hi lo x : Nat) : (s.wrField a hi lo x).share = s.share := rfl
@[simp] theorem wrField_once (s : State) (a hi lo x : Nat) : (s.wrField a hi lo x).once = s.once := rfl
@[simp] theorem wrField_subst (s : State) (a hi lo x : Nat) : (s.wrField a hi lo x).subst = s.subst := rfl
@[simp] theorem wrField_groups (s : State) (a hi lo x : Nat) : (s.wrField a hi lo x).groups = s.groups := rfl
@[simp] theorem wrField_wload (s : State) (a hi lo x : Nat) : (s.wrField a hi lo x).wload = s.wload := rfl
@[simp] theorem wrField_pilot (s : State) (a hi lo x : Nat) : (s.wrField a hi lo x).pilot = s.pilot := rfl
@[simp] theorem wrField_boot (s : State) (a hi lo x : Nat) : (s.wrField a hi lo x).boot = s.boot := rfl
@[simp] theorem wrField_update (s : State) (a hi lo x : Nat) : (s.wrField a hi lo x).update = s.update := rfl
@[simp] theorem wrField_link (s : State) (a hi lo x : Nat) : (s.wrField a hi lo x).link = s.link := rfl
@[simp] theorem wrField_convoy (s : State) (a hi lo x : Nat) : (s.wrField a hi lo x).convoy = s.convoy := rfl
@[simp] theorem wrField_capStamp (s : State) (a hi lo x : Nat) : (s.wrField a hi lo x).capStamp = s.capStamp := rfl
@[simp] theorem wrField_scan (s : State) (a hi lo x : Nat) : (s.wrField a hi lo x).scan = s.scan := rfl
@[simp] theorem wrField_lifeline (s : State) (a hi lo x : Nat) : (s.wrField a hi lo x).lifeline = s.lifeline := rfl
@[simp] theorem wrField_lifelineAt (s : State) (a hi lo x : Nat) : (s.wrField a hi lo x).lifelineAt = s.lifelineAt := rfl
@[simp] theorem wrField_testEn (s : State) (a hi lo x : Nat) : (s.wrField a hi lo x).testEn = s.testEn := rfl
@[simp] theorem wrField_slipMode (s : State) (a hi lo x : Nat) : (s.wrField a hi lo x).slipMode = s.slipMode := rfl
@[simp] theorem wrField_rootKey (s : State) (a hi lo x : Nat) : (s.wrField a hi lo x).rootKey = s.rootKey := rfl
@[simp] theorem wrField_uniqueId (s : State) (a hi lo x : Nat) : (s.wrField a hi lo x).uniqueId = s.uniqueId := rfl
@[simp] theorem wrField_quayPs (s : State) (a hi lo x : Nat) : (s.wrField a hi lo x).quayPs = s.quayPs := rfl

@[simp] theorem orBits_pending (s : State) (a : Nat) (m : Word) : (s.orBits a m).pending = s.pending := rfl
@[simp] theorem orBits_clk (s : State) (a : Nat) (m : Word) : (s.orBits a m).clk = s.clk := rfl
@[simp] theorem orBits_build (s : State) (a : Nat) (m : Word) : (s.orBits a m).build = s.build := rfl
@[simp] theorem orBits_core (s : State) (a : Nat) (m : Word) : (s.orBits a m).core = s.core := rfl
@[simp] theorem orBits_region (s : State) (a : Nat) (m : Word) : (s.orBits a m).region = s.region := rfl
@[simp] theorem orBits_ctx (s : State) (a : Nat) (m : Word) : (s.orBits a m).ctx = s.ctx := rfl
@[simp] theorem orBits_queue (s : State) (a : Nat) (m : Word) : (s.orBits a m).queue = s.queue := rfl
@[simp] theorem orBits_bbol (s : State) (a : Nat) (m : Word) : (s.orBits a m).bbol = s.bbol := rfl
@[simp] theorem orBits_hostMem (s : State) (a : Nat) (m : Word) : (s.orBits a m).hostMem = s.hostMem := rfl
@[simp] theorem orBits_devMem (s : State) (a : Nat) (m : Word) : (s.orBits a m).devMem = s.devMem := rfl
@[simp] theorem orBits_rdata (s : State) (a : Nat) (m : Word) : (s.orBits a m).rdata = s.rdata := rfl
@[simp] theorem orBits_flog (s : State) (a : Nat) (m : Word) : (s.orBits a m).flog = s.flog := rfl
@[simp] theorem orBits_inReset (s : State) (a : Nat) (m : Word) : (s.orBits a m).inReset = s.inReset := rfl
@[simp] theorem orBits_quiet (s : State) (a : Nat) (m : Word) : (s.orBits a m).quiet = s.quiet := rfl
@[simp] theorem orBits_staged (s : State) (a : Nat) (m : Word) : (s.orBits a m).staged = s.staged := rfl
@[simp] theorem orBits_latched (s : State) (a : Nat) (m : Word) : (s.orBits a m).latched = s.latched := rfl
@[simp] theorem orBits_select (s : State) (a : Nat) (m : Word) : (s.orBits a m).select = s.select := rfl
@[simp] theorem orBits_quays (s : State) (a : Nat) (m : Word) : (s.orBits a m).quays = s.quays := rfl
@[simp] theorem orBits_remote (s : State) (a : Nat) (m : Word) : (s.orBits a m).remote = s.remote := rfl
@[simp] theorem orBits_nextId (s : State) (a : Nat) (m : Word) : (s.orBits a m).nextId = s.nextId := rfl
@[simp] theorem orBits_bbolIn (s : State) (a : Nat) (m : Word) : (s.orBits a m).bbolIn = s.bbolIn := rfl
@[simp] theorem orBits_bbolNow (s : State) (a : Nat) (m : Word) : (s.orBits a m).bbolNow = s.bbolNow := rfl
@[simp] theorem orBits_carve (s : State) (a : Nat) (m : Word) : (s.orBits a m).carve = s.carve := rfl
@[simp] theorem orBits_net (s : State) (a : Nat) (m : Word) : (s.orBits a m).net = s.net := rfl
@[simp] theorem orBits_nextPkt (s : State) (a : Nat) (m : Word) : (s.orBits a m).nextPkt = s.nextPkt := rfl
@[simp] theorem orBits_wir (s : State) (a : Nat) (m : Word) : (s.orBits a m).wir = s.wir := rfl
@[simp] theorem orBits_tapIr (s : State) (a : Nat) (m : Word) : (s.orBits a m).tapIr = s.tapIr := rfl
@[simp] theorem orBits_boundary (s : State) (a : Nat) (m : Word) : (s.orBits a m).boundary = s.boundary := rfl
@[simp] theorem orBits_rtWas (s : State) (a : Nat) (m : Word) : (s.orBits a m).rtWas = s.rtWas := rfl
@[simp] theorem orBits_retired (s : State) (a : Nat) (m : Word) : (s.orBits a m).retired = s.retired := rfl
@[simp] theorem orBits_share (s : State) (a : Nat) (m : Word) : (s.orBits a m).share = s.share := rfl
@[simp] theorem orBits_once (s : State) (a : Nat) (m : Word) : (s.orBits a m).once = s.once := rfl
@[simp] theorem orBits_subst (s : State) (a : Nat) (m : Word) : (s.orBits a m).subst = s.subst := rfl
@[simp] theorem orBits_groups (s : State) (a : Nat) (m : Word) : (s.orBits a m).groups = s.groups := rfl
@[simp] theorem orBits_wload (s : State) (a : Nat) (m : Word) : (s.orBits a m).wload = s.wload := rfl
@[simp] theorem orBits_pilot (s : State) (a : Nat) (m : Word) : (s.orBits a m).pilot = s.pilot := rfl
@[simp] theorem orBits_boot (s : State) (a : Nat) (m : Word) : (s.orBits a m).boot = s.boot := rfl
@[simp] theorem orBits_update (s : State) (a : Nat) (m : Word) : (s.orBits a m).update = s.update := rfl
@[simp] theorem orBits_link (s : State) (a : Nat) (m : Word) : (s.orBits a m).link = s.link := rfl
@[simp] theorem orBits_convoy (s : State) (a : Nat) (m : Word) : (s.orBits a m).convoy = s.convoy := rfl
@[simp] theorem orBits_capStamp (s : State) (a : Nat) (m : Word) : (s.orBits a m).capStamp = s.capStamp := rfl
@[simp] theorem orBits_scan (s : State) (a : Nat) (m : Word) : (s.orBits a m).scan = s.scan := rfl
@[simp] theorem orBits_lifeline (s : State) (a : Nat) (m : Word) : (s.orBits a m).lifeline = s.lifeline := rfl
@[simp] theorem orBits_lifelineAt (s : State) (a : Nat) (m : Word) : (s.orBits a m).lifelineAt = s.lifelineAt := rfl
@[simp] theorem orBits_testEn (s : State) (a : Nat) (m : Word) : (s.orBits a m).testEn = s.testEn := rfl
@[simp] theorem orBits_slipMode (s : State) (a : Nat) (m : Word) : (s.orBits a m).slipMode = s.slipMode := rfl
@[simp] theorem orBits_rootKey (s : State) (a : Nat) (m : Word) : (s.orBits a m).rootKey = s.rootKey := rfl
@[simp] theorem orBits_uniqueId (s : State) (a : Nat) (m : Word) : (s.orBits a m).uniqueId = s.uniqueId := rfl
@[simp] theorem orBits_quayPs (s : State) (a : Nat) (m : Word) : (s.orBits a m).quayPs = s.quayPs := rfl

@[simp] theorem event_pending (s : State) (p b : Nat) : (s.event p b).pending = s.pending := rfl
@[simp] theorem event_clk (s : State) (p b : Nat) : (s.event p b).clk = s.clk := rfl
@[simp] theorem event_build (s : State) (p b : Nat) : (s.event p b).build = s.build := rfl
@[simp] theorem event_core (s : State) (p b : Nat) : (s.event p b).core = s.core := rfl
@[simp] theorem event_region (s : State) (p b : Nat) : (s.event p b).region = s.region := rfl
@[simp] theorem event_ctx (s : State) (p b : Nat) : (s.event p b).ctx = s.ctx := rfl
@[simp] theorem event_queue (s : State) (p b : Nat) : (s.event p b).queue = s.queue := rfl
@[simp] theorem event_bbol (s : State) (p b : Nat) : (s.event p b).bbol = s.bbol := rfl
@[simp] theorem event_hostMem (s : State) (p b : Nat) : (s.event p b).hostMem = s.hostMem := rfl
@[simp] theorem event_devMem (s : State) (p b : Nat) : (s.event p b).devMem = s.devMem := rfl
@[simp] theorem event_rdata (s : State) (p b : Nat) : (s.event p b).rdata = s.rdata := rfl
@[simp] theorem event_flog (s : State) (p b : Nat) : (s.event p b).flog = s.flog := rfl
@[simp] theorem event_inReset (s : State) (p b : Nat) : (s.event p b).inReset = s.inReset := rfl
@[simp] theorem event_quiet (s : State) (p b : Nat) : (s.event p b).quiet = s.quiet := rfl
@[simp] theorem event_staged (s : State) (p b : Nat) : (s.event p b).staged = s.staged := rfl
@[simp] theorem event_latched (s : State) (p b : Nat) : (s.event p b).latched = s.latched := rfl
@[simp] theorem event_select (s : State) (p b : Nat) : (s.event p b).select = s.select := rfl
@[simp] theorem event_quays (s : State) (p b : Nat) : (s.event p b).quays = s.quays := rfl
@[simp] theorem event_remote (s : State) (p b : Nat) : (s.event p b).remote = s.remote := rfl
@[simp] theorem event_nextId (s : State) (p b : Nat) : (s.event p b).nextId = s.nextId := rfl
@[simp] theorem event_bbolIn (s : State) (p b : Nat) : (s.event p b).bbolIn = s.bbolIn := rfl
@[simp] theorem event_bbolNow (s : State) (p b : Nat) : (s.event p b).bbolNow = s.bbolNow := rfl
@[simp] theorem event_carve (s : State) (p b : Nat) : (s.event p b).carve = s.carve := rfl
@[simp] theorem event_net (s : State) (p b : Nat) : (s.event p b).net = s.net := rfl
@[simp] theorem event_nextPkt (s : State) (p b : Nat) : (s.event p b).nextPkt = s.nextPkt := rfl
@[simp] theorem event_wir (s : State) (p b : Nat) : (s.event p b).wir = s.wir := rfl
@[simp] theorem event_tapIr (s : State) (p b : Nat) : (s.event p b).tapIr = s.tapIr := rfl
@[simp] theorem event_boundary (s : State) (p b : Nat) : (s.event p b).boundary = s.boundary := rfl
@[simp] theorem event_rtWas (s : State) (p b : Nat) : (s.event p b).rtWas = s.rtWas := rfl
@[simp] theorem event_retired (s : State) (p b : Nat) : (s.event p b).retired = s.retired := rfl
@[simp] theorem event_share (s : State) (p b : Nat) : (s.event p b).share = s.share := rfl
@[simp] theorem event_once (s : State) (p b : Nat) : (s.event p b).once = s.once := rfl
@[simp] theorem event_subst (s : State) (p b : Nat) : (s.event p b).subst = s.subst := rfl
@[simp] theorem event_groups (s : State) (p b : Nat) : (s.event p b).groups = s.groups := rfl
@[simp] theorem event_wload (s : State) (p b : Nat) : (s.event p b).wload = s.wload := rfl
@[simp] theorem event_pilot (s : State) (p b : Nat) : (s.event p b).pilot = s.pilot := rfl
@[simp] theorem event_boot (s : State) (p b : Nat) : (s.event p b).boot = s.boot := rfl
@[simp] theorem event_update (s : State) (p b : Nat) : (s.event p b).update = s.update := rfl
@[simp] theorem event_link (s : State) (p b : Nat) : (s.event p b).link = s.link := rfl
@[simp] theorem event_convoy (s : State) (p b : Nat) : (s.event p b).convoy = s.convoy := rfl
@[simp] theorem event_capStamp (s : State) (p b : Nat) : (s.event p b).capStamp = s.capStamp := rfl
@[simp] theorem event_scan (s : State) (p b : Nat) : (s.event p b).scan = s.scan := rfl
@[simp] theorem event_lifeline (s : State) (p b : Nat) : (s.event p b).lifeline = s.lifeline := rfl
@[simp] theorem event_lifelineAt (s : State) (p b : Nat) : (s.event p b).lifelineAt = s.lifelineAt := rfl
@[simp] theorem event_testEn (s : State) (p b : Nat) : (s.event p b).testEn = s.testEn := rfl
@[simp] theorem event_slipMode (s : State) (p b : Nat) : (s.event p b).slipMode = s.slipMode := rfl
@[simp] theorem event_rootKey (s : State) (p b : Nat) : (s.event p b).rootKey = s.rootKey := rfl
@[simp] theorem event_uniqueId (s : State) (p b : Nat) : (s.event p b).uniqueId = s.uniqueId := rfl
@[simp] theorem event_quayPs (s : State) (p b : Nat) : (s.event p b).quayPs = s.quayPs := rfl

@[simp] theorem count_pending (s : State) (a n : Nat) : (s.count a n).pending = s.pending := by unfold count; split <;> rfl
@[simp] theorem count_clk (s : State) (a n : Nat) : (s.count a n).clk = s.clk := by unfold count; split <;> rfl
@[simp] theorem count_build (s : State) (a n : Nat) : (s.count a n).build = s.build := by unfold count; split <;> rfl
@[simp] theorem count_core (s : State) (a n : Nat) : (s.count a n).core = s.core := by unfold count; split <;> rfl
@[simp] theorem count_region (s : State) (a n : Nat) : (s.count a n).region = s.region := by unfold count; split <;> rfl
@[simp] theorem count_ctx (s : State) (a n : Nat) : (s.count a n).ctx = s.ctx := by unfold count; split <;> rfl
@[simp] theorem count_queue (s : State) (a n : Nat) : (s.count a n).queue = s.queue := by unfold count; split <;> rfl
@[simp] theorem count_bbol (s : State) (a n : Nat) : (s.count a n).bbol = s.bbol := by unfold count; split <;> rfl
@[simp] theorem count_hostMem (s : State) (a n : Nat) : (s.count a n).hostMem = s.hostMem := by unfold count; split <;> rfl
@[simp] theorem count_devMem (s : State) (a n : Nat) : (s.count a n).devMem = s.devMem := by unfold count; split <;> rfl
@[simp] theorem count_rdata (s : State) (a n : Nat) : (s.count a n).rdata = s.rdata := by unfold count; split <;> rfl
@[simp] theorem count_flog (s : State) (a n : Nat) : (s.count a n).flog = s.flog := by unfold count; split <;> rfl
@[simp] theorem count_inReset (s : State) (a n : Nat) : (s.count a n).inReset = s.inReset := by unfold count; split <;> rfl
@[simp] theorem count_quiet (s : State) (a n : Nat) : (s.count a n).quiet = s.quiet := by unfold count; split <;> rfl
@[simp] theorem count_staged (s : State) (a n : Nat) : (s.count a n).staged = s.staged := by unfold count; split <;> rfl
@[simp] theorem count_latched (s : State) (a n : Nat) : (s.count a n).latched = s.latched := by unfold count; split <;> rfl
@[simp] theorem count_select (s : State) (a n : Nat) : (s.count a n).select = s.select := by unfold count; split <;> rfl
@[simp] theorem count_quays (s : State) (a n : Nat) : (s.count a n).quays = s.quays := by unfold count; split <;> rfl
@[simp] theorem count_remote (s : State) (a n : Nat) : (s.count a n).remote = s.remote := by unfold count; split <;> rfl
@[simp] theorem count_nextId (s : State) (a n : Nat) : (s.count a n).nextId = s.nextId := by unfold count; split <;> rfl
@[simp] theorem count_bbolIn (s : State) (a n : Nat) : (s.count a n).bbolIn = s.bbolIn := by unfold count; split <;> rfl
@[simp] theorem count_bbolNow (s : State) (a n : Nat) : (s.count a n).bbolNow = s.bbolNow := by unfold count; split <;> rfl
@[simp] theorem count_carve (s : State) (a n : Nat) : (s.count a n).carve = s.carve := by unfold count; split <;> rfl
@[simp] theorem count_net (s : State) (a n : Nat) : (s.count a n).net = s.net := by unfold count; split <;> rfl
@[simp] theorem count_nextPkt (s : State) (a n : Nat) : (s.count a n).nextPkt = s.nextPkt := by unfold count; split <;> rfl
@[simp] theorem count_wir (s : State) (a n : Nat) : (s.count a n).wir = s.wir := by unfold count; split <;> rfl
@[simp] theorem count_tapIr (s : State) (a n : Nat) : (s.count a n).tapIr = s.tapIr := by unfold count; split <;> rfl
@[simp] theorem count_boundary (s : State) (a n : Nat) : (s.count a n).boundary = s.boundary := by unfold count; split <;> rfl
@[simp] theorem count_rtWas (s : State) (a n : Nat) : (s.count a n).rtWas = s.rtWas := by unfold count; split <;> rfl
@[simp] theorem count_retired (s : State) (a n : Nat) : (s.count a n).retired = s.retired := by unfold count; split <;> rfl
@[simp] theorem count_share (s : State) (a n : Nat) : (s.count a n).share = s.share := by unfold count; split <;> rfl
@[simp] theorem count_once (s : State) (a n : Nat) : (s.count a n).once = s.once := by unfold count; split <;> rfl
@[simp] theorem count_subst (s : State) (a n : Nat) : (s.count a n).subst = s.subst := by unfold count; split <;> rfl
@[simp] theorem count_groups (s : State) (a n : Nat) : (s.count a n).groups = s.groups := by unfold count; split <;> rfl
@[simp] theorem count_wload (s : State) (a n : Nat) : (s.count a n).wload = s.wload := by unfold count; split <;> rfl
@[simp] theorem count_pilot (s : State) (a n : Nat) : (s.count a n).pilot = s.pilot := by unfold count; split <;> rfl
@[simp] theorem count_boot (s : State) (a n : Nat) : (s.count a n).boot = s.boot := by unfold count; split <;> rfl
@[simp] theorem count_update (s : State) (a n : Nat) : (s.count a n).update = s.update := by unfold count; split <;> rfl
@[simp] theorem count_link (s : State) (a n : Nat) : (s.count a n).link = s.link := by unfold count; split <;> rfl
@[simp] theorem count_convoy (s : State) (a n : Nat) : (s.count a n).convoy = s.convoy := by unfold count; split <;> rfl
@[simp] theorem count_capStamp (s : State) (a n : Nat) : (s.count a n).capStamp = s.capStamp := by unfold count; split <;> rfl
@[simp] theorem count_scan (s : State) (a n : Nat) : (s.count a n).scan = s.scan := by unfold count; split <;> rfl
@[simp] theorem count_lifeline (s : State) (a n : Nat) : (s.count a n).lifeline = s.lifeline := by unfold count; split <;> rfl
@[simp] theorem count_lifelineAt (s : State) (a n : Nat) : (s.count a n).lifelineAt = s.lifelineAt := by unfold count; split <;> rfl
@[simp] theorem count_testEn (s : State) (a n : Nat) : (s.count a n).testEn = s.testEn := by unfold count; split <;> rfl
@[simp] theorem count_slipMode (s : State) (a n : Nat) : (s.count a n).slipMode = s.slipMode := by unfold count; split <;> rfl
@[simp] theorem count_rootKey (s : State) (a n : Nat) : (s.count a n).rootKey = s.rootKey := by unfold count; split <;> rfl
@[simp] theorem count_uniqueId (s : State) (a n : Nat) : (s.count a n).uniqueId = s.uniqueId := by unfold count; split <;> rfl
@[simp] theorem count_quayPs (s : State) (a n : Nat) : (s.count a n).quayPs = s.quayPs := by unfold count; split <;> rfl

@[simp] theorem setCtxState_pending (s : State) (c st : Nat) : (s.setCtxState c st).pending = s.pending := rfl
@[simp] theorem setCtxState_clk (s : State) (c st : Nat) : (s.setCtxState c st).clk = s.clk := rfl
@[simp] theorem setCtxState_build (s : State) (c st : Nat) : (s.setCtxState c st).build = s.build := rfl
@[simp] theorem setCtxState_core (s : State) (c st : Nat) : (s.setCtxState c st).core = s.core := rfl
@[simp] theorem setCtxState_region (s : State) (c st : Nat) : (s.setCtxState c st).region = s.region := rfl
@[simp] theorem setCtxState_ctx (s : State) (c st : Nat) : (s.setCtxState c st).ctx = s.ctx := rfl
@[simp] theorem setCtxState_queue (s : State) (c st : Nat) : (s.setCtxState c st).queue = s.queue := rfl
@[simp] theorem setCtxState_bbol (s : State) (c st : Nat) : (s.setCtxState c st).bbol = s.bbol := rfl
@[simp] theorem setCtxState_hostMem (s : State) (c st : Nat) : (s.setCtxState c st).hostMem = s.hostMem := rfl
@[simp] theorem setCtxState_devMem (s : State) (c st : Nat) : (s.setCtxState c st).devMem = s.devMem := rfl
@[simp] theorem setCtxState_rdata (s : State) (c st : Nat) : (s.setCtxState c st).rdata = s.rdata := rfl
@[simp] theorem setCtxState_flog (s : State) (c st : Nat) : (s.setCtxState c st).flog = s.flog := rfl
@[simp] theorem setCtxState_inReset (s : State) (c st : Nat) : (s.setCtxState c st).inReset = s.inReset := rfl
@[simp] theorem setCtxState_quiet (s : State) (c st : Nat) : (s.setCtxState c st).quiet = s.quiet := rfl
@[simp] theorem setCtxState_staged (s : State) (c st : Nat) : (s.setCtxState c st).staged = s.staged := rfl
@[simp] theorem setCtxState_latched (s : State) (c st : Nat) : (s.setCtxState c st).latched = s.latched := rfl
@[simp] theorem setCtxState_select (s : State) (c st : Nat) : (s.setCtxState c st).select = s.select := rfl
@[simp] theorem setCtxState_quays (s : State) (c st : Nat) : (s.setCtxState c st).quays = s.quays := rfl
@[simp] theorem setCtxState_remote (s : State) (c st : Nat) : (s.setCtxState c st).remote = s.remote := rfl
@[simp] theorem setCtxState_nextId (s : State) (c st : Nat) : (s.setCtxState c st).nextId = s.nextId := rfl
@[simp] theorem setCtxState_bbolIn (s : State) (c st : Nat) : (s.setCtxState c st).bbolIn = s.bbolIn := rfl
@[simp] theorem setCtxState_bbolNow (s : State) (c st : Nat) : (s.setCtxState c st).bbolNow = s.bbolNow := rfl
@[simp] theorem setCtxState_carve (s : State) (c st : Nat) : (s.setCtxState c st).carve = s.carve := rfl
@[simp] theorem setCtxState_net (s : State) (c st : Nat) : (s.setCtxState c st).net = s.net := rfl
@[simp] theorem setCtxState_nextPkt (s : State) (c st : Nat) : (s.setCtxState c st).nextPkt = s.nextPkt := rfl
@[simp] theorem setCtxState_wir (s : State) (c st : Nat) : (s.setCtxState c st).wir = s.wir := rfl
@[simp] theorem setCtxState_tapIr (s : State) (c st : Nat) : (s.setCtxState c st).tapIr = s.tapIr := rfl
@[simp] theorem setCtxState_boundary (s : State) (c st : Nat) : (s.setCtxState c st).boundary = s.boundary := rfl
@[simp] theorem setCtxState_rtWas (s : State) (c st : Nat) : (s.setCtxState c st).rtWas = s.rtWas := rfl
@[simp] theorem setCtxState_retired (s : State) (c st : Nat) : (s.setCtxState c st).retired = s.retired := rfl
@[simp] theorem setCtxState_share (s : State) (c st : Nat) : (s.setCtxState c st).share = s.share := rfl
@[simp] theorem setCtxState_once (s : State) (c st : Nat) : (s.setCtxState c st).once = s.once := rfl
@[simp] theorem setCtxState_subst (s : State) (c st : Nat) : (s.setCtxState c st).subst = s.subst := rfl
@[simp] theorem setCtxState_groups (s : State) (c st : Nat) : (s.setCtxState c st).groups = s.groups := rfl
@[simp] theorem setCtxState_wload (s : State) (c st : Nat) : (s.setCtxState c st).wload = s.wload := rfl
@[simp] theorem setCtxState_pilot (s : State) (c st : Nat) : (s.setCtxState c st).pilot = s.pilot := rfl
@[simp] theorem setCtxState_boot (s : State) (c st : Nat) : (s.setCtxState c st).boot = s.boot := rfl
@[simp] theorem setCtxState_update (s : State) (c st : Nat) : (s.setCtxState c st).update = s.update := rfl
@[simp] theorem setCtxState_link (s : State) (c st : Nat) : (s.setCtxState c st).link = s.link := rfl
@[simp] theorem setCtxState_convoy (s : State) (c st : Nat) : (s.setCtxState c st).convoy = s.convoy := rfl
@[simp] theorem setCtxState_capStamp (s : State) (c st : Nat) : (s.setCtxState c st).capStamp = s.capStamp := rfl
@[simp] theorem setCtxState_scan (s : State) (c st : Nat) : (s.setCtxState c st).scan = s.scan := rfl
@[simp] theorem setCtxState_lifeline (s : State) (c st : Nat) : (s.setCtxState c st).lifeline = s.lifeline := rfl
@[simp] theorem setCtxState_lifelineAt (s : State) (c st : Nat) : (s.setCtxState c st).lifelineAt = s.lifelineAt := rfl
@[simp] theorem setCtxState_testEn (s : State) (c st : Nat) : (s.setCtxState c st).testEn = s.testEn := rfl
@[simp] theorem setCtxState_slipMode (s : State) (c st : Nat) : (s.setCtxState c st).slipMode = s.slipMode := rfl
@[simp] theorem setCtxState_rootKey (s : State) (c st : Nat) : (s.setCtxState c st).rootKey = s.rootKey := rfl
@[simp] theorem setCtxState_uniqueId (s : State) (c st : Nat) : (s.setCtxState c st).uniqueId = s.uniqueId := rfl
@[simp] theorem setCtxState_quayPs (s : State) (c st : Nat) : (s.setCtxState c st).quayPs = s.quayPs := rfl

@[simp] theorem attn_pending (s : State)  : (s.attn).pending = s.pending := rfl
@[simp] theorem attn_clk (s : State)  : (s.attn).clk = s.clk := rfl
@[simp] theorem attn_build (s : State)  : (s.attn).build = s.build := rfl
@[simp] theorem attn_core (s : State)  : (s.attn).core = s.core := rfl
@[simp] theorem attn_region (s : State)  : (s.attn).region = s.region := rfl
@[simp] theorem attn_ctx (s : State)  : (s.attn).ctx = s.ctx := rfl
@[simp] theorem attn_queue (s : State)  : (s.attn).queue = s.queue := rfl
@[simp] theorem attn_bbol (s : State)  : (s.attn).bbol = s.bbol := rfl
@[simp] theorem attn_hostMem (s : State)  : (s.attn).hostMem = s.hostMem := rfl
@[simp] theorem attn_devMem (s : State)  : (s.attn).devMem = s.devMem := rfl
@[simp] theorem attn_rdata (s : State)  : (s.attn).rdata = s.rdata := rfl
@[simp] theorem attn_flog (s : State)  : (s.attn).flog = s.flog := rfl
@[simp] theorem attn_inReset (s : State)  : (s.attn).inReset = s.inReset := rfl
@[simp] theorem attn_quiet (s : State)  : (s.attn).quiet = s.quiet := rfl
@[simp] theorem attn_staged (s : State)  : (s.attn).staged = s.staged := rfl
@[simp] theorem attn_latched (s : State)  : (s.attn).latched = s.latched := rfl
@[simp] theorem attn_select (s : State)  : (s.attn).select = s.select := rfl
@[simp] theorem attn_quays (s : State)  : (s.attn).quays = s.quays := rfl
@[simp] theorem attn_remote (s : State)  : (s.attn).remote = s.remote := rfl
@[simp] theorem attn_nextId (s : State)  : (s.attn).nextId = s.nextId := rfl
@[simp] theorem attn_bbolIn (s : State)  : (s.attn).bbolIn = s.bbolIn := rfl
@[simp] theorem attn_bbolNow (s : State)  : (s.attn).bbolNow = s.bbolNow := rfl
@[simp] theorem attn_carve (s : State)  : (s.attn).carve = s.carve := rfl
@[simp] theorem attn_net (s : State)  : (s.attn).net = s.net := rfl
@[simp] theorem attn_nextPkt (s : State)  : (s.attn).nextPkt = s.nextPkt := rfl
@[simp] theorem attn_wir (s : State)  : (s.attn).wir = s.wir := rfl
@[simp] theorem attn_tapIr (s : State)  : (s.attn).tapIr = s.tapIr := rfl
@[simp] theorem attn_boundary (s : State)  : (s.attn).boundary = s.boundary := rfl
@[simp] theorem attn_rtWas (s : State)  : (s.attn).rtWas = s.rtWas := rfl
@[simp] theorem attn_retired (s : State)  : (s.attn).retired = s.retired := rfl
@[simp] theorem attn_share (s : State)  : (s.attn).share = s.share := rfl
@[simp] theorem attn_once (s : State)  : (s.attn).once = s.once := rfl
@[simp] theorem attn_subst (s : State)  : (s.attn).subst = s.subst := rfl
@[simp] theorem attn_groups (s : State)  : (s.attn).groups = s.groups := rfl
@[simp] theorem attn_wload (s : State)  : (s.attn).wload = s.wload := rfl
@[simp] theorem attn_pilot (s : State)  : (s.attn).pilot = s.pilot := rfl
@[simp] theorem attn_boot (s : State)  : (s.attn).boot = s.boot := rfl
@[simp] theorem attn_update (s : State)  : (s.attn).update = s.update := rfl
@[simp] theorem attn_link (s : State)  : (s.attn).link = s.link := rfl
@[simp] theorem attn_convoy (s : State)  : (s.attn).convoy = s.convoy := rfl
@[simp] theorem attn_capStamp (s : State)  : (s.attn).capStamp = s.capStamp := rfl
@[simp] theorem attn_scan (s : State)  : (s.attn).scan = s.scan := rfl
@[simp] theorem attn_lifeline (s : State)  : (s.attn).lifeline = s.lifeline := rfl
@[simp] theorem attn_lifelineAt (s : State)  : (s.attn).lifelineAt = s.lifelineAt := rfl
@[simp] theorem attn_testEn (s : State)  : (s.attn).testEn = s.testEn := rfl
@[simp] theorem attn_slipMode (s : State)  : (s.attn).slipMode = s.slipMode := rfl
@[simp] theorem attn_rootKey (s : State)  : (s.attn).rootKey = s.rootKey := rfl
@[simp] theorem attn_uniqueId (s : State)  : (s.attn).uniqueId = s.uniqueId := rfl
@[simp] theorem attn_quayPs (s : State)  : (s.attn).quayPs = s.quayPs := rfl

@[simp] theorem setUpd_pending (s : State) (n : Nat) : (s.setUpd n).pending = s.pending := rfl
@[simp] theorem setUpd_clk (s : State) (n : Nat) : (s.setUpd n).clk = s.clk := rfl
@[simp] theorem setUpd_build (s : State) (n : Nat) : (s.setUpd n).build = s.build := rfl
@[simp] theorem setUpd_core (s : State) (n : Nat) : (s.setUpd n).core = s.core := rfl
@[simp] theorem setUpd_region (s : State) (n : Nat) : (s.setUpd n).region = s.region := rfl
@[simp] theorem setUpd_ctx (s : State) (n : Nat) : (s.setUpd n).ctx = s.ctx := rfl
@[simp] theorem setUpd_queue (s : State) (n : Nat) : (s.setUpd n).queue = s.queue := rfl
@[simp] theorem setUpd_bbol (s : State) (n : Nat) : (s.setUpd n).bbol = s.bbol := rfl
@[simp] theorem setUpd_hostMem (s : State) (n : Nat) : (s.setUpd n).hostMem = s.hostMem := rfl
@[simp] theorem setUpd_devMem (s : State) (n : Nat) : (s.setUpd n).devMem = s.devMem := rfl
@[simp] theorem setUpd_rdata (s : State) (n : Nat) : (s.setUpd n).rdata = s.rdata := rfl
@[simp] theorem setUpd_flog (s : State) (n : Nat) : (s.setUpd n).flog = s.flog := rfl
@[simp] theorem setUpd_inReset (s : State) (n : Nat) : (s.setUpd n).inReset = s.inReset := rfl
@[simp] theorem setUpd_quiet (s : State) (n : Nat) : (s.setUpd n).quiet = s.quiet := rfl
@[simp] theorem setUpd_staged (s : State) (n : Nat) : (s.setUpd n).staged = s.staged := rfl
@[simp] theorem setUpd_latched (s : State) (n : Nat) : (s.setUpd n).latched = s.latched := rfl
@[simp] theorem setUpd_select (s : State) (n : Nat) : (s.setUpd n).select = s.select := rfl
@[simp] theorem setUpd_quays (s : State) (n : Nat) : (s.setUpd n).quays = s.quays := rfl
@[simp] theorem setUpd_remote (s : State) (n : Nat) : (s.setUpd n).remote = s.remote := rfl
@[simp] theorem setUpd_nextId (s : State) (n : Nat) : (s.setUpd n).nextId = s.nextId := rfl
@[simp] theorem setUpd_bbolIn (s : State) (n : Nat) : (s.setUpd n).bbolIn = s.bbolIn := rfl
@[simp] theorem setUpd_bbolNow (s : State) (n : Nat) : (s.setUpd n).bbolNow = s.bbolNow := rfl
@[simp] theorem setUpd_carve (s : State) (n : Nat) : (s.setUpd n).carve = s.carve := rfl
@[simp] theorem setUpd_net (s : State) (n : Nat) : (s.setUpd n).net = s.net := rfl
@[simp] theorem setUpd_nextPkt (s : State) (n : Nat) : (s.setUpd n).nextPkt = s.nextPkt := rfl
@[simp] theorem setUpd_wir (s : State) (n : Nat) : (s.setUpd n).wir = s.wir := rfl
@[simp] theorem setUpd_tapIr (s : State) (n : Nat) : (s.setUpd n).tapIr = s.tapIr := rfl
@[simp] theorem setUpd_boundary (s : State) (n : Nat) : (s.setUpd n).boundary = s.boundary := rfl
@[simp] theorem setUpd_rtWas (s : State) (n : Nat) : (s.setUpd n).rtWas = s.rtWas := rfl
@[simp] theorem setUpd_retired (s : State) (n : Nat) : (s.setUpd n).retired = s.retired := rfl
@[simp] theorem setUpd_share (s : State) (n : Nat) : (s.setUpd n).share = s.share := rfl
@[simp] theorem setUpd_once (s : State) (n : Nat) : (s.setUpd n).once = s.once := rfl
@[simp] theorem setUpd_subst (s : State) (n : Nat) : (s.setUpd n).subst = s.subst := rfl
@[simp] theorem setUpd_groups (s : State) (n : Nat) : (s.setUpd n).groups = s.groups := rfl
@[simp] theorem setUpd_wload (s : State) (n : Nat) : (s.setUpd n).wload = s.wload := rfl
@[simp] theorem setUpd_pilot (s : State) (n : Nat) : (s.setUpd n).pilot = s.pilot := rfl
@[simp] theorem setUpd_boot (s : State) (n : Nat) : (s.setUpd n).boot = s.boot := rfl
@[simp] theorem setUpd_update (s : State) (n : Nat) : (s.setUpd n).update = s.update := rfl
@[simp] theorem setUpd_link (s : State) (n : Nat) : (s.setUpd n).link = s.link := rfl
@[simp] theorem setUpd_convoy (s : State) (n : Nat) : (s.setUpd n).convoy = s.convoy := rfl
@[simp] theorem setUpd_capStamp (s : State) (n : Nat) : (s.setUpd n).capStamp = s.capStamp := rfl
@[simp] theorem setUpd_scan (s : State) (n : Nat) : (s.setUpd n).scan = s.scan := rfl
@[simp] theorem setUpd_lifeline (s : State) (n : Nat) : (s.setUpd n).lifeline = s.lifeline := rfl
@[simp] theorem setUpd_lifelineAt (s : State) (n : Nat) : (s.setUpd n).lifelineAt = s.lifelineAt := rfl
@[simp] theorem setUpd_testEn (s : State) (n : Nat) : (s.setUpd n).testEn = s.testEn := rfl
@[simp] theorem setUpd_slipMode (s : State) (n : Nat) : (s.setUpd n).slipMode = s.slipMode := rfl
@[simp] theorem setUpd_rootKey (s : State) (n : Nat) : (s.setUpd n).rootKey = s.rootKey := rfl
@[simp] theorem setUpd_uniqueId (s : State) (n : Nat) : (s.setUpd n).uniqueId = s.uniqueId := rfl
@[simp] theorem setUpd_quayPs (s : State) (n : Nat) : (s.setUpd n).quayPs = s.quayPs := rfl

@[simp] theorem recordFault_pending (s : State) (p c : Nat) (i : Word) : (s.recordFault p c i).pending = s.pending := by unfold recordFault; dsimp only; split <;> rfl
@[simp] theorem recordFault_clk (s : State) (p c : Nat) (i : Word) : (s.recordFault p c i).clk = s.clk := by unfold recordFault; dsimp only; split <;> rfl
@[simp] theorem recordFault_build (s : State) (p c : Nat) (i : Word) : (s.recordFault p c i).build = s.build := by unfold recordFault; dsimp only; split <;> rfl
@[simp] theorem recordFault_core (s : State) (p c : Nat) (i : Word) : (s.recordFault p c i).core = s.core := by unfold recordFault; dsimp only; split <;> rfl
@[simp] theorem recordFault_region (s : State) (p c : Nat) (i : Word) : (s.recordFault p c i).region = s.region := by unfold recordFault; dsimp only; split <;> rfl
@[simp] theorem recordFault_ctx (s : State) (p c : Nat) (i : Word) : (s.recordFault p c i).ctx = s.ctx := by unfold recordFault; dsimp only; split <;> rfl
@[simp] theorem recordFault_queue (s : State) (p c : Nat) (i : Word) : (s.recordFault p c i).queue = s.queue := by unfold recordFault; dsimp only; split <;> rfl
@[simp] theorem recordFault_bbol (s : State) (p c : Nat) (i : Word) : (s.recordFault p c i).bbol = s.bbol := by unfold recordFault; dsimp only; split <;> rfl
@[simp] theorem recordFault_hostMem (s : State) (p c : Nat) (i : Word) : (s.recordFault p c i).hostMem = s.hostMem := by unfold recordFault; dsimp only; split <;> rfl
@[simp] theorem recordFault_devMem (s : State) (p c : Nat) (i : Word) : (s.recordFault p c i).devMem = s.devMem := by unfold recordFault; dsimp only; split <;> rfl
@[simp] theorem recordFault_rdata (s : State) (p c : Nat) (i : Word) : (s.recordFault p c i).rdata = s.rdata := by unfold recordFault; dsimp only; split <;> rfl
@[simp] theorem recordFault_flog (s : State) (p c : Nat) (i : Word) : (s.recordFault p c i).flog = s.flog := by unfold recordFault; dsimp only; split <;> rfl
@[simp] theorem recordFault_inReset (s : State) (p c : Nat) (i : Word) : (s.recordFault p c i).inReset = s.inReset := by unfold recordFault; dsimp only; split <;> rfl
@[simp] theorem recordFault_quiet (s : State) (p c : Nat) (i : Word) : (s.recordFault p c i).quiet = s.quiet := by unfold recordFault; dsimp only; split <;> rfl
@[simp] theorem recordFault_staged (s : State) (p c : Nat) (i : Word) : (s.recordFault p c i).staged = s.staged := by unfold recordFault; dsimp only; split <;> rfl
@[simp] theorem recordFault_latched (s : State) (p c : Nat) (i : Word) : (s.recordFault p c i).latched = s.latched := by unfold recordFault; dsimp only; split <;> rfl
@[simp] theorem recordFault_select (s : State) (p c : Nat) (i : Word) : (s.recordFault p c i).select = s.select := by unfold recordFault; dsimp only; split <;> rfl
@[simp] theorem recordFault_quays (s : State) (p c : Nat) (i : Word) : (s.recordFault p c i).quays = s.quays := by unfold recordFault; dsimp only; split <;> rfl
@[simp] theorem recordFault_remote (s : State) (p c : Nat) (i : Word) : (s.recordFault p c i).remote = s.remote := by unfold recordFault; dsimp only; split <;> rfl
@[simp] theorem recordFault_nextId (s : State) (p c : Nat) (i : Word) : (s.recordFault p c i).nextId = s.nextId := by unfold recordFault; dsimp only; split <;> rfl
@[simp] theorem recordFault_bbolIn (s : State) (p c : Nat) (i : Word) : (s.recordFault p c i).bbolIn = s.bbolIn := by unfold recordFault; dsimp only; split <;> rfl
@[simp] theorem recordFault_bbolNow (s : State) (p c : Nat) (i : Word) : (s.recordFault p c i).bbolNow = s.bbolNow := by unfold recordFault; dsimp only; split <;> rfl
@[simp] theorem recordFault_carve (s : State) (p c : Nat) (i : Word) : (s.recordFault p c i).carve = s.carve := by unfold recordFault; dsimp only; split <;> rfl
@[simp] theorem recordFault_net (s : State) (p c : Nat) (i : Word) : (s.recordFault p c i).net = s.net := by unfold recordFault; dsimp only; split <;> rfl
@[simp] theorem recordFault_nextPkt (s : State) (p c : Nat) (i : Word) : (s.recordFault p c i).nextPkt = s.nextPkt := by unfold recordFault; dsimp only; split <;> rfl
@[simp] theorem recordFault_wir (s : State) (p c : Nat) (i : Word) : (s.recordFault p c i).wir = s.wir := by unfold recordFault; dsimp only; split <;> rfl
@[simp] theorem recordFault_tapIr (s : State) (p c : Nat) (i : Word) : (s.recordFault p c i).tapIr = s.tapIr := by unfold recordFault; dsimp only; split <;> rfl
@[simp] theorem recordFault_boundary (s : State) (p c : Nat) (i : Word) : (s.recordFault p c i).boundary = s.boundary := by unfold recordFault; dsimp only; split <;> rfl
@[simp] theorem recordFault_rtWas (s : State) (p c : Nat) (i : Word) : (s.recordFault p c i).rtWas = s.rtWas := by unfold recordFault; dsimp only; split <;> rfl
@[simp] theorem recordFault_retired (s : State) (p c : Nat) (i : Word) : (s.recordFault p c i).retired = s.retired := by unfold recordFault; dsimp only; split <;> rfl
@[simp] theorem recordFault_share (s : State) (p c : Nat) (i : Word) : (s.recordFault p c i).share = s.share := by unfold recordFault; dsimp only; split <;> rfl
@[simp] theorem recordFault_once (s : State) (p c : Nat) (i : Word) : (s.recordFault p c i).once = s.once := by unfold recordFault; dsimp only; split <;> rfl
@[simp] theorem recordFault_subst (s : State) (p c : Nat) (i : Word) : (s.recordFault p c i).subst = s.subst := by unfold recordFault; dsimp only; split <;> rfl
@[simp] theorem recordFault_groups (s : State) (p c : Nat) (i : Word) : (s.recordFault p c i).groups = s.groups := by unfold recordFault; dsimp only; split <;> rfl
@[simp] theorem recordFault_wload (s : State) (p c : Nat) (i : Word) : (s.recordFault p c i).wload = s.wload := by unfold recordFault; dsimp only; split <;> rfl
@[simp] theorem recordFault_pilot (s : State) (p c : Nat) (i : Word) : (s.recordFault p c i).pilot = s.pilot := by unfold recordFault; dsimp only; split <;> rfl
@[simp] theorem recordFault_boot (s : State) (p c : Nat) (i : Word) : (s.recordFault p c i).boot = s.boot := by unfold recordFault; dsimp only; split <;> rfl
@[simp] theorem recordFault_update (s : State) (p c : Nat) (i : Word) : (s.recordFault p c i).update = s.update := by unfold recordFault; dsimp only; split <;> rfl
@[simp] theorem recordFault_link (s : State) (p c : Nat) (i : Word) : (s.recordFault p c i).link = s.link := by unfold recordFault; dsimp only; split <;> rfl
@[simp] theorem recordFault_convoy (s : State) (p c : Nat) (i : Word) : (s.recordFault p c i).convoy = s.convoy := by unfold recordFault; dsimp only; split <;> rfl
@[simp] theorem recordFault_capStamp (s : State) (p c : Nat) (i : Word) : (s.recordFault p c i).capStamp = s.capStamp := by unfold recordFault; dsimp only; split <;> rfl
@[simp] theorem recordFault_scan (s : State) (p c : Nat) (i : Word) : (s.recordFault p c i).scan = s.scan := by unfold recordFault; dsimp only; split <;> rfl
@[simp] theorem recordFault_lifeline (s : State) (p c : Nat) (i : Word) : (s.recordFault p c i).lifeline = s.lifeline := by unfold recordFault; dsimp only; split <;> rfl
@[simp] theorem recordFault_lifelineAt (s : State) (p c : Nat) (i : Word) : (s.recordFault p c i).lifelineAt = s.lifelineAt := by unfold recordFault; dsimp only; split <;> rfl
@[simp] theorem recordFault_testEn (s : State) (p c : Nat) (i : Word) : (s.recordFault p c i).testEn = s.testEn := by unfold recordFault; dsimp only; split <;> rfl
@[simp] theorem recordFault_slipMode (s : State) (p c : Nat) (i : Word) : (s.recordFault p c i).slipMode = s.slipMode := by unfold recordFault; dsimp only; split <;> rfl
@[simp] theorem recordFault_rootKey (s : State) (p c : Nat) (i : Word) : (s.recordFault p c i).rootKey = s.rootKey := by unfold recordFault; dsimp only; split <;> rfl
@[simp] theorem recordFault_uniqueId (s : State) (p c : Nat) (i : Word) : (s.recordFault p c i).uniqueId = s.uniqueId := by unfold recordFault; dsimp only; split <;> rfl
@[simp] theorem recordFault_quayPs (s : State) (p c : Nat) (i : Word) : (s.recordFault p c i).quayPs = s.quayPs := by unfold recordFault; dsimp only; split <;> rfl

@[simp] theorem accept_pending (s : State) (p : Nat) : (s.accept p).pending = s.pending := rfl
@[simp] theorem accept_clk (s : State) (p : Nat) : (s.accept p).clk = s.clk := rfl
@[simp] theorem accept_build (s : State) (p : Nat) : (s.accept p).build = s.build := rfl
@[simp] theorem accept_core (s : State) (p : Nat) : (s.accept p).core = s.core := rfl
@[simp] theorem accept_region (s : State) (p : Nat) : (s.accept p).region = s.region := rfl
@[simp] theorem accept_ctx (s : State) (p : Nat) : (s.accept p).ctx = s.ctx := rfl
@[simp] theorem accept_queue (s : State) (p : Nat) : (s.accept p).queue = s.queue := rfl
@[simp] theorem accept_bbol (s : State) (p : Nat) : (s.accept p).bbol = s.bbol := rfl
@[simp] theorem accept_hostMem (s : State) (p : Nat) : (s.accept p).hostMem = s.hostMem := rfl
@[simp] theorem accept_devMem (s : State) (p : Nat) : (s.accept p).devMem = s.devMem := rfl
@[simp] theorem accept_rdata (s : State) (p : Nat) : (s.accept p).rdata = s.rdata := rfl
@[simp] theorem accept_flog (s : State) (p : Nat) : (s.accept p).flog = s.flog := rfl
@[simp] theorem accept_inReset (s : State) (p : Nat) : (s.accept p).inReset = s.inReset := rfl
@[simp] theorem accept_quiet (s : State) (p : Nat) : (s.accept p).quiet = s.quiet := rfl
@[simp] theorem accept_staged (s : State) (p : Nat) : (s.accept p).staged = s.staged := rfl
@[simp] theorem accept_latched (s : State) (p : Nat) : (s.accept p).latched = s.latched := rfl
@[simp] theorem accept_select (s : State) (p : Nat) : (s.accept p).select = s.select := rfl
@[simp] theorem accept_quays (s : State) (p : Nat) : (s.accept p).quays = s.quays := rfl
@[simp] theorem accept_remote (s : State) (p : Nat) : (s.accept p).remote = s.remote := rfl
@[simp] theorem accept_nextId (s : State) (p : Nat) : (s.accept p).nextId = s.nextId := rfl
@[simp] theorem accept_bbolIn (s : State) (p : Nat) : (s.accept p).bbolIn = s.bbolIn := rfl
@[simp] theorem accept_bbolNow (s : State) (p : Nat) : (s.accept p).bbolNow = s.bbolNow := rfl
@[simp] theorem accept_carve (s : State) (p : Nat) : (s.accept p).carve = s.carve := rfl
@[simp] theorem accept_net (s : State) (p : Nat) : (s.accept p).net = s.net := rfl
@[simp] theorem accept_nextPkt (s : State) (p : Nat) : (s.accept p).nextPkt = s.nextPkt := rfl
@[simp] theorem accept_wir (s : State) (p : Nat) : (s.accept p).wir = s.wir := rfl
@[simp] theorem accept_tapIr (s : State) (p : Nat) : (s.accept p).tapIr = s.tapIr := rfl
@[simp] theorem accept_boundary (s : State) (p : Nat) : (s.accept p).boundary = s.boundary := rfl
@[simp] theorem accept_rtWas (s : State) (p : Nat) : (s.accept p).rtWas = s.rtWas := rfl
@[simp] theorem accept_retired (s : State) (p : Nat) : (s.accept p).retired = s.retired := rfl
@[simp] theorem accept_share (s : State) (p : Nat) : (s.accept p).share = s.share := rfl
@[simp] theorem accept_once (s : State) (p : Nat) : (s.accept p).once = s.once := rfl
@[simp] theorem accept_subst (s : State) (p : Nat) : (s.accept p).subst = s.subst := rfl
@[simp] theorem accept_groups (s : State) (p : Nat) : (s.accept p).groups = s.groups := rfl
@[simp] theorem accept_wload (s : State) (p : Nat) : (s.accept p).wload = s.wload := rfl
@[simp] theorem accept_pilot (s : State) (p : Nat) : (s.accept p).pilot = s.pilot := rfl
@[simp] theorem accept_boot (s : State) (p : Nat) : (s.accept p).boot = s.boot := rfl
@[simp] theorem accept_update (s : State) (p : Nat) : (s.accept p).update = s.update := rfl
@[simp] theorem accept_link (s : State) (p : Nat) : (s.accept p).link = s.link := rfl
@[simp] theorem accept_convoy (s : State) (p : Nat) : (s.accept p).convoy = s.convoy := rfl
@[simp] theorem accept_capStamp (s : State) (p : Nat) : (s.accept p).capStamp = s.capStamp := rfl
@[simp] theorem accept_scan (s : State) (p : Nat) : (s.accept p).scan = s.scan := rfl
@[simp] theorem accept_lifeline (s : State) (p : Nat) : (s.accept p).lifeline = s.lifeline := rfl
@[simp] theorem accept_lifelineAt (s : State) (p : Nat) : (s.accept p).lifelineAt = s.lifelineAt := rfl
@[simp] theorem accept_testEn (s : State) (p : Nat) : (s.accept p).testEn = s.testEn := rfl
@[simp] theorem accept_slipMode (s : State) (p : Nat) : (s.accept p).slipMode = s.slipMode := rfl
@[simp] theorem accept_rootKey (s : State) (p : Nat) : (s.accept p).rootKey = s.rootKey := rfl
@[simp] theorem accept_uniqueId (s : State) (p : Nat) : (s.accept p).uniqueId = s.uniqueId := rfl
@[simp] theorem accept_quayPs (s : State) (p : Nat) : (s.accept p).quayPs = s.quayPs := rfl

/-! The report of a fault changes registers, `flog` and `once`. -/

/-- The state with other registers, log of faults and log times. -/
def withLog (s : State) (r : Tab Word) (f : Tab (BitVec 128)) (o : Tab Nat) : State :=
  { s with reg := r, flog := f, once := o }

/-- `t` is `s` but for registers, the log of faults and log times. -/
def LogOnly (s t : State) : Prop := ∃ r f o, t = s.withLog r f o

theorem LogOnly.refl (s : State) : LogOnly s s := ⟨_, _, _, rfl⟩
theorem LogOnly.wr {s t : State} (h : LogOnly s t) (a : Nat) (v : Word) : LogOnly s (t.wr a v) := by
  obtain ⟨r, f, o, rfl⟩ := h; exact ⟨_, _, _, rfl⟩
theorem LogOnly.event {s t : State} (h : LogOnly s t) (p b : Nat) : LogOnly s (t.event p b) := h.wr _ _
theorem LogOnly.count {s t : State} (h : LogOnly s t) (a n : Nat) : LogOnly s (t.count a n) := by
  unfold State.count; split
  · exact h
  · exact h.wr _ _
theorem LogOnly.flog {s t : State} (h : LogOnly s t) (x : Tab (BitVec 128)) : LogOnly s { t with flog := x } := by
  obtain ⟨r, f, o, rfl⟩ := h; exact ⟨_, _, _, rfl⟩
theorem LogOnly.once {s t : State} (h : LogOnly s t) (x : Tab Nat) : LogOnly s { t with once := x } := by
  obtain ⟨r, f, o, rfl⟩ := h; exact ⟨_, _, _, rfl⟩
theorem LogOnly.ite {s t u : State} {c : Prop} [Decidable c] (h : LogOnly s t) (k : LogOnly s u) :
    LogOnly s (if c then t else u) := by split <;> assumption
theorem LogOnly.trans {s t u : State} (h : LogOnly s t) (k : LogOnly t u) : LogOnly s u := by
  obtain ⟨r, f, o, rfl⟩ := h; obtain ⟨r, f, o, rfl⟩ := k; exact ⟨_, _, _, rfl⟩

theorem logEntry_log (s : State) (p c : Nat) (i : Word) (x : Option Nat) (o : Nat) : LogOnly s (s.logEntry p c i x o) := by
  unfold logEntry
  extract_lets w l pg e s1 s2 s3 s4 s5 s6
  have h2 : LogOnly s s2 := ((LogOnly.refl s).flog _).wr _ _
  have h3 : LogOnly s s3 := by
    unfold s3; split
    · exact ((h2.count _ _).event _ _).wr _ _
    · exact h2
  have h4 : LogOnly s s4 := h3.event _ _
  have h5 : LogOnly s s5 := (h4.event _ _).ite h4
  have h6 : LogOnly s s6 := (h5.event _ _).ite h5
  exact (h6.event _ _).ite h6

theorem logFault_log (s : State) (p c : Nat) (i : Word) (x : Option Nat) (o : Nat) : LogOnly s (s.logFault p c i x o) := by
  unfold logFault; dsimp only
  split
  · split
    · exact .refl s
    · exact ((LogOnly.refl s).once _).trans (logEntry_log _ _ _ _ _ _)
  · exact logEntry_log _ _ _ _ _ _

theorem recordFault_log (s : State) (p c : Nat) (i : Word) : LogOnly s (s.recordFault p c i) := by
  unfold recordFault; dsimp only
  split
  · exact ((LogOnly.refl s).wr _ _).wr _ _
  · exact (((LogOnly.refl s).wr _ _).wr _ _).event _ _

theorem raise_log (s : State) (p c : Nat) (i : Word) (x : Option Nat) (o : Nat) : LogOnly s (s.raise p c i x o) :=
  (recordFault_log s p c i).trans (logFault_log _ _ _ _ _ _)

@[simp] theorem logEntry_pending (s : State) (p c : Nat) (i : Word) (x : Option Nat) (o : Nat) : (s.logEntry p c i x o).pending = s.pending := by
  obtain ⟨r, g, t, h⟩ := logEntry_log s p c i x o; rw [h]; rfl
@[simp] theorem logEntry_clk (s : State) (p c : Nat) (i : Word) (x : Option Nat) (o : Nat) : (s.logEntry p c i x o).clk = s.clk := by
  obtain ⟨r, g, t, h⟩ := logEntry_log s p c i x o; rw [h]; rfl
@[simp] theorem logEntry_build (s : State) (p c : Nat) (i : Word) (x : Option Nat) (o : Nat) : (s.logEntry p c i x o).build = s.build := by
  obtain ⟨r, g, t, h⟩ := logEntry_log s p c i x o; rw [h]; rfl
@[simp] theorem logEntry_core (s : State) (p c : Nat) (i : Word) (x : Option Nat) (o : Nat) : (s.logEntry p c i x o).core = s.core := by
  obtain ⟨r, g, t, h⟩ := logEntry_log s p c i x o; rw [h]; rfl
@[simp] theorem logEntry_region (s : State) (p c : Nat) (i : Word) (x : Option Nat) (o : Nat) : (s.logEntry p c i x o).region = s.region := by
  obtain ⟨r, g, t, h⟩ := logEntry_log s p c i x o; rw [h]; rfl
@[simp] theorem logEntry_ctx (s : State) (p c : Nat) (i : Word) (x : Option Nat) (o : Nat) : (s.logEntry p c i x o).ctx = s.ctx := by
  obtain ⟨r, g, t, h⟩ := logEntry_log s p c i x o; rw [h]; rfl
@[simp] theorem logEntry_queue (s : State) (p c : Nat) (i : Word) (x : Option Nat) (o : Nat) : (s.logEntry p c i x o).queue = s.queue := by
  obtain ⟨r, g, t, h⟩ := logEntry_log s p c i x o; rw [h]; rfl
@[simp] theorem logEntry_bbol (s : State) (p c : Nat) (i : Word) (x : Option Nat) (o : Nat) : (s.logEntry p c i x o).bbol = s.bbol := by
  obtain ⟨r, g, t, h⟩ := logEntry_log s p c i x o; rw [h]; rfl
@[simp] theorem logEntry_hostMem (s : State) (p c : Nat) (i : Word) (x : Option Nat) (o : Nat) : (s.logEntry p c i x o).hostMem = s.hostMem := by
  obtain ⟨r, g, t, h⟩ := logEntry_log s p c i x o; rw [h]; rfl
@[simp] theorem logEntry_devMem (s : State) (p c : Nat) (i : Word) (x : Option Nat) (o : Nat) : (s.logEntry p c i x o).devMem = s.devMem := by
  obtain ⟨r, g, t, h⟩ := logEntry_log s p c i x o; rw [h]; rfl
@[simp] theorem logEntry_rdata (s : State) (p c : Nat) (i : Word) (x : Option Nat) (o : Nat) : (s.logEntry p c i x o).rdata = s.rdata := by
  obtain ⟨r, g, t, h⟩ := logEntry_log s p c i x o; rw [h]; rfl
@[simp] theorem logEntry_inReset (s : State) (p c : Nat) (i : Word) (x : Option Nat) (o : Nat) : (s.logEntry p c i x o).inReset = s.inReset := by
  obtain ⟨r, g, t, h⟩ := logEntry_log s p c i x o; rw [h]; rfl
@[simp] theorem logEntry_quiet (s : State) (p c : Nat) (i : Word) (x : Option Nat) (o : Nat) : (s.logEntry p c i x o).quiet = s.quiet := by
  obtain ⟨r, g, t, h⟩ := logEntry_log s p c i x o; rw [h]; rfl
@[simp] theorem logEntry_staged (s : State) (p c : Nat) (i : Word) (x : Option Nat) (o : Nat) : (s.logEntry p c i x o).staged = s.staged := by
  obtain ⟨r, g, t, h⟩ := logEntry_log s p c i x o; rw [h]; rfl
@[simp] theorem logEntry_latched (s : State) (p c : Nat) (i : Word) (x : Option Nat) (o : Nat) : (s.logEntry p c i x o).latched = s.latched := by
  obtain ⟨r, g, t, h⟩ := logEntry_log s p c i x o; rw [h]; rfl
@[simp] theorem logEntry_select (s : State) (p c : Nat) (i : Word) (x : Option Nat) (o : Nat) : (s.logEntry p c i x o).select = s.select := by
  obtain ⟨r, g, t, h⟩ := logEntry_log s p c i x o; rw [h]; rfl
@[simp] theorem logEntry_quays (s : State) (p c : Nat) (i : Word) (x : Option Nat) (o : Nat) : (s.logEntry p c i x o).quays = s.quays := by
  obtain ⟨r, g, t, h⟩ := logEntry_log s p c i x o; rw [h]; rfl
@[simp] theorem logEntry_remote (s : State) (p c : Nat) (i : Word) (x : Option Nat) (o : Nat) : (s.logEntry p c i x o).remote = s.remote := by
  obtain ⟨r, g, t, h⟩ := logEntry_log s p c i x o; rw [h]; rfl
@[simp] theorem logEntry_nextId (s : State) (p c : Nat) (i : Word) (x : Option Nat) (o : Nat) : (s.logEntry p c i x o).nextId = s.nextId := by
  obtain ⟨r, g, t, h⟩ := logEntry_log s p c i x o; rw [h]; rfl
@[simp] theorem logEntry_bbolIn (s : State) (p c : Nat) (i : Word) (x : Option Nat) (o : Nat) : (s.logEntry p c i x o).bbolIn = s.bbolIn := by
  obtain ⟨r, g, t, h⟩ := logEntry_log s p c i x o; rw [h]; rfl
@[simp] theorem logEntry_bbolNow (s : State) (p c : Nat) (i : Word) (x : Option Nat) (o : Nat) : (s.logEntry p c i x o).bbolNow = s.bbolNow := by
  obtain ⟨r, g, t, h⟩ := logEntry_log s p c i x o; rw [h]; rfl
@[simp] theorem logEntry_carve (s : State) (p c : Nat) (i : Word) (x : Option Nat) (o : Nat) : (s.logEntry p c i x o).carve = s.carve := by
  obtain ⟨r, g, t, h⟩ := logEntry_log s p c i x o; rw [h]; rfl
@[simp] theorem logEntry_net (s : State) (p c : Nat) (i : Word) (x : Option Nat) (o : Nat) : (s.logEntry p c i x o).net = s.net := by
  obtain ⟨r, g, t, h⟩ := logEntry_log s p c i x o; rw [h]; rfl
@[simp] theorem logEntry_nextPkt (s : State) (p c : Nat) (i : Word) (x : Option Nat) (o : Nat) : (s.logEntry p c i x o).nextPkt = s.nextPkt := by
  obtain ⟨r, g, t, h⟩ := logEntry_log s p c i x o; rw [h]; rfl
@[simp] theorem logEntry_wir (s : State) (p c : Nat) (i : Word) (x : Option Nat) (o : Nat) : (s.logEntry p c i x o).wir = s.wir := by
  obtain ⟨r, g, t, h⟩ := logEntry_log s p c i x o; rw [h]; rfl
@[simp] theorem logEntry_tapIr (s : State) (p c : Nat) (i : Word) (x : Option Nat) (o : Nat) : (s.logEntry p c i x o).tapIr = s.tapIr := by
  obtain ⟨r, g, t, h⟩ := logEntry_log s p c i x o; rw [h]; rfl
@[simp] theorem logEntry_boundary (s : State) (p c : Nat) (i : Word) (x : Option Nat) (o : Nat) : (s.logEntry p c i x o).boundary = s.boundary := by
  obtain ⟨r, g, t, h⟩ := logEntry_log s p c i x o; rw [h]; rfl
@[simp] theorem logEntry_rtWas (s : State) (p c : Nat) (i : Word) (x : Option Nat) (o : Nat) : (s.logEntry p c i x o).rtWas = s.rtWas := by
  obtain ⟨r, g, t, h⟩ := logEntry_log s p c i x o; rw [h]; rfl
@[simp] theorem logEntry_retired (s : State) (p c : Nat) (i : Word) (x : Option Nat) (o : Nat) : (s.logEntry p c i x o).retired = s.retired := by
  obtain ⟨r, g, t, h⟩ := logEntry_log s p c i x o; rw [h]; rfl
@[simp] theorem logEntry_share (s : State) (p c : Nat) (i : Word) (x : Option Nat) (o : Nat) : (s.logEntry p c i x o).share = s.share := by
  obtain ⟨r, g, t, h⟩ := logEntry_log s p c i x o; rw [h]; rfl
@[simp] theorem logEntry_subst (s : State) (p c : Nat) (i : Word) (x : Option Nat) (o : Nat) : (s.logEntry p c i x o).subst = s.subst := by
  obtain ⟨r, g, t, h⟩ := logEntry_log s p c i x o; rw [h]; rfl
@[simp] theorem logEntry_groups (s : State) (p c : Nat) (i : Word) (x : Option Nat) (o : Nat) : (s.logEntry p c i x o).groups = s.groups := by
  obtain ⟨r, g, t, h⟩ := logEntry_log s p c i x o; rw [h]; rfl
@[simp] theorem logEntry_wload (s : State) (p c : Nat) (i : Word) (x : Option Nat) (o : Nat) : (s.logEntry p c i x o).wload = s.wload := by
  obtain ⟨r, g, t, h⟩ := logEntry_log s p c i x o; rw [h]; rfl
@[simp] theorem logEntry_pilot (s : State) (p c : Nat) (i : Word) (x : Option Nat) (o : Nat) : (s.logEntry p c i x o).pilot = s.pilot := by
  obtain ⟨r, g, t, h⟩ := logEntry_log s p c i x o; rw [h]; rfl
@[simp] theorem logEntry_boot (s : State) (p c : Nat) (i : Word) (x : Option Nat) (o : Nat) : (s.logEntry p c i x o).boot = s.boot := by
  obtain ⟨r, g, t, h⟩ := logEntry_log s p c i x o; rw [h]; rfl
@[simp] theorem logEntry_update (s : State) (p c : Nat) (i : Word) (x : Option Nat) (o : Nat) : (s.logEntry p c i x o).update = s.update := by
  obtain ⟨r, g, t, h⟩ := logEntry_log s p c i x o; rw [h]; rfl
@[simp] theorem logEntry_link (s : State) (p c : Nat) (i : Word) (x : Option Nat) (o : Nat) : (s.logEntry p c i x o).link = s.link := by
  obtain ⟨r, g, t, h⟩ := logEntry_log s p c i x o; rw [h]; rfl
@[simp] theorem logEntry_convoy (s : State) (p c : Nat) (i : Word) (x : Option Nat) (o : Nat) : (s.logEntry p c i x o).convoy = s.convoy := by
  obtain ⟨r, g, t, h⟩ := logEntry_log s p c i x o; rw [h]; rfl
@[simp] theorem logEntry_capStamp (s : State) (p c : Nat) (i : Word) (x : Option Nat) (o : Nat) : (s.logEntry p c i x o).capStamp = s.capStamp := by
  obtain ⟨r, g, t, h⟩ := logEntry_log s p c i x o; rw [h]; rfl
@[simp] theorem logEntry_scan (s : State) (p c : Nat) (i : Word) (x : Option Nat) (o : Nat) : (s.logEntry p c i x o).scan = s.scan := by
  obtain ⟨r, g, t, h⟩ := logEntry_log s p c i x o; rw [h]; rfl
@[simp] theorem logEntry_lifeline (s : State) (p c : Nat) (i : Word) (x : Option Nat) (o : Nat) : (s.logEntry p c i x o).lifeline = s.lifeline := by
  obtain ⟨r, g, t, h⟩ := logEntry_log s p c i x o; rw [h]; rfl
@[simp] theorem logEntry_lifelineAt (s : State) (p c : Nat) (i : Word) (x : Option Nat) (o : Nat) : (s.logEntry p c i x o).lifelineAt = s.lifelineAt := by
  obtain ⟨r, g, t, h⟩ := logEntry_log s p c i x o; rw [h]; rfl
@[simp] theorem logEntry_testEn (s : State) (p c : Nat) (i : Word) (x : Option Nat) (o : Nat) : (s.logEntry p c i x o).testEn = s.testEn := by
  obtain ⟨r, g, t, h⟩ := logEntry_log s p c i x o; rw [h]; rfl
@[simp] theorem logEntry_slipMode (s : State) (p c : Nat) (i : Word) (x : Option Nat) (o : Nat) : (s.logEntry p c i x o).slipMode = s.slipMode := by
  obtain ⟨r, g, t, h⟩ := logEntry_log s p c i x o; rw [h]; rfl
@[simp] theorem logEntry_rootKey (s : State) (p c : Nat) (i : Word) (x : Option Nat) (o : Nat) : (s.logEntry p c i x o).rootKey = s.rootKey := by
  obtain ⟨r, g, t, h⟩ := logEntry_log s p c i x o; rw [h]; rfl
@[simp] theorem logEntry_uniqueId (s : State) (p c : Nat) (i : Word) (x : Option Nat) (o : Nat) : (s.logEntry p c i x o).uniqueId = s.uniqueId := by
  obtain ⟨r, g, t, h⟩ := logEntry_log s p c i x o; rw [h]; rfl
@[simp] theorem logEntry_quayPs (s : State) (p c : Nat) (i : Word) (x : Option Nat) (o : Nat) : (s.logEntry p c i x o).quayPs = s.quayPs := by
  obtain ⟨r, g, t, h⟩ := logEntry_log s p c i x o; rw [h]; rfl

@[simp] theorem logFault_pending (s : State) (p c : Nat) (i : Word) (x : Option Nat) (o : Nat) : (s.logFault p c i x o).pending = s.pending := by
  obtain ⟨r, g, t, h⟩ := logFault_log s p c i x o; rw [h]; rfl
@[simp] theorem logFault_clk (s : State) (p c : Nat) (i : Word) (x : Option Nat) (o : Nat) : (s.logFault p c i x o).clk = s.clk := by
  obtain ⟨r, g, t, h⟩ := logFault_log s p c i x o; rw [h]; rfl
@[simp] theorem logFault_build (s : State) (p c : Nat) (i : Word) (x : Option Nat) (o : Nat) : (s.logFault p c i x o).build = s.build := by
  obtain ⟨r, g, t, h⟩ := logFault_log s p c i x o; rw [h]; rfl
@[simp] theorem logFault_core (s : State) (p c : Nat) (i : Word) (x : Option Nat) (o : Nat) : (s.logFault p c i x o).core = s.core := by
  obtain ⟨r, g, t, h⟩ := logFault_log s p c i x o; rw [h]; rfl
@[simp] theorem logFault_region (s : State) (p c : Nat) (i : Word) (x : Option Nat) (o : Nat) : (s.logFault p c i x o).region = s.region := by
  obtain ⟨r, g, t, h⟩ := logFault_log s p c i x o; rw [h]; rfl
@[simp] theorem logFault_ctx (s : State) (p c : Nat) (i : Word) (x : Option Nat) (o : Nat) : (s.logFault p c i x o).ctx = s.ctx := by
  obtain ⟨r, g, t, h⟩ := logFault_log s p c i x o; rw [h]; rfl
@[simp] theorem logFault_queue (s : State) (p c : Nat) (i : Word) (x : Option Nat) (o : Nat) : (s.logFault p c i x o).queue = s.queue := by
  obtain ⟨r, g, t, h⟩ := logFault_log s p c i x o; rw [h]; rfl
@[simp] theorem logFault_bbol (s : State) (p c : Nat) (i : Word) (x : Option Nat) (o : Nat) : (s.logFault p c i x o).bbol = s.bbol := by
  obtain ⟨r, g, t, h⟩ := logFault_log s p c i x o; rw [h]; rfl
@[simp] theorem logFault_hostMem (s : State) (p c : Nat) (i : Word) (x : Option Nat) (o : Nat) : (s.logFault p c i x o).hostMem = s.hostMem := by
  obtain ⟨r, g, t, h⟩ := logFault_log s p c i x o; rw [h]; rfl
@[simp] theorem logFault_devMem (s : State) (p c : Nat) (i : Word) (x : Option Nat) (o : Nat) : (s.logFault p c i x o).devMem = s.devMem := by
  obtain ⟨r, g, t, h⟩ := logFault_log s p c i x o; rw [h]; rfl
@[simp] theorem logFault_rdata (s : State) (p c : Nat) (i : Word) (x : Option Nat) (o : Nat) : (s.logFault p c i x o).rdata = s.rdata := by
  obtain ⟨r, g, t, h⟩ := logFault_log s p c i x o; rw [h]; rfl
@[simp] theorem logFault_inReset (s : State) (p c : Nat) (i : Word) (x : Option Nat) (o : Nat) : (s.logFault p c i x o).inReset = s.inReset := by
  obtain ⟨r, g, t, h⟩ := logFault_log s p c i x o; rw [h]; rfl
@[simp] theorem logFault_quiet (s : State) (p c : Nat) (i : Word) (x : Option Nat) (o : Nat) : (s.logFault p c i x o).quiet = s.quiet := by
  obtain ⟨r, g, t, h⟩ := logFault_log s p c i x o; rw [h]; rfl
@[simp] theorem logFault_staged (s : State) (p c : Nat) (i : Word) (x : Option Nat) (o : Nat) : (s.logFault p c i x o).staged = s.staged := by
  obtain ⟨r, g, t, h⟩ := logFault_log s p c i x o; rw [h]; rfl
@[simp] theorem logFault_latched (s : State) (p c : Nat) (i : Word) (x : Option Nat) (o : Nat) : (s.logFault p c i x o).latched = s.latched := by
  obtain ⟨r, g, t, h⟩ := logFault_log s p c i x o; rw [h]; rfl
@[simp] theorem logFault_select (s : State) (p c : Nat) (i : Word) (x : Option Nat) (o : Nat) : (s.logFault p c i x o).select = s.select := by
  obtain ⟨r, g, t, h⟩ := logFault_log s p c i x o; rw [h]; rfl
@[simp] theorem logFault_quays (s : State) (p c : Nat) (i : Word) (x : Option Nat) (o : Nat) : (s.logFault p c i x o).quays = s.quays := by
  obtain ⟨r, g, t, h⟩ := logFault_log s p c i x o; rw [h]; rfl
@[simp] theorem logFault_remote (s : State) (p c : Nat) (i : Word) (x : Option Nat) (o : Nat) : (s.logFault p c i x o).remote = s.remote := by
  obtain ⟨r, g, t, h⟩ := logFault_log s p c i x o; rw [h]; rfl
@[simp] theorem logFault_nextId (s : State) (p c : Nat) (i : Word) (x : Option Nat) (o : Nat) : (s.logFault p c i x o).nextId = s.nextId := by
  obtain ⟨r, g, t, h⟩ := logFault_log s p c i x o; rw [h]; rfl
@[simp] theorem logFault_bbolIn (s : State) (p c : Nat) (i : Word) (x : Option Nat) (o : Nat) : (s.logFault p c i x o).bbolIn = s.bbolIn := by
  obtain ⟨r, g, t, h⟩ := logFault_log s p c i x o; rw [h]; rfl
@[simp] theorem logFault_bbolNow (s : State) (p c : Nat) (i : Word) (x : Option Nat) (o : Nat) : (s.logFault p c i x o).bbolNow = s.bbolNow := by
  obtain ⟨r, g, t, h⟩ := logFault_log s p c i x o; rw [h]; rfl
@[simp] theorem logFault_carve (s : State) (p c : Nat) (i : Word) (x : Option Nat) (o : Nat) : (s.logFault p c i x o).carve = s.carve := by
  obtain ⟨r, g, t, h⟩ := logFault_log s p c i x o; rw [h]; rfl
@[simp] theorem logFault_net (s : State) (p c : Nat) (i : Word) (x : Option Nat) (o : Nat) : (s.logFault p c i x o).net = s.net := by
  obtain ⟨r, g, t, h⟩ := logFault_log s p c i x o; rw [h]; rfl
@[simp] theorem logFault_nextPkt (s : State) (p c : Nat) (i : Word) (x : Option Nat) (o : Nat) : (s.logFault p c i x o).nextPkt = s.nextPkt := by
  obtain ⟨r, g, t, h⟩ := logFault_log s p c i x o; rw [h]; rfl
@[simp] theorem logFault_wir (s : State) (p c : Nat) (i : Word) (x : Option Nat) (o : Nat) : (s.logFault p c i x o).wir = s.wir := by
  obtain ⟨r, g, t, h⟩ := logFault_log s p c i x o; rw [h]; rfl
@[simp] theorem logFault_tapIr (s : State) (p c : Nat) (i : Word) (x : Option Nat) (o : Nat) : (s.logFault p c i x o).tapIr = s.tapIr := by
  obtain ⟨r, g, t, h⟩ := logFault_log s p c i x o; rw [h]; rfl
@[simp] theorem logFault_boundary (s : State) (p c : Nat) (i : Word) (x : Option Nat) (o : Nat) : (s.logFault p c i x o).boundary = s.boundary := by
  obtain ⟨r, g, t, h⟩ := logFault_log s p c i x o; rw [h]; rfl
@[simp] theorem logFault_rtWas (s : State) (p c : Nat) (i : Word) (x : Option Nat) (o : Nat) : (s.logFault p c i x o).rtWas = s.rtWas := by
  obtain ⟨r, g, t, h⟩ := logFault_log s p c i x o; rw [h]; rfl
@[simp] theorem logFault_retired (s : State) (p c : Nat) (i : Word) (x : Option Nat) (o : Nat) : (s.logFault p c i x o).retired = s.retired := by
  obtain ⟨r, g, t, h⟩ := logFault_log s p c i x o; rw [h]; rfl
@[simp] theorem logFault_share (s : State) (p c : Nat) (i : Word) (x : Option Nat) (o : Nat) : (s.logFault p c i x o).share = s.share := by
  obtain ⟨r, g, t, h⟩ := logFault_log s p c i x o; rw [h]; rfl
@[simp] theorem logFault_subst (s : State) (p c : Nat) (i : Word) (x : Option Nat) (o : Nat) : (s.logFault p c i x o).subst = s.subst := by
  obtain ⟨r, g, t, h⟩ := logFault_log s p c i x o; rw [h]; rfl
@[simp] theorem logFault_groups (s : State) (p c : Nat) (i : Word) (x : Option Nat) (o : Nat) : (s.logFault p c i x o).groups = s.groups := by
  obtain ⟨r, g, t, h⟩ := logFault_log s p c i x o; rw [h]; rfl
@[simp] theorem logFault_wload (s : State) (p c : Nat) (i : Word) (x : Option Nat) (o : Nat) : (s.logFault p c i x o).wload = s.wload := by
  obtain ⟨r, g, t, h⟩ := logFault_log s p c i x o; rw [h]; rfl
@[simp] theorem logFault_pilot (s : State) (p c : Nat) (i : Word) (x : Option Nat) (o : Nat) : (s.logFault p c i x o).pilot = s.pilot := by
  obtain ⟨r, g, t, h⟩ := logFault_log s p c i x o; rw [h]; rfl
@[simp] theorem logFault_boot (s : State) (p c : Nat) (i : Word) (x : Option Nat) (o : Nat) : (s.logFault p c i x o).boot = s.boot := by
  obtain ⟨r, g, t, h⟩ := logFault_log s p c i x o; rw [h]; rfl
@[simp] theorem logFault_update (s : State) (p c : Nat) (i : Word) (x : Option Nat) (o : Nat) : (s.logFault p c i x o).update = s.update := by
  obtain ⟨r, g, t, h⟩ := logFault_log s p c i x o; rw [h]; rfl
@[simp] theorem logFault_link (s : State) (p c : Nat) (i : Word) (x : Option Nat) (o : Nat) : (s.logFault p c i x o).link = s.link := by
  obtain ⟨r, g, t, h⟩ := logFault_log s p c i x o; rw [h]; rfl
@[simp] theorem logFault_convoy (s : State) (p c : Nat) (i : Word) (x : Option Nat) (o : Nat) : (s.logFault p c i x o).convoy = s.convoy := by
  obtain ⟨r, g, t, h⟩ := logFault_log s p c i x o; rw [h]; rfl
@[simp] theorem logFault_capStamp (s : State) (p c : Nat) (i : Word) (x : Option Nat) (o : Nat) : (s.logFault p c i x o).capStamp = s.capStamp := by
  obtain ⟨r, g, t, h⟩ := logFault_log s p c i x o; rw [h]; rfl
@[simp] theorem logFault_scan (s : State) (p c : Nat) (i : Word) (x : Option Nat) (o : Nat) : (s.logFault p c i x o).scan = s.scan := by
  obtain ⟨r, g, t, h⟩ := logFault_log s p c i x o; rw [h]; rfl
@[simp] theorem logFault_lifeline (s : State) (p c : Nat) (i : Word) (x : Option Nat) (o : Nat) : (s.logFault p c i x o).lifeline = s.lifeline := by
  obtain ⟨r, g, t, h⟩ := logFault_log s p c i x o; rw [h]; rfl
@[simp] theorem logFault_lifelineAt (s : State) (p c : Nat) (i : Word) (x : Option Nat) (o : Nat) : (s.logFault p c i x o).lifelineAt = s.lifelineAt := by
  obtain ⟨r, g, t, h⟩ := logFault_log s p c i x o; rw [h]; rfl
@[simp] theorem logFault_testEn (s : State) (p c : Nat) (i : Word) (x : Option Nat) (o : Nat) : (s.logFault p c i x o).testEn = s.testEn := by
  obtain ⟨r, g, t, h⟩ := logFault_log s p c i x o; rw [h]; rfl
@[simp] theorem logFault_slipMode (s : State) (p c : Nat) (i : Word) (x : Option Nat) (o : Nat) : (s.logFault p c i x o).slipMode = s.slipMode := by
  obtain ⟨r, g, t, h⟩ := logFault_log s p c i x o; rw [h]; rfl
@[simp] theorem logFault_rootKey (s : State) (p c : Nat) (i : Word) (x : Option Nat) (o : Nat) : (s.logFault p c i x o).rootKey = s.rootKey := by
  obtain ⟨r, g, t, h⟩ := logFault_log s p c i x o; rw [h]; rfl
@[simp] theorem logFault_uniqueId (s : State) (p c : Nat) (i : Word) (x : Option Nat) (o : Nat) : (s.logFault p c i x o).uniqueId = s.uniqueId := by
  obtain ⟨r, g, t, h⟩ := logFault_log s p c i x o; rw [h]; rfl
@[simp] theorem logFault_quayPs (s : State) (p c : Nat) (i : Word) (x : Option Nat) (o : Nat) : (s.logFault p c i x o).quayPs = s.quayPs := by
  obtain ⟨r, g, t, h⟩ := logFault_log s p c i x o; rw [h]; rfl

@[simp] theorem raise_pending (s : State) (p c : Nat) (i : Word) (x : Option Nat) (o : Nat) : (s.raise p c i x o).pending = s.pending := by
  obtain ⟨r, g, t, h⟩ := raise_log s p c i x o; rw [h]; rfl
@[simp] theorem raise_clk (s : State) (p c : Nat) (i : Word) (x : Option Nat) (o : Nat) : (s.raise p c i x o).clk = s.clk := by
  obtain ⟨r, g, t, h⟩ := raise_log s p c i x o; rw [h]; rfl
@[simp] theorem raise_build (s : State) (p c : Nat) (i : Word) (x : Option Nat) (o : Nat) : (s.raise p c i x o).build = s.build := by
  obtain ⟨r, g, t, h⟩ := raise_log s p c i x o; rw [h]; rfl
@[simp] theorem raise_core (s : State) (p c : Nat) (i : Word) (x : Option Nat) (o : Nat) : (s.raise p c i x o).core = s.core := by
  obtain ⟨r, g, t, h⟩ := raise_log s p c i x o; rw [h]; rfl
@[simp] theorem raise_region (s : State) (p c : Nat) (i : Word) (x : Option Nat) (o : Nat) : (s.raise p c i x o).region = s.region := by
  obtain ⟨r, g, t, h⟩ := raise_log s p c i x o; rw [h]; rfl
@[simp] theorem raise_ctx (s : State) (p c : Nat) (i : Word) (x : Option Nat) (o : Nat) : (s.raise p c i x o).ctx = s.ctx := by
  obtain ⟨r, g, t, h⟩ := raise_log s p c i x o; rw [h]; rfl
@[simp] theorem raise_queue (s : State) (p c : Nat) (i : Word) (x : Option Nat) (o : Nat) : (s.raise p c i x o).queue = s.queue := by
  obtain ⟨r, g, t, h⟩ := raise_log s p c i x o; rw [h]; rfl
@[simp] theorem raise_bbol (s : State) (p c : Nat) (i : Word) (x : Option Nat) (o : Nat) : (s.raise p c i x o).bbol = s.bbol := by
  obtain ⟨r, g, t, h⟩ := raise_log s p c i x o; rw [h]; rfl
@[simp] theorem raise_hostMem (s : State) (p c : Nat) (i : Word) (x : Option Nat) (o : Nat) : (s.raise p c i x o).hostMem = s.hostMem := by
  obtain ⟨r, g, t, h⟩ := raise_log s p c i x o; rw [h]; rfl
@[simp] theorem raise_devMem (s : State) (p c : Nat) (i : Word) (x : Option Nat) (o : Nat) : (s.raise p c i x o).devMem = s.devMem := by
  obtain ⟨r, g, t, h⟩ := raise_log s p c i x o; rw [h]; rfl
@[simp] theorem raise_rdata (s : State) (p c : Nat) (i : Word) (x : Option Nat) (o : Nat) : (s.raise p c i x o).rdata = s.rdata := by
  obtain ⟨r, g, t, h⟩ := raise_log s p c i x o; rw [h]; rfl
@[simp] theorem raise_inReset (s : State) (p c : Nat) (i : Word) (x : Option Nat) (o : Nat) : (s.raise p c i x o).inReset = s.inReset := by
  obtain ⟨r, g, t, h⟩ := raise_log s p c i x o; rw [h]; rfl
@[simp] theorem raise_quiet (s : State) (p c : Nat) (i : Word) (x : Option Nat) (o : Nat) : (s.raise p c i x o).quiet = s.quiet := by
  obtain ⟨r, g, t, h⟩ := raise_log s p c i x o; rw [h]; rfl
@[simp] theorem raise_staged (s : State) (p c : Nat) (i : Word) (x : Option Nat) (o : Nat) : (s.raise p c i x o).staged = s.staged := by
  obtain ⟨r, g, t, h⟩ := raise_log s p c i x o; rw [h]; rfl
@[simp] theorem raise_latched (s : State) (p c : Nat) (i : Word) (x : Option Nat) (o : Nat) : (s.raise p c i x o).latched = s.latched := by
  obtain ⟨r, g, t, h⟩ := raise_log s p c i x o; rw [h]; rfl
@[simp] theorem raise_select (s : State) (p c : Nat) (i : Word) (x : Option Nat) (o : Nat) : (s.raise p c i x o).select = s.select := by
  obtain ⟨r, g, t, h⟩ := raise_log s p c i x o; rw [h]; rfl
@[simp] theorem raise_quays (s : State) (p c : Nat) (i : Word) (x : Option Nat) (o : Nat) : (s.raise p c i x o).quays = s.quays := by
  obtain ⟨r, g, t, h⟩ := raise_log s p c i x o; rw [h]; rfl
@[simp] theorem raise_remote (s : State) (p c : Nat) (i : Word) (x : Option Nat) (o : Nat) : (s.raise p c i x o).remote = s.remote := by
  obtain ⟨r, g, t, h⟩ := raise_log s p c i x o; rw [h]; rfl
@[simp] theorem raise_nextId (s : State) (p c : Nat) (i : Word) (x : Option Nat) (o : Nat) : (s.raise p c i x o).nextId = s.nextId := by
  obtain ⟨r, g, t, h⟩ := raise_log s p c i x o; rw [h]; rfl
@[simp] theorem raise_bbolIn (s : State) (p c : Nat) (i : Word) (x : Option Nat) (o : Nat) : (s.raise p c i x o).bbolIn = s.bbolIn := by
  obtain ⟨r, g, t, h⟩ := raise_log s p c i x o; rw [h]; rfl
@[simp] theorem raise_bbolNow (s : State) (p c : Nat) (i : Word) (x : Option Nat) (o : Nat) : (s.raise p c i x o).bbolNow = s.bbolNow := by
  obtain ⟨r, g, t, h⟩ := raise_log s p c i x o; rw [h]; rfl
@[simp] theorem raise_carve (s : State) (p c : Nat) (i : Word) (x : Option Nat) (o : Nat) : (s.raise p c i x o).carve = s.carve := by
  obtain ⟨r, g, t, h⟩ := raise_log s p c i x o; rw [h]; rfl
@[simp] theorem raise_net (s : State) (p c : Nat) (i : Word) (x : Option Nat) (o : Nat) : (s.raise p c i x o).net = s.net := by
  obtain ⟨r, g, t, h⟩ := raise_log s p c i x o; rw [h]; rfl
@[simp] theorem raise_nextPkt (s : State) (p c : Nat) (i : Word) (x : Option Nat) (o : Nat) : (s.raise p c i x o).nextPkt = s.nextPkt := by
  obtain ⟨r, g, t, h⟩ := raise_log s p c i x o; rw [h]; rfl
@[simp] theorem raise_wir (s : State) (p c : Nat) (i : Word) (x : Option Nat) (o : Nat) : (s.raise p c i x o).wir = s.wir := by
  obtain ⟨r, g, t, h⟩ := raise_log s p c i x o; rw [h]; rfl
@[simp] theorem raise_tapIr (s : State) (p c : Nat) (i : Word) (x : Option Nat) (o : Nat) : (s.raise p c i x o).tapIr = s.tapIr := by
  obtain ⟨r, g, t, h⟩ := raise_log s p c i x o; rw [h]; rfl
@[simp] theorem raise_boundary (s : State) (p c : Nat) (i : Word) (x : Option Nat) (o : Nat) : (s.raise p c i x o).boundary = s.boundary := by
  obtain ⟨r, g, t, h⟩ := raise_log s p c i x o; rw [h]; rfl
@[simp] theorem raise_rtWas (s : State) (p c : Nat) (i : Word) (x : Option Nat) (o : Nat) : (s.raise p c i x o).rtWas = s.rtWas := by
  obtain ⟨r, g, t, h⟩ := raise_log s p c i x o; rw [h]; rfl
@[simp] theorem raise_retired (s : State) (p c : Nat) (i : Word) (x : Option Nat) (o : Nat) : (s.raise p c i x o).retired = s.retired := by
  obtain ⟨r, g, t, h⟩ := raise_log s p c i x o; rw [h]; rfl
@[simp] theorem raise_share (s : State) (p c : Nat) (i : Word) (x : Option Nat) (o : Nat) : (s.raise p c i x o).share = s.share := by
  obtain ⟨r, g, t, h⟩ := raise_log s p c i x o; rw [h]; rfl
@[simp] theorem raise_subst (s : State) (p c : Nat) (i : Word) (x : Option Nat) (o : Nat) : (s.raise p c i x o).subst = s.subst := by
  obtain ⟨r, g, t, h⟩ := raise_log s p c i x o; rw [h]; rfl
@[simp] theorem raise_groups (s : State) (p c : Nat) (i : Word) (x : Option Nat) (o : Nat) : (s.raise p c i x o).groups = s.groups := by
  obtain ⟨r, g, t, h⟩ := raise_log s p c i x o; rw [h]; rfl
@[simp] theorem raise_wload (s : State) (p c : Nat) (i : Word) (x : Option Nat) (o : Nat) : (s.raise p c i x o).wload = s.wload := by
  obtain ⟨r, g, t, h⟩ := raise_log s p c i x o; rw [h]; rfl
@[simp] theorem raise_pilot (s : State) (p c : Nat) (i : Word) (x : Option Nat) (o : Nat) : (s.raise p c i x o).pilot = s.pilot := by
  obtain ⟨r, g, t, h⟩ := raise_log s p c i x o; rw [h]; rfl
@[simp] theorem raise_boot (s : State) (p c : Nat) (i : Word) (x : Option Nat) (o : Nat) : (s.raise p c i x o).boot = s.boot := by
  obtain ⟨r, g, t, h⟩ := raise_log s p c i x o; rw [h]; rfl
@[simp] theorem raise_update (s : State) (p c : Nat) (i : Word) (x : Option Nat) (o : Nat) : (s.raise p c i x o).update = s.update := by
  obtain ⟨r, g, t, h⟩ := raise_log s p c i x o; rw [h]; rfl
@[simp] theorem raise_link (s : State) (p c : Nat) (i : Word) (x : Option Nat) (o : Nat) : (s.raise p c i x o).link = s.link := by
  obtain ⟨r, g, t, h⟩ := raise_log s p c i x o; rw [h]; rfl
@[simp] theorem raise_convoy (s : State) (p c : Nat) (i : Word) (x : Option Nat) (o : Nat) : (s.raise p c i x o).convoy = s.convoy := by
  obtain ⟨r, g, t, h⟩ := raise_log s p c i x o; rw [h]; rfl
@[simp] theorem raise_capStamp (s : State) (p c : Nat) (i : Word) (x : Option Nat) (o : Nat) : (s.raise p c i x o).capStamp = s.capStamp := by
  obtain ⟨r, g, t, h⟩ := raise_log s p c i x o; rw [h]; rfl
@[simp] theorem raise_scan (s : State) (p c : Nat) (i : Word) (x : Option Nat) (o : Nat) : (s.raise p c i x o).scan = s.scan := by
  obtain ⟨r, g, t, h⟩ := raise_log s p c i x o; rw [h]; rfl
@[simp] theorem raise_lifeline (s : State) (p c : Nat) (i : Word) (x : Option Nat) (o : Nat) : (s.raise p c i x o).lifeline = s.lifeline := by
  obtain ⟨r, g, t, h⟩ := raise_log s p c i x o; rw [h]; rfl
@[simp] theorem raise_lifelineAt (s : State) (p c : Nat) (i : Word) (x : Option Nat) (o : Nat) : (s.raise p c i x o).lifelineAt = s.lifelineAt := by
  obtain ⟨r, g, t, h⟩ := raise_log s p c i x o; rw [h]; rfl
@[simp] theorem raise_testEn (s : State) (p c : Nat) (i : Word) (x : Option Nat) (o : Nat) : (s.raise p c i x o).testEn = s.testEn := by
  obtain ⟨r, g, t, h⟩ := raise_log s p c i x o; rw [h]; rfl
@[simp] theorem raise_slipMode (s : State) (p c : Nat) (i : Word) (x : Option Nat) (o : Nat) : (s.raise p c i x o).slipMode = s.slipMode := by
  obtain ⟨r, g, t, h⟩ := raise_log s p c i x o; rw [h]; rfl
@[simp] theorem raise_rootKey (s : State) (p c : Nat) (i : Word) (x : Option Nat) (o : Nat) : (s.raise p c i x o).rootKey = s.rootKey := by
  obtain ⟨r, g, t, h⟩ := raise_log s p c i x o; rw [h]; rfl
@[simp] theorem raise_uniqueId (s : State) (p c : Nat) (i : Word) (x : Option Nat) (o : Nat) : (s.raise p c i x o).uniqueId = s.uniqueId := by
  obtain ⟨r, g, t, h⟩ := raise_log s p c i x o; rw [h]; rfl
@[simp] theorem raise_quayPs (s : State) (p c : Nat) (i : Word) (x : Option Nat) (o : Nat) : (s.raise p c i x o).quayPs = s.quayPs := by
  obtain ⟨r, g, t, h⟩ := raise_log s p c i x o; rw [h]; rfl

@[simp] theorem configFault_pending (s : State) (p : Nat) (i : Word) : (s.configFault p i).pending = s.pending := raise_pending s p 0x600 i none 0
@[simp] theorem configFault_clk (s : State) (p : Nat) (i : Word) : (s.configFault p i).clk = s.clk := raise_clk s p 0x600 i none 0
@[simp] theorem configFault_build (s : State) (p : Nat) (i : Word) : (s.configFault p i).build = s.build := raise_build s p 0x600 i none 0
@[simp] theorem configFault_core (s : State) (p : Nat) (i : Word) : (s.configFault p i).core = s.core := raise_core s p 0x600 i none 0
@[simp] theorem configFault_region (s : State) (p : Nat) (i : Word) : (s.configFault p i).region = s.region := raise_region s p 0x600 i none 0
@[simp] theorem configFault_ctx (s : State) (p : Nat) (i : Word) : (s.configFault p i).ctx = s.ctx := raise_ctx s p 0x600 i none 0
@[simp] theorem configFault_queue (s : State) (p : Nat) (i : Word) : (s.configFault p i).queue = s.queue := raise_queue s p 0x600 i none 0
@[simp] theorem configFault_bbol (s : State) (p : Nat) (i : Word) : (s.configFault p i).bbol = s.bbol := raise_bbol s p 0x600 i none 0
@[simp] theorem configFault_hostMem (s : State) (p : Nat) (i : Word) : (s.configFault p i).hostMem = s.hostMem := raise_hostMem s p 0x600 i none 0
@[simp] theorem configFault_devMem (s : State) (p : Nat) (i : Word) : (s.configFault p i).devMem = s.devMem := raise_devMem s p 0x600 i none 0
@[simp] theorem configFault_rdata (s : State) (p : Nat) (i : Word) : (s.configFault p i).rdata = s.rdata := raise_rdata s p 0x600 i none 0
@[simp] theorem configFault_inReset (s : State) (p : Nat) (i : Word) : (s.configFault p i).inReset = s.inReset := raise_inReset s p 0x600 i none 0
@[simp] theorem configFault_quiet (s : State) (p : Nat) (i : Word) : (s.configFault p i).quiet = s.quiet := raise_quiet s p 0x600 i none 0
@[simp] theorem configFault_staged (s : State) (p : Nat) (i : Word) : (s.configFault p i).staged = s.staged := raise_staged s p 0x600 i none 0
@[simp] theorem configFault_latched (s : State) (p : Nat) (i : Word) : (s.configFault p i).latched = s.latched := raise_latched s p 0x600 i none 0
@[simp] theorem configFault_select (s : State) (p : Nat) (i : Word) : (s.configFault p i).select = s.select := raise_select s p 0x600 i none 0
@[simp] theorem configFault_quays (s : State) (p : Nat) (i : Word) : (s.configFault p i).quays = s.quays := raise_quays s p 0x600 i none 0
@[simp] theorem configFault_remote (s : State) (p : Nat) (i : Word) : (s.configFault p i).remote = s.remote := raise_remote s p 0x600 i none 0
@[simp] theorem configFault_nextId (s : State) (p : Nat) (i : Word) : (s.configFault p i).nextId = s.nextId := raise_nextId s p 0x600 i none 0
@[simp] theorem configFault_bbolIn (s : State) (p : Nat) (i : Word) : (s.configFault p i).bbolIn = s.bbolIn := raise_bbolIn s p 0x600 i none 0
@[simp] theorem configFault_bbolNow (s : State) (p : Nat) (i : Word) : (s.configFault p i).bbolNow = s.bbolNow := raise_bbolNow s p 0x600 i none 0
@[simp] theorem configFault_carve (s : State) (p : Nat) (i : Word) : (s.configFault p i).carve = s.carve := raise_carve s p 0x600 i none 0
@[simp] theorem configFault_net (s : State) (p : Nat) (i : Word) : (s.configFault p i).net = s.net := raise_net s p 0x600 i none 0
@[simp] theorem configFault_nextPkt (s : State) (p : Nat) (i : Word) : (s.configFault p i).nextPkt = s.nextPkt := raise_nextPkt s p 0x600 i none 0
@[simp] theorem configFault_wir (s : State) (p : Nat) (i : Word) : (s.configFault p i).wir = s.wir := raise_wir s p 0x600 i none 0
@[simp] theorem configFault_tapIr (s : State) (p : Nat) (i : Word) : (s.configFault p i).tapIr = s.tapIr := raise_tapIr s p 0x600 i none 0
@[simp] theorem configFault_boundary (s : State) (p : Nat) (i : Word) : (s.configFault p i).boundary = s.boundary := raise_boundary s p 0x600 i none 0
@[simp] theorem configFault_rtWas (s : State) (p : Nat) (i : Word) : (s.configFault p i).rtWas = s.rtWas := raise_rtWas s p 0x600 i none 0
@[simp] theorem configFault_retired (s : State) (p : Nat) (i : Word) : (s.configFault p i).retired = s.retired := raise_retired s p 0x600 i none 0
@[simp] theorem configFault_share (s : State) (p : Nat) (i : Word) : (s.configFault p i).share = s.share := raise_share s p 0x600 i none 0
@[simp] theorem configFault_subst (s : State) (p : Nat) (i : Word) : (s.configFault p i).subst = s.subst := raise_subst s p 0x600 i none 0
@[simp] theorem configFault_groups (s : State) (p : Nat) (i : Word) : (s.configFault p i).groups = s.groups := raise_groups s p 0x600 i none 0
@[simp] theorem configFault_wload (s : State) (p : Nat) (i : Word) : (s.configFault p i).wload = s.wload := raise_wload s p 0x600 i none 0
@[simp] theorem configFault_pilot (s : State) (p : Nat) (i : Word) : (s.configFault p i).pilot = s.pilot := raise_pilot s p 0x600 i none 0
@[simp] theorem configFault_boot (s : State) (p : Nat) (i : Word) : (s.configFault p i).boot = s.boot := raise_boot s p 0x600 i none 0
@[simp] theorem configFault_update (s : State) (p : Nat) (i : Word) : (s.configFault p i).update = s.update := raise_update s p 0x600 i none 0
@[simp] theorem configFault_link (s : State) (p : Nat) (i : Word) : (s.configFault p i).link = s.link := raise_link s p 0x600 i none 0
@[simp] theorem configFault_convoy (s : State) (p : Nat) (i : Word) : (s.configFault p i).convoy = s.convoy := raise_convoy s p 0x600 i none 0
@[simp] theorem configFault_capStamp (s : State) (p : Nat) (i : Word) : (s.configFault p i).capStamp = s.capStamp := raise_capStamp s p 0x600 i none 0
@[simp] theorem configFault_scan (s : State) (p : Nat) (i : Word) : (s.configFault p i).scan = s.scan := raise_scan s p 0x600 i none 0
@[simp] theorem configFault_lifeline (s : State) (p : Nat) (i : Word) : (s.configFault p i).lifeline = s.lifeline := raise_lifeline s p 0x600 i none 0
@[simp] theorem configFault_lifelineAt (s : State) (p : Nat) (i : Word) : (s.configFault p i).lifelineAt = s.lifelineAt := raise_lifelineAt s p 0x600 i none 0
@[simp] theorem configFault_testEn (s : State) (p : Nat) (i : Word) : (s.configFault p i).testEn = s.testEn := raise_testEn s p 0x600 i none 0
@[simp] theorem configFault_slipMode (s : State) (p : Nat) (i : Word) : (s.configFault p i).slipMode = s.slipMode := raise_slipMode s p 0x600 i none 0
@[simp] theorem configFault_rootKey (s : State) (p : Nat) (i : Word) : (s.configFault p i).rootKey = s.rootKey := raise_rootKey s p 0x600 i none 0
@[simp] theorem configFault_uniqueId (s : State) (p : Nat) (i : Word) : (s.configFault p i).uniqueId = s.uniqueId := raise_uniqueId s p 0x600 i none 0
@[simp] theorem configFault_quayPs (s : State) (p : Nat) (i : Word) : (s.configFault p i).quayPs = s.quayPs := raise_quayPs s p 0x600 i none 0

end Sys2Proof.Machine.State
end

