-- ==== Sys2Proof/Laws/Ops.lean ====
section
/-! SUPPORT. What each shared operation of Machine/Ops.lean and each frame of a command can do, said once. -/

namespace Sys2Proof.Machine

namespace State

/-! Registers. -/

theorem rd_wr (s : State) (a b : Nat) (v : Word) : (s.wr a v).rd b = if a = b then v else s.rd b := by
  unfold rd wr
  rw [Tab.get_put]

@[simp] theorem rd_wr_self (s : State) (a : Nat) (v : Word) : (s.wr a v).rd a = v := by simp [rd_wr]

@[simp] theorem rd_wr_ne (s : State) {a b : Nat} (v : Word) (h : a ≠ b) : (s.wr a v).rd b = s.rd b := by simp [rd_wr, h]

@[simp] theorem rd_orBits_self (s : State) (a : Nat) (m : Word) : (s.orBits a m).rd a = s.rd a ||| m := by simp [orBits]

@[simp] theorem rd_orBits_ne (s : State) {a b : Nat} (m : Word) (h : a ≠ b) : (s.orBits a m).rd b = s.rd b := by
  simp [orBits, h]

@[simp] theorem rd_event_self (s : State) (p b : Nat) :
    (s.event p b).rd (p + oEVENT) = s.rd (p + oEVENT) ||| word (2 ^ b) := by simp [event]

@[simp] theorem rd_event_ne (s : State) {p a : Nat} (b : Nat) (h : p + oEVENT ≠ a) : (s.event p b).rd a = s.rd a := by
  simp [event, h]

@[simp] theorem rd_wrField_self (s : State) (a hi lo x : Nat) :
    (s.wrField a hi lo x).rd a = setField (s.rd a) hi lo x := by simp [wrField]

@[simp] theorem rd_wrField_ne (s : State) {a b : Nat} (hi lo x : Nat) (h : a ≠ b) :
    (s.wrField a hi lo x).rd b = s.rd b := by simp [wrField, h]

/-- A counter advances and saturates (R456). -/
theorem rd_count_self (s : State) (a n : Nat) : (s.count a n).rd a = if n = 0 then s.rd a else satAdd (s.rd a) n := by
  unfold count; split <;> simp

@[simp] theorem rd_count_ne (s : State) {a b : Nat} (n : Nat) (h : a ≠ b) : (s.count a n).rd b = s.rd b := by
  unfold count; split <;> simp [h]

/-! Parts. -/

theorem getCore_setCore (s : State) (i j : Nat) (x : Core) :
    (s.setCore i x).getCore j = if i = j then x else s.getCore j := by
  unfold getCore setCore
  rw [Tab.get_put]

@[simp] theorem getCore_setCore_self (s : State) (i : Nat) (x : Core) : (s.setCore i x).getCore i = x := by
  simp [getCore_setCore]

@[simp] theorem getCore_modCore_self (s : State) (i : Nat) (f : Core → Core) :
    (s.modCore i f).getCore i = f (s.getCore i) := by simp [modCore]

@[simp] theorem getCore_modCore_ne (s : State) {i j : Nat} (f : Core → Core) (h : i ≠ j) :
    (s.modCore i f).getCore j = s.getCore j := by simp [modCore, getCore_setCore, h]

@[simp] theorem getCore_wr (s : State) (a : Nat) (v : Word) (j : Nat) : (s.wr a v).getCore j = s.getCore j := by
  simp [getCore]
@[simp] theorem getCore_orBits (s : State) (a : Nat) (v : Word) (j : Nat) : (s.orBits a v).getCore j = s.getCore j := by
  simp [getCore]
@[simp] theorem getCore_event (s : State) (p b : Nat) (j : Nat) : (s.event p b).getCore j = s.getCore j := by
  simp [getCore]
@[simp] theorem getCore_wrField (s : State) (a hi lo x : Nat) (j : Nat) : (s.wrField a hi lo x).getCore j = s.getCore j := by
  simp [getCore]
@[simp] theorem getCore_count (s : State) (a n : Nat) (j : Nat) : (s.count a n).getCore j = s.getCore j := by
  simp [getCore]
@[simp] theorem getCore_raise (s : State) (p c : Nat) (i : Word) (x : Option Nat) (o : Nat) (j : Nat) : (s.raise p c i x o).getCore j = s.getCore j := by
  simp [getCore]
@[simp] theorem getCore_modRegion (s : State) (i : Nat) (f : Region → Region) (j : Nat) :
    (s.modRegion i f).getCore j = s.getCore j := rfl
@[simp] theorem getCore_modCtx (s : State) (i : Nat) (f : Ctx → Ctx) (j : Nat) :
    (s.modCtx i f).getCore j = s.getCore j := rfl
@[simp] theorem getCore_modQueue (s : State) (i : Nat) (f : Queue → Queue) (j : Nat) :
    (s.modQueue i f).getCore j = s.getCore j := rfl
@[simp] theorem rd_modCore (s : State) (i : Nat) (f : Core → Core) (a : Nat) : (s.modCore i f).rd a = s.rd a := rfl

theorem getRegion_setRegion (s : State) (i j : Nat) (x : Region) :
    (s.setRegion i x).getRegion j = if i = j then x else s.getRegion j := by
  unfold getRegion setRegion
  rw [Tab.get_put]

@[simp] theorem getRegion_setRegion_self (s : State) (i : Nat) (x : Region) : (s.setRegion i x).getRegion i = x := by
  simp [getRegion_setRegion]

@[simp] theorem getRegion_modRegion_self (s : State) (i : Nat) (f : Region → Region) :
    (s.modRegion i f).getRegion i = f (s.getRegion i) := by simp [modRegion]

@[simp] theorem getRegion_modRegion_ne (s : State) {i j : Nat} (f : Region → Region) (h : i ≠ j) :
    (s.modRegion i f).getRegion j = s.getRegion j := by simp [modRegion, getRegion_setRegion, h]

@[simp] theorem getRegion_wr (s : State) (a : Nat) (v : Word) (j : Nat) : (s.wr a v).getRegion j = s.getRegion j := by
  simp [getRegion]
@[simp] theorem getRegion_orBits (s : State) (a : Nat) (v : Word) (j : Nat) : (s.orBits a v).getRegion j = s.getRegion j := by
  simp [getRegion]
@[simp] theorem getRegion_event (s : State) (p b : Nat) (j : Nat) : (s.event p b).getRegion j = s.getRegion j := by
  simp [getRegion]
@[simp] theorem getRegion_wrField (s : State) (a hi lo x : Nat) (j : Nat) : (s.wrField a hi lo x).getRegion j = s.getRegion j := by
  simp [getRegion]
@[simp] theorem getRegion_count (s : State) (a n : Nat) (j : Nat) : (s.count a n).getRegion j = s.getRegion j := by
  simp [getRegion]
@[simp] theorem getRegion_raise (s : State) (p c : Nat) (i : Word) (x : Option Nat) (o : Nat) (j : Nat) : (s.raise p c i x o).getRegion j = s.getRegion j := by
  simp [getRegion]
@[simp] theorem getRegion_modCore (s : State) (i : Nat) (f : Core → Core) (j : Nat) :
    (s.modCore i f).getRegion j = s.getRegion j := rfl
@[simp] theorem getRegion_modCtx (s : State) (i : Nat) (f : Ctx → Ctx) (j : Nat) :
    (s.modCtx i f).getRegion j = s.getRegion j := rfl
@[simp] theorem getRegion_modQueue (s : State) (i : Nat) (f : Queue → Queue) (j : Nat) :
    (s.modQueue i f).getRegion j = s.getRegion j := rfl
@[simp] theorem rd_modRegion (s : State) (i : Nat) (f : Region → Region) (a : Nat) : (s.modRegion i f).rd a = s.rd a := rfl

theorem getCtx_setCtx (s : State) (i j : Nat) (x : Ctx) :
    (s.setCtx i x).getCtx j = if i = j then x else s.getCtx j := by
  unfold getCtx setCtx
  rw [Tab.get_put]

@[simp] theorem getCtx_setCtx_self (s : State) (i : Nat) (x : Ctx) : (s.setCtx i x).getCtx i = x := by
  simp [getCtx_setCtx]

@[simp] theorem getCtx_modCtx_self (s : State) (i : Nat) (f : Ctx → Ctx) :
    (s.modCtx i f).getCtx i = f (s.getCtx i) := by simp [modCtx]

@[simp] theorem getCtx_modCtx_ne (s : State) {i j : Nat} (f : Ctx → Ctx) (h : i ≠ j) :
    (s.modCtx i f).getCtx j = s.getCtx j := by simp [modCtx, getCtx_setCtx, h]

@[simp] theorem getCtx_wr (s : State) (a : Nat) (v : Word) (j : Nat) : (s.wr a v).getCtx j = s.getCtx j := by
  simp [getCtx]
@[simp] theorem getCtx_orBits (s : State) (a : Nat) (v : Word) (j : Nat) : (s.orBits a v).getCtx j = s.getCtx j := by
  simp [getCtx]
@[simp] theorem getCtx_event (s : State) (p b : Nat) (j : Nat) : (s.event p b).getCtx j = s.getCtx j := by
  simp [getCtx]
@[simp] theorem getCtx_wrField (s : State) (a hi lo x : Nat) (j : Nat) : (s.wrField a hi lo x).getCtx j = s.getCtx j := by
  simp [getCtx]
@[simp] theorem getCtx_count (s : State) (a n : Nat) (j : Nat) : (s.count a n).getCtx j = s.getCtx j := by
  simp [getCtx]
@[simp] theorem getCtx_raise (s : State) (p c : Nat) (i : Word) (x : Option Nat) (o : Nat) (j : Nat) : (s.raise p c i x o).getCtx j = s.getCtx j := by
  simp [getCtx]
@[simp] theorem getCtx_modCore (s : State) (i : Nat) (f : Core → Core) (j : Nat) :
    (s.modCore i f).getCtx j = s.getCtx j := rfl
@[simp] theorem getCtx_modRegion (s : State) (i : Nat) (f : Region → Region) (j : Nat) :
    (s.modRegion i f).getCtx j = s.getCtx j := rfl
@[simp] theorem getCtx_modQueue (s : State) (i : Nat) (f : Queue → Queue) (j : Nat) :
    (s.modQueue i f).getCtx j = s.getCtx j := rfl
@[simp] theorem rd_modCtx (s : State) (i : Nat) (f : Ctx → Ctx) (a : Nat) : (s.modCtx i f).rd a = s.rd a := rfl

theorem getQueue_setQueue (s : State) (i j : Nat) (x : Queue) :
    (s.setQueue i x).getQueue j = if i = j then x else s.getQueue j := by
  unfold getQueue setQueue
  rw [Tab.get_put]

@[simp] theorem getQueue_setQueue_self (s : State) (i : Nat) (x : Queue) : (s.setQueue i x).getQueue i = x := by
  simp [getQueue_setQueue]

@[simp] theorem getQueue_modQueue_self (s : State) (i : Nat) (f : Queue → Queue) :
    (s.modQueue i f).getQueue i = f (s.getQueue i) := by simp [modQueue]

@[simp] theorem getQueue_modQueue_ne (s : State) {i j : Nat} (f : Queue → Queue) (h : i ≠ j) :
    (s.modQueue i f).getQueue j = s.getQueue j := by simp [modQueue, getQueue_setQueue, h]

@[simp] theorem getQueue_wr (s : State) (a : Nat) (v : Word) (j : Nat) : (s.wr a v).getQueue j = s.getQueue j := by
  simp [getQueue]
@[simp] theorem getQueue_orBits (s : State) (a : Nat) (v : Word) (j : Nat) : (s.orBits a v).getQueue j = s.getQueue j := by
  simp [getQueue]
@[simp] theorem getQueue_event (s : State) (p b : Nat) (j : Nat) : (s.event p b).getQueue j = s.getQueue j := by
  simp [getQueue]
@[simp] theorem getQueue_wrField (s : State) (a hi lo x : Nat) (j : Nat) : (s.wrField a hi lo x).getQueue j = s.getQueue j := by
  simp [getQueue]
@[simp] theorem getQueue_count (s : State) (a n : Nat) (j : Nat) : (s.count a n).getQueue j = s.getQueue j := by
  simp [getQueue]
@[simp] theorem getQueue_raise (s : State) (p c : Nat) (i : Word) (x : Option Nat) (o : Nat) (j : Nat) : (s.raise p c i x o).getQueue j = s.getQueue j := by
  simp [getQueue]
@[simp] theorem getQueue_modCore (s : State) (i : Nat) (f : Core → Core) (j : Nat) :
    (s.modCore i f).getQueue j = s.getQueue j := rfl
@[simp] theorem getQueue_modRegion (s : State) (i : Nat) (f : Region → Region) (j : Nat) :
    (s.modRegion i f).getQueue j = s.getQueue j := rfl
@[simp] theorem getQueue_modCtx (s : State) (i : Nat) (f : Ctx → Ctx) (j : Nat) :
    (s.modCtx i f).getQueue j = s.getQueue j := rfl
@[simp] theorem rd_modQueue (s : State) (i : Nat) (f : Queue → Queue) (a : Nat) : (s.modQueue i f).rd a = s.rd a := rfl

/-! The frame of a command. -/

@[simp] theorem keep_self (s : State) : s.keep s = s := rfl
@[simp] theorem framed_self (s : State) : s.framed s = s := rfl
@[simp] theorem rd_framed (s t : State) (a : Nat) : (s.framed t).rd a = t.rd a := rfl
@[simp] theorem getCore_framed (s t : State) (j : Nat) : (s.framed t).getCore j = t.getCore j := rfl
@[simp] theorem getRegion_framed (s t : State) (j : Nat) : (s.framed t).getRegion j = t.getRegion j := rfl
@[simp] theorem getCtx_framed (s t : State) (j : Nat) : (s.framed t).getCtx j = t.getCtx j := rfl
@[simp] theorem getQueue_framed (s t : State) (j : Nat) : (s.framed t).getQueue j = t.getQueue j := rfl

end State

/-- A command that names an absent part stops (log 3); any other ends in a next state. -/
theorem actAt_present {f : State → State} {s : State} : actAt true f s = act f s := rfl

theorem actAt_absent {f : State → State} {s : State} : actAt false f s = .fault .absentPart := rfl

/-- While the block serves an ordinary command has its effect. -/
theorem act_awake {f : State → State} {s : State} (h : s.awake = true) : act f s = .next (s.framed (f s)) := by
  simp [act, actRaw, when, h]

/-- While it does not, an ordinary command changes nothing (R338, R374). -/
theorem act_asleep {f : State → State} {s : State} (h : s.awake = false) : act f s = .next s := by
  simp [act, actRaw, when, h]

/-- An ordinary command always has a next state. -/
theorem act_next (f : State → State) (s : State) : ∃ t, act f s = .next t := ⟨_, rfl⟩

theorem actAt_next {p : Bool} {f : State → State} {s t : State} (h : actAt p f s = .next t) :
    p = true ∧ act f s = .next t := by
  cases p with
  | true => exact ⟨rfl, h⟩
  | false => cases h

/-- Whatever an ordinary command does, it keeps the clocks, the waiting commands and what the silicon fixes. -/
theorem act_frame {f : State → State} {s t : State} (h : act f s = .next t) :
    t.clk = s.clk ∧ t.pending = s.pending ∧ t.build = s.build ∧ t.rootKey = s.rootKey ∧ t.uniqueId = s.uniqueId := by
  cases h; exact ⟨rfl, rfl, rfl, rfl, rfl⟩

theorem when_true {f : State → State} {s : State} {b : Bool} (h : b = true) : when b f s = f s := by simp [when, h]

theorem when_false {f : State → State} {s : State} {b : Bool} (h : b = false) : when b f s = s := by simp [when, h]

/-- A command of a running region clock has its effect. -/
theorem actCore_running {k : Nat} {p : Bool} {f : State → State} {s : State} (hp : p = true) (ha : s.awake = true)
    (hc : s.clocked (s.regionOf k) = true) : actCore k p f s = .next (s.framed (f s)) := by
  subst hp; rw [actCore, actAt_present, act_awake ha, when_true hc]

/-- A command of a region clock that does not run changes nothing (R374, R443, R481). -/
theorem actCore_stopped {k : Nat} {p : Bool} {f : State → State} {s : State} (hp : p = true)
    (hc : s.clocked (s.regionOf k) = false) : actCore k p f s = .next s := by
  subst hp
  rw [actCore, actAt_present]
  cases ha : s.awake with
  | true => rw [act_awake ha, when_false hc]; rfl
  | false => exact act_asleep ha

theorem actRegion_running {r : Nat} {p : Bool} {f : State → State} {s : State} (hp : p = true) (ha : s.awake = true)
    (hc : s.clocked r = true) : actRegion r p f s = .next (s.framed (f s)) := by
  subst hp; rw [actRegion, actAt_present, act_awake ha, when_true hc]

theorem actRegion_stopped {r : Nat} {p : Bool} {f : State → State} {s : State} (hp : p = true)
    (hc : s.clocked r = false) : actRegion r p f s = .next s := by
  subst hp
  rw [actRegion, actAt_present]
  cases ha : s.awake with
  | true => rw [act_awake ha, when_false hc]; rfl
  | false => exact act_asleep ha

/-! A step. -/

theorem step_cons {s : State} {i : Instr} {l : List Instr} (h : s.pending = i :: l) :
    step s = exec i { s with pending := l } := by unfold step; rw [h]

theorem step_nil {s : State} (h : s.pending = []) : step s = .next s.tick := by unfold step; rw [h]

end Sys2Proof.Machine
end

