-- ==== Sys2Proof/Laws/PerInstr.lean ====
section
/-! SUPPORT. One lemma per command: a command that is well formed for a legal build names no part beyond those of the
largest build (R4, R5, R450). -/

namespace Sys2Proof

/-- The largest build of R4. -/
def Build.largest : Build :=
  { gridRows := 4, gridCols := 4, regionRows := 8, regionCols := 8, spares := 4, wbKib := 512, abKib := 256,
    pbKib := 256, wharfCells := 8192, basinMib := 8, quays := 16, jetties := 16 }

namespace Laws.Wf

/-- Well formed for a legal build, the command is well formed for the largest. -/
def Statement (i : Instr) : Prop :=
  ∀ b : Build, b.legal = true → i.wellFormed b = true → i.wellFormed Build.largest = true

theorem legal_bounds {b : Build} (h : b.legal = true) :
    b.gridRows ≤ 4 ∧ b.gridCols ≤ 4 ∧ b.regionRows ≤ 8 ∧ b.regionCols ≤ 8 ∧ b.spares ≤ 4 ∧ b.wbKib ≤ 512
      ∧ b.abKib ≤ 256 ∧ b.pbKib ≤ 256 ∧ b.jetties ≤ 16 ∧ b.basinMib ≤ 8 ∧ b.quays ≤ 16 := by
  simp only [Build.legal, Bool.and_eq_true, decide_eq_true_eq, List.contains_iff_mem, List.mem_cons,
    List.not_mem_nil, or_false] at h
  omega

theorem regions_le {b : Build} (h : b.legal = true) : b.regions ≤ 16 := by
  have := legal_bounds h
  exact Nat.mul_le_mul (by omega : b.gridRows ≤ 4) (by omega : b.gridCols ≤ 4)

theorem physCores_le {b : Build} (h : b.legal = true) : b.physCores ≤ 1088 := by
  have := legal_bounds h
  have ha : b.regionRows * b.regionCols ≤ 8 * 8 :=
    Nat.mul_le_mul (by omega : b.regionRows ≤ 8) (by omega : b.regionCols ≤ 8)
  exact Nat.mul_le_mul (regions_le h) (by unfold Build.stride Build.active; omega : b.stride ≤ 68)

theorem lt_mono {n m k : Nat} (h : n ≤ m) (hk : decide (k < n) = true) : decide (k < m) = true := by
  simp only [decide_eq_true_eq] at *; omega

theorem core_mono {b : Build} (h : b.legal = true) {k : Nat} (hk : decide (k < b.physCores) = true) :
    decide (k < Build.largest.physCores) = true := lt_mono (physCores_le h) hk

theorem region_mono {b : Build} (h : b.legal = true) {r : Nat} (hr : decide (r < b.regions) = true) :
    decide (r < Build.largest.regions) = true := lt_mono (regions_le h) hr

theorem quay_mono {b : Build} (h : b.legal = true) {m : Nat} (hm : decide (m < b.quays) = true) :
    decide (m < Build.largest.quays) = true := lt_mono (legal_bounds h).2.2.2.2.2.2.2.2.2.2 hm

theorem port_mono {b : Build} (h : b.legal = true) {j : Nat} (hj : decide (j < b.jetties) = true) :
    decide (j < Build.largest.jetties) = true := lt_mono (legal_bounds h).2.2.2.2.2.2.2.2.1 hj

theorem set_mono {b : Build} (h : b.legal = true) {x : Nat} (hx : decide (x < b.basinSets) = true) :
    decide (x < Build.largest.basinSets) = true :=
  lt_mono (Nat.mul_le_mul_right 512 (legal_bounds h).2.2.2.2.2.2.2.2.2.1) hx

theorem berth_mono {b : Build} (h : b.legal = true) {t a : Nat} (ha : decide (a < b.berthBytes t) = true) :
    decide (a < Build.largest.berthBytes t) = true := by
  have hb := legal_bounds h
  refine lt_mono ?_ ha
  unfold Build.berthBytes
  split
  · exact Nat.mul_le_mul_right 1024 (by omega : b.wbKib ≤ 512)
  · exact Nat.mul_le_mul_right 1024 (by omega : b.abKib ≤ 256)
  · exact Nat.mul_le_mul_right 1024 (by omega : b.pbKib ≤ 256)
  · exact Nat.le_refl 0

theorem and_mono {p q p' q' : Bool} (hp : p = true → p' = true) (hq : q = true → q' = true) (h : (p && q) = true) :
    (p' && q') = true := by
  simp only [Bool.and_eq_true] at *; exact ⟨hp h.1, hq h.2⟩

theorem sqLd (core : AtCore) : Statement (.sqLd core) := fun _ hb h => core_mono hb h
theorem sqInc (core : AtCore) : Statement (.sqInc core) := fun _ hb h => core_mono hb h
theorem sqDec (core : AtCore) : Statement (.sqDec core) := fun _ hb h => core_mono hb h
theorem sqAddi (core : AtCore) : Statement (.sqAddi core) := fun _ hb h => core_mono hb h
theorem sqCmp (core : AtCore) : Statement (.sqCmp core) := fun _ hb h => core_mono hb h
theorem sqSkip (core : AtCore) : Statement (.sqSkip core) := fun _ hb h => core_mono hb h
theorem sqLoop (core : AtCore) : Statement (.sqLoop core) := fun _ hb h => core_mono hb h
theorem mxMm (core : Nat) (up : Upset) : Statement (.mxMm core up) := fun _ hb h => core_mono hb h
theorem mxMmMasked (core : Nat) (up : Upset) : Statement (.mxMmMasked core up) := fun _ hb h => core_mono hb h
theorem mxSetdim (core : Nat) (up : Upset) : Statement (.mxSetdim core up) := fun _ hb h => core_mono hb h
theorem mxRetire (core : Nat) : Statement (.mxRetire core) := fun _ hb h => core_mono hb h
theorem mxInject (party : Party) (core : Nat) (value : Word) : Statement (.mxInject party core value) := fun _ _ h => h
theorem capInject (party : Party) (value : Word) : Statement (.capInject party value) := fun _ _ h => h
theorem vxAdd (core : Nat) (up : Upset) : Statement (.vxAdd core up) := fun _ hb h => core_mono hb h
theorem vxMul (core : Nat) (up : Upset) : Statement (.vxMul core up) := fun _ hb h => core_mono hb h
theorem vxFma (core : Nat) (up : Upset) : Statement (.vxFma core up) := fun _ hb h => core_mono hb h
theorem vxMin (core : Nat) (up : Upset) : Statement (.vxMin core up) := fun _ hb h => core_mono hb h
theorem vxMax (core : Nat) (up : Upset) : Statement (.vxMax core up) := fun _ hb h => core_mono hb h
theorem vxCmp (core : Nat) (up : Upset) : Statement (.vxCmp core up) := fun _ hb h => core_mono hb h
theorem vxSel (core : Nat) (up : Upset) : Statement (.vxSel core up) := fun _ hb h => core_mono hb h
theorem vxCvt (core : Nat) (up : Upset) : Statement (.vxCvt core up) := fun _ hb h => core_mono hb h
theorem vxQuant (core : Nat) (up : Upset) : Statement (.vxQuant core up) := fun _ hb h => core_mono hb h
theorem vxRed (core : Nat) (up : Upset) : Statement (.vxRed core up) := fun _ hb h => core_mono hb h
theorem vxCompress (core : Nat) (up : Upset) : Statement (.vxCompress core up) := fun _ hb h => core_mono hb h
theorem vxExpand (core : Nat) (up : Upset) : Statement (.vxExpand core up) := fun _ hb h => core_mono hb h
theorem vxMset (core : Nat) (up : Upset) : Statement (.vxMset core up) := fun _ hb h => core_mono hb h
theorem vxMlogic (core : Nat) (up : Upset) : Statement (.vxMlogic core up) := fun _ hb h => core_mono hb h
theorem vxWharf (core : Nat) (up : Upset) : Statement (.vxWharf core up) := fun _ hb h => core_mono hb h
theorem vxSent (core : Nat) (up : Upset) : Statement (.vxSent core up) := fun _ hb h => core_mono hb h
theorem vxRetire (core : Nat) : Statement (.vxRetire core) := fun _ hb h => core_mono hb h
theorem wharfResultGroup (core : Nat) (valid : Bool) (words : List Word) (parityOk : Bool) : Statement (.wharfResultGroup core valid words parityOk) :=
  fun _ hb h => core_mono hb h
theorem ldStream (core : Nat) (up : Upset) : Statement (.ldStream core up) := fun _ hb h => core_mono hb h
theorem ldGather (core : Nat) (up : Upset) : Statement (.ldGather core up) := fun _ hb h => core_mono hb h
theorem stStream (core : Nat) (up : Upset) : Statement (.stStream core up) := fun _ hb h => core_mono hb h
theorem stScatter (core : Nat) (up : Upset) : Statement (.stScatter core up) := fun _ hb h => core_mono hb h
theorem stHalo (core : Nat) (up : Upset) : Statement (.stHalo core up) := fun _ hb h => core_mono hb h
theorem stPost (core : Nat) (up : Upset) : Statement (.stPost core up) := fun _ hb h => core_mono hb h
theorem streamSlotFree (core : Nat) (store : Bool) (up : Upset) : Statement (.streamSlotFree core store up) :=
  fun _ hb h => core_mono hb h
theorem chunkWaitMet (core : Nat) (store : Bool) (slot : Nat) : Statement (.chunkWaitMet core store slot) :=
  fun _ hb h => and_mono (core_mono hb) id h
theorem lineRequest (core : Nat) (store : Bool) (slot : Nat) (up : Upset) : Statement (.lineRequest core store slot up) :=
  fun _ hb h => and_mono (core_mono hb) id h
theorem indexWordRead (core : AtCore) (store : Bool) (slot : Nat) : Statement (.indexWordRead core store slot) :=
  fun _ hb h => and_mono (core_mono hb) id h
theorem lineDeposit (core : AtCore) : Statement (.lineDeposit core) := fun _ hb h => core_mono hb h
theorem chunkComplete (core : Nat) (store : Bool) (slot : Nat) : Statement (.chunkComplete core store slot) :=
  fun _ hb h => and_mono (core_mono hb) id h
theorem haloDelivery (core : AtCore) (src : Nat) : Statement (.haloDelivery core src) :=
  fun _ hb h => and_mono (core_mono hb) (core_mono hb) h
theorem postWriteArrival (core : AtCore) (src : Nat) : Statement (.postWriteArrival core src) :=
  fun _ hb h => and_mono (core_mono hb) (core_mono hb) h
theorem syWait (core : AtCore) : Statement (.syWait core) := fun _ hb h => core_mono hb h
theorem syAdd (core : AtCore) : Statement (.syAdd core) := fun _ hb h => core_mono hb h
theorem sySub (core : AtCore) : Statement (.sySub core) := fun _ hb h => core_mono hb h
theorem sySignal (core : AtCore) : Statement (.sySignal core) := fun _ hb h => core_mono hb h
theorem syFence (core : AtCore) : Statement (.syFence core) := fun _ hb h => core_mono hb h
theorem syArrive (core : AtCore) : Statement (.syArrive core) := fun _ hb h => core_mono hb h
theorem retirementBoundOp (core : Nat) : Statement (.retirementBoundOp core) := fun _ hb h => core_mono hb h
theorem signalArrival (core : Nat) (src : Nat) (neighbour : Bool) : Statement (.signalArrival core src neighbour) :=
  fun _ hb h => and_mono (core_mono hb) (core_mono hb) h
theorem fenceProbe (core : Nat) (src : Nat) : Statement (.fenceProbe core src) :=
  fun _ hb h => and_mono (core_mono hb) (core_mono hb) h
theorem fenceComplete (core : Nat) : Statement (.fenceComplete core) := fun _ hb h => core_mono hb h
theorem barrierRelease (ctx : AtUnit) : Statement (.barrierRelease ctx) := fun _ _ h => h
theorem blockBollardUpdate : Statement (.blockBollardUpdate) := fun _ _ h => h
theorem bolWrite (party : Party) (core b : Nat) (value : Word) : Statement (.bolWrite party core b value) :=
  fun _ _ h => h
theorem bbolValue (party : Party) (ctx : Nat) (value : Word) : Statement (.bbolValue party ctx value) := fun _ _ h => h
theorem bbolAdd (party : Party) (ctx : Nat) (value : Word) : Statement (.bbolAdd party ctx value) := fun _ _ h => h
theorem bbolSub (party : Party) (ctx : Nat) (value : Word) : Statement (.bbolSub party ctx value) := fun _ _ h => h
theorem brkArm (party : Party) (core : Nat) (value : Word) : Statement (.brkArm party core value) := fun _ _ h => h
theorem chartDataHi (party : Party) (core : Nat) (value : Word) : Statement (.chartDataHi party core value) :=
  fun _ _ h => h
theorem chartDataLoRead (party : Party) (core : AtCore) : Statement (.chartDataLoRead party core) := fun _ _ h => h
theorem chartScrub (core word : Nat) (found : Ecc) : Statement (.chartScrub core word found) :=
  fun _ hb h => and_mono (core_mono hb) id h
theorem berthScrub (core berth addr : Nat) (found : Ecc) : Statement (.berthScrub core berth addr found) :=
  fun _ hb h => and_mono (and_mono (core_mono hb) id) (berth_mono hb) h
theorem segmentReady (core : Nat) : Statement (.segmentReady core) := fun _ hb h => core_mono hb h
theorem segmentPowerDown (core : Nat) : Statement (.segmentPowerDown core) := fun _ hb h => core_mono hb h
theorem bankModeWrite (party : Party) (core : Nat) (value : Word) : Statement (.bankModeWrite party core value) :=
  fun _ _ h => h
theorem basinRequest (region : Nat) (found : BasinEcc) : Statement (.basinRequest region found) :=
  fun _ hb h => region_mono hb h
theorem basinFillComplete (region : Nat) : Statement (.basinFillComplete region) := fun _ hb h => region_mono hb h
theorem basinScrub (region set way : Nat) (found : BasinEcc) : Statement (.basinScrub region set way found) :=
  fun _ hb h => and_mono (and_mono (region_mono hb) (set_mono hb)) id h
theorem wayUseChange (region : Nat) : Statement (.wayUseChange region) := fun _ hb h => region_mono hb h
theorem brangePin (party : Party) (region : Nat) : Statement (.brangePin party region) := fun _ _ h => h
theorem brangeUnpin (party : Party) (region : Nat) : Statement (.brangeUnpin party region) := fun _ _ h => h
theorem brangeEvict (party : Party) (region : Nat) : Statement (.brangeEvict party region) := fun _ _ h => h
theorem rangeDone (region : Nat) : Statement (.rangeDone region) := fun _ hb h => region_mono hb h
theorem flitArrival (region : Nat) (part : ChPart) (vc gr gc src : Nat) (dataFlit : Bool) (found : Ecc) : Statement (.flitArrival region part vc gr gc src dataFlit found) :=
  fun _ hb h => region_mono hb h
theorem quayShareFrame (quay : Nat) (scDemand : List (Nat × Nat)) (bkDemand : Nat) : Statement (.quayShareFrame quay scDemand bkDemand) :=
  fun _ hb h => quay_mono hb h
theorem tideStep (region : Nat) (sample : Nat) (parityOk : Bool) : Statement (.tideStep region sample parityOk) :=
  fun _ hb h => region_mono hb h
theorem commitArm (party : Party) (page : Nat) : Statement (.commitArm party page) := fun _ _ h => h
theorem commitCancel (party : Party) (page : Nat) : Statement (.commitCancel party page) := fun _ _ h => h
theorem commitApply (stamp : Nat) : Statement (.commitApply stamp) := fun _ _ h => h
theorem planeSwitch (core : Nat) : Statement (.planeSwitch core) := fun _ hb h => core_mono hb h
theorem frequencyRise (region : Nat) : Statement (.frequencyRise region) := fun _ hb h => region_mono hb h
theorem holdReq (party : Party) (ctx : Nat) : Statement (.holdReq party ctx) := fun _ _ h => h
theorem holdArrival (core : Nat) : Statement (.holdArrival core) := fun _ hb h => core_mono hb h
theorem resumeTide (party : Party) (ctx : Nat) (hi : Word) : Statement (.resumeTide party ctx hi) := fun _ _ h => h
theorem resume (ctx : Nat) : Statement (.resume ctx) := fun _ _ h => h
theorem tlbInval (party : Party) (ctx : Nat) : Statement (.tlbInval party ctx) := fun _ _ h => h
theorem openCtx (party : Party) (ctx : Nat) : Statement (.openCtx party ctx) := fun _ _ h => h
theorem start (party : Party) (ctx : Nat) : Statement (.start party ctx) := fun _ _ h => h
theorem destroy (party : Party) (ctx : Nat) : Statement (.destroy party ctx) := fun _ _ h => h
theorem teardownComplete (ctx : Nat) : Statement (.teardownComplete ctx) := fun _ _ h => h
theorem ctxReplay (party : Party) (ctx : Nat) : Statement (.ctxReplay party ctx) := fun _ _ h => h
theorem bind (party : Party) (q : Nat) : Statement (.bind party q) := fun _ _ h => h
theorem unbind (party : Party) (q : Nat) : Statement (.unbind party q) := fun _ _ h => h
theorem reset (party : Party) (q : Nat) : Statement (.reset party q) := fun _ _ h => h
theorem flush (party : Party) (q : Nat) : Statement (.flush party q) := fun _ _ h => h
theorem doorbell (party : Party) (q : Nat) (value : Word) : Statement (.doorbell party q value) := fun _ _ h => h
theorem itemFetch (q : AtUnit) : Statement (.itemFetch q) := fun _ _ h => h
theorem itemComplete (q : Nat) : Statement (.itemComplete q) := fun _ _ h => h
theorem cmdEnd (q : Nat) : Statement (.cmdEnd q) := fun _ _ h => h
theorem cmdLaunch (q : Nat) : Statement (.cmdLaunch q) := fun _ _ h => h
theorem cmdCopy (q : Nat) : Statement (.cmdCopy q) := fun _ _ h => h
theorem cmdFill (q : Nat) : Statement (.cmdFill q) := fun _ _ h => h
theorem copyComplete (q : Nat) : Statement (.copyComplete q) := fun _ _ h => h
theorem cmdSignal (q : Nat) : Statement (.cmdSignal q) := fun _ _ h => h
theorem cmdWait (q : Nat) : Statement (.cmdWait q) := fun _ _ h => h
theorem cmdIf (q : Nat) : Statement (.cmdIf q) := fun _ _ h => h
theorem cmdLoop (q : Nat) : Statement (.cmdLoop q) := fun _ _ h => h
theorem condPoll (q : Nat) : Statement (.condPoll q) := fun _ _ h => h
theorem cmdCall (q : Nat) : Statement (.cmdCall q) := fun _ _ h => h
theorem cmdFence (q : Nat) : Statement (.cmdFence q) := fun _ _ h => h
theorem cmdTimestamp (q : Nat) : Statement (.cmdTimestamp q) := fun _ _ h => h
theorem cmdEnqueue (q : Nat) : Statement (.cmdEnqueue q) := fun _ _ h => h
theorem enqueueDeposit (q : Nat) : Statement (.enqueueDeposit q) := fun _ _ h => h
theorem cmdRegister (q : Nat) : Statement (.cmdRegister q) := fun _ _ h => h
theorem cmdRelease (q : Nat) : Statement (.cmdRelease q) := fun _ _ h => h
theorem crewLead (ctx : Nat) : Statement (.crewLead ctx) := fun _ _ h => h
theorem legBase (ctx : Nat) : Statement (.legBase ctx) := fun _ _ h => h
theorem legEnd (ctx : Nat) : Statement (.legEnd ctx) := fun _ _ h => h
theorem queueTimeout (q : Nat) : Statement (.queueTimeout q) := fun _ _ h => h
theorem quayResponse (quay id : Nat) (resp : QuayResp) (latency : Nat) : Statement (.quayResponse quay id resp latency) :=
  fun _ hb h => quay_mono hb h
theorem quayLate (quay id latency : Nat) : Statement (.quayLate quay id latency) :=
  fun _ hb h => quay_mono hb h
theorem quayLatMaxRead (party : Party) (quay : Nat) : Statement (.quayLatMaxRead party quay) := fun _ _ h => h
theorem hqReadResponse (req : HqReq) (latency : Nat) (err : Bool) : Statement (.hqReadResponse req latency err) :=
  fun _ _ h => h
theorem hqAresetN : Statement (.hqAresetN) := fun _ _ h => h
theorem resetAssert : Statement (.resetAssert) := fun _ _ h => h
theorem resetRelease (slipMode : BitVec 2) (selfTestOk : Bool) : Statement (.resetRelease slipMode selfTestOk) :=
  fun _ _ h => h
theorem go (party : Party) : Statement (.go party) := fun _ _ h => h
theorem slipTransfer (bytes : List Byte) (overrun : Bool) : Statement (.slipTransfer bytes overrun) := fun _ _ h => h
theorem pilotImageComplete (readErr : Bool) : Statement (.pilotImageComplete readErr) := fun _ _ h => h
theorem bootParamAddrHi (party : Party) (value : Word) : Statement (.bootParamAddrHi party value) := fun _ _ h => h
theorem bringUp (env : BringUpFindings) : Statement (.bringUp env) := fun _ _ h => h
theorem ledgerRecord : Statement .ledgerRecord := fun _ _ h => h
theorem crewTrap : Statement .crewTrap := fun _ _ h => h
theorem crewHang : Statement (.crewHang) := fun _ _ h => h
theorem stage (party : Party) (value : Word) : Statement (.stage party value) := fun _ _ h => h
theorem updateChecked (readErr : Bool) : Statement (.updateChecked readErr) := fun _ _ h => h
theorem activate (party : Party) (value : Word) : Statement (.activate party value) := fun _ _ h => h
theorem updateActivation (accepted : Bool) : Statement (.updateActivation accepted) := fun _ _ h => h
theorem confirm (party : Party) (value : Word) : Statement (.confirm party value) := fun _ _ h => h
theorem revert (party : Party) (value : Word) : Statement (.revert party value) := fun _ _ h => h
theorem abort (party : Party) (value : Word) : Statement (.abort party value) := fun _ _ h => h
theorem updWindowExpiry : Statement (.updWindowExpiry) := fun _ _ h => h
theorem wloadGo (party : Party) (region : Nat) (value : Word) : Statement (.wloadGo party region value) :=
  fun _ _ h => h
theorem wharfRecord (region : Nat) (readbackBad : List Nat) : Statement (.wharfRecord region readbackBad) :=
  fun _ hb h => region_mono hb h
theorem wloadDone (region : Nat) : Statement (.wloadDone region) := fun _ hb h => region_mono hb h
theorem coreFaultDetach (ctx : Nat) : Statement (.coreFaultDetach ctx) := fun _ _ h => h
theorem pairGateMatch (ctx : Nat) (mindex path : Nat) : Statement (.pairGateMatch ctx mindex path) :=
  fun _ _ h => h
theorem rebuild (ctx : Nat) : Statement (.rebuild ctx) := fun _ _ h => h
theorem configMirrorCheck (region : Nat) (upset : Option (Nat × Word)) : Statement (.configMirrorCheck region upset) :=
  fun _ hb h => region_mono hb h
theorem pilotHeartbeat : Statement (.pilotHeartbeat) := fun _ _ h => h
theorem pilotLost : Statement (.pilotLost) := fun _ _ h => h
theorem synthLockLoss (which : Synth) : Statement (.synthLockLoss which) := by
  cases which with
  | region r => exact fun _ hb h => region_mono hb h
  | tide => exact fun _ _ h => h
  | control => exact fun _ _ h => h
theorem vreqAck (region : Nat) : Statement (.vreqAck region) := fun _ hb h => region_mono hb h
theorem vreqTimeout (region : Nat) : Statement (.vreqTimeout region) := fun _ hb h => region_mono hb h
theorem gaugeReading (region : Nat) (margins : List (BitVec 16)) (hits : Nat) : Statement (.gaugeReading region margins hits) :=
  fun _ hb h => region_mono hb h
theorem muster (party : Party) (rate : Int) : Statement (.muster party rate) := fun _ _ h => h
theorem musterDecide : Statement (.musterDecide) := fun _ _ h => h
theorem tideForwardStep : Statement (.tideForwardStep) := fun _ _ h => h
theorem leave (party : Party) : Statement (.leave party) := fun _ _ h => h
theorem hersilFlitRx (port : Nat) (flit : List Byte) : Statement (.hersilFlitRx port flit) :=
  fun _ hb h => port_mono hb h
theorem nak (port : Nat) (expected : BitVec 16) : Statement (.nak port expected) := fun _ hb h => port_mono hb h
theorem replayTimeout (port : Nat) : Statement (.replayTimeout port) := fun _ hb h => port_mono hb h
theorem jettyRetry (port : Nat) : Statement (.jettyRetry port) := fun _ hb h => port_mono hb h
theorem keepalive (port : Nat) : Statement (.keepalive port) := fun _ hb h => port_mono hb h
theorem jettyDark (port : Nat) : Statement (.jettyDark port) := fun _ hb h => port_mono hb h
theorem restart (party : Party) (port : Nat) (value : Word) : Statement (.restart party port value) := fun _ _ h => h
theorem detourFenceEnd (member : Nat) : Statement (.detourFenceEnd member) := fun _ _ h => h
theorem bollardWindowAdd : Statement (.bollardWindowAdd) := fun _ _ h => h
theorem tideSync : Statement (.tideSync) := fun _ _ h => h
theorem tideSkew (lagTenths : Int) : Statement (.tideSkew lagTenths) := fun _ _ h => h
theorem captureArm (party : Party) (value : Word) : Statement (.captureArm party value) := fun _ _ h => h
theorem captureCancel (party : Party) (value : Word) : Statement (.captureCancel party value) := fun _ _ h => h
theorem captureFreeze : Statement (.captureFreeze) := fun _ _ h => h
theorem captureRelease (party : Party) (value : Word) : Statement (.captureRelease party value) := fun _ _ h => h
theorem captureReleased : Statement (.captureReleased) := fun _ _ h => h
theorem instrumentAccess (what : TestAccess) : Statement (.instrumentAccess what) := fun _ _ h => h
theorem testEnRise : Statement (.testEnRise) := fun _ _ h => h
theorem flogRead (party : Party) (value : Word) : Statement (.flogRead party value) := fun _ _ h => h
theorem flogE0Read (party : Party) : Statement (.flogE0Read party) := fun _ _ h => h
theorem loRead (party : Party) (offset : Nat) : Statement (.loRead party offset) := fun _ _ h => h
theorem hiWrite (party : Party) (offset : Nat) (value : Word) : Statement (.hiWrite party offset value) :=
  fun _ _ h => h
theorem winData (party : Party) (core : AtCore) (write : Option Word) : Statement (.winData party core write) :=
  fun _ _ h => h
theorem registerWrite (party : Party) (offset : Nat) (value : Word) : Statement (.registerWrite party offset value) :=
  fun _ _ h => h
theorem lossOfPower : Statement (.lossOfPower) := fun _ _ h => h
theorem vreqAckFall (region : Nat) : Statement (.vreqAckFall region) := fun _ hb h => region_mono hb h
theorem linkUp (port : Nat) : Statement (.linkUp port) := fun _ hb h => port_mono hb h
theorem idleForAck (port : Nat) : Statement (.idleForAck port) := fun _ hb h => port_mono hb h
theorem restartExpiry (port : Nat) : Statement (.restartExpiry port) := fun _ hb h => port_mono hb h
theorem lowerVreq (region : Nat) : Statement (.lowerVreq region) := fun _ hb h => region_mono hb h
theorem lifelineToggle : Statement (.lifelineToggle) := fun _ _ h => h
theorem pilotTrap : Statement (.pilotTrap) := fun _ _ h => h
theorem pilotSramUe : Statement (.pilotSramUe) := fun _ _ h => h

end Laws.Wf

end Sys2Proof
end

