-- ==== Sys2Proof/Tests/Slice0.lean ====
section
/-! SUPPORT. Tests of the model: ill-formed commands, small results with their source in the manual, and for each statement
of Certificates/Slice0 that has hypotheses a state that meets them. -/

namespace Sys2Proof.Tests

open Sys2Proof Sys2Proof.Machine

-- One proof at a time: each thread of a parallel elaboration reserves its stack within the memory limit.
set_option Elab.async false

/-! A small machine: region 0 runs, core 0 serves context 0, which is RUNNING in region 0; every segment of core 0 is
ready. -/

def tst (x : Core) : State :=
  { reg := [(0x14, 0x40000000), (0x10014, 2), (0x100048, 0xFFFFFF)]
    clk := { time := 1000, tide := 500, running := true, rc := [(0, 100)] }
    inReset := false, quiet := false, region := [(0, { clockOn := true, tideLow := 500 })]
    ctx := [(0, { regions := [0] })], core := [(0, x)] }

def tprog : Prog :=
  { ctx := 0, launch := 0, leg := 0, mindex := 0, base := 0, sects := [(1, 1), (2, 2), (3, 3), (4, 4), (0x0A, 5), (0x0B, 6)] }

/-- Engine `e` runs a stream of one bundle with slot word `w`; `l` gives the bytes of its tables by type of section. -/
def tcore (e : Nat) (w : DWord) (l : Tab (List Byte)) : Core :=
  { state := 1, ctx := some 0, last := 1, eng := [(e, { stream := 1, live := true })], progs := [(1, tprog)]
    sects := { ctx := 0, voyage := 0, leg := 0, idx := 1, bundles := [⟨0, 7, 9, false, false, [(e, w)]⟩] }
      :: l.map fun t => { ctx := 0, voyage := 0, leg := 0, idx := if t.1 < 5 then t.1 else t.1 - 5, bytes := t.2 } }

/-- Engine `e` of core 0 has fetched its first entry (R221). -/
def tfetch (e : Nat) (x : Core) : State := (tst x).fetchEng 0 e
def tent (e : Nat) (w : DWord) : State := tfetch e (tcore e w [])

theorem test_runs (x : Core) : (tst x).runs 0 :=
  have h : 0 < (tst {}).build.physCores ∧ (tst {}).awake = true ∧ (tst {}).clocked ((tst {}).regionOf 0) = true := by decide
  ⟨h.1, h.2.1, h.2.2⟩

theorem test_clean : chartClean .none := fun _ => ⟨nofun, nofun⟩

/-- What a head has that a test finds. -/
theorem head_of {o : Option Head} {f : Head → Bool} (h : o.any f = true) : ∃ x, o = some x ∧ f x = true := by
  cases o with
  | none => simp at h
  | some x => exact ⟨x, rfl, h⟩

theorem head_meets {o : Option Head} {P : Head → Prop} [DecidablePred P] (h : o.any (fun x => decide (P x)) = true) :
    ∃ x, o = some x ∧ P x := by
  obtain ⟨x, e, p⟩ := head_of h
  exact ⟨x, e, of_decide_eq_true p⟩

/-! Ill-formed commands, one for each check of WellFormed: refused by it. -/

theorem test_ill_formed : ∀ i ∈ [Instr.sqLd ⟨1056, .none⟩, .mxInject .host 1088 0, .chunkWaitMet 0 true 4,
    .haloDelivery ⟨0, .none⟩ 1056, .barrierRelease ⟨16, false⟩, .bolWrite .crew 0 64 0, .chartScrub 0 8192 .clean,
    .berthScrub 0 3 0 .clean, .berthScrub 0 0 393216 .clean, .basinRequest 16 .clean, .basinScrub 0 2048 0 .clean,
    .basinScrub 0 0 16 .clean, .brangePin .host 16, .quayShareFrame 16 [] 0, .bind .host 64, .quayLatMaxRead .host 16,
    .synthLockLoss (.region 16), .nak 12 0, .restart .host 16 0], i.wellFormed Build.jx1024 = false := by decide +kernel

theorem test_well_formed : ∀ i ∈ [Instr.sqLd ⟨1055, .none⟩, .mxInject .host 1087 0, .chunkWaitMet 0 true 3,
    .haloDelivery ⟨0, .none⟩ 1055, .barrierRelease ⟨15, false⟩, .bolWrite .crew 0 63 0, .chartScrub 0 8191 .clean,
    .berthScrub 0 0 393215 .clean, .basinRequest 15 .clean, .basinScrub 0 2047 15 .clean, .brangePin .host 15,
    .quayShareFrame 15 [] 0, .bind .host 63, .quayLatMaxRead .host 15, .synthLockLoss (.region 15), .nak 11 0,
    .restart .host 15 0], i.wellFormed Build.jx1024 = true := by decide +kernel

/-! Witnesses of StepRunsFrontCommand, EveryStepKeepsInvariant, WellFormedCommandsNeverStop, CommandsKeepSiliconAndQueue
and TideNeverMovesBackward. -/

theorem wit_step_front : ({ State.reset with pending := [.go .host] } : State).pending = [.go .host]
    ∧ State.reset.pending = [] := by decide +kernel

theorem wit_inv : State.Inv (tst {}) :=
  ⟨by decide +kernel, fun _ => (by decide +kernel : (0 : Nat) < 250), by decide +kernel, by decide +kernel⟩

theorem wit_inv_step : ∃ t, step State.reset = .next t := ⟨_, rfl⟩

theorem wit_absent : (Instr.sqLd ⟨1056, .none⟩).wellFormed State.reset.build = false
    ∧ (Instr.sqLd ⟨1055, .none⟩).wellFormed State.reset.build = true := by decide +kernel

theorem wit_tide : (tst {}).clk.running = true ∧ ∃ t, step (tst {}) = .next t := ⟨rfl, _, rfl⟩

/-- A command other than the forward step stands in front, and the forward step does. -/
theorem wit_tide_command : ({ tst {} with pending := [.go .host] } : State).pending ≠ []
    ∧ ({ tst {} with pending := [.go .host] } : State).pending.head? ≠ some .tideForwardStep := by decide +kernel

/-- Core 0 of a block whose region clocks do not run. -/
theorem wit_stopped : 0 < State.reset.build.physCores ∧ State.reset.clocked (State.reset.regionOf 0) = false
    ∧ State.reset.regionOf 0 < State.reset.build.regions := by decide +kernel

/-! The sequencer (R201 to R206). -/

def tsqs : List (Nat × DWord) :=
  [(0x01, 0x0100000000000005), (0x02, 0x0200000000000000), (0x03, 0x0300000000000000), (0x04, 0x04000000FFFFFFFF),
   (0x08, 0x0800000000000000), (0x10, 0x1000000100000000)]

theorem wit_sq : ∀ e ∈ tsqs, ∃ h, (tent 0 e.2).readyHead 0 0 e.1 = some h := by
  have k : ∀ e ∈ tsqs, ((tent 0 e.2).readyHead 0 0 e.1).isSome = true := by decide +kernel
  exact fun e he => Option.isSome_iff_exists.1 (k e he)

/-- A loop of body 1 and MAX_M1 0: with c0 = 1 it is decided, with c0 = 2 it trips. -/
def tloop (a : Word) : State := tfetch 0 { tcore 0 0x1100000100000000 [] with ctr := [(0, a)] }

theorem wit_loop : ∃ h, (tloop 1).readyHead 0 0 0x11 = some h
    ∧ (tloop 1).ctr 0 (fieldOf h.word 55 53) ≤ fieldOf h.word 15 0 + 1 := head_meets (by decide +kernel)

theorem wit_loop_trip : ∃ h, (tloop 2).readyHead 0 0 0x11 = some h
    ∧ fieldOf h.word 15 0 + 1 < (tloop 2).ctr 0 (fieldOf h.word 55 53) ∧ h.bundle.tag < 2 ^ 16 ∧ h.bundle.line < 2 ^ 16 :=
  head_meets (by decide +kernel)

theorem wit_loop_prog : ((tloop 1).prog? 0 1).isSome = true ∧ ((tloop 1).head? 0 0).any (fun h => h.num = 1) = true := by
  decide +kernel

/-- c0 := 5, and the old value in the same region cycle (R201, R202). -/
theorem test_sq_ld : (match exec (.sqLd ⟨0, .none⟩) (tent 0 0x0100000000000005) with
    | .next t => (Tab.get 0 (t.getCore 0).ctr 0, t.ctr 0 0) | _ => (0, 0)) = (5, 0) := by decide +kernel

/-- 0 plus -1 wraps (R201: modulo 2^32). -/
theorem test_sq_addi_wraps : (match exec (.sqAddi ⟨0, .none⟩) (tent 0 0x04000000FFFFFFFF) with
    | .next t => Tab.get 0 (t.getCore 0).ctr 0 | _ => 0) = 0xFFFFFFFF := by decide +kernel

/-! The matrix engine: a 1 by 1 by 1 product of INT8 (R61, R66). -/

def tmxd : List Byte :=
  leBytes 6 0 ++ [0, 0] ++ leBytes 4 0 ++ leBytes 4 16 ++ leBytes 24 0 ++ leBytes 4 16 ++ leBytes 20 0

def tmx (w : DWord) : State := tfetch 1 (tcore 1 w [(2, tmxd)])

theorem wit_mx : ∀ e ∈ [((0x01 : Nat), (0x0100000000000000 : DWord)), (0x02, 0x0200000000000000)],
    ∃ h, (tmx e.2).readyHead 0 1 e.1 = some h ∧ (tmx e.2).arrayFree 0 = true
      ∧ ∃ raw, State.mxdAt h.prog (fieldOf h.word 55 49) = some raw ∧ mxReserved raw = false
        ∧ (MxDesc.of raw).formatFault = none
        ∧ ((tmx e.2).issued 0 1 h).mxCheck 0 (MxDesc.of raw) (((tmx e.2).issued 0 1 h).mxBatch 0 h) = .ok := by
  have k : ∀ e ∈ [((0x01 : Nat), (0x0100000000000000 : DWord)), (0x02, 0x0200000000000000)],
      ((tmx e.2).readyHead 0 1 e.1).any (fun h => decide ((tmx e.2).arrayFree 0 = true
        ∧ State.mxdAt h.prog (fieldOf h.word 55 49) = some tmxd ∧ mxReserved tmxd = false
        ∧ (MxDesc.of tmxd).formatFault = none
        ∧ ((tmx e.2).issued 0 1 h).mxCheck 0 (MxDesc.of tmxd) (((tmx e.2).issued 0 1 h).mxBatch 0 h) = .ok)) = true := by
    decide +kernel
  intro e he; obtain ⟨h, r, p⟩ := head_meets (k e he)
  exact ⟨h, r, p.1, tmxd, p.2⟩

/-- A run of an engine that was issued in region cycle 50. -/
def trun : Run := { issue := 50, occ := 1, lat := 1, pipe := 0, inst := ⟨0, []⟩, stream := 1, stamp := 0, tag := 0, line := 0 }

/-- The product with its row in the array, accumulated in region cycle 50 + D. -/
def tjob : MxJob := { desc := 0, raw := tmxd, b0 := 0, tile := 0, full := true, flight := [⟨0, [[(some 5, 0)]]⟩] }
def tflight : State := tst { state := 1, mx := [{ trun with mx := some tjob }] }

theorem wit_mx_row : (tflight.getCore 0).state = 1 ∧ (tflight.getCore 0).mx = [{ trun with mx := some tjob }]
    ∧ tjob.stop = none ∧ (tflight.getCore 0).mxLands = []
    ∧ ∃ rc, 50 + 0 + (MxDesc.of tjob.raw).delay = rc ∧ 50 + (MxDesc.of tjob.raw).rowCount + 1 ≤ rc :=
  ⟨rfl, rfl, rfl, rfl, _, rfl, by decide +kernel⟩

/-- The group sum 5 is added to the 0 of PB (R70). -/
theorem test_mx_row : (((tflight.mxCycle 0 (50 + (MxDesc.of tmxd).delay)).getCore 0).mxLands.map fun l => l.puts.map (·.val))
    = [[5, 0, 0, 0]] := by decide +kernel

/-- mx.setdim of M from c0 + offset: 1 is written, 0 and 4097 trip (R65: 1 to the dimension's maximum). -/
def tdim (off : Nat) : State := tmx (BitVec.ofNat 64 (0x0800000000000000 + off * 2 ^ 28))

theorem wit_setdim : ∀ e ∈ [((1 : Nat), true), (4096, true), (0, false), (4097, false)],
    ∃ h, (tdim e.1).readyHead 0 1 0x08 = some h ∧ fieldOf h.word 55 49 < h.prog.mxd.length / 64
      ∧ (decide (1 ≤ ((tdim e.1).ctr 0 (fieldOf h.word 46 44) : Int) + signed 16 (fieldOf h.word 43 28)
          ∧ ((tdim e.1).ctr 0 (fieldOf h.word 46 44) : Int) + signed 16 (fieldOf h.word 43 28)
            ≤ ((State.dimField (fieldOf h.word 48 47)).2 : Int))) = e.2 := by
  have k : ∀ e ∈ [((1 : Nat), true), (4096, true), (0, false), (4097, false)],
      ((tdim e.1).readyHead 0 1 0x08).any (fun h => decide (fieldOf h.word 55 49 < h.prog.mxd.length / 64
      ∧ (decide (1 ≤ ((tdim e.1).ctr 0 (fieldOf h.word 46 44) : Int) + signed 16 (fieldOf h.word 43 28)
          ∧ ((tdim e.1).ctr 0 (fieldOf h.word 46 44) : Int) + signed 16 (fieldOf h.word 43 28)
            ≤ ((State.dimField (fieldOf h.word 48 47)).2 : Int))) = e.2)) = true := by decide +kernel
  intro e he; exact head_meets (k e he)

/-- A field of `mx.setdim` waits for the end of its region cycle, in the second section of chart memory. -/
def tdimmed : Core := { tcore 1 0 [(2, tmxd)] with dimOps := [(1, 0, 0, [9, 0])] }

theorem wit_setdim_lands : ((tst tdimmed).getCore 0).chartOps = [] ∧ ((tst tdimmed).getCore 0).dimOps = [(1, 0, 0, [9, 0])]
    ∧ (((tst tdimmed).getCore 0).progs.find? fun e => e.1 = 1) = some (1, tprog)
    ∧ State.sectIndex ((tst tdimmed).getCore 0) tprog 2 = some 1
    ∧ ((tst tdimmed).getCore 0).sects[1]? = some { ctx := 0, voyage := 0, leg := 0, idx := 2, bytes := tmxd } := by
  decide +kernel

/-- Finished runs, of the array with the core serving and stopped, and of the VXE with a record. -/
theorem wit_retire : State.dueRun ((tst { state := 1, mx := [trun] }).coreRc 0) ((tst { state := 1, mx := [trun] }).getCore 0).mx
      = some (trun, []) ∧ ((tst { state := 1, mx := [trun] }).getCore 0).state = 1
    ∧ ((tst { state := 2, mx := [trun] }).getCore 0).state ≠ 1
    ∧ State.dueRun ((tst { vx := [{ trun with record := some 3 }] }).coreRc 0)
      ((tst { vx := [{ trun with record := some 3 }] }).getCore 0).vx = some ({ trun with record := some 3 }, []) := by decide +kernel

/-! The vector engine: one word of each operation, over registers where it takes them (R87, R92). -/

def vword (op dst sa sb sc rest : Nat) : DWord :=
  BitVec.ofNat 64 (op * 2 ^ 58 + dst * 2 ^ 48 + sa * 2 ^ 40 + sb * 2 ^ 32 + sc * 2 ^ 24 + rest)

/-- Descriptor 0: INT8 with MX32 scales in AB; 1: quantise, rows of 32; 2: INT8 in AB for a count; 3: BF16 in AB. -/
def tvxd : List Byte :=
  ([0, 0, 0x10, 0] ++ leBytes 4 0 ++ leBytes 4 1 ++ leBytes 4 0 ++ leBytes 4 0x1000 ++ leBytes 12 0)
  ++ ([1, 0] ++ leBytes 2 31 ++ leBytes 4 0x3F800000 ++ leBytes 4 64 ++ leBytes 4 0x1000 ++ leBytes 8 0
      ++ leBytes 4 0x3F800000 ++ leBytes 4 0)
  ++ ([0, 0, 0, 0] ++ leBytes 4 0x2000 ++ leBytes 4 1 ++ leBytes 20 0)
  ++ ([0, 0, 7, 0] ++ leBytes 4 0 ++ leBytes 4 1 ++ leBytes 20 0)

/-- A 1 by 1 by 1 product of E4M3 with MX32 scales, which a sentinel may sample. -/
def tmxs : List Byte :=
  leBytes 6 0 ++ [0x11, 0x11] ++ leBytes 4 0 ++ leBytes 4 64 ++ leBytes 24 0 ++ leBytes 4 16 ++ leBytes 20 0

def tvx (w : DWord) : State :=
  tfetch 2 { tcore 2 w [(2, tmxs), (3, tvxd)] with planeA := { state := 2, div := 1 } }

def vwords : List DWord :=
  [vword vAdd 0x10 0x11 0x12 0 0, vword vMul 0x10 0x11 0x12 0 0, vword vFma 0x10 0x11 0x12 0x13 0,
   vword vMin 0x10 0x11 0x12 0 0, vword vMax 0x10 0x11 0x12 0 0, vword 8 0x20 0x11 0x12 0 0,
   vword vSel 0x10 0x11 0x12 0 512, vword vCvt 0x10 0x11 0 0 0, vword vQuant 0x80 0x11 0x81 0 (31 * 2 ^ 10),
   vword 0x14 0x10 0x11 0 0 0, vword vCompress 0x10 0x11 0 0x82 512, vword vExpand 0x10 0x11 0 0 512,
   vword vMset 0x20 0 0 0 0, vword 0x24 0x20 0x21 0x22 0 0]

/-- The hypotheses of VectorInstructionEntersPipe as a test of a head. -/
def vxMeets (s : State) (isOp : Nat → Bool) (h : Head) : Bool :=
  isOp (opOf h.word / 4) && s.ready 0 2 h && decide (s.vxGate 0 h = 0)
    && match (s.issued 0 2 h).vxPlan 0 h with
       | .ok p => decide ((s.issued 0 2 h).vxRanges 0 p.ranges = .ok) && decide (p.v.op ≠ vWharf) && decide (p.v.op ≠ vSent)
       | .error _ => false

theorem wit_vx_meets : ∀ n ∈ List.range 14, ((tvx (vwords.getD n 0)).head? 0 2).any
    (vxMeets (tvx (vwords.getD n 0)) (((vxArithRows 0 .none).map (·.2)).getD n fun _ => false)) = true := by decide +kernel

/-- Every one of the fourteen operations meets the hypotheses together on its state. -/
theorem wit_vx {s : State} {f : Nat → Bool} (k : (s.head? 0 2).any (vxMeets s f) = true) :
    ∃ h p, s.head? 0 2 = some h ∧ f (opOf h.word / 4) = true ∧ s.ready 0 2 h = true ∧ s.vxGate 0 h = 0
      ∧ (s.issued 0 2 h).vxPlan 0 h = .ok p ∧ (s.issued 0 2 h).vxRanges 0 p.ranges = .ok ∧ p.v.op ≠ vWharf
      ∧ p.v.op ≠ vSent := by
  obtain ⟨h, e, m⟩ := head_of k
  unfold vxMeets at m
  split at m
  · rename_i p hp
    simp only [Bool.and_eq_true, decide_eq_true_eq] at m
    obtain ⟨⟨⟨a, b⟩, c⟩, ⟨d, f⟩, g⟩ := m
    exact ⟨h, p, e, a, b, c, hp, d, f, g⟩
  · simp at m

/-- vx.add v0 = v1 + v2 in the cycle of its issue. -/
def tvjob : VJob :=
  { word := vword vAdd 0x10 0x11 0x12 0 0, plan := { v := VOp.of (vword vAdd 0x10 0x11 0x12 0 0), d := some (.reg 0), a := some (.reg 1), b := some (.reg 2) },
    full := true, seed := 0, stamp := 0, mindex := 0 }
def tvrun : Run := { trun with occ := 1, pipe := 1, vx := some tvjob }

theorem wit_vx_beat : tvrun.vx = some tvjob ∧ tvrun.wharf = none ∧ tvrun.dead = false ∧ 0 < tvrun.occ ∧ tvjob.stop = none
    ∧ tvjob.plan.v.op ≠ vSent ∧ isRed tvjob.plan.v.op = false ∧ tvjob.plan.q = none ∧ tvjob.two = false := by decide +kernel

/-- 1.5 + 2.25 = 3.75 in FP32 (R92). -/
theorem test_vx_add : (((State.vxRunCycle 50 (tst { vx := [tvrun], vregs :=
      (({} : Scratch).putBytes 4096 (leBytes 4 0x3FC00000)).putBytes 8192 (leBytes 4 0x40100000) }) 0 tvrun).getCore 0).vxLands.map fun l =>
        (l.space, (l.puts.map (·.val)).take 4)) = [(3, leBytes 4 0x40700000)] := by decide +kernel

/-- vx.wharf and vx.sent. -/
def vxMeets2 (s : State) (op : Nat) (h : Head) : Bool :=
  decide (opOf h.word / 4 = op) && s.ready 0 2 h && decide (s.vxGate 0 h = 0)
    && match (s.issued 0 2 h).vxPlan 0 h with
       | .ok p => decide ((s.issued 0 2 h).vxRanges 0 p.ranges = .ok) && decide (p.v.op = op)
           && (op = vSent || (p.d.isSome && p.a.isSome))
       | .error _ => false

theorem wit_vx_wharf : ((tvx (vword vWharf 0x10 0x11 0 0 0)).head? 0 2).any
    (vxMeets2 (tvx (vword vWharf 0x10 0x11 0 0 0)) vWharf) = true := by decide +kernel

theorem wit_vx_sent : ((tvx (vword vSent 0 0x83 0 0 0)).head? 0 2).any
    (vxMeets2 (tvx (vword vSent 0 0x83 0 0 0)) vSent) = true := by decide +kernel

/-- A Wharf run whose first group is due in region cycle 100 of 100, and one whose last cycle was 99. -/
def twr (issue : Nat) : Run := { trun with issue := issue, pipe := 2, wharf := some { groups := [0], active := [0], space := 3, fmt := 9, base := 0, stride := 4, div := 1, lat := 0, rnd := false, seed := 0, mindex := 0, opcode := 0xA0 } }

theorem wit_result_group : ((tst { vx := [twr 100] }).getCore 0).vx = [twr 100] ∧ (twr 100).dead = false
    ∧ 100 + (0 + 0) * 1 ≤ (tst { vx := [twr 100] }).coreRc 0 ∧ (tst { vx := [twr 100] }).coreRc 0 < 100 + (0 + 1 + 0) * 1
    ∧ (∀ r ∈ ((tst { vx := [twr 99] }).getCore 0).vx, State.wharfDue ((tst { vx := [twr 99] }).coreRc 0) r = none) := by
  decide +kernel

/-! Streams: one row of 64 bytes (R140, R144). -/

def tlsdOf (kind xaddr idxLimit : Nat) : List Byte :=
  [BitVec.ofNat 8 kind, 0, 1, 0] ++ leBytes 2 63 ++ leBytes 2 0 ++ leBytes 4 1 ++ leBytes 4 0 ++ leBytes 8 xaddr
  ++ leBytes 28 0 ++ leBytes 4 idxLimit ++ leBytes 72 0

/-- A slot of engine `e`; with `none_` the plane count comes from counter 0, which is 0. -/
def tls (e op : Nat) (l : List Byte) (none_ : Nat) : State :=
  let w : DWord := BitVec.ofNat 64 (op * 2 ^ 56 + 2 ^ 39 + none_ * 2 ^ 44)
  tfetch e (tcore e w [(4, l)])

/-- The eight rows of lsRows: state, engine. -/
def tlsAll (z : Nat) : List (State × Nat) :=
  [(tls 3 1 (tlsdOf 0 0 0) z, 3), (tls 3 2 (tlsdOf 1 0 9) z, 3), (tls 4 1 (tlsdOf 0 0 0) z, 4), (tls 4 2 (tlsdOf 1 0 9) z, 4),
   (tls 4 3 (tlsdOf 0 0 0) z, 4), (tls 4 4 (tlsdOf 0 (2 ^ 34) 0) z, 4), (tls 3 1 (tlsdOf 0 0 0) z, 3),
   (tls 4 1 (tlsdOf 0 0 0) z, 4)]

/-- The hypotheses of StreamTakesFreeSlot as a test of a head. -/
def lsMeets (s : State) (store none_ : Bool) (isOp : Nat → Bool) (h : Head) : Bool :=
  let eng := if store then 4 else 3
  isOp (opOf h.word) && s.ready 0 eng h && (s.freeSlot 0 store == some 0)
    && match State.lsdAt h.prog (fieldOf h.word 55 49) with
       | some raw => decide ((s.issued 0 eng h).lsCheck 0 store h raw = .ok)
           && decide (((s.issued 0 eng h).lsStream 0 store h raw).n = 0) == none_
       | none => false

theorem wit_ls : ∀ z ∈ [(0 : Nat), 1], ∀ n ∈ List.range 8,
    (((tlsAll z).getD n (tst {}, 3)).1.head? 0 ((tlsAll z).getD n (tst {}, 3)).2).any
      (lsMeets ((tlsAll z).getD n (tst {}, 3)).1 (((lsRows 0 .none).map (·.2.1)).getD n false) (z == 1)
        (((lsRows 0 .none).map (·.2.2)).getD n fun _ => false)) = true := by decide +kernel

/-- A stream of one row of 64 bytes in slot 0 of the load (3) or store (4) engine. -/
def tstream (op : Nat) (l : List Byte) : Stream := { op := op, desc := 0, body := l, p0 := 0, n := 1, inst := ⟨0, []⟩, stream := 1 }
def tslot (e : Nat) (x : Stream) : State :=
  tst { tcore e 0 [] with loads := if e = 3 then [(0, x)] else [], stores := if e = 4 then [(0, x)] else [] }

/-- A waiting descriptor: WAIT_BOL 5 and a threshold of 1; bollard 5 holds 0 or 1. -/
def twaits : List Byte := patchAt (tlsdOf 0 0 0) 44 ([0x45, 0, 0, 0] ++ leBytes 4 1)
def twaitAt (v : Word) : State :=
  { tslot 3 (tstream 1 twaits) with reg := [(0x14, 0x40000000), (0x10014, 2), (0x100048, 0xFFFFFF), (0x100214, v)] }

theorem wit_chunk_wait : (twaitAt 0).streamAt 0 false 0 = some (tstream 1 twaits)
    ∧ (LsDesc.of twaits).waitBol = some 5 ∧ (tstream 1 twaits).plane < (tstream 1 twaits).n ∧ (tstream 1 twaits).halted = false
    ∧ State.chunkOpen (tstream 1 twaits) (LsDesc.of twaits) 0 = false ∧ (twaitAt 0).coreIssues 0 = true
    ∧ State.chunkThreshold (LsDesc.of twaits) 0 = 1 ∧ (twaitAt 0).bol 0 5 = 0 ∧ (twaitAt 1).bol 0 5 = 1
    ∧ (twaitAt 1).streamAt 0 false 0 = some (tstream 1 twaits) ∧ (twaitAt 1).coreIssues 0 = true := by decide +kernel

/-- Device memory holds a page table of one page at address 0x10000: root at 0, every level's entry 0. -/
def tpages : Mem := Mem.putBytes zeroFill (Mem.putBytes zeroFill (Mem.putBytes zeroFill (Mem.putBytes zeroFill []
  0x0 (leBytes 8 0x1003)) 0x1000 (leBytes 8 0x2003)) 0x2000 (leBytes 8 0x3003)) 0x3000 (leBytes 8 0x1000F)

def tmove (store : Bool) : State :=
  { tslot (if store then 4 else 3) (tstream 1 (tlsdOf 0 0 0)) with devMem := tpages }
def tmoveNow (store : Bool) : State := (tmove store).modCore 0 fun y =>
  { y with lineRc := Tab.put y.lineRc (if store then 1 else 0) ((tmove store).coreRc 0),
           lastSlot := Tab.put y.lastSlot (if store then 1 else 0) 0 }

/-- A load and a store whose turn it is; the port delivers the whole line of the store. -/
theorem wit_line_request : ∀ store ∈ [false, true],
    (tmove store).streamAt 0 store 0 = some (tstream 1 (tlsdOf 0 0 0)) ∧ ((tmove store).getCore 0).ctx = some 0
      ∧ (tstream 1 (tlsdOf 0 0 0)).op < 3 ∧ (tmove store).turnOf 0 store = some 0
      ∧ (((tmove store).getCore 0).lineRc.any fun t => t.1 = (if store then 1 else 0) && t.2 = (tmove store).coreRc 0) = false
      ∧ State.trackers ((tmove store).getCore 0) store < 512
      ∧ State.planeValue (tstream 1 (tlsdOf 0 0 0)) (LsDesc.of (tlsdOf 0 0 0)) 0 = some 0
      ∧ (LsDesc.of (tlsdOf 0 0 0)).indexed = false
      ∧ 0 ≤ (LsDesc.lineAt 64 (State.nextExt (tstream 1 (tlsdOf 0 0 0)) (LsDesc.of (tlsdOf 0 0 0)) store 0) 0).1
      ∧ ((tmoveNow store).translate 0 0 store).1 = .ok 0x10000
      ∧ (store = true → (((tmoveNow true).translate 0 0 true).2.readLine 0 (tstream 1 (tlsdOf 0 0 0)) (LsDesc.of (tlsdOf 0 0 0))
          0 64 .none).2.1 = .none) := by decide +kernel

/-- A posted write of 64 bytes to the berth of core 1. -/
def tposted : Stream := { tstream 4 (tlsdOf 0 (2 ^ 32) 0) with target := some 1 }
def tpost : State := tslot 4 tposted

theorem wit_post_request : tpost.streamAt 0 true 0 = some tposted ∧ tpost.turnOf 0 true = some 0 ∧ tposted.target = some 1
    ∧ State.planeValue tposted (LsDesc.of tposted.body) 0 = some 0
    ∧ (let d := LsDesc.of tposted.body
       let ext := State.nextExt tposted d true 0
       let ln := LsDesc.lineAt (d.rowLen (tposted.req = 1)) ext tposted.line
       let u := tpost.modCore 0 fun y => { y with lineRc := Tab.put y.lineRc 1 (tpost.coreRc 0), lastSlot := Tab.put y.lastSlot 1 0 }
       let r := u.readLine 0 tposted d (d.berthAt (tposted.req = 1) tposted.p0 tposted.plane tposted.row + (ln.1 - ext)).toNat ln.2 .none
       r.2.1 = .none ∧ r.1.part.length = ln.2 ∧ ln.2 = 64 ∧ r.1.sent = 0) := by decide +kernel

/-- An INDEXED stream whose index word 0 in AB is below IDX_LIMIT 9, one that skips its plane, and one with its index words in
memory. -/
theorem wit_index_word : (∀ l ∈ [tlsdOf 1 0 9, patchAt (tlsdOf 1 0 9) 1 [8]],
      let x := tstream 1 l
      let s := { tslot 3 x with devMem := tpages }
      s.streamAt 0 false 0 = some x ∧ (LsDesc.of l).indexed = true ∧ s.coreIssues 0 = true
        ∧ (((List.range 1).map (· + 0)).find? fun j => (State.planeValue x (LsDesc.of l) j).isNone && !x.indexAsked.contains j)
          = some 0
        ∧ ((LsDesc.of l).idxMem = false → s.gatedAt 0 1 0 4 = none ∧ 4 ≤ s.build.berthBytes 1
            ∧ leNat (s.berthRead 0 1 0 4) < (LsDesc.of l).idxLimit)
        ∧ ((LsDesc.of l).idxMem = true → (s.translate 0 (LsDesc.of l).idxAddr false).1 = .ok 0x10000))
    ∧ (let x := { tstream 1 (tlsdOf 1 0 9) with index := [(0, 2 ^ 32 - 1)] }
       (tslot 3 x).streamAt 0 false 0 = some x ∧ State.planeValue x (LsDesc.of x.body) x.plane = some (2 ^ 32 - 1)
         ∧ (tslot 3 x).coreIssues 0 = true ∧ x.plane < x.n
         ∧ State.chunkOpen x (LsDesc.of x.body) (x.plane / (LsDesc.of x.body).chunk) = true) := by decide +kernel

/-- A line of stream 1 that has arrived for slot 0, an index word, and the messages of cores 1 and 2. -/
def tline : LineReq :=
  { id := 1, core := 0, store := false, slot := 0, stream := 1, chunk := 0, ctx := 0, epoch := 0, pa := 0, len := 4
    berth := 1, baddr := 8, data := [1, 2, 3, 4] }

def tarr (r : LineReq) (l : Tab (Nat × List Nat × Bool)) : State := tst { tcore 3 0 [] with
  loads := [(0, tstream 1 (tlsdOf 1 0 9))]
  arrivals := [r]
  inbox := [⟨1, 1, true, .words 1 0 [7], 0, 0⟩, ⟨1, 1, false, .words 1 0 [8], 0, 0⟩, ⟨2, 2, false, .add 5 1 true, 0, 0⟩]
  port := l }

/-- The stop of the port's moves: none, or after 192 bytes in the fourth word of the region cycle. -/
theorem wit_arrivals : (∀ r ∈ [tline, { tline with what := 1, data := [5, 0, 0, 0] }],
      (tarr r []).nextDeposit 0 = some r ∧ (tarr r []).streamAt 0 false 0 = some (tstream 1 (tlsdOf 1 0 9))
        ∧ (tarr r []).fresh 0 0 = true ∧ (tstream 1 (tlsdOf 1 0 9)).stream = r.stream
        ∧ (LsDesc.of (tlsdOf 1 0 9)).idxLimit = 9)
    ∧ (State.portMove 0 1 1 false .none (State.wordsOf 8 4) 8 4 (tarr tline [])).2.1 = .none
    ∧ (State.portMove 0 1 1 false .none (State.wordsOf 0 128) 0 128 (tarr { tline with baddr := 0, len := 128 } [(1, 100, [4, 5, 6], false)])).2.1
        = .waits
    ∧ (∀ link ∈ [true, false], ((tarr tline []).takeMsg 0 1 link).map (·.1.kind) = some (.words 1 0 [if link then 7 else 8]))
    ∧ ((tarr tline []).takeMsg 0 2 false).map (·.1.kind) = some (.add 5 1 true) ∧ (tarr tline []).gatedAt 0 1 0 1 = none
    ∧ (State.portMove 0 1 1 false .none (State.wordsOf 0 1) 0 1 (tarr tline [])).2.1 = .none
    ∧ (State.portMove 0 1 1 false .none (State.wordsOf 0 1) 0 1 (tarr tline [(1, 100, [4, 5, 6, 7], false)])).2.1 = .waits := by
  decide +kernel

theorem wit_lands : (let s := tst { ldLands := [⟨100, 1, putsOf 8 [7], []⟩] }
    (s.getCore 0).mxLands = [] ∧ (s.getCore 0).vxLands = [] ∧ (s.getCore 0).ldLands = [⟨s.coreRc 0, 1, putsOf 8 [7], []⟩]) := by
  decide +kernel

/-- All of a one-chunk stream has been requested and nothing is outstanding; of a two-chunk stream the first chunk. With and
without DONE_BOL 6 and a target, over the Channel and the link. -/
theorem wit_chunk_complete : ∀ n ∈ [1, 2], ∀ t ∈ [(none, false), (some 1, false), (some 1, true)], ∀ done ∈ [(0 : Byte), 0x46],
    let x := { tstream 1 (patchAt (tlsdOf 0 0 0) 46 [done]) with n := n, plane := 1, target := t.1, link := t.2 }
    (tslot 4 x).streamAt 0 true 0 = some x ∧ x.chunks < State.chunksOf x (LsDesc.of x.body)
      ∧ min ((x.chunks + 1) * (LsDesc.of x.body).chunk) x.n ≤ x.plane ∧ Tab.get 0 x.outs x.chunks = 0
      ∧ (LsDesc.of x.body).doneBol = (if done = 0 then none else some 6) := by decide +kernel

/-! The sync engine (R211, R230, R242). -/

/-- sy.wait on bollard 0 with threshold 0, sy.add and sy.sub of 3 to core bollard 2, the same to block bollard 2,
sy.signal to manifest core 1, sy.arrive, sy.fence. -/
def twords : List (Nat × DWord) :=
  [(1, 0x0100000000000000), (2, 0x0200008000000003), (3, 0x0300008000000003), (2, 0x0204008000000003),
   (3, 0x0304008000000003), (4, 0x0400000100000001), (0x10, 0x1000000000000000), (8, 0x0800000000000000)]

theorem wit_sync_ready : ∀ e ∈ twords, ((tent 5 e.2).readyHead 0 5 e.1).isSome = true
    ∧ (tent 5 e.2).gateWaits 0 e.2 = false := by decide +kernel

theorem wit_sync : ∀ e ∈ twords, ∃ h, (tent 5 e.2).readyHead 0 5 e.1 = some h :=
  fun e he => Option.isSome_iff_exists.1 (wit_sync_ready e he).1

theorem wit_sync_kinds : bitOf (0x0200008000000003 : DWord) 50 = false ∧ bitOf (0x0204008000000003 : DWord) 50 = true
    ∧ ((tst {}).getCtx 0).paired = false
    ∧ (tst (tcore 5 0 [])).physOf 0 ((tst (tcore 5 0 [])).sideOf 0) (fieldOf (0x0400000100000001 : DWord) 43 32) = some 1 := by
  decide +kernel

/-- An attached pair whose gate holds 64 requests of the core's side: an operation on a block bollard waits. -/
def tfull (w : DWord) : State :=
  let s := tent 5 w
  { s with reg := (0x100AC, 0x40000000) :: s.reg
           ctx := [(0, { regions := [0], paired := true, gate := List.replicate 64 ⟨0, 0, 3, none, some (4, false, 1), 0, 0⟩ })] }

theorem wit_gate_full : ∀ e ∈ [((2 : Nat), (0x0204008000000003 : DWord)), (3, 0x0304008000000003)],
    ((tfull e.2).readyHead 0 5 e.1).isSome = true ∧ (tfull e.2).gateWaits 0 e.2 = true := by decide +kernel

/-- A bollard holds 2^32 - 1: an add of 1 saturates and is an overflow (R231). -/
theorem test_bollard_saturates :
    ((({ tst {} with reg := [(0x100208, 0xFFFFFFFF)] } : State).bolStep 0 2 [⟨2, false, 1, 0, 5⟩]).bol 0 2) = 2 ^ 32 - 1 := by
  decide +kernel

/-- A sub of 3 from 2 clamps at 0 (R231). -/
theorem test_bollard_clamps :
    ((({ tst {} with reg := [(0x100208, 2)] } : State).bolStep 0 2 [⟨2, true, 3, 0, 5⟩]).bol 0 2) = 0 := by decide +kernel

theorem wit_bollard : (2 : Nat) < 64 ∧ ∀ o ∈ [(⟨2, true, 3, 0, 5⟩ : BolOp), ⟨2, false, 4294967295, 0, 5⟩], o.sender < 2 ^ 12 := by
  decide

def tfence : Fence := { id := 4, inst := ⟨0, []⟩, stream := 1, stores := [], acks := [], probes := [], probed := true }
def tfenced : State := tst { tcore 5 0 [] with fences := [tfence] }

theorem wit_fence : ((tent 5 0x0800000000000000).getCore 0).fences = []
    ∧ (∀ link ∈ [false, true], ((tst { inbox := [⟨1, 1, link, .probe 4, 0, 0⟩] }).takeMsg 0 1 link).map (·.1.kind) = some (.probe 4)
        ∧ (link = true → (tst { inbox := [⟨1, 1, link, .probe 4, 0, 0⟩] }).takeMsg 0 1 false = none))
    ∧ (tfenced.getCore 0).fences.find? (State.fenceReady (tfenced.getCore 0)) = some tfence
    ∧ (tfenced.prog? 0 1).isSome = true := by decide +kernel

/-- A leg has begun on core 0, whose stream names barrier bollard 9; one arrival is awaited. -/
def tbar (n : Nat) : State :=
  let s := tst { tcore 5 0 [] with progs := [(1, { tprog with barrierBol := 9 })] }
  s.setCtx 0 { regions := [0], barrierCount := 1, barrierIn := List.replicate n 0,
               legs := [{ launch := 0, leg := 0, rt := false, base := 0, span := 0, cores := [(0, 1)], begun := true }] }

theorem wit_barrier : (tbar 1).awake = true ∧ (tbar 1).ctxState 0 = 2 ∧ 0 < ((tbar 1).getCtx 0).barrierCount
    ∧ ((tbar 1).getCtx 0).barrierCount ≤ ((tbar 1).getCtx 0).barrierIn.length ∧ ((tbar 1).getCtx 0).paired = false
    ∧ ((tbar 0).getCtx 0).barrierIn.length < ((tbar 0).getCtx 0).barrierCount
    ∧ (((tbar 1).getCtx 0).legs.filter (·.begun)).getLast?.map (·.cores.head?) = some (some (0, 1))
    ∧ (((tbar 1).prog? 0 1).map (·.barrierBol)) = some 9 ∧ ((tbar 1).getCore 0).ctx = some 0
    ∧ ((tbar 1).getCore 1).ctx ≠ some 0 := by decide +kernel

def tbound : Bound := ⟨⟨0, []⟩, 1, 0x0200008000000003, [], 99⟩

theorem wit_bound : (((tst { tcore 5 0 [] with bound := [tbound] }).getCore 0).bound.find? fun b => b.awaits.isEmpty
      && decide (b.rc < (tst { tcore 5 0 [] with bound := [tbound] }).coreRc 0)
      && !(tst { tcore 5 0 [] with bound := [tbound] }).gateWaits 0 b.word) = some tbound
    ∧ ((tst (tcore 5 0 [])).getCore 0).bound = [] ∧ ((tst (tcore 5 0 [])).getCore 0).ctx = some 0 := by decide +kernel

/-- A software write among the updates of a core bollard. -/
theorem wit_bollard_write : (([⟨2, false, 7, 8, 0xFFF⟩, ⟨2, true, 3, 0, 5⟩] : List BolOp).filter fun o =>
      o.source = State.bolWritten).getLast? = some ⟨2, false, 7, 8, 0xFFF⟩ := by decide +kernel

/-! The register window and the parts of a region. `ton` adds register words; region 0 is ON. -/

def ton (l : Tab Word) : State := { tst {} with reg := l ++ [(0x60014, 0x80000000)] ++ (tst {}).reg }

theorem wit_mask_event : (0x501C : Nat) % 4 = 0 ∧ 0x501C % 0x1000 = oMASK ∧ (ton []).admits .host 0x501C
    ∧ 0x5018 % 0x1000 = oEVENT ∧ (ton []).admits .host 0x5018 := by decide +kernel

/-- Crew firmware may only read the CAPTURE page (R450). -/
theorem wit_refused_write : (0x8010 : Nat) < 0x800000 ∧ (ton []).answers 0x8010 = true ∧ (pageOf 0x8010).1 ≠ 1
    ∧ 0x8010 % 0x1000 ≠ oCOMMIT ∧ regKind (pageOf 0x8010).1 (0x8010 % 0x1000) ≠ .none_
    ∧ mayWrite (pageOf 0x8010).1 (0x8010 % 0x1000) .crew = false := by decide +kernel

/-- The first absent jetty and core of JX-1024, and the first absent region of a build of one row of regions. -/
theorem wit_absent_pages : (ton []).build.jetties ≤ 12 ∧ (ton []).build.quays = 16
    ∧ (ton []).build.physCores ≤ 1056 ∧ ({ Build.jx1024 with gridRows := 1, quays := 4 } : Build).regions ≤ 4
    ∧ ({ Build.jx1024 with gridRows := 1, quays := 4 } : Build).quays ≤ 4 := by decide +kernel

theorem wit_pairs : (ton []).answers 0x8040 = true ∧ isLo (pageOf 0x8040).1 (0x8040 % 0x1000) = true
    ∧ (pageOf 0x8040).1 ≠ 0x30 ∧ (ton []).qState 0 = 0 ∧ (ton []).admits .host (queueP 0 + 0x58)
    ∧ (ton []).admits .host (queueP 0 + 0x5C) := by decide +kernel

/-- FLOG_READ of an empty log: 0 is kept, 1 lies ahead, 2^32 - 1 lies too far behind. -/
theorem wit_flog : (ton []).admits .host (faultP + 0x78) ∧ (ton []).answers (faultP + 0x48) = true
    ∧ (ton []).flog = [] ∧ (ton []).rd (faultP + 0x40) = 0
    ∧ (0 + 2 ^ 32 - (0 : Word).toNat) % 2 ^ 32 ≤ min 256 0 ∧ 2 ^ 31 ≤ (0 + 2 ^ 32 - (1 : Word).toNat) % 2 ^ 32
    ∧ min 256 0 < (0 + 2 ^ 32 - (0xFFFFFFFF : Word).toNat) % 2 ^ 32 := by decide +kernel

theorem wit_core_window : (ton []).admits .crew (coreP 0 + 0x200) ∧ (ton []).admits .crew (coreP 0 + 0x200 + 4 * 63)
    ∧ (ton []).admits .host (coreP 0 + 0xA0) ∧ (ton []).admits .crew (coreP 0 + 0x40)
    ∧ (ton []).regionHeld ((ton []).regionOf 0) = false ∧ (ton []).admits .pilot (coreP 0 + 0x4C)
    ∧ (ton []).admits .host (captureP + 0x48) ∧ bitOf (0x8000041F : Word) 31 = true
    ∧ fieldOf (0x8000041F : Word) 10 0 < (ton []).build.physCores ∧ (ton []).admits .crew (coreP 0 + 0x88)
    ∧ (ton []).answers (coreP 0 + 0x84) = true ∧ ((ton []).getCore 0).state ≠ 3 := by decide +kernel

/-- WIN_DATA: a sound word, one with a double-bit error, and one in a segment that is not ready (BERTH_READY 0). -/
theorem wit_berth_window : (ton []).answers (coreP 0 + 0x90) = true
    ∧ (ton []).build.legal = true ∧ (ton []).sel .host (coreP 0 + 0x8C) = 0 ∧ 0 < (ton []).build.berthBytes 0
    ∧ (ton []).gatedAt 0 0 0 4 = none ∧ (State.wordUpset .none 0 0 4 true).1 = none ∧ (State.wordUpset .none 0 0 4 false).1 = none
    ∧ (State.wordUpset (.berthUe 0 0) 0 0 4 true).1 = some 0 ∧ ((ton [(0x100048, 0)]).gatedAt 0 0 0 4).isSome = true := by
  decide +kernel

def theld (l : Tab Word) : State := ton (l ++ [(0x60014, 0x81000000), (0x10094, 64)])

theorem wit_bank_held : (theld []).regionHeld ((theld []).regionOf 0) = true ∧ (theld []).admits .crew (coreP 0 + 0x40) := by
  decide +kernel

theorem wit_bbol_window : (theld []).admits .host (ctxP 0 + 0xA4) ∧ (theld []).admits .host (ctxP 0 + 0xA8)
    ∧ (theld []).admits .crew (ctxP 0 + 0xA0) ∧ (theld []).bbolIndex .host 0 = some 0 ∧ (ton []).bbolIndex .host 0 = none := by
  decide +kernel

def tbbol : BBolOp := ⟨3, false, 5, true, 2, 0xFFF, []⟩

theorem wit_bbol_update : ({ ton [] with bbolIn := [tbbol] } : State).awake = true
    ∧ ({ ton [] with bbolIn := [tbbol] } : State).bbolIn = [tbbol]
    ∧ ([tbbol].filter fun o => o.set).getLast? = some tbbol := by decide +kernel

def tbline : BLine := { set := 0, way := 3, la := 0x200, ctx := 0, data := List.replicate 128 7 }

/-- Context 0 holds region 0, with ways 0 to 3 and one line in its Basin, requests and fills. -/
def tbas (l : List LineReq) (f : List (QReq × List Byte)) (o : List QReq) (n : Nat) : State :=
  let x : Region := { clockOn := true, tideLow := 500, basin := [tbline], requests := l, fills := f, served := (100, n) }
  { theld [(basinP 0 + 0x40, 0x55)] with region := [(0, x)], devMem := tpages, quays := o }

theorem wit_scrub : (ton []).runs 0 ∧ (ton []).coreAlive 0 = true ∧ (ton []).gatedAt 0 2 0 1 = none
    ∧ 131071 < (ton []).build.berthBytes 2 ∧ (tbas [] [] [] 0).regionRuns 0 ∧ 2047 < (tbas [] [] [] 0).build.basinSets
    ∧ (((tbas [] [] [] 0).getRegion 0).basin.find? fun l => l.set = 0 && l.way = 3) = some tbline
    ∧ (tbas [] [] [] 0).behindQuay (128 * tbline.la) = true := by decide +kernel

/-- An entry that issues: its command does not leave the state as it was. -/
theorem wit_chart_read : exec (.sqLd ⟨0, .none⟩) (tent 0 0x0100000000000005) ≠ .next (tent 0 0x0100000000000005)
    ∧ (fun u => Instr.sqLd ⟨0, u⟩) ∈ entryRows 0 := by
  refine ⟨fun h => ?_, List.mem_cons_self ..⟩
  have k : (match exec (.sqLd ⟨0, .none⟩) (tent 0 0x0100000000000005) with
      | .next t => decide ((t.getCore 0).ctr = ((tent 0 0x0100000000000005).getCore 0).ctr) | _ => true) = false := by decide +kernel
  rw [h] at k
  simp at k

/-- Segment 1 of WB goes off and nothing before it touches it; segment 2 awaits a run of the array. -/
def tsegs : State := tst { mx := [trun], gating := [(1, []), (2, [(1, 1, ⟨0, []⟩)])], readying := 8 }

theorem wit_segments : tsegs.runs 0 ∧ (tsegs.getCore 0).readying = 8
    ∧ ((tsegs.getCore 0).gating.filter fun g => g.2.any (State.unretired (tsegs.getCore 0))) = [(2, [(1, 1, ⟨0, []⟩)])]
    ∧ ∀ i < 24, bitOf (2 : Word) i = (tsegs.getCore 0).gating.any fun g =>
        g.1 = i && !g.2.any (State.unretired (tsegs.getCore 0)) := by decide +kernel

/-- A read, a write, and a fill of a line. -/
def tread (pa : Nat) : LineReq := { tline with pa := pa, data := [] }
def twrite : LineReq := { tline with store := true, pa := 0x10004 }
def tfill : QReq := { id := 1, quay := 0, pa := 0x20000, len := 128, write := false, source := 0, reqs := [tread 0x20000], region := 0,
                      alloc := true }

/-- Reads of the line that the Basin holds and of one that it does not hold, and a write; the fill of the line is not
outstanding, and outstanding; a request of a former EPOCH; the fourth request of the region cycle; a fill that completes. -/
theorem wit_basin : (∀ q ∈ [tread 0x10000, tread 0x20000, twrite],
      let s := tbas [q] [] [] 3
      s.regionRuns 0 ∧ s.nextRequest (s.getRegion 0).requests = some q ∧ s.fresh q.ctx q.epoch = true
        ∧ (s.getRegion 0).served.2 < 4 ∧ s.pinOnly = false ∧ s.fillOpen 0 0 (q.pa / 128) = false ∧ q.hint = 0
        ∧ (s.getCtx q.ctx).paired = false ∧ s.behindQuay q.pa = true ∧ q.pa < 2 ^ 40
        ∧ s.basinFind 0 0 (q.pa / 128) = (if q.pa = 0x20000 then none else some tbline))
    ∧ (let s := tbas [tread 0x20000] [] [tfill] 3
       s.nextRequest (s.getRegion 0).requests = some (tread 0x20000) ∧ s.fillOpen 0 0 (0x20000 / 128) = true
         ∧ State.isFill 0 0 (0x20000 / 128) tfill = true)
    ∧ (let q := { tread 0x10000 with epoch := 1 }
       (tbas [q] [] [] 3).nextRequest ((tbas [q] [] [] 3).getRegion 0).requests = some q ∧ (tbas [q] [] [] 3).fresh q.ctx q.epoch = false)
    ∧ ((tbas [tread 0x10000] [] [] 4).getRegion 0).served = ((tbas [tread 0x10000] [] [] 4).rcOf 0, 4)
    ∧ (let s := tbas [] [(tfill, [])] [] 0
       (s.getRegion 0).fills = [(tfill, [])] ∧ tfill.reqs = [tread 0x20000] ∧ s.regionCtx 0 = some tfill.source
         ∧ s.basinFind 0 0 (0x20000 / 128) = none ∧ (s.victim 0 (s.setOf (0x20000 / 128))).isSome = true) := by decide +kernel

/-- Context 0 holds region 0; a range of one line at address 0, which lies at 0x10000. -/
def trange : State := { tbas [] [] [] 0 with reg := (0x70044, 0) :: (0x7004C, 1) :: (theld []).reg }

theorem wit_range : trange.admits .crew (basinP 0 + oCTRL) ∧ bitOf (trange.rd (basinP 0 + oSTATUS)) 31 = false
    ∧ trange.regionCtx 0 = some 0 ∧ fieldOf (trange.rd (basinP 0 + 0x4C)) 23 0 = 1
    ∧ (trange.translate 0 (trange.rd64 (basinP 0 + 0x44) / 128 * 128) false).1 = .ok 0x10000
    ∧ trange.behindQuay 0x10000 = true ∧ (ton []).admits .crew (basinP 0 + oCTRL) ∧ (ton []).regionCtx 0 = none
    ∧ bitOf ((ton [(0x70014, 0x80000000)]).rd (basinP 0 + oSTATUS)) 31 = true
    ∧ (ton [(0x70014, 0x80000000)]).regionRuns 0 := by decide +kernel

/-- Way 3 of the Basin, which holds a line, becomes memory of the control complex (use 2); a fill is or is not outstanding. -/
def tway (o : List QReq) : State := (tbas [] [] o 0).modRegion 0 fun x => { x with wayTo := [(3, 2)] }

theorem wit_way_use : (tway []).regionRuns 0 ∧ ((tway []).getRegion 0).wayTo = [(3, 2)]
    ∧ ((tway []).quays.any fun q => q.alloc && q.region = 0) = false ∧ ((tway []).getRegion 0).fills = []
    ∧ ((tway [tfill]).quays.any fun q => q.alloc && q.region = 0) = true := by decide +kernel

/-- A signal stands at the core's port of the router of core 0. -/
def tmsg : Msg := ⟨0, 0, false, .add 5 1 false, 0, 0⟩
def tnet : State := { ton [] with net := [{ a := .port (.core 0), b := .router 0 0, queue := [(2, [⟨⟨1, .msg 1 tmsg, .core 0, .core 1, 2, 1, 0, false⟩, true, 0, []⟩])] }] }

/-- The router grants it its way to the east, where its neighbour lies. -/
theorem wit_grant : (tnet.pick (.router 0 0) (.router 0 1)).map (fun c => (c.1.vc, c.2)) = some (2, false)
    ∧ (Node.router 0 1) ≠ .router 0 0 := by decide +kernel

/-- The tide reads 500: 500 and 501 are good samples, 499 and 502 are not; a region whose clock does not run. -/
theorem wit_channel : (ton []).build.legal = true ∧ ((ton []).getRegion 0).clockOn = true
    ∧ ((ton []).getRegion 0).frozen = false ∧ (ton []).power 0 = 2 ∧ (ton []).awake = true ∧ 15 < (ton []).build.quays
    ∧ partHere (ton []).build .router 0 0 0 = true ∧ partHere (ton []).build .regionSwitch 0 99 99 = true
    ∧ ((ton []).getRegion 1).clockOn = false ∧ partHere (ton []).build .blockSwitchLock 1 0 0 = true
    ∧ (ton []).regionRuns 0 ∧ (ton []).clk.running = true ∧ ((ton []).getRegion 0).tideLow = 500
    ∧ (499 : Nat) ≠ 500 ∧ 499 ≠ (500 + 1) % 2 ^ 20 ∧ 502 ≠ (500 + 1) % 2 ^ 20 := by decide +kernel

/-- What fits in a frame is granted: context 0 has a share of 4 and asks for 5, BK asks for 9 (R261). -/
theorem test_share_frame : (match exec (.quayShareFrame 0 [(0, 5)] 9) (ton []) with
    | .next t => Tab.get [] t.share 0 | _ => []) = [(0, 5), (16, 9)] := by decide +kernel

/-- Stamp 500 + 4096 is the first that keeps COMMIT_LEAD. Core 0 serves no context, or a context with no manifest, whose union
of segments is empty. -/
def tcommit (want gate : Word) (c : Option Nat) (g : List Group) : State :=
  { ton [(0x10002C, want), (0x100844, gate)] with groups := g, core := [(0, { ctx := c })] }
def tgroup (n : Nat) : Group := ⟨n, n, [⟨coreP 0, [(coreP 0 + 0x44, 5)], n⟩]⟩

def tsixteen : State := tcommit 4596 5 none ((List.range 16).map fun n => ⟨5000 + n, 5000 + n, [⟨coreP 9, [], 0⟩]⟩)

theorem wit_commit : (∀ e ∈ [((4596 : Word), none, true), (500, none, true), (4596, some 0, false)],
      let s := tcommit e.1 5 e.2.1 []
      s.admits .pilot (coreP 0 + oCOMMIT) ∧ State.mayCommit (coreP 0) .pilot = true
        ∧ fieldOf (s.rd (captureP + oSTATUS)) 31 29 = 0 ∧ s.groupOf (coreP 0) = none ∧ s.rd64 (coreP 0 + oCTIDE) = e.1.toNat
        ∧ s.groups = [] ∧ s.resumesAt e.1.toNat = [] ∧ s.gateFits 0 (s.rd (coreP 0 + 0x844)) = e.2.2)
    ∧ tsixteen.groupOf (coreP 0) = none ∧ tsixteen.groups.length = 16 ∧ (∀ g ∈ tsixteen.groups, g.want ≠ 4596 ∧ g.members ≠ [])
    ∧ (∀ n ∈ [4596, 4595], (tcommit 9000 5 none [tgroup n]).groupOf (coreP 0) = some (tgroup n)
        ∧ (tgroup n).members.map (·.page) = [coreP 0] ∧ (tcommit 9000 5 none [tgroup n]).resumesAt n = [])
    ∧ (let s := tcommit 0 0 none [tgroup 500]
       s.awake = true ∧ 500 ≤ s.clk.tide ∧ s.clk.tide < 501 ∧ s.groups = [⟨500, 500, [⟨coreP 0, [(coreP 0 + 0x44, 5)], 500⟩]⟩]
         ∧ s.pilot.fixes = [] ∧ s.gateFits 0 5 = true) := by decide +kernel

theorem wit_plane_switch : (tst { switchTo := some true }).runs 0
    ∧ ((tst { switchTo := some true }).getCore 0).switchTo = some true
    ∧ State.wharfBusy ((tst { switchTo := some true }).getCore 0) = false := by decide +kernel

/-- Region 0 at a tide and a time, with its record changed. -/
def tvolt (tide time : Nat) (f : Region → Region) : State :=
  let s := ton []
  { s with region := [(0, f { clockOn := true, tideLow := tide })], clk := { s.clk with tide := tide, time := time } }

theorem wit_voltage : (tvolt 4096 0 id).build.legal = true ∧ (tvolt 4096 0 id).awake = true
    ∧ ((tvolt 4096 0 fun x => { x with rise := some 2 }).getRegion 0).rise = some 2
    ∧ (0 + 3125 + 1023) / 1024 * 1024 ≤ (tvolt 4096 0 id).clk.tide
    ∧ ((tvolt 0 0 fun x => { x with lower := some (255, 36) }).getRegion 0).lower = some (255, 36)
    ∧ 36 + 64 ≤ (tvolt 0 0 id).rcOf 0
    ∧ ((tvolt 0 625 fun x => { x with codePending := true }).getRegion 0).codePending = true
    ∧ ((tvolt 0 625 fun x => { x with codePending := true }).getRegion 0).fallAt = none
    ∧ ((tvolt 0 625 fun x => { x with codePending := true }).getRegion 0).want = none ∧ 0 + 625 ≤ (tvolt 0 625 id).clk.time
    ∧ ((tvolt 0 0 id).getRegion 0).codePending = false ∧ ((tvolt 0 0 id).getRegion 0).fallAt = none
    ∧ (tvolt 0 0 id).power 0 = 2 ∧ ((tvolt 0 625000 fun x => { x with fallAt := some 0 }).getRegion 0).fallAt = some 0
    ∧ 0 + 625000 ≤ (tvolt 0 625000 id).clk.time := by decide +kernel

/-- A reading within 10 ms of a change and the first one after it. -/
theorem wit_gauges : (List.replicate 12 (5 : BitVec 16)).length = 12
    ∧ (tvolt 0 6249999 id).clk.time < ((tvolt 0 6249999 id).getRegion 0).changedAt + 6250000
    ∧ ((tvolt 0 6250000 id).getRegion 0).changedAt + 6250000 ≤ (tvolt 0 6250000 id).clk.time
    ∧ (let s : State := { tvolt 0 6250000 id with pilot := { handover := some 0 } }
       s.mayReplan 0 = false ∧ s.power 0 = 2 ∧ s.awake = true) := by decide +kernel

/-! Contexts and queues. -/

/-- Context 0 in a state, with words of its page. -/
def tctx (st : Word) (x : Ctx) (l : Tab Word) : State := { ton ((0x10014, st) :: l) with ctx := [(0, x)] }

theorem wit_hold : (tctx 2 {} []).admits .host (ctxP 0 + 0x6C) ∧ (tctx 2 {} []).ctxState 0 = 2
    ∧ (tctx 1 {} []).admits .host (ctxP 0 + 0x6C) ∧ (tctx 1 {} []).ctxState 0 ≠ 2
    ∧ (tctx 3 {} []).runs 0
    ∧ (({ tctx 3 {} [] with core := [(0, { ctx := some 0 })] } : State).getCore 0).ctx = some 0
    ∧ (tctx 2 {} []).admits .host (ctxP 0 + 0x64) := by decide +kernel

/-- HOLD_TIDE 100; RESUME_TIDE 4596 is COMMIT_LEAD ahead of the tide at 500. -/
def tresume (st : Word) : State :=
  { tctx st {} [(0x10080, 100)] with staged := [(State.own .host (ctxP 0 + 0x88), 4596)] }

theorem wit_resume : (tresume 3).admits .host (ctxP 0 + 0x8C) ∧ (tresume 3).formed .host (ctxP 0 + 0x8C) 0 = 4596
    ∧ (tresume 3).ctxState 0 = 3 ∧ (tresume 3).rd64 (ctxP 0 + 0x80) < 4596
    ∧ (tresume 3).clk.tide + 4096 ≤ 4596 + ((tresume 3).getCtx 0).offset ∧ (tresume 3).groups = []
    ∧ (tresume 2).ctxState 0 ≠ 3 ∧ (tresume 2).admits .host (ctxP 0 + 0x8C)
    ∧ (let s := tctx 3 { resume := some (500, 500) } [(0x10080, 100)]
       s.awake = true ∧ (s.getCtx 0).resume = some (500, 500) ∧ s.ctxState 0 = 3 ∧ 500 ≤ s.clk.tide ∧ s.groups = []
         ∧ (s.getCtx 0).rebuildAt = none ∧ s.rd64 (ctxP 0 + 0x80) ≤ 500) := by decide +kernel

/-- A FREE context that asks for region 0 and ways 0 and 1, and a queue of 64 bollards. -/
def topen : State := tctx 0 {} [(0x10040, 0x00010003), (0x10044, 1)]

theorem wit_open : topen.admits .host (ctxP 0 + oCTRL) ∧ fieldOf (topen.rd (ctxP 0 + oCTRL)) 2 0 = 0 ∧ topen.openCheck 0 = 1
    ∧ (tctx 1 {} []).openCheck 0 ≠ 1 ∧ (tctx 1 {} []).admits .host (ctxP 0 + oCTRL) ∧ (tctx 1 {} []).ctxState 0 = 1
    ∧ (tctx 4 {} []).ctxState 0 = 4 ∧ (tctx 4 {} []).admits .host (ctxP 0 + oCTRL) := by decide +kernel

theorem wit_teardown : let s : State := { tctx 5 { regions := [0] } [] with core := [(0, { ctx := some 0 })] }
    s.awake = true ∧ s.ctxState 0 = 5
    ∧ (∀ q < 64, fieldOf (s.rd (queueP q + 0x50)) 23 20 = 0 → (s.getQueue q).ended = [])
    ∧ (∀ r ∈ (s.getCtx 0).regions, (s.getRegion r).frozen = false) ∧ (∀ k ∈ s.coresOf 0, s.noTraffic k = true)
    ∧ s.commitsDone 0 = true := by decide +kernel

/-- The requests of a twin pair at the gate. -/
def tgate (side n : Nat) : GateReq := { mindex := 0, side := side, path := 3, op := some (4, false, n), core := 66 * side, ack := side }

/-- A Paired context with regions 0 and 1, attached, with the requests of both sides. -/
def tpair (st pst : Word) (x : Ctx) (l : Tab Word) : State :=
  { tctx st { x with regions := [0, 1], paired := true } (l ++ [(0x100AC, pst), (0x61014, 0x80000000)]) with
    region := [(0, { clockOn := true, tideLow := 500 }), (1, { clockOn := true, tideLow := 500 })]
    core := [(0, { state := 1, ctx := some 0, held := true }), (66, { state := 1, ctx := some 0 })] }

/-- A detach, with and without a handover of the Pilot; requests alike and unlike. -/
theorem wit_pair_detach : (∀ h ∈ [none, some 0],
      let s : State := { tpair 2 0x40000000 { detach := some (1, 7) } [] with pilot := { handover := h } }
      s.awake = true ∧ s.pairState 0 = 1 ∧ (s.getCtx 0).detach = some (1, 7) ∧ s.handing = h.isSome)
    ∧ State.gateAgree (tgate 0 1) (tgate 1 1) = true ∧ State.gateAgree (tgate 0 1) (tgate 1 2) = false
    ∧ (tgate 0 1).write = none ∧ (tgate 1 1).op = (tgate 0 1).op ∧ (tgate 0 1).op = some (4, false, 1) := by decide +kernel

/-- The two requests of a pair meet at the gate, alike and unlike. -/
theorem wit_gate : ∀ n ∈ [(1 : Nat), 2],
    let s := tpair 2 0x40000000 { gate := [tgate 0 1, tgate 1 n] } []
    s.awake = true ∧ s.pairState 0 = 1 ∧ (s.getCtx 0).paired = true
      ∧ (s.getCtx 0).gate.find? (fun g => g.mindex = 0 && g.path = 3 && g.side = 0) = some (tgate 0 1)
      ∧ (s.getCtx 0).gate.find? (fun g => g.mindex = 0 && g.path = 3 && g.side = 1) = some (tgate 1 n) := by decide +kernel

/-- A rebuild whose spare has the segments of the failed core, and one whose spare has not. -/
theorem wit_rebuild : (let s := tpair 2 0x80000000 { failed := [66] } []
      s.rebuildSpares 0 ((s.getCtx 0).failed.filter fun k => s.sideOf k = 1 - 0) = some [(66, 130)]
        ∧ fieldOf (s.rd (ctxP 0 + 0xAC)) 29 29 = 0 ∧ (s.getCtx 0).rebuildAt = none ∧ s.pairState 0 = 2 ∧ s.ctxState 0 = 2
        ∧ s.handing = false ∧ s.sparesReady [(66, 130)] = true
        ∧ ∀ r ∈ s.sideRegions 0 1, s.power r = 2 ∧ (s.getRegion r).frozen = false)
    ∧ (let s := tpair 2 0x80000000 { failed := [66] } [(coreP 66 + 0x44, 1)]
      s.rebuildSpares 0 ((s.getCtx 0).failed.filter fun k => s.sideOf k = 1 - 0) = some [(66, 130)]
        ∧ s.sparesReady [(66, 130)] = false)
    ∧ (let s := tpair 3 0xC0000000 { failed := [66], rebuildAt := some 0 } []
      s.rebuildSpares 0 ((s.getCtx 0).failed.filter fun k => s.sideOf k = 1 - 0) = some [(66, 130)]
        ∧ (s.getCtx 0).rebuildAt = some 0 ∧ s.pairState 0 = 3 ∧ s.ctxState 0 = 3 ∧ s.sparesReady [(66, 130)] = true
        ∧ ∀ k ∈ s.coresOf 0, s.sideOf k = 0 → s.quiet_ k = true) := by decide +kernel

/-- A replay refused, one without and one with a spare to ready, one in a handover, and one whose spares are ready. -/
theorem wit_replay : (tctx 2 {} []).admits .host (ctxP 0 + 0xB0) ∧ (tctx 2 {} []).ctxState 0 ≠ 4
    ∧ ({ tctx 2 {} [] with pilot := { handover := some 0 } } : State).handing = true
    ∧ (∀ e ∈ [([], (0x950 : Nat), []), ([0], 0x231, [(0, 64)])],
       let s := tctx 4 { regions := [0], failed := e.1, lostBy := e.2.1 } []
       s.admits .host (ctxP 0 + 0xB0) ∧ s.ctxState 0 = 4 ∧ (s.getCtx 0).r68 = false ∧ s.handing = false
         ∧ (s.getCtx 0).replaying = false ∧ State.r68Code (s.getCtx 0).lostBy = false
         ∧ ((s.getCtx 0).lostBy / 256 ≠ 9 ∨ (s.getCtx 0).lostBy = 0x950) ∧ s.pilot.crewDown = false
         ∧ (∀ r ∈ (s.getCtx 0).regions, s.power r = 2) ∧ s.sparesFor (s.getCtx 0).failed [] = some e.2.2)
    ∧ (let s := tctx 4 { regions := [0], replaying := true, spares := [(0, 64)] } []
       (s.getCtx 0).replaying = true ∧ s.sparesReady (s.getCtx 0).spares = true) := by decide +kernel

theorem wit_mirror : (ton []).mirrorMask 0 (regionP 0 + 0x40) = some 0x3FF
    ∧ ((0x397 : Word) ^^^ (ton []).rd (regionP 0 + 0x40)) &&& 0x3FF ≠ 0 ∧ (ton []).power 0 = 2 := by decide +kernel

/-- Queue 3 of context 0 with its configuration word and more words. -/
def tq (st : Nat) (cfg : Word) (l : Tab Word) (x : Queue) : State :=
  { ton ((0x23014, word (st * 2 ^ 30)) :: (0x23050, cfg) :: l) with queue := [(3, x)] }

theorem wit_queue : (tq 0 0xAC0 [] {}).admits .host (queueP 3 + oCTRL) ∧ (tq 0 0xAC0 [] {}).qState 3 = 0
    ∧ (tq 0 0xAC0 [] {}).ctxState ((tq 0 0xAC0 [] {}).qCtx 3) = 2 ∧ (tq 0 0xAC0 [] {}).qTask 3 = false
    ∧ fieldOf ((tq 0 0xAC0 [] {}).rd (queueP 3 + 0x50)) 11 8 ≤ 10 ∧ fieldOf ((tq 0 0xAC0 [] {}).rd (queueP 3 + 0x50)) 7 4 ≤ 12
    ∧ ((tq 0 0xAC0 [] {}).getQueue 3).ended = []
    ∧ (tq 1 0 [] {}).qState 3 = 1 ∧ ((tq 1 0 [] {}).getQueue 3).exec = none ∧ ((tq 1 0 [] {}).getQueue 3).accepted = []
    ∧ ((tq 1 0 [] {}).getQueue 3).part = none ∧ (tq 1 0 [] {}).admits .host (queueP 3 + oCTRL) := by decide +kernel

/-- A ring of 64 units: a doorbell of 64 is the last that fits, 65 is one too many. -/
theorem wit_doorbell : (tq 1 0 [] {}).admits .host (queueP 3 + 0x40) ∧ (tq 1 0 [] {}).qDevice 3 = false
    ∧ (tq 1 0 [] {}).qState 3 ≠ 0 ∧ (tq 1 0 [] {}).rd (queueP 3 + 0x40) ≠ 64 ∧ (tq 1 0 [] {}).qUnits 3 = 64
    ∧ ((64 : Word).toNat + 2 ^ 32 - (tq 1 0 [] {}).qHead 3) % 2 ^ 32 ≤ 64 ∧ (tq 1 0 [] {}).qRt 3 = false
    ∧ 64 < ((65 : Word).toNat + 2 ^ 32 - (tq 1 0 [] {}).qHead 3) % 2 ^ 32 := by decide +kernel

/-- One unit waits in the ring at 0x40000 of host memory; its SEQ is `n`, and the last one was 6. -/
def titem (n : Nat) : State :=
  { tq 1 0 [(0x23040, 1), (0x23058, 0x40000), (0x2304C, 6)] {} with
    hostMem := Mem.putBytes zeroFill [] 0x40000 (leBytes 4 n ++ leBytes 2 1) }

theorem wit_item : ∀ e ∈ [((7 : Nat), (1 : Nat)), (6, 0), (8, 2)],
    let s := titem e.1
    let bytes := fun n => (s.ringRuns 3 (s.qHead 3) n).flatMap fun r => Mem.bytes zeroFill s.hostMem r.1 r.2
    s.awake = true ∧ s.qDevice 3 = false ∧ s.qState 3 = 1 ∧ s.qWaiting 3 = 1 ∧ (s.getQueue 3).stuck = false
      ∧ s.ctxState (s.qCtx 3) = 2 ∧ fieldAt (bytes 1) 4 2 = 1 ∧ zeroAt (bytes 1) 6 10 = true
      ∧ (fieldAt (bytes 1) 0 4 + 2 ^ 32 - (s.rd (queueP 3 + 0x4C)).toNat) % 2 ^ 32 = e.2 := by decide +kernel

theorem wit_completion : (let s := tq 1 0 [] { ended := [⟨7, 0, 0, 0xFFFF⟩] }
    (s.getQueue 3).ended = [⟨7, 0, 0, 0xFFFF⟩] ∧ (s.getQueue 3).exec = none ∧ (s.getQueue 3).accepted = [] ∧ s.qRt 3 = false
      ∧ s.qDevice 3 = false ∧ s.awake = true ∧ Mem.wf zeroFill s.hostMem = true) := by decide +kernel

/-- The completion record of SEQ 7 lies at 7 times 16 and begins with the SEQ (R310). -/
theorem test_completion_record : (match exec (.itemComplete 3) (tq 1 0 [] { ended := [⟨7, 5, 0, 2⟩] }) with
    | .next t => Mem.bytes zeroFill t.hostMem 112 8 | _ => []) = [7, 0, 0, 0, 5, 0, 2, 0] := by decide +kernel

/-! Items, voyages, launches, legs and quays. -/

/-- What an access answers has a property. -/
def tok {α : Type} (x : State.Acc α) (p : α → State → Bool) : Bool :=
  match x with
  | .ok a s => p a s
  | .fail _ _ => false

def tframe (c : Cmd) : CFrame := { cmds := [c, ⟨9, 0, 0, []⟩, ⟨0, 0, 0, []⟩] }
def texec (c : Cmd) : Exec := { item := ⟨7, []⟩, stack := [tframe c] }

/-- Object 0 of context 0 has 32 KiB at 0x1000; an item of one unit stands at offset 0x200, one of two at 0x300. -/
def tdev : Mem := Mem.putBytes zeroFill (Mem.putBytes zeroFill (Mem.putBytes zeroFill tpages 0x10100
  (leBytes 8 0x1000 ++ leBytes 8 0x8000)) 0x11200 (leBytes 4 0 ++ leBytes 2 1)) 0x11300 (leBytes 4 0 ++ leBytes 2 2)

def tregs : Tab Word := [(0x10094, 64), (0x10058, 0x100), (0x10060, 1), (0x24014, 0x40000000), (0x24050, 0x40000), (0x24058, 0x4000)]

/-- Queue 3 executes an item; queue 4 is a device queue of the same context. -/
def titemOf (e : Exec) (f : Exec → Exec) (x : Ctx) : State :=
  { tq 1 0 tregs { exec := some (f e) } with devMem := tdev, ctx := [(0, { x with regions := [0] })] }
def tcmd (c : Cmd) : State := titemOf (texec c) id {}

def tsignal (i : Nat) : Cmd := ⟨4, i, 0, [5]⟩
def twait (v : DWord) : Cmd := ⟨5, 0, 0, [0, v]⟩
def tif (v : DWord) : Cmd := ⟨6, 0, 0, [0, v, 1]⟩
def tloopc : Cmd := ⟨7, 0, 0, [0, 0, 0x100000002]⟩
def tcall : Cmd := ⟨8, 0, 0, [0, 8]⟩
def tcopy : Cmd := ⟨2, 0, 0, [0, 0x100, 4]⟩
def tfillc : Cmd := ⟨3, 0x44332211, 0, [0x100, 8]⟩
def tstamp : Cmd := ⟨10, 0, 0, [8]⟩
def tenq (off : DWord) : Cmd := ⟨11, 4, 0, [off]⟩

theorem wit_may_command : ∀ c ∈ [⟨0, 0, 0, []⟩, tsignal 63, tsignal 64, twait 0, twait 1, tif 0, tif 1, tloopc, tcall,
    ⟨9, 0, 0, []⟩, tcopy, tfillc, tstamp, tenq 0x200, tenq 0x300],
    (tcmd c).mayCommand 3 (texec c) (tframe c) [] c ∧ (tframe c).goesOn 1 := by decide +kernel

/-- Bollard 63 of 64 lies in the range and 64 outside it; a condition that holds and one that does not; the place of a
LOOP's body; the buffer of a CALL. -/
theorem wit_control : (63 : Nat) < ((tcmd (tsignal 63)).rd (ctxP 0 + 0x94)).toNat
    ∧ ((tcmd (tsignal 64)).rd (ctxP 0 + 0x94)).toNat ≤ 64
    ∧ tok (((tcmd (twait 0)).atCommand 3 (twait 0)).condValue 3 0 0 0) (fun b _ => b) = true
    ∧ tok (((tcmd (twait 1)).atCommand 3 (twait 1)).condValue 3 0 0 1) (fun b _ => !b) = true
    ∧ tok (((tcmd (tif 0)).atCommand 3 (tif 0)).condValue 3 0 0 0) (fun b _ => b) = true
    ∧ tok (((tcmd (tif 1)).atCommand 3 (tif 1)).condValue 3 0 0 1) (fun b _ => !b) = true
    ∧ ((tcmd (tif 0)).atCommand 3 (tif 0)).fits 3 1 = true ∧ ((tcmd (tif 1)).atCommand 3 (tif 1)).fits 3 1 = true
    ∧ (tframe (tif 0)).goesOn (0 + 1 + 1) ∧ ((tcmd tloopc).atCommand 3 tloopc).fits 3 1 = true
    ∧ ((tcmd tloopc).atCommand 3 tloopc).depth 3 < 4 ∧ ((tcmd tcall).atCommand 3 tcall).depth 3 < 4
    ∧ tok (((tcmd tcall).atCommand 3 tcall).reloc 3 0 8) (fun a v =>
        tok (v.readLoc 3 a 8) fun l _ => (cmdsOf 8192 l).length == 1) = true := by decide +kernel

/-- FENCE with a transfer, and a WAIT that waits. -/
theorem wit_fence_poll : (titemOf (texec ⟨9, 0, 0, []⟩) (fun e => { e with transfers := [⟨true, 0, 0, 4, 0, 0, 0⟩] }) {}).execOf 3
      = some { texec ⟨9, 0, 0, []⟩ with transfers := [⟨true, 0, 0, 4, 0, 0, 0⟩] }
    ∧ (let s := titemOf (texec (twait 0)) (fun e => { e with waiting := true }) {}
       s.execOf 3 = some { texec (twait 0) with waiting := true } ∧ s.awake = true ∧ s.ctxState (s.qCtx 3) = 2
         ∧ tok (s.condValue 3 0 0 0) (fun b _ => b) = true) := by decide +kernel

theorem wit_data : Mem.wf zeroFill tdev = true
    ∧ (let u := (tcmd tcopy).atCommand 3 tcopy
       tok (u.reloc 3 0 4) (fun a v => a == 0x1000 && tok (v.reloc 3 0x100 4) fun b _ => b == 0x1100) = true)
    ∧ (let u := (tcmd tfillc).atCommand 3 tfillc
       tok (u.reloc 3 0x100 8) (fun a _ => a == 0x1100) = true)
    ∧ (let u := (tcmd tstamp).atCommand 3 tstamp
       tok (u.reloc 3 8 8) (fun a v => a == 0x1008 && tok (v.cmdPage 0 a true false) fun pa _ => pa == 0x11008) = true)
    ∧ (∀ e ∈ [((0x200 : DWord), (1 : Nat)), (0x300, 2)],
        let s := tcmd (tenq e.1)
        let u := s.atCommand 3 (tenq e.1)
        s.qState 4 = 1 ∧ s.qDevice 4 = true ∧ s.qCtx 4 = s.qCtx 3 ∧ (s.getQueue 4).part = none
          ∧ s.qWaiting 4 + e.2 ≤ s.qUnits 4
          ∧ tok (u.reloc 3 e.1 16) (fun a v => tok (v.readLoc 3 a 16) fun h w =>
              fieldAt h 4 2 == e.2 && zeroAt h 6 10 && tok (w.reloc 3 e.1 (64 * e.2)) fun b y =>
                tok (y.readLoc 3 b (64 * e.2)) fun l z => l.length == 64 * e.2 && tok (z.cmdPage 0 0x4000 true true) fun pa _ =>
                  pa == 0x14000) = true) := by decide +kernel

def tquay (w al : Bool) (ep : Nat) : QReq :=
  { id := 5, quay := 2, pa := 0x2000100, len := 128, write := w, source := 0, region := 0, alloc := al, phase := 1
    reqs := [{ tread 0x2000100 with epoch := ep, data := if w then [1, 2, 3, 4] else [] }] }

/-- A FILL and a COPY of 4 bytes that end, and the second unit of an item. -/
theorem wit_transfers : (∀ tr ∈ [(⟨true, 0, 0x1100, 4, 0x44332211, 0, 0⟩ : Transfer), ⟨false, 0x1200, 0x1100, 4, 0, 0, 0⟩],
      let s := titemOf (texec tcopy) (fun e => { e with transfers := [tr] }) {}
      s.execOf 3 = some { texec tcopy with transfers := [tr] } ∧ s.moving 3 = false ∧ 0 < tr.len ∧ tr.dst < itemAddr
        ∧ tr.dst % 65536 + tr.len ≤ 65536 ∧ tr.src < itemAddr ∧ tr.src % 65536 + tr.len ≤ 65536
        ∧ tok (s.cmdPage 0 tr.src false false) (fun _ w => tok (w.cmdPage 0 0x1100 true false) fun pa _ => pa == 0x11100) = true)
    ∧ (let s := titemOf (texec tcopy) (fun e => { e with transfers := [⟨true, 0, 0x1100, 4, 0x44332211, 0, 0⟩] }) {}
       { s with quays := [{ tquay true false 0 with reqs := [], copy := some (3, 0) }] }.moving 3 = true)
    ∧ (let d : Deposit := { target := 4, bytes := List.replicate 128 1, done := 1 }
       let s := titemOf (texec (tenq 0x300)) (fun e => { e with waiting := true, deposit := some d }) {}
       s.execOf 3 = some { texec (tenq 0x300) with waiting := true, deposit := some d } ∧ d.cut = false ∧ 1 ≤ d.done
         ∧ 64 * (d.done + 1) = d.bytes.length
         ∧ tok (s.cmdPage 0 0x4040 true true) (fun pa _ => pa == 0x14040) = true) := by decide +kernel

/-- FILL writes its word at the place of its bytes (R313). -/
theorem test_fill : (match exec (.copyComplete 3) (titemOf (texec tfillc) (fun e =>
      { e with transfers := [⟨true, 0, 0x1101, 6, 0x44332211, 0, 0⟩] }) {}) with
    | .next t => Mem.bytes zeroFill t.devMem 0x11100 8 | _ => []) = [0, 0x11, 0x22, 0x33, 0x44, 0x11, 0x22, 0] := by
  decide +kernel

/-- The SEQ of a deposited item is the push count plus 1 (R312). -/
theorem test_enqueue : (match exec (.cmdEnqueue 3) (tcmd (tenq 0x200)) with
    | .next t => (Mem.bytes zeroFill t.devMem 0x14000 6, t.rd (queueP 4 + 0x40)) | _ => ([], 0)) = ([1, 0, 0, 0, 1, 0], 1) := by
  decide +kernel

/-! A manifest with a SEGMENTS section for core 0 and TIER_FLOOR `fl`. -/

def tbody : List Byte := [8, 0, 0, 0] ++ leBytes 4 0 ++ leBytes 4 144 ++ leBytes 4 4 ++ leBytes 4 1
def tman (fl : Byte) : List Byte :=
  let h := leBytes 4 0x464D584A ++ [3, 2, fl, 0] ++ leBytes 8 (deviceKey Build.jx1024) ++ leBytes 2 64 ++ leBytes 2 1
    ++ leBytes 4 100 ++ leBytes 4 0 ++ leBytes 4 20 ++ leBytes 4 (crc32c tbody) ++ [1, 1, 0xFF, 0] ++ sha384 tbody
    ++ List.replicate 36 0
  h ++ leBytes 4 (crc32c h) ++ tbody

/-- A descriptor of one leg whose manifest stands at object offset `off`. -/
def tdesc (off : Nat) : List Byte :=
  leBytes 4 0x5956584A ++ [1] ++ List.replicate 11 0 ++ leBytes 8 off ++ leBytes 4 148 ++ leBytes 4 0

def treg (off : DWord) : Cmd := ⟨0x10, 9, 0, [off]⟩
def tregister (off : DWord) : State :=
  { titemOf (texec (treg off)) id { ways := 1 } with
    devMem := Mem.putBytes zeroFill (Mem.putBytes zeroFill (Mem.putBytes zeroFill tdev 0x11400 (tdesc 0x500)) 0x11500 (tman 3))
      0x11600 (tdesc 0x700) }

/-- A legal manifest, and one that is all zeros: REASON 0x01. -/
theorem wit_register : ∀ e ∈ [((0x400 : DWord), (0 : Nat)), (0x600, 0x301)],
    let s := tregister e.1
    s.mayCommand 3 (texec (treg e.1)) (tframe (treg e.1)) [] (treg e.1) ∧ s.mayRegister 3 = true
      ∧ (∀ r ∈ (s.getCtx 0).regions, (s.getRegion r).blocked = false) ∧ (s.getCtx 0).voyages = []
      ∧ tok ((s.atCommand 3 (treg e.1)).reloc 3 e.1 16) (fun a u1 => tok (u1.readLoc 3 a 16) fun h u2 =>
          fieldAt h 0 4 == 0x5956584A && fieldAt h 4 1 == 1 && zeroAt h 5 3 && fieldAt h 8 2 == 0 && zeroAt h 10 6 &&
          tok (u2.reloc 3 e.1 32) fun b u3 => tok (u3.readLoc 3 b 32) fun d u4 =>
            let r := d.drop 16
            recordsOf 16 r == [r] && fieldAt r 8 4 == 148 && zeroAt r 12 4 &&
            match State.readLegs 3 0 0 [r] [] u4 with
            | .ok ms _ => e.2 == 0 && ms == [tman 3]
            | .fail st _ => st == e.2) = true := by decide +kernel

def tvoyage (l : List Launch) (legs : List LegRun) : Ctx := { voyages := [(9, ⟨8, [tman 3]⟩)], launches := l, legs := legs }
def tlaunchc (id n : DWord) : Cmd := ⟨1, id.toNat, 0, [0, n, 0, 0]⟩

/-- Voyage 9 is registered and 8 is not; a launch without and one with a parameter block. -/
theorem wit_voyages : (∀ c ∈ [tlaunchc 9 0, tlaunchc 9 8, tlaunchc 8 0, ⟨0x11, 9, 0, []⟩, treg 0x400],
      let s := titemOf (texec c) id (tvoyage [] [])
      s.mayCommand 3 (texec c) (tframe c) [] c ∧ s.mayRegister 3 = true ∧ (c.op = 1 → s.registering 0 = false)
        ∧ ((s.getCtx 0).voyages.find? fun v => v.1 = 9) = some (9, ⟨8, [tman 3]⟩)
        ∧ ((s.getCtx 0).voyages.all fun v => v.1 ≠ 8) = true)
    ∧ (let c := tlaunchc 9 8
       tok (((titemOf (texec c) id (tvoyage [] [])).atCommand 3 c).reloc 3 0 8) (fun a u => tok (u.readLoc 3 a 8) fun l v =>
         tok (State.relocBlock 3 0 (List.range 128) l v) fun m _ => m == l) = true) := by decide +kernel

def tlaunch (ready : Option Nat) : Launch :=
  { id := 0, queue := 3, seq := 7, voyage := 9, params := [], test := false, rt := false, ready := ready }

/-- A lead that passes, one whose TIER_FLOOR lies below the tier, and one that waits for its BASE. -/
theorem wit_leads : (∀ e ∈ [((3 : Byte), true), (2, false)],
      let x := { tvoyage [tlaunch none] [] with voyages := [(9, ⟨8, [tman e.1]⟩)] }
      let s := titemOf (texec (tlaunchc 9 0)) id x
      s.awake = true ∧ s.nextLaunch 0 = some (tlaunch none) ∧ s.ctxState 0 = 2 ∧ s.pilot.crewDown = false
        ∧ s.pilot.pause = none
        ∧ (s.activation 0 (s.legImage 0 9 0)).1.isNone = e.2)
    ∧ (let s := titemOf (texec (tlaunchc 9 0)) id (tvoyage [tlaunch (some 400)] [])
       s.nextLaunch 0 = some (tlaunch (some 400)) ∧ s.ctxState 0 = 2 ∧ (s.getCtx 0).rtWait = []
         ∧ ∀ y ∈ (s.getCtx 0).launches, y.rt = false)
    ∧ (let s := { titemOf (texec (tlaunchc 9 0)) id (tvoyage [tlaunch (some 400)] []) with
                  reg := [(modeP + 0x40, 4), (0x23014, 0x40000000), (0x23050, 0x80000), (0x10014, 2)] }
       0 < s.rtShare ∧ (s.queuesOf 0).any s.qRt = true ∧ fieldAt (s.legImage 0 9 0) 20 4 ≤ 1024 - s.rtShare) := by
  decide +kernel

def tleg : LegRun := { launch := 0, leg := 0, rt := false, base := 100, span := 100, cores := [(0, 0)], begun := true }

/-- The first leg of two, and the last. -/
theorem wit_legs : ∀ n ∈ [(0 : Nat), 1],
    let l := { tlaunch none with leg := n }
    let s := titemOf (texec ⟨9, 0, 0, []⟩) (fun e => { e with launches := [0] }) (tvoyage [l] [tleg])
    s.awake = true ∧ (s.getCtx 0).legs = [tleg] ∧ s.legOver 0 tleg = true ∧ (s.getCtx 0).paired = false ∧ s.ctxState 0 ≠ 4
      ∧ ((s.getCtx 0).launches.find? fun l => l.id = tleg.launch) = some l ∧ s.legCount 0 9 = 1
      ∧ ∃ e, s.execOf l.queue = some e ∧ e.waiting = false := by
  intro n hn
  simp only [List.mem_cons, List.not_mem_nil, or_false] at hn
  rcases hn with rfl | rfl <;>
    exact ⟨by decide +kernel, by decide +kernel, by decide +kernel, by decide +kernel, by decide +kernel, by decide +kernel,
      by decide +kernel, _, rfl, rfl⟩

/-- A FENCE that began at 0 with a timeout of 1,024 tt, at tide 1023 and 1024. -/
theorem wit_timeout : ∀ e ∈ [((1023 : Nat), (none : Option Nat)), (1024, some 0)],
    let f := { texec ⟨9, 0, 0, []⟩ with waiting := true }
    let s0 := titemOf (texec ⟨9, 0, 0, []⟩) (fun e => { e with waiting := true }) {}
    let s := { s0 with reg := (0x23054, 1) :: s0.reg, clk := { s0.clk with tide := e.1 } }
    s.awake = true ∧ s.execOf 3 = some f ∧ s.ctxState (s.qCtx 3) = 2 ∧ fieldOf (s.rd (queueP 3 + 0x54)) 19 0 ≠ 0
      ∧ s.overdue 3 f = e.2 := by decide +kernel

/-- The queue executes a REGISTER while a leg runs, and one of a context without a leg, behind which launches wait. -/
theorem wit_register_waits : (titemOf (texec (treg 0x400)) id (tvoyage [] [tleg])).mayRegister 3 = false
    ∧ (tcmd (treg 0x400)).registering 0 = true := by decide +kernel

/-- A lead pause began at time 900, a launch waits for its lead, and now is 1000. -/
def tpaused : State :=
  { titemOf (texec (tlaunchc 9 0)) id (tvoyage [{ tlaunch none with due := some 600 }] []) with pilot := { pause := some (900, 9999) } }

theorem wit_lead_pause : tpaused.pilot.crewDown = false ∧ tpaused.pilot.pause.isSome = true
    ∧ tpaused.leadDelayed 0 { tlaunch none with due := some 600 } = true ∧ tpaused.pausedFor = 100 := by decide +kernel

def tquays (o : QReq) : State := tbas [] [] [o] 0

/-- A write, a read past the Basin, a fill, and a request of a former EPOCH; one of a jetty; 450 tt is within the bound of
reset. -/
theorem wit_quays : (∀ o ∈ [tquay true false 0, tquay false false 0, tquay false true 0, tquay false false 1],
      let s := tquays o
      2 < s.build.quays ∧ s.awake = true ∧ s.build.legal = true
        ∧ (s.quays.find? fun o => o.quay = 2 && o.id = 5 && o.phase = 1) = some o
        ∧ (s.quays.find? fun o => o.quay = 2 && o.id = 6 && o.phase = 1) = none ∧ State.isForeign o = false ∧ o.source < 16
        ∧ o.copy = none ∧ s.isStale o = decide (o = tquay false false 1) ∧ s.ctxState 0 = 2 ∧ Mem.wf zeroFill s.devMem = true)
    ∧ ((tquays { tquay false false 0 with reqs := [], copy := some (3, 0) }).quays.find? fun o => o.quay = 2 && o.id = 5 && o.phase = 1)
        = some { tquay false false 0 with reqs := [], copy := some (3, 0) }
    ∧ ((tquays { tquay false false 0 with reqs := [{ tread 0x2000100 with core := State.foreign }] }).quays.find? fun o =>
        o.quay = 2 && o.id = 5 && o.phase = 1).isSome = true
    ∧ (∀ e ∈ [((0 : Nat), true), (1, false)], (tquays (tquay false false e.1)).fresh 0 e.1 = e.2)
    ∧ fieldOf ((tquays (tquay true false 0)).rd (quayP 2 + 0x40)) 11 0 = 450
    ∧ (tquays (tquay true false 0)).answers (quayP 2 + 0x44) = true
    ∧ (tquays { tquay false false 0 with phase := 0 }).quays.find? (fun o => o.id = 5 && o.phase = 0)
        = some { tquay false false 0 with phase := 0 } := by decide +kernel

/-! Images that are signed. The key pair and the signatures are made for these tests, outside the model, with the private
key 0x1234567. -/

def tpub : List Byte := beBytes 96 0x7ae9e1db1160794c70c1ef071be5191f6c66240f4608fbe8a44ecd36c3ed5db97500f2e4d84e3fb45850fd6f4303302bd8ac21444cd80d241538d8034b399a0dee3636eb5cb00b9499d061a571db0f14bb47ed79453948ed63f3a6ccbbf6e74f

/-- A Pilot image (kind 1) or Crew image (kind 2) with a body of 8 bytes. -/
def timgs (kind : Byte) (sig : List Byte) : List Byte :=
  let h := leBytes 4 0x5746584A ++ [kind, 1, 0, 0] ++ leBytes 4 0x10203 ++ leBytes 4 8 ++ List.replicate 16 0 ++ tpub ++ sig
    ++ List.replicate 28 0
  h ++ leBytes 4 (crc32c h) ++ [1, 2, 3, 4, 5, 6, 7, 8]
def tpilot : List Byte := timgs 1 (beBytes 96 0xaa87ca22be8b05378eb1c71ef320ad746e1d3b628ba79b9859f741e082542a385502f25dbf55296c3a545e3872760ab7b92edc0940eed37ae93ea1600b952c55b265591bd1dfcec7a31176615109e90efcaceb0213561aeb5759276538f0cd0f)
def tcrew : List Byte := timgs 2 (beBytes 96 0xaa87ca22be8b05378eb1c71ef320ad746e1d3b628ba79b9859f741e082542a385502f25dbf55296c3a545e3872760ab7b7a75ffb55e7461eaa71a479ceffa340620f21643d4d75bd4c86c5997f5891ca7f16de9ad2e7332a0c652256160163d0)
def troot : BitVec 384 := 0x4938b309efca0e50cab9f949ab849d045c5a676ac0163690ab822a7a4e19d90650792c29353c5bf4461f331495630270

theorem wit_images : imageCheck troot 1 false true tpilot = 0 ∧ imageCheck troot 2 false true tcrew = 0
    ∧ imageCheck troot 1 false true tcrew = 0x712 ∧ imageCheck 0 1 false true tpilot = 0x714 := by decide +kernel

/-- The first 80 primes. -/
def tprimes : List Nat := (List.range 410).filter fun n => decide (2 ≤ n) && (List.range n).all fun d => decide (d < 2) || decide (n % d ≠ 0)

/-- FIPS 180-4 gives the constants as fractional bits of cube and square roots of primes. -/
theorem test_sha_constants : roundKeys.length = 80
    ∧ (∀ e ∈ tprimes.zip roundKeys, ∃ n < 8, (n * 2 ^ 64 + e.2) ^ 3 ≤ e.1 * 2 ^ 192 ∧ e.1 * 2 ^ 192 < (n * 2 ^ 64 + e.2 + 1) ^ 3)
    ∧ ∀ e ∈ (tprimes.drop 8).zip (words64 8 squareRoots), ∃ n < 8,
        (n * 2 ^ 64 + e.2) ^ 2 ≤ e.1 * 2 ^ 128 ∧ e.1 * 2 ^ 128 < (n * 2 ^ 64 + e.2 + 1) ^ 2 := by decide +kernel

/-- The example of FIPS 180-4: the digest of "abc". -/
theorem test_sha_abc : beNat (sha384 [97, 98, 99])
    = 0xcb00753f45a35e8bb5a03d699ac65007272c32ab0eded1631a8b605a43ff5bed8086072ba1e7cc2358baeca134c825a7 := by decide +kernel

/-- One wrong bit of the body is 0x715 (R337). -/
theorem test_image_signature : imageCheck troot 1 false true (patchAt tpilot 260 [4]) = 0x715 := by decide +kernel

/-- A bitstream for core 0: one ZERO record for bay 5, then END. -/
def tbits : List Byte :=
  let h := leBytes 4 0x4657584A ++ [1, 1, 4, 1] ++ leBytes 8 (deviceKey Build.jx1024) ++ leBytes 2 0 ++ leBytes 2 0
    ++ leBytes 4 16 ++ leBytes 4 1
  let b := [4, 0, 1, 0] ++ leBytes 4 5 ++ [15, 0, 0, 0]
  h ++ leBytes 4 (crc32c h)
    ++ beBytes 96 0xaa87ca22be8b05378eb1c71ef320ad746e1d3b628ba79b9859f741e082542a385502f25dbf55296c3a545e3872760ab7347de0ae1cb478073a36c5d14d1e508bd4b58f017025082987f8c1fd4e457088ec6d0c360c2d599a5c549e7c8a849f74
    ++ b ++ leBytes 4 (crc32c b)

/-! The control complex. -/

/-- BOOT_STATUS `v` in place of READY, with more words. -/
def tboot (v : Word) (l : Tab Word) : State := ton ((0x14, v) :: l)

theorem wit_hq : (tq 1 0 [(0x23040, 1)] {}).awake = true ∧ (tq 1 0 [(0x23040, 1)] {}).qState 3 = 1
    ∧ (tq 1 0 [(0x23040, 1)] {}).qDevice 3 = false ∧ (tq 1 0 [(0x23040, 1)] {}).qWaiting 3 ≠ 0
    ∧ ((tq 1 0 [] {}).getQueue 3).exec = none ∧ (tq 1 0 [] {}).wload = [] ∧ (tq 1 0 [] {}).ctxState ((tq 1 0 [] {}).qCtx 3) = 2
    ∧ (tboot 0x30000000 []).bootState = 3 ∧ (tboot 0x30000000 []).awake = true
    ∧ ∀ q < 64, ¬ ((ton []).qState q = 1 ∧ (ton []).qDevice q = false ∧ ((ton []).qWaiting q ≠ 0 ∨ ((ton []).getQueue q).ended ≠ []))
    := by decide +kernel

theorem wit_reset : State.reset.inReset = true ∧ State.reset.testEn = false ∧ (ton []).inReset = false
    ∧ (ton []).bootState ≠ 6 := by decide +kernel

/-- A boot parameter block with a Crew image at 0x1000, a ledger at 0x2000 and no Wharf image. -/
def tparams : List Byte :=
  let l := leBytes 4 0x5042584A ++ leBytes 4 2 ++ leBytes 8 0x1000 ++ List.replicate 24 0 ++ leBytes 8 0x2000
    ++ leBytes 8 0x1000000 ++ List.replicate 68 0
  l ++ leBytes 4 (crc32c l)

def twaiting (a : Word) : State :=
  { tboot 0x30000020 [] with
    hostMem := Mem.putBytes zeroFill [] 0x40 tparams, staged := [(State.own .host (bootP + 0x48), a)] }

/-- BOOTROM_WAIT without and with a route; a good and a bad image; a good block and one that is all zeros. -/
theorem wit_boot : (tboot 0x10000000 []).admits .host (bootP + oCTRL) ∧ (tboot 0x10000000 []).bootState = 1
    ∧ (tboot 0x10000000 []).boot.route = 0 ∧ (ton []).admits .host (bootP + oCTRL) ∧ (ton []).bootState ≠ 1
    ∧ (tboot 0x10000000 []).inReset = false ∧ (tboot 0 []).awake = false ∧ (tboot 0 []).bootState ≠ 1
    ∧ (let l : List Byte := [1, 0, 0, 0, 1, 0, 0, 0, 9]
       8 ≤ l.length ∧ fieldAt l 0 1 = 1 ∧ zeroAt l 1 3 = true ∧ l.length - 8 = fieldAt l 4 4) := by decide +kernel

/-- By wit_images the first image is good and the second is 0x712. -/
theorem wit_pilot_image : ∀ e ∈ [tpilot, tcrew],
    let s : State := { tboot 0x10000000 [] with rootKey := troot, boot := ⟨1, e, true⟩ }
    s.bootState = 1 ∧ s.boot.route ≠ 0 ∧ s.boot.image = e ∧ s.boot.whole = true ∧ s.rootKey = troot := by
  intro e _
  exact ⟨(by decide +kernel : (tboot 0x10000000 []).bootState = 1), Nat.one_ne_zero, rfl, rfl, rfl⟩

theorem wit_boot_params : (twaiting 0x40).admits .host (bootP + 0x4C) ∧ (twaiting 0x40).awake = true
    ∧ bitOf ((twaiting 0x40).rd (bootP + oSTATUS)) 5 = true
    ∧ (twaiting 0x40).formed .host (bootP + 0x4C) 0 = 0x40 ∧ (twaiting 0x80).formed .host (bootP + 0x4C) 0 = 0x80
    ∧ Mem.bytes zeroFill (twaiting 0x40).hostMem 0x40 128 = tparams
    ∧ paramsOk Build.jx1024 tparams = true
    ∧ paramsOk Build.jx1024 (Mem.bytes zeroFill (twaiting 0x80).hostMem 0x80 128) = false := by decide +kernel

def tfind (tide : Bool) : BringUpFindings :=
  { tideOk := tide, regionOk := 0xFFFF, gaugeOk := 0xFFFF, marginOk := 0xFFFF, ackOk := 0xFFFF, crewReadErr := false
    goldenReadErr := false, wharfBad := [], coreBad := [], wayBad := [], slipStream := [] }

/-- PILOT_UP with boot parameters and the Crew image `img`. -/
def tup (img : List Byte) : State :=
  { tboot 0x30000000 [] with
    rootKey := troot, hostMem := Mem.putBytes zeroFill [] 0x1000 img
    pilot := { params := some tparams, pubkey := tpub, ledgerDue := true } }

/-- By wit_images the Crew image passes its checks; zeros do not. -/
theorem wit_bring_up : (tup tcrew).pilot.params = some tparams ∧ (tup tcrew).bootState = 3 ∧ (tup tcrew).testEn = false
    ∧ (tup tcrew).build.legal = true ∧ fieldAt tparams 16 8 = 0 ∧ noWharfFlag tparams = true ∧ (tup tcrew).retired = []
    ∧ (tfind false).tideOk = false ∧ (tfind true).tideOk = true ∧ (tfind true).coreBad = [] ∧ (tfind true).wayBad = []
    ∧ (∀ x ∈ (tup tcrew).core, x.2.state ≠ 3)
    ∧ ∀ r < (tup tcrew).build.regions, bitOf (tfind true).regionOk r = true ∧ bitOf (tfind true).gaugeOk r = true
        ∧ bitOf (tfind true).ackOk r = true ∧ bitOf ((tup tcrew).rd (regionP r + oSTATUS)) 29 = false := by decide +kernel

theorem tup_host (img : List Byte) : (tup img).hostMem = Mem.putBytes zeroFill [] 0x1000 img := rfl

theorem fetch_of {m : Mem} {a n : Nat} {l : List Byte} (h : leNat (Mem.bytes zeroFill m (a + 12) 4) = n) (k : n ≤ 1048576)
    (e : l.length = 256 + n) (b : Mem.bytes zeroFill m a l.length = l) : fetchImage m a = l := by
  rw [e] at b
  rw [fetchImage, h, Nat.min_eq_left k, b]

theorem wit_crew_fetch : fieldAt tparams 8 8 = 0x1000 ∧ fetchImage (tup tcrew).hostMem 0x1000 = tcrew := by
  rw [tup_host]
  exact ⟨by decide +kernel, fetch_of (n := 8) (by decide +kernel) (by decide) (by decide +kernel) (Mem.bytes_putBytes tcrew 0x1000 rfl)⟩

theorem wit_no_crew : fetchImage (tup []).hostMem 0x1000 = List.replicate 256 0 := by decide +kernel

theorem wit_no_ledger : (tup tcrew).ledgerAddr = 0x2000
    ∧ (tup tcrew).slotOk (Mem.bytes zeroFill (tup tcrew).hostMem 0x2000 256) = false
    ∧ (tup tcrew).slotOk (Mem.bytes zeroFill (tup tcrew).hostMem 0x2100 256) = false := by decide +kernel

theorem wit_bad_crew_image : imageCheck troot 2 false true (List.replicate 256 0) = 0x710 := by decide +kernel

/-- A ledger record that is due a minute after the last one, outside bring-up, and one whose write fails; one that is not
due. -/
theorem wit_ledger : (let s := { tup tcrew with reg := (0x14, 0x40000000) :: (tup tcrew).reg }
    { s.pilot with writeErr := true }.ledgerDue = true ∧ s.pilot.writeErr = false ∧ s.awake = true ∧ s.clk.time < s.pilot.hourAt + hourTicks ∧ s.pilot.ledgerDue = true ∧ s.bootState ≠ 3
      ∧ s.handing = false ∧ s.pilot.ledgerAt = none ∧ s.ledgerAddr = 0x2000 ∧ Mem.wf zeroFill s.hostMem = true)
    ∧ (ton []).pilot.ledgerDue = false ∧ (ton []).clk.time < (ton []).pilot.hourAt + hourTicks := by decide +kernel

/-- The first byte of a record in slot 1 is M of LEDGER_MAGIC, and SEQ is 1 (R344). -/
theorem test_ledger_seq : (tup tcrew).ledgerAddr + 256 * (((tup tcrew).pilot.ledgerSeq + 1) % 2) = 0x2100 := by decide +kernel

/-- The Crew's first, third and DOWN fault; an update under way; the Pilot. -/
def tcrewed (l : List Nat) (upd : Word) : State :=
  { ton [(updateP + oSTATUS, upd)] with pilot := { crewUp := true, crewFaults := l }, carve := some 0x800000 }

/-- The Crew's access to the last byte of the Pilot half has been refused. -/
def trefused (l : List Nat) : State := (tcrewed l 0).crewAccess 0xFFFFFF

theorem wit_faults : (∀ e ∈ [(([] : List Nat), (0 : Nat)), ([100, 200], 2)],
      let s := tcrewed e.1 0
      s.awake = true ∧ s.pilot.crewUp = true ∧ s.pilot.crewDown = false ∧ ¬ (s.updStage = 3 ∧ s.updKind = 1)
        ∧ (s.pilot.crewFaults.filter fun z => decide (s.clk.time < z + minuteTicks)).length = e.2)
    ∧ (tcrewed [] 0x31000000).updStage = 3 ∧ (tcrewed [] 0x31000000).updKind = 1
    ∧ (tcrewed [] 0x34000000).updStage = 3 ∧ (tcrewed [] 0x34000000).updKind = 4
    ∧ (tcrewed [] 0).pilot.stopped = false ∧ (tcrewed [] 0).carve = some 0x800000 ∧ (tcrewed [] 0).pilot.refused = false
    ∧ (trefused []).awake = true ∧ (trefused []).pilot.crewUp = true ∧ (trefused []).pilot.crewDown = false
    ∧ (trefused []).pilot.refused = true
    ∧ (0x7FFFFF < 0x800000 ∨ 0x800000 + 2 ^ 23 ≤ 0x7FFFFF) ∧ 0x800000 ≤ 0xFFFFFF ∧ 0xFFFFFF < 0x800000 + 2 ^ 23
    ∧ (tvolt 0 2499 id).clk.time < (tvolt 0 2499 id).pilot.beat + 2500
    ∧ (tvolt 0 2500 id).pilot.beat + 2500 ≤ (tvolt 0 2500 id).clk.time ∧ (tvolt 0 2500 id).awake = true
    ∧ atLeastNs 500 ((tvolt 0 312 id).clk.time - (tvolt 0 312 id).lifelineAt) = false
    ∧ atLeastNs 500 ((tvolt 0 313 id).clk.time - (tvolt 0 313 id).lifelineAt) = true := by decide +kernel

/-- UPD_STATUS, the update, the tide; a window of 1 ms. -/
def tupd (st : Word) (tide : Nat) (u : Update) : State :=
  let s := tctx 2 { voyages := [(1, ⟨0, [[]]⟩), (2, ⟨0, [[]]⟩)] } [(updateP + oSTATUS, st), (updateP + 0x54, 1)]
  { s with update := u, rootKey := troot, clk := { s.clk with tide := tide, time := 625000 } }

/-- A Pilot handover of the update ends at 625,001 at the latest; one has ended. -/
def thanding (z : Nat) : State := { tupd 0x34000000 0 { image := tpilot } with pilot := { handover := some z } }

theorem wit_handover : ∀ z ∈ [625001, 625000], (thanding z).handing = true ∧ (thanding z).updKind = 4
    ∧ (thanding z).pilot.handover = some z ∧ (thanding z).clk.time = 625000 ∧ (thanding z).updStage = 3 := by decide +kernel

theorem wit_updates : (tupd 0 0 {}).admits .host (updateP + oCTRL) ∧ (tupd 0 0 {}).updStage = 0 ∧ (tupd 0x11000000 0 {}).updStage = 1
    ∧ (tupd 0x20000000 0 {}).updPending = false ∧ (tupd 0x21000000 0 {}).updStage = 2 ∧ (tupd 0x21000000 0 {}).updKind ≠ 2
    ∧ (tupd 0x21000400 0 {}).updPending = true ∧ (tupd 0x31000000 0 {}).updStage = 3
    ∧ (tupd 0x31000000 0 {}).clk.time ≤ (tupd 0x31000000 0 {}).update.activeAt + (tupd 0x31000000 0 {}).updWindow
    ∧ (tupd 0x31000000 0 {}).update.activeAt + (tupd 0x31000000 0 {}).updWindow ≤ (tupd 0x31000000 0 {}).clk.time
    ∧ (tupd 0x31000000 0 {}).build.legal = true ∧ (tupd 0x31000000 0 {}).awake = true
    ∧ (tupd 0x11000000 0 { image := tcrew }).updKind = 1 ∧ (tupd 0x14000000 0 { image := tpilot }).updKind = 4
    ∧ (tupd 0x13000000 0 {}).voyagesAgree 0 1 2 = true ∧ (tupd 0x13000000 0 {}).voyagesAgree 0 1 1 = false
    := by decide +kernel

theorem wit_update_activation : (tupd 0x21000400 500 { stamp := 500 }).updPending = true ∧ (tupd 0x21000400 500 { stamp := 500 }).updKind = 1
    ∧ (tupd 0x24000400 500 { stamp := 500 }).updPending = true ∧ (tupd 0x24000400 500 { stamp := 500 }).updKind = 4
    ∧ (tupd 0x23000400 500 { stamp := 500 }).updPending = true ∧ (tupd 0x23000400 500 { stamp := 500 }).updStage = 2
    ∧ (((tupd 0x23000400 500 {}).getCtx 0).voyages.find? fun e => e.1 = 2) = some (2, ⟨0, [[]]⟩)
    ∧ (((tupd 0x23000400 500 {}).getCtx 0).voyages.find? fun e => e.1 = 1) = some (1, ⟨0, [[]]⟩) := by decide +kernel

/-- A stamp 4,095 and one 4,096 tt ahead. -/
theorem wit_update_lead : ((tupd 0x21000000 500 {}).rd64 (updateP + 0x48) < 500 + 4096)
    ∧ 500 + 4096 ≤ (tupd 0x21000400 500 { stamp := 4596 }).update.stamp ∧ (tupd 0x21000400 500 { stamp := 4595 }).update.stamp < 500 + 4096 := by
  decide +kernel

/-! Wharf loads. -/

/-- Region 0 with the bitstream at 0x40000 of host memory; the header of what lies at 0x50000 fails. -/
def twharf (a : Word) (l : Tab Word) (w : Tab WLoad) : State :=
  let s := ton ((wharfP 0 + 0x40, a) :: l)
  { s with hostMem := Mem.putBytes zeroFill [] 0x40000 tbits, wload := w, pilot := { pubkey := tpub } }

def twload (pos frames : Nat) (ended : Bool) (b : List Byte) : WLoad :=
  { regions := [0], slip := false, bytes := b, pos := pos, frames := frames, ended := ended, alone := true }

theorem wit_wharf_go : (twharf 0x40000 [] []).admits .host (wharfP 0 + oCTRL) ∧ (twharf 0x40000 [] []).loading 0 = false
    ∧ (twharf 0x40000 [] []).groupOf (wharfP 0) = none ∧ (twharf 0x40000 [] []).rd64 (wharfP 0 + 0x48) / 8 = 0
    ∧ (twharf 0x40000 [] []).rd64 (wharfP 0 + 0x40) = 0x40000
    ∧ Mem.bytes zeroFill (twharf 0x40000 [] []).hostMem 0x40000 (128 + 16) = tbits
    ∧ Mem.bytes zeroFill (twharf 0x50000 [] []).hostMem 0x50000 (128 + 0) = List.replicate 128 0
    ∧ fieldAt tbits 20 4 = 16 ∧ (twharf 0x40000 [] []).wharfHeader 0 false 0 tbits = 0
    ∧ (twharf 0x50000 [] []).wharfHeader 0 false 0 (List.replicate 128 0) = 0x601
    ∧ (twharf 0 [] [(0, twload 0 0 false tbits)]).loading 0 = true ∧ bitOf (1 : Word) 0 = true ∧ bitOf (3 : Word) 1 = true := by
  decide +kernel

/-- A bitstream whose body begins with a FRAME for bay 5 of core 0. -/
def tbitsFrame : List Byte :=
  patchAt (tbits.take 128) 20 (leBytes 4 528) ++ [1, 0, 0, 0] ++ leBytes 4 5 ++ List.replicate 512 7 ++ [15, 0, 0, 0, 0, 0, 0, 0]

/-- The FRAME and END. -/
theorem wit_wharf_record : ∀ e ∈ [((0 : Nat), (1 : Nat), (520 : Nat)), (520, 15, 8)],
    let w := twload e.1 0 false tbitsFrame
    let s := twharf 0 [] [(0, w)]
    let body := (w.bytes.drop 128).take (fieldAt w.bytes 20 4)
    s.wloadAt 0 = some (0, w) ∧ body.length = 528 ∧ fieldAt w.bytes 20 4 = 528 ∧ w.pos + e.2.2 ≤ 528
      ∧ (recordAt body w.pos).map (fun x => (x.typ, x.len)) = some (e.2.1, e.2.2) ∧ s.faddrOf w 5 = some ([0], 5) := by
  decide +kernel

/-- A NOP after END: what follows END is a record, and the body goes on. -/
theorem wit_record_after_end : (let w := twload 8 0 true (patchAt tbits 136 [15, 0, 0, 0])
    let s := twharf 0 [] [(0, w)]
    let body := (w.bytes.drop 128).take (fieldAt w.bytes 20 4)
    s.wloadAt 0 = some (0, w) ∧ (recordAt body w.pos).isSome = true ∧ (recordAt body w.pos).all (fun x => w.pos + x.len ≤ 16) = true
      ∧ w.pos < fieldAt w.bytes 20 4 ∧ body.length = 16 ∧ w.ended = true ∧ w.alone = true) := by decide +kernel

/-- The end of the load: of a good stream, and of one whose body has changed. -/
theorem wit_wharf_done : (twharf 0 [] []).wharfFinish (twload 16 1 true tbits) = 0
    ∧ (twharf 0 [] []).wharfFinish (twload 16 1 true (patchAt tbits 132 [9])) = 0x609
    ∧ (twharf 0 [] [(0, twload 16 1 true tbits)]).wloadAt 0 = some (0, twload 16 1 true tbits)
    ∧ fieldAt tbits 20 4 ≤ (twload 16 1 true tbits).pos ∧ (twload 16 1 true tbits).alone = true := by decide +kernel

/-- A wrong signature is 0x60B (R291). -/
theorem test_wharf_signature : (twharf 0 [] []).wharfFinish (twload 16 1 true (patchAt tbits 100 [9])) = 0x60B := by
  decide +kernel

/-! The convoy. -/

/-- This block alone is the convoy, with context 1; CONVOY_STATUS, records and times. -/
def tconvoy (st : Word) (tide time : Nat) (c : Convoy) : State :=
  let s := ton [(convoyP + 0x40, 0x110000), (convoyP + oSTATUS, st)]
  { s with convoy := c, clk := { s.clk with tide := tide, time := time }, region := [(0, { clockOn := true, tideLow := tide })] }

/-- The record of member 0, whose digests agree. -/
def trecord : List Byte :=
  let l := (tconvoy 0 0 0 {}).musterRecord 0 false
  patchAt l 92 (sha384 ((l.drop 44).take 48))

theorem wit_muster : (tconvoy 0 0 0 {}).admits .host (convoyP + oCTRL) ∧ (tconvoy 0 0 0 {}).convoyCtx = some 1
    ∧ (ton []).convoyCtx = none
    ∧ (let s := tconvoy 0x20000000 0 3125000 { records := [(trecord, 0)] }
       fieldOf (s.rd (convoyP + oSTATUS)) 31 29 = 1 ∧ s.convoy.forming = none
        ∧ atLeastNs 5000000 (s.clk.time - s.convoy.musterAt) = true ∧ s.convoy.excluded = [] ∧ s.convoy.cap = none
        ∧ (let l := State.byMember (s.convoy.records.filter fun e => !recLeave e.1)
           l = [(trecord, 0)] ∧ s.members = 1 ∧ recMember trecord = 0
            ∧ (trecord.drop 92).take 48 = sha384 (l.flatMap fun e => (e.1.drop 44).take 48) ∧ recConvoyRunning trecord = false
            ∧ State.tideMisfit l = none ∧ fieldAt trecord 40 1 ≤ fieldAt trecord 41 1 ∧ fieldAt trecord 40 1 ≤ 7
            ∧ fieldOf (s.rd (convoyP + oSTATUS)) 11 8 = 0 ∧ State.convoyTide l ≤ 8))
    ∧ (let s := tconvoy 0x20000000 0 3125000 {}
       ((List.range s.members).find? fun m => ¬ (([] : List (List Byte × Nat)).any fun e => recMember e.1 = m)) = some 0)
    ∧ atLeastNs 5000000 ((tconvoy 0x20000000 0 3124999 {}).clk.time - 0) = false := by decide +kernel

theorem wit_convoy_tide : (let s := tconvoy 0x40000000 1024 0 { step := some 7 }
      s.convoy.step = some 7 ∧ s.clk.running = true ∧ s.clk.tide % 1024 = 0 ∧ s.groups = []
        ∧ fieldOf (s.rd (convoyP + oSTATUS)) 31 29 = 2 ∧ fieldOf (s.rd (convoyP + oSTATUS)) 23 16 = s.member)
    ∧ (let s := tconvoy 0x40010000 1524 0 { skewSince := some 500 }
       fieldOf (s.rd (convoyP + oSTATUS)) 23 16 ≠ s.member ∧ s.convoy.skewSince = some 500 ∧ 500 + 1024 ≤ s.clk.tide)
    ∧ (0 : Int) ≤ 80 ∧ (80 : Int) < 81 ∧ (-1 : Int) < 0 := by decide +kernel

/-- Port 0 in a state, at a time, with its link. -/
def tjetty (st : Nat) (time : Nat) (x : Link) (c : Convoy) : State :=
  let s := ton [(jettyP 0 + oSTATUS, word (st * 2 ^ 30)), (jettyP 0 + 0x40, 16)]
  { s with link := [(0, x)], convoy := c, clk := { s.clk with time := time } }

/-- A flit of a SEQ and TYPE with its check. -/
def tflit (seq typ : Nat) : List Byte :=
  let l := leBytes 2 seq ++ leBytes 2 0 ++ leBytes 1 typ ++ List.replicate 243 0
  l ++ leBytes 8 (crc64 l)

theorem wit_flits : (tjetty 1 0 {} {}).linkState 0 = 1 ∧ (tjetty 2 0 {} {}).linkState 0 = 2 ∧ (tjetty 3 0 {} {}).linkState 0 = 3
    ∧ 0 < (tjetty 1 0 {} {}).build.jetties ∧ (tjetty 1 0 {} {}).build.legal = true ∧ (tjetty 1 0 {} {}).awake = true
    ∧ (tjetty 1 0 {} {}).convoy.outbox = [] ∧ flitGood (tflit 0 0) = true ∧ flitGood (patchAt (tflit 0 0) 0 [1]) = false
    ∧ (tjetty 1 0 {} {}).flitDetail 0 (tflit 0 6) = some 0 ∧ flitGood (tflit 0 6) = true
    ∧ (tjetty 1 0 {} {}).flitDetail 0 (tflit 0 1) = none ∧ fieldAt (tflit 0 1) 4 1 = 1
    ∧ (tjetty 1 0 {} {}).flitDetail 0 (tflit 65535 0) = none ∧ seqBehind (fieldAt (tflit 0 0) 0 2) 0 = 0
    ∧ seqBehind (fieldAt (tflit 65535 0) 0 2) 0 = 1 ∧ seqBehind (fieldAt (tflit 32768 0) 0 2) 0 = 32768 := by decide +kernel

/-- Times that have and have not passed: 256 ns, 2 us of RETRY_BOUND 16, 1 us, 32 ns, 1 ms. -/
theorem wit_link_times : (∀ e ∈ [((160 : Nat), (256 : Nat)), (1250, 2000), (625, 1000), (20, 32), (625000, 1000000)],
      atLeastNs e.2 e.1 = true ∧ atLeastNs e.2 (e.1 - 1) = false)
    ∧ atLeastNs (125 * fieldOf ((tjetty 1 1250 { buf := [(0, [], 0)] } {}).rd (jettyP 0 + 0x40)) 7 0) 1250 = true
    ∧ (tjetty 1 20 { unacked := 1 } {}).clk.time - ((tjetty 1 20 { unacked := 1 } {}).getLink 0).unackedAt = 20
    ∧ ((tjetty 1 20 { unacked := 32 } {}).getLink 0).unacked = 32
    ∧ (tjetty 2 0 {} {}).admits .host (jettyP 0 + oCTRL) := by decide +kernel

def tadd : WindowAdd := { src := 1, vc := 0, bol := 3, amount := 5, id := 1, epoch := 0, before := 9 }

/-- A detour fence that ends at 200; an addition with and without an earlier write of its source. -/
theorem wit_fence_add : (∀ z ∈ [(199 : Nat), 200],
      ((tjetty 1 z {} { fences := [(2, 100, 100)] }).convoy.fences.find? fun f => f.1 = 2) = some (2, 100, 100))
    ∧ (∀ e ∈ [((8 : Nat), true), (9, false)],
      let q : QReq := { tfill with id := e.1, reqs := [{ twrite with core := State.foreign, member := some 1 }] }
      let s : State := { tjetty 1 0 {} { adds := [tadd] } with quays := [q] }
      s.convoy.adds = [tadd] ∧ (s.quays.any fun q => decide (q.id < tadd.before) && q.reqs.any fun r =>
        decide (r.core = State.foreign) && r.store && decide (r.member = some tadd.src) && decide (r.slot = tadd.vc)) = e.2) := by
  decide +kernel

/-- A slot for member 1 of two, whose route is port 2, on port 0; and as it comes to port 2. -/
def tslots : State :=
  { tjetty 1 0 {} { routes := [(1, 0x12)] } with reg := (convoyP + 0x40, 0x110100) :: (tjetty 1 0 {} {}).reg }
def tslotFlit : List Byte :=
  let l := leBytes 4 0 ++ [0, 8, 0, 0, 1, 0, 0] ++ List.replicate 237 0
  l ++ leBytes 8 (crc64 l)
def tout : OutSlot := { dst := 1, src := 2, vc := 0, hops := 1, bytes := [], time := 0, rc := 0, via := some 0, last := true }

theorem wit_slot : tslots.linkState 0 = 1 ∧ flitGood tslotFlit = true ∧ tslots.flitDetail 0 tslotFlit = none
    ∧ fieldAt tslotFlit 4 1 = 0 ∧ seqBehind (fieldAt tslotFlit 0 2) 0 = 0 ∧ fieldAt tslotFlit 8 1 ≠ tslots.member
    ∧ fieldAt tslotFlit 10 1 < 7 ∧ tslots.portTo (fieldAt tslotFlit 8 1) = some 2 ∧ fieldAt tslotFlit 5 1 / 8 % 4 = 1
    ∧ tslots.convoy.outbox = [] ∧ tout.via = some 0 ∧ tout.last = true := by decide +kernel

/-! The capture. -/

def tcap (st : Nat) (stamp : Nat) : State :=
  { tctx 2 {} [(captureP + oSTATUS, word (st * 2 ^ 29)), (captureP + 0x40, word stamp), (0x60014, 0x80000000)] with
    ctx := [(0, { regions := [0] })], capStamp := stamp }

/-- A capture that is being released: region 0 is frozen. -/
def treleased : State := (tcap 3 0).modRegion 0 fun x => { x with frozen := true }

/-- A stamp 4,096 and one 4,095 tt ahead; the states of a capture; a word with and without access. -/
theorem wit_capture : (tcap 0 4596).admits .host (captureP + oCTRL) ∧ (tcap 0 4596).capAccepts 0 4596 = true
    ∧ (tcap 0 4595).capAccepts 0 4595 = false ∧ (tcap 0 4596).rd64 (captureP + 0x40) = 4596
    ∧ (tcap 1 4596).capState = 1 ∧ (tcap 1 4596).clk.tide + 4096 ≤ (tcap 1 4596).capStamp
    ∧ (tcap 1 500).capState = 1 ∧ (tcap 1 500).capStamp ≤ (tcap 1 500).localTide 0 ∧ (tcap 1 500).clocked 0 = true
    ∧ ((tcap 1 500).getCtx 0).regions = [0] ∧ ((tcap 1 500).getCtx 0).paired = false ∧ (tcap 1 500).ctxState 0 = 2
    ∧ (tcap 2 0).capState = 2 ∧ (tcap 3 0).capState = 3 ∧ (tcap 3 0).awake = true ∧ treleased.capState = 3
    ∧ (treleased.getRegion 0).frozen = true ∧ (tcap 0 0).testEn = false
    ∧ (tcap 0 0).instrumentWord (.berth 0 2 16383) = some (0, 0) ∧ (tcap 0 0).instrumentWord (.chart 1055 8191) = some (15, 0)
    ∧ (tcap 0 0).granted 0 = false ∧ ({ tcap 0 0 with testEn := true } : State).granted 0 = true := by decide +kernel

/-! Whole-machine statements. -/

/-- Commands that may leave the memories outside as they are, and the empty queue; a block that does not serve. -/
theorem wit_memory : (∃ t, exec (.quayLate 0 0 900) (ton []) = .next t) ∧ (ton []).pending = [] ∧ ∃ t, step (ton []) = .next t :=
  ⟨⟨_, rfl⟩, rfl, _, rfl⟩

theorem wit_asleep : (Instr.sqLd ⟨1055, .none⟩).wellFormed State.reset.build = true ∧ State.reset.awake = false := by decide +kernel

end Sys2Proof.Tests
end

section
/-! PROOF. What a command can answer: the frame that each command has, read off its meaning once (log 1, log 3). -/

namespace Sys2Proof.Machine

/-- The four commands that start the clocks anew or move the tide: RESET_N falling, a loss of power, bring-up and the forward
step of a convoy (R374, R447, R342, R414). -/
def setsClk : Instr → Bool
  | .resetAssert | .lossOfPower | .bringUp _ | .tideForwardStep => true
  | _ => false

/-- The outcome of a command that leaves the clocks alone: it stops for want of a part (log 3), or ends in a state whose
clocks, queue and silicon are those of `s`. -/
def Framed (s : State) (o : Out) : Prop := o = .fault .absentPart ∨ ∃ u, o = .next (s.framed u)

/-- The outcome of any command: it stops for want of a part (log 3), or ends in a state whose queue and silicon are those of
`s`. -/
def Kept (s : State) (o : Out) : Prop := o = .fault .absentPart ∨ ∃ u c, o = .next { s.keep u with clk := c }

section
variable (s : State) (f : State → State) (p : Bool)

theorem framed_actRaw : Framed s (actRaw f s) := .inr ⟨_, rfl⟩

theorem framed_act : Framed s (act f s) := framed_actRaw s _

theorem framed_actAt : Framed s (actAt p f s) := by
  cases p with
  | true => exact framed_act s f
  | false => exact .inl rfl

theorem framed_actRawAt : Framed s (actRawAt p f s) := by
  cases p with
  | true => exact framed_actRaw s f
  | false => exact .inl rfl

theorem framed_actCore (k : Nat) : Framed s (actCore k p f s) := framed_actAt s _ p

theorem framed_actRegion (r : Nat) : Framed s (actRegion r p f s) := framed_actAt s _ p

end

theorem Framed.kept {s : State} {o : Out} (h : Framed s o) : Kept s o := h.imp_right fun ⟨u, hu⟩ => ⟨u, s.clk, hu⟩

/-- Every command but the four leaves the clocks alone: by the frame in which its meaning stands. -/
theorem exec_framed (i : Instr) (s : State) (h : setsClk i = false) : Framed s (exec i s) := by
  cases i with
  -- of the clock of a core
  | sqLd | sqInc | sqDec | sqAddi | sqCmp | sqSkip | sqLoop | mxMm | mxMmMasked | mxSetdim | mxRetire | vxAdd | vxMul
  | vxFma | vxMin | vxMax | vxCmp | vxSel | vxCvt | vxQuant | vxRed | vxCompress | vxExpand | vxMset | vxMlogic | vxWharf
  | vxSent | vxRetire | wharfResultGroup | ldStream | ldGather | stStream | stScatter | stHalo | stPost | streamSlotFree
  | chunkWaitMet | lineRequest | indexWordRead | lineDeposit | chunkComplete | haloDelivery | postWriteArrival | syWait
  | syAdd | sySub | sySignal | syFence | syArrive | retirementBoundOp | signalArrival | fenceProbe | fenceComplete
  | chartScrub | berthScrub | segmentReady | segmentPowerDown | planeSwitch | holdArrival => exact framed_actCore ..
  -- of the clock of a region
  | basinRequest | basinFillComplete | basinScrub | wayUseChange | rangeDone | tideStep => exact framed_actRegion ..
  -- of a part of the build while the block serves
  | mxInject | barrierRelease | bolWrite | bbolValue | bbolAdd | bbolSub | brkArm | chartDataHi | bankModeWrite | brangePin
  | brangeUnpin | brangeEvict | flitArrival | quayShareFrame | frequencyRise | holdReq | resumeTide | resume | tlbInval
  | openCtx | start | destroy | teardownComplete | ctxReplay | bind | unbind | reset | flush | doorbell | itemFetch
  | itemComplete | cmdEnd | cmdLaunch | cmdCopy | cmdFill | copyComplete | cmdSignal | cmdWait | cmdIf | cmdLoop | condPoll
  | cmdCall | cmdFence | cmdTimestamp | cmdEnqueue | enqueueDeposit | cmdRegister | cmdRelease | crewLead | legBase | legEnd
  | queueTimeout | quayResponse | quayLate | wloadGo | wharfRecord | wloadDone | coreFaultDetach | pairGateMatch | rebuild
  | configMirrorCheck | synthLockLoss | vreqAck | vreqTimeout | gaugeReading | hersilFlitRx | nak | replayTimeout
  | jettyRetry | keepalive | jettyDark | restart | vreqAckFall | idleForAck | restartExpiry | lowerVreq =>
    exact framed_actAt ..
  -- of the block while it serves
  | capInject | blockBollardUpdate | commitArm | commitCancel | commitApply | ledgerRecord | crewTrap | crewHang | stage
  | updateChecked | activate | updateActivation | confirm | revert | abort | updWindowExpiry | pilotHeartbeat | pilotLost
  | muster | musterDecide | leave | detourFenceEnd | bollardWindowAdd | tideSync | tideSkew | captureArm | captureCancel
  | captureFreeze | captureRelease | captureReleased | flogRead | lifelineToggle | pilotTrap | pilotSramUe =>
    exact framed_act ..
  -- whatever BOOT STATE is
  | chartDataLoRead | quayLatMaxRead | winData | linkUp => exact framed_actRawAt ..
  | hqReadResponse | hqAresetN | resetRelease | go | slipTransfer | pilotImageComplete | bootParamAddrHi
  | instrumentAccess | testEnRise | flogE0Read | loRead | hiWrite | registerWrite => exact .inr ⟨_, rfl⟩
  | resetAssert | lossOfPower | bringUp | tideForwardStep => exact nomatch h

/-- Every command keeps the queue and the silicon. -/
theorem exec_kept (i : Instr) (s : State) : Kept s (exec i s) := by
  cases h : setsClk i with
  | false => exact (exec_framed i s h).kept
  | true =>
    cases i with
    | resetAssert | lossOfPower | bringUp | tideForwardStep => exact .inr ⟨_, _, rfl⟩
    | _ => exact nomatch h

/-- A command that leaves the clocks alone ends, when it does not stop, in a framed state. -/
theorem exec_next_framed {i : Instr} {s t : State} (h : setsClk i = false) (ht : exec i s = .next t) :
    ∃ u, t = s.framed u := by
  obtain hf | ⟨u, hu⟩ := exec_framed i s h
  · cases hf.symm.trans ht
  · exact ⟨u, Host.Outcome.next.inj (ht.symm.trans hu)⟩

theorem exec_next_kept {i : Instr} {s t : State} (ht : exec i s = .next t) : ∃ u c, t = { s.keep u with clk := c } := by
  obtain hf | ⟨u, c, hu⟩ := exec_kept i s
  · cases hf.symm.trans ht
  · exact ⟨u, c, Host.Outcome.next.inj (ht.symm.trans hu)⟩

/-- Settles O5: by the frame that every meaning ends in. -/
theorem commandsKeepSiliconAndQueue : Obligations.CommandsKeepSiliconAndQueue := by
  intro i s t ht
  obtain ⟨u, c, rfl⟩ := exec_next_kept ht
  exact ⟨rfl, rfl, rfl, rfl, rfl⟩

/-- A flit at a router in a row of the grid that no build has. -/
def strayFlit : Instr := .flitArrival 0 .router 0 32 0 0 false .clean

/-- Refutes O4: the arrival of a flit is well formed as soon as its region exists, but stops when it names a router outside
the grid. -/
theorem not_wellFormedCommandsNeverStop : ¬ Obligations.WellFormedCommandsNeverStop := by
  intro h
  have formed : strayFlit.wellFormed State.reset.build = true := by decide
  have stops : exec strayFlit State.reset = .fault .absentPart := rfl
  obtain ⟨t, ht⟩ := (h strayFlit State.reset).1 formed
  cases stops.symm.trans ht

end Sys2Proof.Machine
end

section
/-! PROOF. The invariant of the clocks (R161, R381): what each command that sets them, and the passage of time, make of
them. -/

namespace Sys2Proof.Machine

/-- The part of `State.Inv` that speaks of the clocks. -/
def Clk.Sound (c : Clk) : Prop :=
  (∀ r, Tab.get 0 c.phase r < 250) ∧ c.quarter < 4 ∧ (c.running = false → c.tide = 0)

theorem inv_iff (s : State) : s.Inv ↔ s.build.legal = true ∧ s.clk.Sound := Iff.rfl

/-- Clocks of which no part of a cycle has begun are sound when the tide is 0 or runs. -/
theorem Clk.sound_fresh (time tide : Nat) (running : Bool) (h : running = false → tide = 0) :
    Clk.Sound { time := time, tide := tide, running := running } :=
  ⟨fun _ => by simp, by simp, h⟩

theorem bringUpClk_sound (s : State) (e : BringUpFindings) (h : s.clk.Sound) : (s.bringUpClk e).Sound := by
  unfold State.bringUpClk
  split
  · exact Clk.sound_fresh _ _ _ (by simp)
  · exact h

/-- A tide that does not run makes no forward step (R414). -/
theorem forwardTide_stopped (s : State) (h : s.clk.running = false) : s.forwardTide = s.clk.tide := by
  unfold State.forwardTide
  split <;> simp [h]

theorem forwardClk_sound (s : State) (h : s.clk.Sound) :
    Clk.Sound { s.clk with tide := if s.awake then s.forwardTide else s.clk.tide } := by
  obtain ⟨hphase, hquarter, htide⟩ := h
  refine ⟨hphase, hquarter, fun hr => ?_⟩
  simp [forwardTide_stopped s hr, htide hr]

/-- What a command that sets the clocks makes of them. -/
theorem exec_setsClk_sound {i : Instr} {s t : State} (hi : setsClk i = true) (ht : exec i s = .next t)
    (h : s.clk.Sound) : t.clk.Sound := by
  cases i with
  | resetAssert => cases ht; exact Clk.sound_fresh _ _ _ (fun _ => rfl)
  | lossOfPower => cases ht; exact Clk.sound_fresh _ _ _ (fun _ => rfl)
  | bringUp e => cases ht; exact bringUpClk_sound s e h
  | tideForwardStep => cases ht; exact forwardClk_sound s h
  | _ => exact nomatch hi

/-- A command keeps the invariant. -/
theorem exec_inv {i : Instr} {s t : State} (ht : exec i s = .next t) (h : s.Inv) : t.Inv := by
  cases hi : setsClk i with
  | false => obtain ⟨u, rfl⟩ := exec_next_framed hi ht; exact h
  | true =>
    refine ⟨?_, exec_setsClk_sound hi ht h.2⟩
    obtain ⟨u, c, rfl⟩ := exec_next_kept ht
    exact h.1

/-- A region clock carries whole cycles into its count, so that fewer than 250 parts remain (R381). -/
theorem advanceRegion_inv (s : State) (r : Nat) (h : s.Inv) : (s.advanceRegion r).Inv := by
  unfold State.advanceRegion
  split
  · obtain ⟨hbuild, hphase, hquarter, htide⟩ := h
    refine ⟨hbuild, fun q => ?_, hquarter, htide⟩
    dsimp only
    rw [Tab.get_put]
    split
    · exact Nat.mod_lt _ (by decide)
    · exact hphase q
  · exact h

/-- The clocks a quarter of a tick later, but for the region clocks (R161). -/
def State.quarterLater (s : State) : State :=
  let n : Nat := if s.clk.quarter < 3 then 0 else 1
  { s with clk := { s.clk with
    quarter := if s.clk.quarter < 3 then s.clk.quarter + 1 else 0,
    time := s.clk.time + n, tide := s.clk.tide + n * s.clk.running.toNat } }

theorem tickClk_eq (s : State) :
    s.tickClk = if s.quarterLater.awake then (List.range s.build.regions).foldl State.advanceRegion s.quarterLater
      else s.quarterLater := rfl

/-- The quarters of a tick stay below 4, and only a tide that runs counts (R161). -/
theorem quarterLater_inv (s : State) (h : s.Inv) : s.quarterLater.Inv := by
  obtain ⟨hbuild, hphase, hquarter, htide⟩ := h
  refine ⟨hbuild, hphase, ?_, fun (hr : s.clk.running = false) => ?_⟩
  · dsimp only [State.quarterLater]; split <;> omega
  · simp [State.quarterLater, hr, htide hr]

theorem tickClk_inv (s : State) (h : s.Inv) : s.tickClk.Inv := by
  rw [tickClk_eq]
  split
  · exact List.foldlRecOn _ _ (quarterLater_inv s h) fun t ht r _ => advanceRegion_inv t r ht
  · exact quarterLater_inv s h

/-- What time brings besides stands in the frame of the clocks. -/
theorem tick_inv (s : State) (h : s.Inv) : s.tick.Inv := tickClk_inv s h

/-- Settles O2. -/
theorem invariantHoldsAtReset : Obligations.InvariantHoldsAtReset :=
  ⟨by decide, Clk.sound_fresh 0 0 false fun _ => rfl⟩

/-- Settles O3: by cases on the queue, a step is the passage of time or a command. -/
theorem everyStepKeepsInvariant : Obligations.EveryStepKeepsInvariant := by
  intro s t h ht
  cases hq : s.pending with
  | nil =>
    cases (step_nil hq).symm.trans ht
    exact tick_inv s h
  | cons i l => exact exec_inv (s := { s with pending := l }) ((step_cons hq).symm.trans ht) h

end Sys2Proof.Machine
end

section
/-! PROOF. Accesses that the window does not answer (R9, R338, R374, R477), and the pages that a build lacks. -/

namespace Sys2Proof.Machine

/-! Pages by address (R450). -/

/-- The groups of pages in the window: place of the first, their number, type code (R450). -/
def pageGroups : List (Nat × Nat × Nat) :=
  [(0x10, 16, 0x10), (0x20, 64, 0x11), (0x60, 16, 0x20), (0x70, 16, 0x21), (0x80, 16, 0x22), (0x90, 16, 0x40),
   (0xA0, 16, 0x41), (0x100, 1088, 0x30)]

theorem pageOf_group {base size code n a : Nat} (hg : (base, size, code) ∈ pageGroups) (hn : n < size)
    (ha : a / 0x1000 = base + n) : pageOf a = (code, n) := by
  simp only [pageGroups, List.mem_cons, List.not_mem_nil, or_false, Prod.mk.injEq] at hg
  simp only [pageOf, ha]
  rcases hg with ⟨rfl, rfl, rfl⟩ | ⟨rfl, rfl, rfl⟩ | ⟨rfl, rfl, rfl⟩ | ⟨rfl, rfl, rfl⟩ | ⟨rfl, rfl, rfl⟩ | ⟨rfl, rfl, rfl⟩
    | ⟨rfl, rfl, rfl⟩ | ⟨rfl, rfl, rfl⟩ <;>
    (repeat rw [if_neg (by omega)]
     rw [if_pos (by omega), Nat.add_sub_cancel_left])

section
variable {n o : Nat} (ho : o < 0x1000)
include ho

theorem pageOf_regionP (hn : n < 16) : pageOf (regionP n + o) = (0x20, n) :=
  pageOf_group (by decide : (0x60, 16, 0x20) ∈ pageGroups) hn (by unfold regionP; omega)

theorem pageOf_basinP (hn : n < 16) : pageOf (basinP n + o) = (0x21, n) :=
  pageOf_group (by decide : (0x70, 16, 0x21) ∈ pageGroups) hn (by unfold basinP; omega)

theorem pageOf_wharfP (hn : n < 16) : pageOf (wharfP n + o) = (0x22, n) :=
  pageOf_group (by decide : (0x80, 16, 0x22) ∈ pageGroups) hn (by unfold wharfP; omega)

theorem pageOf_quayP (hn : n < 16) : pageOf (quayP n + o) = (0x40, n) :=
  pageOf_group (by decide : (0x90, 16, 0x40) ∈ pageGroups) hn (by unfold quayP; omega)

theorem pageOf_jettyP (hn : n < 16) : pageOf (jettyP n + o) = (0x41, n) :=
  pageOf_group (by decide : (0xA0, 16, 0x41) ∈ pageGroups) hn (by unfold jettyP; omega)

theorem pageOf_coreP (hn : n < 1088) : pageOf (coreP n + o) = (0x30, n) :=
  pageOf_group (by decide : (0x100, 1088, 0x30) ∈ pageGroups) hn (by unfold coreP; omega)

end

/-- A page that the build lacks does not answer (R9). -/
theorem answers_absent {s : State} {a code inst : Nat} (hp : pageOf a = (code, inst))
    (h : Build.hasPage s.build code inst = false) : s.answers a = false := by
  simp [State.answers, hp, h]

theorem answers_coreP_absent {s : State} {k o : Nat} (ho : o < 0x1000) (hk : k < 1088) (h : s.build.physCores ≤ k) :
    s.answers (coreP k + o) = false :=
  answers_absent (pageOf_coreP ho hk) (by simp [Build.hasPage, h])

/-- What a read returned stands outside the frame of a command. -/
@[simp] theorem State.framed_give (s : State) (p : Party) (v : Word) : s.framed (s.give p v) = s.give p v := rfl

/-! An address of the window that does not answer. -/

section
variable {s : State} {p : Party} {a : Nat} (ha : a < 0x800000) (hs : s.answers a = false)
include ha hs

theorem write_unanswered (f : State → Option State) : s.write p a f = s := by
  unfold State.write
  rw [if_neg (by omega), if_pos (.inl (by simp [hs]))]

theorem writeCommit_unanswered (ho : a % 0x1000 = oCOMMIT) (v : Word) :
    s.writeCommit p (a / 0x1000 * 0x1000) v = s := by
  have hpage : a / 0x1000 * 0x1000 + oCOMMIT = a := by omega
  unfold State.writeCommit
  simp only [hpage]
  rw [if_neg (by simp [hs])]
  exact write_unanswered ha hs _

theorem regWrite_unanswered (v : Word) : s.regWrite p a v = s := by
  have hmod : a % 2 ^ 24 = a := by omega
  unfold State.regWrite
  simp only [hmod]
  split
  · rfl
  split
  · next h => exact writeCommit_unanswered ha hs h.2 v
  · rw [if_neg (by simp [hs])]
    split
    · rfl
    · exact write_unanswered ha hs _

theorem read_unanswered : s.read p a = s.give p 0 := by
  unfold State.read
  rw [if_neg (by omega), if_pos (.inl (by simp [hs]))]

theorem exec_registerWrite_unanswered (v : Word) : exec (.registerWrite p a v) s = .next s := by
  have h : exec (.registerWrite p a v) s = .next (s.framed (s.regWrite p a v)) := rfl
  rw [h, regWrite_unanswered ha hs v, State.framed_self]

theorem exec_hiWrite_unanswered (v : Word) : exec (.hiWrite p a v) s = .next s := by
  have h : exec (.hiWrite p a v) s = .next (s.framed (if isHi (pageOf (a % 2 ^ 24)).1 (a % 2 ^ 24 % 0x1000)
      ∧ a % 2 ^ 24 % 4 = 0 then s.regWrite p a v else s)) := rfl
  rw [h, regWrite_unanswered ha hs v, ite_self, State.framed_self]

theorem exec_loRead_unanswered : exec (.loRead p a) s = .next (s.give p 0) := by
  have h : exec (.loRead p a) s = .next (s.framed (s.read p (a % 2 ^ 24))) := rfl
  rw [h, Nat.mod_eq_of_lt (by omega), read_unanswered ha hs, State.framed_give]

end

/-! The windows to the memories of a core that the build lacks. -/

section
variable {s : State} {k : Nat} (p : Party) (up : Upset) (hk : k < 1088)
include hk

theorem exec_winData_unanswered (h : s.answers (coreP k + 0x90) = false) :
    (∀ v, exec (.winData p ⟨k, up⟩ (some v)) s = .next s) ∧ exec (.winData p ⟨k, up⟩ none) s = .next (s.give p 0) := by
  have access : ∀ w, exec (.winData p ⟨k, up⟩ w) s = execWinData p ⟨k, up⟩ w s := fun _ => rfl
  simp [access, execWinData, actRawAt, actRaw, hk, h]

theorem exec_chartDataLoRead_unanswered (h : s.answers (coreP k + 0x84) = false) :
    exec (.chartDataLoRead p ⟨k, up⟩) s = .next (s.give p 0) := by
  have read : exec (.chartDataLoRead p ⟨k, up⟩) s = execChartDataLoRead p ⟨k, up⟩ s := rfl
  simp [read, execChartDataLoRead, actRawAt, actRaw, hk, State.rdChartLo, h]

end

/-- A page that the build lacks lies in the window, and nothing on it answers (R9). -/
theorem absent_page {s : State} {page o : Nat} (ho : o < 0x1000)
    (h : (∃ r < 16, s.build.regions ≤ r ∧ (page = regionP r ∨ page = basinP r ∨ page = wharfP r))
      ∨ (∃ m < 16, s.build.quays ≤ m ∧ page = quayP m) ∨ (∃ j < 16, s.build.jetties ≤ j ∧ page = jettyP j)
      ∨ ∃ k < 1088, s.build.physCores ≤ k ∧ page = coreP k) :
    page + o < 0x800000 ∧ s.answers (page + o) = false := by
  obtain ⟨r, hr, habs, rfl | rfl | rfl⟩ | ⟨m, hm, habs, rfl⟩ | ⟨j, hj, habs, rfl⟩ | ⟨k, hk, habs, rfl⟩ := h
  · exact ⟨by unfold regionP; omega, answers_absent (pageOf_regionP ho hr) (by simp [Build.hasPage, habs])⟩
  · exact ⟨by unfold basinP; omega, answers_absent (pageOf_basinP ho hr) (by simp [Build.hasPage, habs])⟩
  · exact ⟨by unfold wharfP; omega, answers_absent (pageOf_wharfP ho hr) (by simp [Build.hasPage, habs])⟩
  · exact ⟨by unfold quayP; omega, answers_absent (pageOf_quayP ho hm) (by simp [Build.hasPage, habs])⟩
  · exact ⟨by unfold jettyP; omega, answers_absent (pageOf_jettyP ho hj) (by simp [Build.hasPage, habs])⟩
  · exact ⟨by unfold coreP; omega, answers_coreP_absent ho hk habs⟩

/-- Settles O28: an absent page does not answer, and an access that is not answered does nothing but return 0. -/
theorem absentPagesReadZero : Obligations.AbsentPagesReadZero := by
  intro p page o v up s ho h
  obtain ⟨ha, hs⟩ := absent_page ho h
  refine ⟨exec_registerWrite_unanswered ha hs v, exec_hiWrite_unanswered ha hs v, exec_loRead_unanswered ha hs,
    fun k hk habs => ?_⟩
  have window := answers_coreP_absent (s := s) (o := 0x90) (by decide) hk habs
  have chart := answers_coreP_absent (s := s) (o := 0x84) (by decide) hk habs
  obtain ⟨writes, reads⟩ := exec_winData_unanswered p up hk window
  exact ⟨writes v, reads, exec_chartDataLoRead_unanswered p up hk chart⟩

end Sys2Proof.Machine
end

section
/-! PROOF. Fields of words, and the words that a report of a fault and BOOT_STATUS change (R340, R357, R358). -/

namespace Sys2Proof

/-! Fields of a word. -/

theorem testBit_fieldOf {w : Nat} (v : BitVec w) (hi lo i : Nat) :
    (fieldOf v hi lo).testBit i = (decide (i < hi + 1 - lo) && v.getLsbD (lo + i)) := by
  simp [fieldOf, Nat.testBit_mod_two_pow, Nat.testBit_shiftRight, BitVec.getLsbD]

theorem getLsbD_setField {w : Nat} (v : BitVec w) (hi lo x j : Nat) (hj : j < w) :
    (setField v hi lo x).getLsbD j = if lo ≤ j ∧ j < hi + 1 then x.testBit (j - lo) else v.getLsbD j := by
  have mask : (BitVec.ofNat w ((2 ^ (hi + 1 - lo) - 1) <<< lo)).getLsbD j = decide (lo ≤ j ∧ j < hi + 1) := by
    rw [BitVec.getLsbD_ofNat, Nat.testBit_shiftLeft, Nat.testBit_two_pow_sub_one, Bool.eq_iff_iff]
    simp only [hj, decide_true, Bool.true_and, Bool.and_eq_true, decide_eq_true_eq]
    omega
  have put : (BitVec.ofNat w (x <<< lo)).getLsbD j = (decide (lo ≤ j) && x.testBit (j - lo)) := by
    rw [BitVec.getLsbD_ofNat, Nat.testBit_shiftLeft]
    simp [hj]
  simp only [setField, BitVec.getLsbD_or, BitVec.getLsbD_and, BitVec.getLsbD_not, mask, put, hj, decide_true, Bool.true_and]
  split
  · next h => simp [h]
  · next h => rw [decide_eq_false h]; simp

/-- A field reads as what was put into it. -/
theorem fieldOf_setField {w : Nat} (v : BitVec w) {hi lo : Nat} (x : Nat) (hw : hi < w) :
    fieldOf (setField v hi lo x) hi lo = x % 2 ^ (hi + 1 - lo) := by
  refine Nat.eq_of_testBit_eq fun i => ?_
  rw [testBit_fieldOf, Nat.testBit_mod_two_pow]
  by_cases h : i < hi + 1 - lo
  · rw [getLsbD_setField v hi lo x (lo + i) (by omega), if_pos (by omega), Nat.add_sub_cancel_left]
  · simp [h]

/-- A field reads as before when a field apart from it is put. -/
theorem fieldOf_setField_apart {w : Nat} (v : BitVec w) {hi lo hi' lo' : Nat} (x : Nat) (hw : hi' < w)
    (h : hi' < lo ∨ hi < lo') : fieldOf (setField v hi lo x) hi' lo' = fieldOf v hi' lo' := by
  refine Nat.eq_of_testBit_eq fun i => ?_
  rw [testBit_fieldOf, testBit_fieldOf]
  by_cases hi' : i < hi' + 1 - lo'
  · rw [getLsbD_setField v hi lo x (lo' + i) (by omega), if_neg (by omega)]
  · simp [hi']

namespace Machine.State

/-! The words that a report of a fault changes. -/

/-- An entry of the log changes no register outside the FAULT page. -/
theorem rd_logEntry (s : State) (p c : Nat) (i : Word) (x : Option Nat) (o : Nat) {a : Nat} (h : a / 0x1000 ≠ 5) :
    (s.logEntry p c i x o).rd a = s.rd a := by
  have off : ∀ d < 0x1000, faultP + d ≠ a := fun d hd => by unfold faultP; omega
  have counted : ∀ (t : State) d n, d < 0x1000 → (t.count (faultP + d) n).rd a = t.rd a := fun t d n hd =>
    rd_count_ne t n (off d hd)
  have raised : ∀ (t : State) b, (t.event faultP b).rd a = t.rd a := fun t b => rd_event_ne t b (off _ (by decide))
  have written : ∀ (t : State) d v, d < 0x1000 → (t.wr (faultP + d) v).rd a = t.rd a := fun t d v hd =>
    rd_wr_ne t v (off d hd)
  have bare : ∀ g, ({ s with flog := g } : State).rd a = s.rd a := fun _ => rfl
  unfold logEntry
  dsimp only
  simp only [apply_ite (fun t : State => t.rd a), raised, written _ 0x40 _ (by decide), written _ 0x78 _ (by decide),
    counted _ 0x58 _ (by decide), bare, ite_self]

theorem rd_logFault (s : State) (p c : Nat) (i : Word) (x : Option Nat) (o : Nat) {a : Nat} (h : a / 0x1000 ≠ 5) :
    (s.logFault p c i x o).rd a = s.rd a := by
  unfold logFault
  split
  · dsimp only
    split
    · rfl
    · exact rd_logEntry _ p c i x o h
  · exact rd_logEntry s p c i x o h

/-- A report changes FAULT_CODE, FAULT_INFO and EVENT of its page. -/
theorem rd_recordFault_ne (s : State) (p c : Nat) (i : Word) {a : Nat} (hc : p + oFCODE ≠ a) (hi : p + oFINFO ≠ a)
    (he : p + oEVENT ≠ a) : (s.recordFault p c i).rd a = s.rd a := by
  unfold recordFault
  dsimp only
  split
  · rw [rd_wr_ne _ _ hi, rd_wr_ne _ _ hc]
  · rw [rd_event_ne _ _ he, rd_wr_ne _ _ hi, rd_wr_ne _ _ hc]

theorem rd_raise_ne (s : State) (p c : Nat) (i : Word) (x : Option Nat) (o : Nat) {a : Nat} (h : a / 0x1000 ≠ 5)
    (hc : p + oFCODE ≠ a) (hi : p + oFINFO ≠ a) (he : p + oEVENT ≠ a) : (s.raise p c i x o).rd a = s.rd a :=
  (rd_logFault _ p c i x o h).trans (rd_recordFault_ne s p c i hc hi he)

/-- The page shows the code of the fault that it reports (R357). -/
theorem faultCode_recordFault (s : State) (p c : Nat) (i : Word) : (s.recordFault p c i).faultCode p = c % 2 ^ 12 := by
  have hi : p + oFINFO ≠ p + oFCODE := by simp [oFINFO, oFCODE]
  have he : p + oEVENT ≠ p + oFCODE := by simp [oEVENT, oFCODE]
  have low : ∀ n, fieldOf (word (n * 2 ^ 16 + c % 2 ^ 12)) 11 0 = c % 2 ^ 12 := fun n => by
    simp only [fieldOf, word, BitVec.toNat_ofNat, Nat.shiftRight_zero]
    omega
  unfold faultCode recordFault
  dsimp only
  split
  · rw [rd_wr_ne _ _ hi, rd_wr_self, low]
  · rw [rd_event_ne _ _ he, rd_wr_ne _ _ hi, rd_wr_self, low]

theorem faultCode_raise (s : State) (p c : Nat) (i : Word) (x : Option Nat) (o : Nat) (h : (p + oFCODE) / 0x1000 ≠ 5) :
    (s.raise p c i x o).faultCode p = c % 2 ^ 12 := by
  have kept : (s.raise p c i x o).faultCode p = (s.recordFault p c i).faultCode p := by
    unfold faultCode
    rw [← rd_logFault (s.recordFault p c i) p c i x o h]
    rfl
  rw [kept, faultCode_recordFault]

theorem faultCode_congr {s t : State} {p : Nat} (h : s.rd (p + oFCODE) = t.rd (p + oFCODE)) :
    s.faultCode p = t.faultCode p := by unfold faultCode; rw [h]

/-! BOOT_STATUS. -/

/-- A word of the window but BOOT_STATUS and BOOT's EVENT is as before. -/
theorem rd_setBoot_ne (s : State) (st : Nat) {a : Nat} (hs : bootP + oSTATUS ≠ a) (he : bootP + oEVENT ≠ a) :
    (s.setBoot st).rd a = s.rd a := by
  unfold setBoot
  dsimp only
  split
  · rw [rd_event_ne _ _ he, rd_wrField_ne _ _ _ _ hs]
  · rw [rd_wrField_ne _ _ _ _ hs]

theorem rd_setBoot_status (s : State) (st : Nat) :
    (s.setBoot st).rd (bootP + oSTATUS) = setField (s.rd (bootP + oSTATUS)) 31 28 st := by
  unfold setBoot
  dsimp only
  split
  · rw [rd_event_ne _ _ (by decide), rd_wrField_self]
  · rw [rd_wrField_self]

theorem bootState_setBoot (s : State) (st : Nat) : (s.setBoot st).bootState = st % 16 := by
  unfold bootState
  rw [rd_setBoot_status]
  exact fieldOf_setField _ st (by decide)

/-- BOOT_STATUS keeps the other fields when STATE changes. -/
theorem bootField_setBoot (s : State) (st : Nat) {hi lo : Nat} (h : hi < 28) :
    fieldOf ((s.setBoot st).rd (bootP + oSTATUS)) hi lo = fieldOf (s.rd (bootP + oSTATUS)) hi lo := by
  rw [rd_setBoot_status, fieldOf_setField_apart _ _ (by omega) (.inl h)]

/-- A boot fault stands in ERR and in FAULT_CODE (R338, R340). -/
theorem bootFault_err (s : State) (c : Nat) (i : Word) (o : Nat) :
    fieldOf ((s.bootFault c i o).rd (bootP + oSTATUS)) 27 16 = c % 2 ^ 12 := by
  have err : fieldOf ((s.bootErr c).rd (bootP + oSTATUS)) 27 16 = c % 2 ^ 12 := by
    rw [bootErr, rd_wrField_self, fieldOf_setField _ _ (by decide)]
  unfold bootFault
  dsimp only
  split
  · rw [rd_raise_ne _ _ _ _ _ _ (by decide) (by decide) (by decide) (by decide), err]
  · rw [rd_recordFault_ne _ _ _ _ (by decide) (by decide) (by decide), err]

theorem bootFault_faultCode (s : State) (c : Nat) (i : Word) (o : Nat) : (s.bootFault c i o).faultCode bootP = c % 2 ^ 12 := by
  unfold bootFault
  dsimp only
  split
  · exact faultCode_raise _ _ _ _ _ _ (by decide)
  · exact faultCode_recordFault _ _ _ _

/-- A boot fault changes no word outside the pages BOOT and FAULT. -/
theorem rd_bootFault_ne (s : State) (c : Nat) (i : Word) (o : Nat) {a : Nat} (h0 : a / 0x1000 ≠ 0) (h5 : a / 0x1000 ≠ 5) :
    (s.bootFault c i o).rd a = s.rd a := by
  have off : ∀ d < 0x1000, bootP + d ≠ a := fun d hd => by unfold bootP; omega
  have err : (s.bootErr c).rd a = s.rd a := rd_wrField_ne _ _ _ _ (off _ (by decide))
  unfold bootFault
  dsimp only
  split
  · rw [rd_raise_ne _ _ _ _ _ _ h5 (off _ (by decide)) (off _ (by decide)) (off _ (by decide)), err]
  · rw [rd_recordFault_ne _ _ _ _ (off _ (by decide)) (off _ (by decide)) (off _ (by decide)), err]

theorem setBoot_log (s : State) (st : Nat) : LogOnly s (s.setBoot st) := by
  have h := (LogOnly.refl s).wr (bootP + oSTATUS) (setField (s.rd (bootP + oSTATUS)) 31 28 st)
  exact (h.event bootP 0).ite h

theorem bootFault_log (s : State) (c : Nat) (i : Word) (o : Nat) : LogOnly s (s.bootFault c i o) := by
  have err : LogOnly s (s.bootErr c) := (LogOnly.refl s).wr _ _
  exact ((err.trans (recordFault_log _ bootP c i)).trans (logFault_log _ bootP c i none o)).ite
    (err.trans (recordFault_log _ bootP c i))

end Machine.State
end Sys2Proof
end

section
/-! PROOF. The states that reset, loss of power and TEST_EN leave (R338, R354, R374, R447, R489). -/

namespace Sys2Proof.Machine
namespace State

/-! The rise of RESET_N (R338, R343). -/

/-- RESET_N is high and SLIP_MODE sampled (R423). -/
def released (s : State) (mode : BitVec 2) : State :=
  ({ s with inReset := false, slipMode := mode }).wrField (slipP + oSTATUS) 28 27 mode.toNat

theorem resetRelease_eq {s : State} (mode : BitVec 2) (ok : Bool) (h : s.inReset = true) :
    s.resetRelease mode ok = if s.testEn then (s.released mode).setBoot 0xF
      else if ok then (s.released mode).setBoot 1 else ((s.released mode).bootFault 0x721).setBoot 6 :=
  if_neg (not_not_intro h)

section
variable {s : State} (mode : BitVec 2) (ok : Bool) (h : s.inReset = true)
include h

theorem resetRelease_log : LogOnly (s.released mode) (s.resetRelease mode ok) := by
  rw [resetRelease_eq mode ok h]
  exact (setBoot_log _ _).ite ((setBoot_log _ _).ite ((bootFault_log _ _ _ _).trans (setBoot_log _ _)))

theorem resetRelease_slipStatus :
    fieldOf ((s.resetRelease mode ok).rd (slipP + oSTATUS)) 28 27 = mode.toNat := by
  have sampled : fieldOf ((s.released mode).rd (slipP + oSTATUS)) 28 27 = mode.toNat := by
    rw [released, rd_wrField_self, fieldOf_setField _ _ (by decide)]
    exact Nat.mod_eq_of_lt mode.isLt
  have boot : ∀ (t : State) n, (t.setBoot n).rd (slipP + oSTATUS) = t.rd (slipP + oSTATUS) := fun t n =>
    rd_setBoot_ne t n (by decide) (by decide)
  rw [resetRelease_eq mode ok h]
  split
  · rw [boot, sampled]
  · split
    · rw [boot, sampled]
    · rw [boot, rd_bootFault_ne _ _ _ _ (by decide) (by decide), sampled]

theorem resetRelease_bootState :
    (s.resetRelease mode ok).bootState = if s.testEn then 15 else if ok then 1 else 6 := by
  rw [resetRelease_eq mode ok h]
  split
  · exact bootState_setBoot _ _
  · split <;> exact bootState_setBoot _ _

/-- A failed self-test is 0x721 (R343). -/
theorem resetRelease_failed (ht : s.testEn = false) :
    (s.resetRelease mode false).faultCode bootP = 0x721
      ∧ fieldOf ((s.resetRelease mode false).rd (bootP + oSTATUS)) 27 16 = 0x721 := by
  have e : s.resetRelease mode false = ((s.released mode).bootFault 0x721).setBoot 6 := by
    simp [resetRelease_eq mode false h, ht]
  rw [e]
  constructor
  · rw [faultCode_congr (rd_setBoot_ne _ _ (by decide) (by decide)), bootFault_faultCode]; rfl
  · rw [bootField_setBoot _ _ (by decide), bootFault_err]; rfl

end

/-! QUIET (R374). -/

/-- The clock of a region stops. -/
def stopClock (s : State) (r : Nat) : State := s.modRegion r fun x => { x with clockOn := false }

theorem foldl_stopClock (l : List Nat) (s : State) : ∃ g, l.foldl stopClock s = { s with region := g } :=
  List.foldlRecOn (motive := fun t => ∃ g, t = { s with region := g }) l stopClock ⟨s.region, rfl⟩
    fun t ⟨_, ht⟩ r _ => ⟨(stopClock t r).region, by subst ht; rfl⟩

theorem clockOn_foldl_stopClock {r : Nat} (l : List Nat) (s : State) (h : r ∈ l ∨ (s.getRegion r).clockOn = false) :
    ((l.foldl stopClock s).getRegion r).clockOn = false := by
  induction l generalizing s with
  | nil => simpa using h
  | cons q l ih =>
    refine ih _ ?_
    by_cases hq : q = r
    · right; rw [hq, stopClock, getRegion_modRegion_self]
    · rw [stopClock, getRegion_modRegion_ne _ _ hq]
      simpa [Ne.symm hq] using h

/-- What QUIET leaves but for STATE: no manager port has work, and the regions are `g`. -/
def muted (s : State) (g : Tab Region) : State :=
  { s with region := g, quiet := true, lifeline := false, quays := [], remote := [], wload := [],
           convoy := { s.convoy with outbox := [] } }

/-- QUIET stops every region clock, and STATE is QUIET unless it is FAILED. -/
theorem quietAssert_eq (s : State) : ∃ g, (∀ r < s.build.regions, (Tab.get {} g r).clockOn = false)
    ∧ s.quietAssert = if s.bootState = 6 then s.muted g else (s.muted g).setBoot 0xF := by
  obtain ⟨g, hg⟩ := foldl_stopClock (List.range s.build.regions) s
  refine ⟨g, fun r hr => ?_, ?_⟩
  · have off := clockOn_foldl_stopClock (List.range s.build.regions) s (.inl (List.mem_range.2 hr))
    rw [hg] at off
    exact off
  · unfold quietAssert
    unfold stopClock at hg
    simp only [hg]
    rfl

/-! The rise of TEST_EN (R489, R490). -/

/-- TEST_EN is high, and the SRAMs and the ledger key are cleared. -/
def keyless (s : State) : State :=
  { s with testEn := true,
           pilot := { s.pilot with ledgerKey := [], pilotImage := [], crewImage := [], pubkey := [], params := none,
                                   stopped := true } }

/-- A capture is abandoned: STATE of CAP_STATUS is IDLE and no region is frozen. -/
def abandoned (s : State) : State :=
  if fieldOf (s.rd (captureP + oSTATUS)) 31 29 = 0 then s
  else { s.wrField (captureP + oSTATUS) 31 29 0 with region := s.region.map fun e => (e.1, { e.2 with frozen := false }) }

theorem testRise_eq (s : State) :
    s.testRise = if s.inReset then s.keyless.abandoned else s.keyless.abandoned.quietAssert := by
  have reset : s.keyless.abandoned.inReset = s.inReset := by unfold abandoned; split <;> rfl
  rw [← reset]
  rfl

/-- A capture is abandoned in CAP_STATUS and the regions alone. -/
theorem abandoned_log (s : State) :
    ∃ g, LogOnly { s with region := g } s.abandoned ∧ s.abandoned.bootState = s.bootState := by
  unfold abandoned
  split
  · exact ⟨_, .refl s, rfl⟩
  · exact ⟨_, ⟨_, _, _, rfl⟩, congrArg (fun v => fieldOf v 31 28) (rd_wrField_ne s 31 29 0 (by decide))⟩

theorem testRise_inReset {s : State} (h : s.inReset = true) :
    ∃ g, LogOnly { s.keyless with region := g } s.testRise := by
  obtain ⟨g, log, -⟩ := abandoned_log s.keyless
  exact ⟨g, by rwa [testRise_eq, if_pos h]⟩

theorem testRise_outside {s : State} (h : s.inReset = false) :
    ∃ g, (∀ r < s.build.regions, (Tab.get {} g r).clockOn = false) ∧ LogOnly (s.keyless.muted g) s.testRise
      ∧ (s.bootState ≠ 6 → s.testRise.bootState = 15) := by
  obtain ⟨g', ⟨r, f, o, e⟩, boot⟩ := abandoned_log s.keyless
  obtain ⟨g, off, quiet⟩ := quietAssert_eq s.keyless.abandoned
  have rise : s.testRise = s.keyless.abandoned.quietAssert := by rw [testRise_eq, if_neg (by simp [h])]
  have muted_log : LogOnly (s.keyless.muted g) (s.keyless.abandoned.muted g) := by rw [e]; exact ⟨_, _, _, rfl⟩
  rw [e] at off
  refine ⟨g, off, ?_, fun hb => ?_⟩
  · rw [rise, quiet]
    exact muted_log.ite (muted_log.trans (setBoot_log _ _))
  · rw [rise, quiet, if_neg (by rw [boot]; exact hb)]
    exact bootState_setBoot _ _

end State

/-- Settles O50: RESET_N falling and a loss of power by the reset state; the rise of RESET_N and of TEST_EN by what each reports
and mutes. -/
theorem resetAndPower : Obligations.ResetAndPower := by
  intro s
  refine ⟨fun i z hi => ?_, fun mode ok h => ?_, fun mode ok h => ?_, s.framed s.testRise, rfl, ?_⟩
  · simp only [List.mem_cons, List.not_mem_nil, or_false, Prod.mk.injEq] at hi
    obtain ⟨rfl, rfl⟩ | ⟨rfl, rfl⟩ := hi <;>
      exact ⟨_, rfl, rfl, rfl, rfl, rfl, rfl, fun _ => rfl, rfl, rfl, rfl, rfl, rfl, rfl, rfl, rfl, rfl⟩
  · have e : s.resetRelease mode ok = s := if_pos (by simp [h])
    exact congrArg (fun t => Host.Outcome.next (s.framed t)) e
  · refine ⟨s.framed (s.resetRelease mode ok), rfl, ?_⟩
    obtain ⟨r, f, o, e⟩ := State.resetRelease_log mode ok h
    refine ⟨by rw [e]; rfl, by rw [e]; rfl, State.resetRelease_slipStatus mode ok h, State.resetRelease_bootState mode ok h,
      fun ht hok => ?_, ?_⟩
    · subst hok
      exact State.resetRelease_failed mode h ht
    · rw [e]
      exact ⟨rfl, rfl, rfl, rfl, rfl, rfl, rfl, rfl, rfl, rfl⟩
  · cases h : s.inReset with
    | true =>
      obtain ⟨g, r, f, o, e⟩ := State.testRise_inReset h
      rw [e]
      exact ⟨rfl, rfl, rfl, rfl, rfl, ⟨rfl, rfl, rfl, rfl, rfl⟩, nofun⟩
    | false =>
      obtain ⟨g, off, ⟨r, f, o, e⟩, boot⟩ := State.testRise_outside h
      have quiet : s.bootState ≠ 6 → (s.framed s.testRise).bootState = 15 := boot
      rw [e] at quiet ⊢
      exact ⟨rfl, rfl, rfl, rfl, rfl, ⟨rfl, rfl, rfl, rfl, rfl⟩, fun _ => ⟨rfl, rfl, quiet, off⟩⟩

end Sys2Proof.Machine
end

section
/-! PROOF. What the issue, the retirement and the fault of a core leave alone (R47, R167, R223, R326): the rest of the block, the
core's work, and the words of other registers. -/

namespace Sys2Proof.Machine

theorem coreFrame.refl (k : Nat) (s : State) : coreFrame k s s := ⟨fun _ _ => rfl, rfl, rfl, rfl, rfl, rfl, rfl, rfl⟩

theorem coreFrame.trans {k : Nat} {s t u : State} (h : coreFrame k s t) (h' : coreFrame k t u) : coreFrame k s u := by
  obtain ⟨cores, dev, host, region, bbol, clk, build, pending⟩ := h
  obtain ⟨cores', dev', host', region', bbol', clk', build', pending'⟩ := h'
  exact ⟨fun j hj => (cores' j hj).trans (cores j hj), dev'.trans dev, host'.trans host, region'.trans region, bbol'.trans bbol,
    clk'.trans clk, build'.trans build, pending'.trans pending⟩

/-- The frame of a command stays within the core. -/
theorem coreFrame.framed {k : Nat} {s t : State} (h : coreFrame k s t) : coreFrame k s (s.framed t) := by
  obtain ⟨cores, dev, host, region, bbol, -⟩ := h
  exact ⟨cores, dev, host, region, bbol, rfl, rfl, rfl⟩

theorem coreFrame.modCore {k : Nat} {s t : State} (h : coreFrame k s t) (f : Core → Core) : coreFrame k s (t.modCore k f) :=
  h.trans ⟨fun _ hj => State.getCore_modCore_ne t f hj.symm, rfl, rfl, rfl, rfl, rfl, rfl, rfl⟩

theorem State.LogOnly.coreFrame {s t : State} (h : State.LogOnly s t) (k : Nat) : coreFrame k s t := by
  obtain ⟨r, f, o, rfl⟩ := h
  exact .refl k s

/-- `t` is `s` but for what `e` drops of core `k`, for registers outside `R`, and for contexts, queues and the log of faults. -/
structure Within (k : Nat) (e : Core → Core) (R : Nat → Prop) (s t : State) : Prop where
  frame : coreFrame k s t
  core : e (t.getCore k) = e (s.getCore k)
  regs : ∀ a, R a → t.rd a = s.rd a

namespace Within

variable {k : Nat} {e : Core → Core} {R : Nat → Prop} {s t u : State}

theorem refl : Within k e R s s := ⟨.refl k s, rfl, fun _ _ => rfl⟩

theorem trans (h : Within k e R s t) (h' : Within k e R t u) : Within k e R s u :=
  ⟨h.frame.trans h'.frame, h'.core.trans h.core, fun a ha => (h'.regs a ha).trans (h.regs a ha)⟩

theorem ite {c : Prop} [Decidable c] (h : Within k e R s t) (h' : Within k e R s u) : Within k e R s (if c then t else u) := by
  split <;> assumption

/-- Less may be said of the core and of the registers. -/
theorem coarsen {g : Core → Core} {Q : Nat → Prop} (h : Within k e R s t) (hg : ∀ x y, e x = e y → g x = g y)
    (hQ : ∀ a, Q a → R a) : Within k g Q s t :=
  ⟨h.frame, hg _ _ h.core, fun a ha => h.regs a (hQ a ha)⟩

/-- A core that is as before is so for every `e`. -/
theorem unchanged (h : Within k id R s t) : Within k e R s t := ⟨h.frame, congrArg e h.core, h.regs⟩

theorem framed (h : Within k e R s t) : Within k e R s (s.framed t) := ⟨h.frame.framed, h.core, h.regs⟩

/-- A report of a fault, as far as it keeps the registers. -/
theorem logged (h : State.LogOnly s t) (regs : ∀ a, R a → t.rd a = s.rd a) : Within k e R s t := by
  refine ⟨h.coreFrame k, ?_, regs⟩
  obtain ⟨r, f, o, rfl⟩ := h
  rfl

theorem wr (h : Within k e R s t) {a : Nat} (v : Word) (ha : ¬ R a) : Within k e R s (t.wr a v) :=
  h.trans (logged ((State.LogOnly.refl t).wr a v) fun _ hb => State.rd_wr_ne t v fun hab => ha (hab ▸ hb))

theorem count (h : Within k e R s t) {a : Nat} (n : Nat) (ha : ¬ R a) : Within k e R s (t.count a n) := by
  unfold State.count
  exact h.ite (h.wr _ ha)

theorem event (h : Within k e R s t) {p : Nat} (b : Nat) (ha : ¬ R (p + oEVENT)) : Within k e R s (t.event p b) := h.wr _ ha

theorem modCore (h : Within k e R s t) {f : Core → Core} (hf : ∀ x, e (f x) = e x) : Within k e R s (t.modCore k f) :=
  h.trans ⟨(coreFrame.refl k t).modCore f, by rw [State.getCore_modCore_self, hf], fun _ _ => rfl⟩

/-- An engine's record changes. -/
theorem setEng (h : Within k e R s t) {i : Nat} (he : ∀ x l, e { x with eng := l } = e x) (y : Eng) :
    Within k e R s (t.setEng k i y) :=
  h.modCore fun x => he x (Tab.put x.eng i y)

theorem modCtx (h : Within k e R s t) (c : Nat) (f : Ctx → Ctx) : Within k e R s (t.modCtx c f) :=
  h.trans ⟨.refl k t, rfl, fun _ _ => rfl⟩

theorem setQueue (h : Within k e R s t) (q : Nat) (x : Queue) : Within k e R s (t.setQueue q x) :=
  h.trans ⟨.refl k t, rfl, fun _ _ => rfl⟩

end Within

/-- A core without the bookkeeping of its engines' entries: their places, what they wait for and watch, the breakpoint's
hold. -/
def Core.sansIssue (x : Core) : Core :=
  { x with eng := [], watched := [], bound := [], lateRef := 0, brkHold := none }

/-- A core without that bookkeeping, and stopped or not. -/
def Core.sansFault (x : Core) : Core := { x.sansIssue with state := 0 }

/-- A core without what the start of a stream clears (R51, R90, R201). -/
def Core.dropStream (e : Nat) (x : Core) : Core :=
  if e = 0 then { x with ctr := [], cmp := [], ctrOld := [], cmpOld := [] }
  else if e = 1 then { x with tile := 0 }
  else if e = 2 then { x with vregs := {}, mregs := {}, records := 0 }
  else x

/-- A core without the bookkeeping of entries and what the start of a stream clears. -/
def Core.sansStream (e : Nat) (x : Core) : Core := x.sansIssue.dropStream e

/-- The counters of a CORE page that count an engine's own work, but for late events, and no corrected words (R474). -/
def WorkCounter (a : Nat) : Prop :=
  a / 0x1000 ≠ 5 ∧ 0x300 ≤ a % 0x1000 ∧ a % 0x1000 ∉ [0x344, 0x364, 0x368, 0x378]

/-- The words of the pages but those at the offsets `l`. -/
def ButAt (l : List Nat) (a : Nat) : Prop := a % 0x1000 ∉ l

theorem butAt_page {l : List Nat} {p o : Nat} (hp : p % 0x1000 = 0) (ho : o < 0x1000) : ButAt l (p + o) ↔ o ∉ l := by
  have off : (p + o) % 0x1000 = o := by omega
  rw [ButAt, off]

theorem not_butAt_page {l : List Nat} {p o : Nat} (hp : p % 0x1000 = 0) (ho : o < 0x1000 ∧ o ∈ l) : ¬ ButAt l (p + o) :=
  fun h => (butAt_page hp ho.1).1 h ho.2

theorem ctxP_aligned (c : Nat) : ctxP c % 0x1000 = 0 := by unfold ctxP; omega

theorem coreP_aligned (k : Nat) : coreP k % 0x1000 = 0 := by unfold coreP; omega

/-- The words but those of a page's STATUS and EVENT. -/
abbrev NoStatus : Nat → Prop := ButAt [oSTATUS, oEVENT]

/-- The words but those that a breakpoint's trigger writes (R247). -/
abbrev NoTrigger : Nat → Prop := ButAt [oEVENT, 0xA0, 0xAC, 0xB0, 0xB4]

theorem WorkCounter.noStatus {a : Nat} (h : WorkCounter a) : NoStatus a := by
  obtain ⟨-, h, -⟩ := h
  simp only [ButAt, oSTATUS, oEVENT, List.mem_cons, List.not_mem_nil, or_false]
  omega

theorem WorkCounter.noTrigger {a : Nat} (h : WorkCounter a) : NoTrigger a := by
  obtain ⟨-, h, -⟩ := h
  simp only [ButAt, oEVENT, List.mem_cons, List.not_mem_nil, or_false]
  omega

/-- A word of a CORE page is no counter of work when its offset is none. -/
theorem not_workCounter {k o : Nat} (ho : o < 0x300 ∨ o ∈ [0x344, 0x364, 0x368, 0x378]) (hb : o < 0x1000) :
    ¬ WorkCounter (coreP k + o) := by
  have off : (coreP k + o) % 0x1000 = o := by unfold coreP; omega
  rintro ⟨-, h, h'⟩
  rw [off] at h h'
  exact ho.elim (by omega) h'

/-- What keeps a core but for its entries' bookkeeping keeps it but for that and its state. -/
theorem Within.orStopped {k : Nat} {R : Nat → Prop} {s t : State} (h : Within k Core.sansIssue R s t) :
    Within k Core.sansFault R s t :=
  h.coarsen (fun _ _ => congrArg fun x : Core => { x with state := 0 }) fun _ => id

namespace State

/-! Breakpoints (R247). -/

theorem brkTrigger_within (s : State) (k tag line stamp rc : Nat) :
    Within k Core.sansIssue NoTrigger s (s.brkTrigger k tag line stamp rc) := by
  have written : ∀ o, o < 0x1000 ∧ o ∈ [oEVENT, 0xA0, 0xAC, 0xB0, 0xB4] → ¬ NoTrigger (coreP k + o) := fun _ =>
    not_butAt_page (coreP_aligned k)
  unfold brkTrigger
  extract_lets p v s1 s2
  have h1 : Within k Core.sansIssue NoTrigger s s1 := (Within.refl.wr _ (written 0xA0 (by decide))).event _ (written _ (by decide))
  have h2 : Within k Core.sansIssue NoTrigger s s2 :=
    ((h1.wr _ (written 0xAC (by decide))).wr _ (written 0xB0 (by decide))).wr _ (written 0xB4 (by decide))
  split
  · exact h2.ite (h2.modCore fun _ => rfl)
  · exact h2

theorem brkIssue_within (s : State) (k e : Nat) (h : Head) : Within k Core.sansIssue NoTrigger s (s.brkIssue k e h) :=
  (brkTrigger_within s k _ _ _ _).ite .refl

/-- A trigger counts nothing. -/
theorem brkIssue_counters (s : State) (k e : Nat) (h : Head) : Within k Core.sansIssue WorkCounter s (s.brkIssue k e h) :=
  (brkIssue_within s k e h).coarsen (fun _ _ => id) fun _ => WorkCounter.noTrigger

/-! The issue of an entry (R167, R185). -/

theorem lateEvent_within (s : State) (k c e cause ref late : Nat) :
    Within k Core.sansIssue WorkCounter s (s.lateEvent k c e cause ref late) := by
  have off : ∀ o < 0x300, ¬ WorkCounter (coreP k + o) := fun o ho => not_workCounter (.inl ho) (by omega)
  unfold lateEvent
  extract_lets p s1 s2 code info
  have h1 : Within k Core.sansIssue WorkCounter s s1 :=
    (Within.refl.count _ (not_workCounter (o := 0x364) (.inr (by decide)) (by decide))).count _
      (not_workCounter (o := 0x368) (.inr (by decide)) (by decide))
  have h2 : Within k Core.sansIssue WorkCounter s s2 :=
    .ite (.modCore (.wr (h1.wr _ (off 0x6C (by decide))) _ (off 0x70 (by decide))) fun _ => rfl) h1
  refine h2.ite ((h2.event 0 fun h => ?_).trans ((Within.logged (recordFault_log _ p code info) fun a ha => ?_).trans
    (Within.logged (logEntry_log _ p code info _ _) fun a ha => rd_logEntry _ _ _ _ _ _ ha.1)))
  · exact not_butAt_page (ctxP_aligned c) (by decide) h.noStatus
  · have apart : ∀ o < 0x300, p + o ≠ a := fun o ho h => off o ho (h ▸ ha)
    exact rd_recordFault_ne _ _ _ _ (apart _ (by decide)) (apart _ (by decide)) (apart _ (by decide))

theorem issued_within (s : State) (k e : Nat) (h : Head) : Within k Core.sansIssue WorkCounter s (s.issued k e h) := by
  have late : Within k Core.sansIssue WorkCounter s (s.lateIssue k e h) := Within.refl.ite (lateEvent_within s ..)
  have watch : Within k Core.sansIssue WorkCounter s ((s.lateIssue k e h).unwatch k h) := late.ite (late.modCore fun _ => rfl)
  exact watch.setEng (fun _ _ => rfl) _

/-! A report on the page of the core, and a core fault (R47, R326, R357). -/

theorem raise_within (s : State) (k code : Nat) (info : Word) (c : Option Nat) (out : Nat) :
    Within k id WorkCounter s (s.raise (coreP k) code info c out) := by
  refine .logged (raise_log ..) fun a ha => ?_
  have apart : ∀ o < 0x300, coreP k + o ≠ a := fun o ho h => not_workCounter (.inl ho) (by omega) (h ▸ ha)
  exact rd_raise_ne _ _ _ _ _ _ ha.1 (apart _ (by decide)) (apart _ (by decide)) (apart _ (by decide))

theorem rd_raise_info (s : State) (p c : Nat) (i : Word) (x : Option Nat) (o : Nat) (h : (p + oFINFO) / 0x1000 ≠ 5) :
    (s.raise p c i x o).rd (p + oFINFO) = i := by
  have he : p + oEVENT ≠ p + oFINFO := by simp [oEVENT, oFINFO]
  unfold raise
  rw [rd_logFault _ _ _ _ _ _ h]
  unfold recordFault
  dsimp only
  split
  · exact rd_wr_self ..
  · rw [rd_event_ne _ _ he, rd_wr_self]

/-- The core has stopped, unless it had been withdrawn. -/
def stopped (s : State) (k : Nat) : State := s.modCore k fun x => { x with state := if x.state = 3 then 3 else 2 }

theorem endItems_within (s : State) (k c status : Nat) : Within k id NoStatus s (s.endItems c status) := by
  refine List.foldlRecOn _ _ .refl fun t ht q _ => ?_
  unfold endItem
  dsimp only
  split
  · exact ht
  · exact ht.setQueue _ _

theorem loseCtx_within (s : State) (k c code : Nat) (r68 : Bool) : Within k id NoStatus s (s.loseCtx c code r68) := by
  have status := not_butAt_page (l := [oSTATUS, oEVENT]) (ctxP_aligned c) (o := oSTATUS) (by decide)
  have event := not_butAt_page (l := [oSTATUS, oEVENT]) (ctxP_aligned c) (o := oEVENT) (by decide)
  exact (((((endItems_within s k c 1).wr _ status).event 1 event).wr _ status).modCtx c _).ite .refl

/-- A core fault is a report, after which the core has stopped; what follows touches no core and no word but of STATUS and
EVENT. -/
theorem coreFault_stopped (s : State) (k code : Nat) (info : Word) (r68 : Bool) :
    ∃ c out, Within k id NoStatus ((s.raise (coreP k) code info c out).stopped k) (s.coreFault k code info r68) := by
  refine ⟨(s.coreFaultOutcome k code r68).1, (s.coreFaultOutcome k code r68).2, ?_⟩
  unfold coreFault
  generalize s.coreFaultOutcome k code r68 = o
  obtain ⟨c, out⟩ := o
  dsimp -zeta only
  extract_lets s1 s2 upd s3
  have h2 : Within k id NoStatus (s1.stopped k) s2 := Within.refl.event 1 (not_butAt_page (coreP_aligned k) (by decide))
  have h3 : Within k id NoStatus (s1.stopped k) s3 := Within.ite ⟨h2.frame, h2.core, h2.regs⟩ h2
  split
  · exact h3
  · next c =>
    have h4 := h3.modCtx c fun y => { y with failed := if y.failed.contains k then y.failed else y.failed ++ [k] }
    exact (h4.trans (loseCtx_within ..)).ite ((h4.modCtx c _).ite h4)

theorem coreFault_within (s : State) (k code : Nat) (info : Word) (r68 : Bool) :
    Within k Core.sansFault WorkCounter s (s.coreFault k code info r68) := by
  obtain ⟨c, out, after⟩ := coreFault_stopped s k code info r68
  have report : Within k Core.sansFault WorkCounter s (s.raise (coreP k) code info c out) := (raise_within s k code info c out).unchanged
  have stop : Within k Core.sansFault WorkCounter s ((s.raise (coreP k) code info c out).stopped k) := report.modCore fun _ => rfl
  exact stop.trans (after.unchanged.coarsen (fun _ _ => id) fun _ => WorkCounter.noStatus)

/-- The core stops at a fault, unless it had been withdrawn. -/
theorem state_coreFault (s : State) (k code : Nat) (info : Word) (r68 : Bool) :
    ((s.coreFault k code info r68).getCore k).state = if (s.getCore k).state = 3 then 3 else 2 := by
  obtain ⟨c, out, after⟩ := coreFault_stopped s k code info r68
  have same : (s.coreFault k code info r68).getCore k = ((s.raise (coreP k) code info c out).stopped k).getCore k := after.core
  rw [same, stopped, getCore_modCore_self, getCore_raise]

/-- The page of the core shows the code of its fault (R357). -/
theorem faultCode_coreFault (s : State) (k code : Nat) (info : Word) (r68 : Bool) :
    (s.coreFault k code info r68).faultCode (coreP k) = code % 2 ^ 12 := by
  obtain ⟨c, out, after⟩ := coreFault_stopped s k code info r68
  rw [faultCode_congr (after.regs _ ((butAt_page (coreP_aligned k) (by decide)).2 (by decide)))]
  exact faultCode_raise _ _ _ _ _ _ (by unfold coreP oFCODE; omega)

/-- The page of the core shows what its fault reports (R357). -/
theorem faultInfo_coreFault (s : State) (k code : Nat) (info : Word) (r68 : Bool) :
    (s.coreFault k code info r68).rd (coreP k + oFINFO) = info := by
  obtain ⟨c, out, after⟩ := coreFault_stopped s k code info r68
  exact (after.regs _ ((butAt_page (coreP_aligned k) (by decide)).2 (by decide))).trans (rd_raise_info _ _ _ _ _ _ (by unfold coreP oFINFO; omega))

/-! Retirement (R222, R223). -/

theorem startStream_within (s : State) (k e n : Nat) : Within k (Core.sansStream e) (fun _ => False) s (s.startStream k e n) := by
  unfold startStream
  split
  · exact .refl
  · extract_lets now s1 s2 s3
    have h2 : Within k (Core.sansStream e) (fun _ => False) s s2 := (Within.refl.setEng (fun _ _ => rfl) _).wr _ id
    have h3 : Within k (Core.sansStream e) (fun _ => False) s s3 := by
      unfold s3
      split
      · next he => subst he; exact h2.modCore fun _ => rfl
      split
      · next he => subst he; exact (h2.wr _ id).modCore fun _ => rfl
      split
      · next he => subst he; exact (h2.wr _ id).modCore fun _ => rfl
      · exact h2
    unfold fetchEng
    dsimp only
    split
    · exact h3
    split
    · exact h3
    split
    · split
      · exact h3.setEng (fun _ _ => rfl) _
      · exact h3
    · exact h3

theorem promoteEng_within (s : State) (k e : Nat) : Within k (Core.sansStream e) (fun _ => False) s (s.promoteEng k e) :=
  Within.ite (.ite (startStream_within ..) (.ite (Within.refl.setEng (fun _ _ => rfl) _) .refl)) .refl

/-- A retirement changes the bookkeeping of entries, and what a stream that starts behind it clears. -/
theorem retire_within (s : State) (k e num : Nat) (i : Inst) (tag line stamp rc : Nat) :
    Within k (Core.sansStream e) (fun _ => False) s (s.retire k e num i tag line stamp rc) := by
  unfold retire
  extract_lets x s1 a s2 bound same s3 v s4
  have h2 : Within k (Core.sansStream e) (fun _ => False) s s2 := (Within.refl.setEng (fun _ _ => rfl) _).count _ id
  have h3 : Within k (Core.sansStream e) (fun _ => False) s s3 := by
    unfold s3
    split
    · exact h2
    split
    · exact h2
    · exact .ite (h2.modCore fun _ => rfl) h2
  have trigger := (brkTrigger_within s3 k tag line stamp rc).coarsen (g := Core.sansStream e) (Q := fun _ => False)
    (fun _ _ => congrArg (Core.dropStream e)) fun _ => False.elim
  have h4 : Within k (Core.sansStream e) (fun _ => False) s s4 := .ite (h3.trans trigger) h3
  exact h4.trans (promoteEng_within ..)

end State
end Sys2Proof.Machine
end

section
/-! PROOF. A finished run leaves the MXE or the VXE (R65, R75, R76, R99, R102). -/

namespace Sys2Proof.Machine

/-- The berths, chart memory and registers of a core. -/
def Core.berths (x : Core) : Scratch × Scratch × Scratch × Scratch × Scratch × Scratch :=
  (x.wb, x.ab, x.pb, x.chart, x.vregs, x.mregs)

theorem berthsSame_iff {k : Nat} {s t : State} : berthsSame k s t ↔ (t.getCore k).berths = (s.getCore k).berths := by
  simp [berthsSame, Core.berths]

/-- The runs of the MXE and the VXE, the writes on their way, and the berths. -/
def Core.works (x : Core) :
    (List Run × List Run) × (List Landing × List Landing × List Landing) × (Scratch × Scratch × Scratch) :=
  ((x.mx, x.vx), (x.mxLands, x.vxLands, x.ldLands), (x.wb, x.ab, x.pb))

theorem Core.works_sansStream (e : Nat) (x : Core) : (x.sansStream e).works = x.works := by
  unfold Core.sansStream Core.dropStream
  split_ifs <;> rfl

/-- Only a stream of the VXE clears vector and mask registers when it starts (R90). -/
theorem Core.berths_sansStream {e : Nat} (he : e ≠ 2) (x : Core) : (x.sansStream e).berths = x.berths := by
  unfold Core.sansStream Core.dropStream
  split_ifs <;> rfl

/-- Cores that differ in what the start of a stream clears have the same runs, writes on their way and berths. -/
theorem Core.works_of_sansStream {e : Nat} {x y : Core} (h : x.sansStream e = y.sansStream e) :
    (x.mx = y.mx ∧ x.vx = y.vx) ∧ (x.mxLands = y.mxLands ∧ x.vxLands = y.vxLands ∧ x.ldLands = y.ldLands)
      ∧ x.wb = y.wb ∧ x.ab = y.ab ∧ x.pb = y.pb := by
  have same : x.works = y.works := by rw [← works_sansStream e x, h, works_sansStream]
  simpa only [works, Prod.mk.injEq] using same

theorem Core.berths_of_sansStream {e : Nat} (he : e ≠ 2) {x y : Core} (h : x.sansStream e = y.sansStream e) :
    x.berths = y.berths := by rw [← berths_sansStream he x, h, berths_sansStream he]

namespace State

/-- The record that a run with FW 1 writes when it retires, landing at the end of region cycle `now` (R102). -/
def flagLanding (s : State) (k : Nat) (r : Run) : List Landing :=
  match r.record with
  | some i => [⟨s.coreRc k, 1, putsOf ((s.rd (coreP k + 0x50)).toNat + 8 * (i % 64)) (leBytes 4 r.flags.toNat ++ leBytes 4 r.stamp), []⟩]
  | none => []

section
variable {s : State} {k : Nat} {r : Run} {rest : List Run}

/-- The array's due run retires from a core without it. -/
theorem mxRetire_due (hd : dueRun (s.coreRc k) (s.getCore k).mx = some (r, rest)) (hs : (s.getCore k).state = 1) :
    ∃ u : State, s.mxRetire k = u.retire k 1 r.stream r.inst r.tag r.line r.stamp ∧ coreFrame k s u
      ∧ u.getCore k = { s.getCore k with mx := rest } := by
  unfold mxRetire
  rw [if_neg (not_not_intro hs), hd]
  exact ⟨_, rfl, (coreFrame.refl k s).modCore _, getCore_modCore_self ..⟩

/-- The pipe's due run retires from a core without it, to which its record is on its way. -/
theorem vxRetire_due (hd : dueRun (s.coreRc k) (s.getCore k).vx = some (r, rest)) :
    ∃ u : State, s.vxRetire k = u.retire k 2 r.stream r.inst r.tag r.line r.stamp ∧ coreFrame k s u
      ∧ u.getCore k = { s.getCore k with vx := rest, ldLands := (s.getCore k).ldLands ++ s.flagLanding k r } := by
  have leave := (coreFrame.refl k s).modCore fun x => { x with vx := rest }
  unfold vxRetire flagLanding
  rw [hd]
  dsimp only
  cases r.record with
  | none => exact ⟨_, rfl, leave, by simp⟩
  | some i =>
    refine ⟨_, rfl, leave.modCore _, ?_⟩
    unfold berthWrite
    rw [getCore_modCore_self, getCore_modCore_self]
    rfl

end
end State

/-- Settles O14: a due run is taken off its engine, and its retirement touches neither the berths nor a write on its way. -/
theorem engineRunRetires : Obligations.EngineRunRetires := by
  intro core s r rest ⟨hk, ha, hc⟩
  have mx : exec (.mxRetire core) s = .next (s.framed (s.mxRetire core)) := actCore_running (by simpa using hk) ha hc
  have vx : exec (.vxRetire core) s = .next (s.framed (s.vxRetire core)) := actCore_running (by simpa using hk) ha hc
  refine ⟨fun hd hs => ⟨_, mx, ?_⟩, fun hs => ?_, fun hd => ⟨_, vx, ?_⟩⟩
  · obtain ⟨u, retires, leave, taken⟩ := State.mxRetire_due hd hs
    rw [retires]
    obtain ⟨frame, kept, -⟩ := State.retire_within u core 1 r.stream r.inst r.tag r.line r.stamp (u.coreRc core)
    rw [taken] at kept
    obtain ⟨⟨runs, -⟩, ⟨mxLands, -, ldLands⟩, -⟩ := Core.works_of_sansStream kept
    have berths := Core.berths_of_sansStream (by decide) kept
    exact ⟨runs, mxLands, ldLands, berthsSame_iff.2 berths, (leave.trans frame).framed⟩
  · have idle : s.mxRetire core = s := if_pos hs
    rw [mx, idle, State.framed_self]
  · obtain ⟨u, retires, leave, taken⟩ := State.vxRetire_due hd
    rw [retires]
    obtain ⟨frame, kept, -⟩ := State.retire_within u core 2 r.stream r.inst r.tag r.line r.stamp (u.coreRc core)
    rw [taken] at kept
    obtain ⟨⟨-, runs⟩, ⟨-, vxLands, ldLands⟩, wb, ab, pb⟩ := Core.works_of_sansStream kept
    exact ⟨runs, vxLands, ldLands, wb, ab, pb, (leave.trans frame).framed⟩

end Sys2Proof.Machine
end

section
/-! PROOF. A product of the MXE: its issue and entry into the array (R63, R64, R66, R83, R122), and the accumulation of a row
(R70 to R75). -/

namespace Sys2Proof.Machine

/-- The bookkeeping of entries keeps the array's runs and tiles, the state and the berths. -/
theorem Core.works_of_sansIssue {x y : Core} (h : x.sansIssue = y.sansIssue) :
    x.mx = y.mx ∧ x.tile = y.tile ∧ x.state = y.state ∧ x.berths = y.berths := by
  have mx := congrArg Core.mx h
  have tile := congrArg Core.tile h
  have state := congrArg Core.state h
  have berths := congrArg Core.berths h
  exact ⟨mx, tile, state, berths⟩

/-- So does a fault, but for the state. -/
theorem Core.works_of_sansFault {x y : Core} (h : x.sansFault = y.sansFault) :
    x.mx = y.mx ∧ x.tile = y.tile ∧ x.berths = y.berths := by
  have mx := congrArg Core.mx h
  have tile := congrArg Core.tile h
  have berths := congrArg Core.berths h
  exact ⟨mx, tile, berths⟩

/-- A product enters the array: one run more, and its B tiles are counted (R63, R64). -/
def Core.enterMx (run : Run) (b : Nat) (x : Core) : Core := { x with mx := x.mx ++ [run], tile := x.tile + b }

namespace State

/-! The issue. -/

/-- A core whose entry may issue serves (R47, R167). -/
theorem ready_serves {s : State} {k e : Nat} {h : Head} (hr : s.ready k e h = true) : (s.getCore k).state = 1 := by
  simp only [ready, coreIssues, lastInstant, Bool.and_eq_true, Bool.or_eq_true, decide_eq_true_eq] at hr
  grind

theorem readyHead_ready {s : State} {k e op : Nat} {h : Head} (hr : s.readyHead k e op = some h) : s.ready k e h = true := by
  unfold readyHead at hr
  split at hr
  · split at hr
    · next c => cases hr; exact c.2
    · cases hr
  · cases hr

/-- A chart word without an error is used as it is (R229). -/
theorem chartRead_clean {s : State} {k : Nat} {up : Upset} (hc : chartClean up) (f : State → State) :
    s.chartRead k up f = f s := by
  cases up with
  | chartUe w => exact absurd rfl (hc w).1
  | chartCe w => exact absurd rfl (hc w).2
  | _ => rfl

section
variable {s : State} {k op : Nat} {h : Head} {raw : List Byte} {masked : Bool} {up : Upset}

/-- A product whose issue check passes goes on to the array (R66). -/
theorem mxMm_passes (hraw : mxdAt h.prog (fieldOf h.word 55 49) = some raw) (hres : mxReserved raw = false)
    (hform : (MxDesc.of raw).formatFault = none) (hcheck : s.mxCheck k (MxDesc.of raw) (s.mxBatch k h) = .ok) :
    s.mxMm k h masked up = s.mxEnterRun k h (fieldOf h.word 55 49) raw masked up := by
  simp [mxMm, hraw, hres, hform, hcheck]

theorem mxIssue_free (hr : s.readyHead k 1 op = some h) (hfree : s.arrayFree k = true) (hc : chartClean up) :
    mxIssue op masked k up s = ((s.issued k 1 h).mxMm k h masked up).brkIssue k 1 h := by
  unfold mxIssue
  rw [hr]
  dsimp only
  rw [if_pos hfree, chartRead_clean hc]

end

/-! The counters of R83. -/

/-- The counters of R83 count a product. -/
def mxCounted (s : State) (k : Nat) (d : MxDesc) (masked : Bool) : State :=
  let s := (s.count (cnt k 8) 1).count (cnt k 9) d.b
  if !masked && (d.n % d.cls.nt ≠ 0 || d.k % d.cls.kt ≠ 0) then s.count (cnt k 11) 1 else s

theorem mxCounted_log (s : State) (k : Nat) (d : MxDesc) (masked : Bool) : LogOnly s (s.mxCounted k d masked) := by
  have tiles := ((LogOnly.refl s).count (cnt k 8) 1).count (cnt k 9) d.b
  exact (tiles.count (cnt k 11) 1).ite tiles

theorem cnt_inj {k i j : Nat} (h : i ≠ j) : cnt k i ≠ cnt k j := by unfold cnt; omega

/-- MX_INSTR rises by 1, MX_TILES by the tiles, and MX_FALLBACK by 1 for an mx.mm off the tile (R64, R83). -/
theorem rd_mxCounted (s : State) (k : Nat) (raw : List Byte) (masked : Bool) :
    let d := MxDesc.of raw
    let t := s.mxCounted k d masked
    t.rd (cnt k 8) = satAdd (s.rd (cnt k 8)) 1 ∧ t.rd (cnt k 9) = satAdd (s.rd (cnt k 9)) d.b
      ∧ t.rd (cnt k 11) = if masked = false ∧ (d.n % d.cls.nt ≠ 0 ∨ d.k % d.cls.kt ≠ 0) then satAdd (s.rd (cnt k 11)) 1
          else s.rd (cnt k 11) := by
  have some_tile : (MxDesc.of raw).b ≠ 0 := Nat.succ_ne_zero _
  have apart : ∀ i j, i ≠ j → cnt k i ≠ cnt k j := fun _ _ => cnt_inj
  intro d t
  have off : (!masked && (d.n % d.cls.nt ≠ 0 || d.k % d.cls.kt ≠ 0)) = true
      ↔ masked = false ∧ (d.n % d.cls.nt ≠ 0 ∨ d.k % d.cls.kt ≠ 0) := by simp
  have eq : t = if masked = false ∧ (d.n % d.cls.nt ≠ 0 ∨ d.k % d.cls.kt ≠ 0)
      then ((s.count (cnt k 8) 1).count (cnt k 9) d.b).count (cnt k 11) 1 else (s.count (cnt k 8) 1).count (cnt k 9) d.b :=
    if_congr off rfl rfl
  rw [eq]
  split_ifs <;> simp [rd_count_self, apart, d, some_tile]

theorem workCounter_cnt {k i : Nat} (hi : i ∈ [8, 9, 11]) : WorkCounter (cnt k i) := by
  simp only [List.mem_cons, List.not_mem_nil, or_false] at hi
  refine ⟨by unfold cnt coreP; omega, by unfold cnt coreP; omega, ?_⟩
  simp only [List.mem_cons, List.not_mem_nil, or_false, cnt, coreP]
  omega

/-! The entry. -/

theorem berthCe_within (s : State) (k : Nat) : Within k id WorkCounter s (s.berthCe k) :=
  (raise_within s k 0x101 0 none 1).count 1 (not_workCounter (o := 0x344) (.inr (by decide)) (by decide))

section
variable (s : State) (k : Nat) (h : Head) (desc : Nat) (raw : List Byte) (masked : Bool)

/-- A product that reads no double-bit error is counted and enters the array. -/
theorem mxEnterRun_enters {up : Upset} (hup : ∀ b a, up ≠ .berthUe b a) :
    Within k id WorkCounter
      ((s.mxCounted k (MxDesc.of raw) masked).modCore k (Core.enterMx (s.mxRun k h desc raw (mxStop up)) (MxDesc.of raw).b))
      (s.mxEnterRun k h desc raw masked up) := by
  cases up with
  | berthUe b a => exact absurd rfl (hup b a)
  | berthCe b a => exact berthCe_within _ k
  | _ => exact .refl

/-- One that reads a double-bit error is counted and stops the core (R122). -/
theorem mxEnterRun_stops (b a : Nat) : ∃ info,
    s.mxEnterRun k h desc raw masked (.berthUe b a) = (s.mxCounted k (MxDesc.of raw) masked).coreFault k 0x231 info :=
  ⟨_, rfl⟩

end
end State

/-- What the statement on products says of the counters and of the rest (R83). -/
theorem mx_counted {s u t : State} {core : Nat} {raw : List Byte} {masked : Bool}
    (hu : ∀ a, WorkCounter a → u.rd a = s.rd a) (ht : ∀ a, WorkCounter a → t.rd a = (u.mxCounted core (MxDesc.of raw) masked).rd a) :
    let d := MxDesc.of raw
    t.rd (cnt core 8) = satAdd (s.rd (cnt core 8)) 1 ∧ t.rd (cnt core 9) = satAdd (s.rd (cnt core 9)) d.b
      ∧ t.rd (cnt core 11) = if masked = false ∧ (d.n % d.cls.nt ≠ 0 ∨ d.k % d.cls.kt ≠ 0) then satAdd (s.rd (cnt core 11)) 1
          else s.rd (cnt core 11) := by
  have instrs := State.workCounter_cnt (k := core) (i := 8) (by decide)
  have tiles := State.workCounter_cnt (k := core) (i := 9) (by decide)
  have fallbacks := State.workCounter_cnt (k := core) (i := 11) (by decide)
  intro d
  rw [ht _ instrs, ht _ tiles, ht _ fallbacks, ← hu _ instrs, ← hu _ tiles, ← hu _ fallbacks]
  exact State.rd_mxCounted u core raw masked

theorem State.LogOnly.getCore {s t : State} (h : State.LogOnly s t) (k : Nat) : t.getCore k = s.getCore k := by
  obtain ⟨r, f, o, rfl⟩ := h
  rfl

section
variable {s : State} {core : Nat} {h : Head} {desc : Nat} {raw : List Byte} {masked : Bool} {up : Upset}

/-- A product that issues and reads no double-bit error: the array's runs and tiles behind it, and what is as before. -/
theorem mx_entered (hup : ∀ b a, up ≠ .berthUe b a) :
    let u := s.issued core 1 h
    let t := (u.mxEnterRun core h desc raw masked up).brkIssue core 1 h
    (t.getCore core).mx = (s.getCore core).mx ++ [u.mxRun core h desc raw (State.mxStop up)]
      ∧ (t.getCore core).tile = (s.getCore core).tile + (MxDesc.of raw).b
      ∧ (∀ a, WorkCounter a → t.rd a = (u.mxCounted core (MxDesc.of raw) masked).rd a) ∧ berthsSame core s t
      ∧ coreFrame core s t := by
  intro u t
  have issue : Within core Core.sansIssue WorkCounter s u := State.issued_within s core 1 h
  have count := State.mxCounted_log u core (MxDesc.of raw) masked
  obtain ⟨frame, kept, regs⟩ := (State.mxEnterRun_enters u core h desc raw masked hup).unchanged.trans
    (State.brkIssue_counters _ core 1 h)
  rw [State.getCore_modCore_self, count.getCore core] at kept
  obtain ⟨mx, tile, -, berths⟩ := Core.works_of_sansIssue kept
  obtain ⟨mx', tile', -, berths'⟩ := Core.works_of_sansIssue issue.core
  exact ⟨mx.trans (congrArg (· ++ _) mx'), tile.trans (congrArg (· + _) tile'), regs, berthsSame_iff.2 (berths.trans berths'),
    issue.frame.trans (((count.coreFrame core).modCore _).trans frame)⟩

/-- A product that issues and reads a double-bit error: the core has stopped on 0x231, and what is as before (R122). -/
theorem mx_stopped (hr : s.ready core 1 h = true) (b a : Nat) :
    let u := s.issued core 1 h
    let t := (u.mxEnterRun core h desc raw masked (.berthUe b a)).brkIssue core 1 h
    (t.getCore core).mx = (s.getCore core).mx ∧ t.faultCode (coreP core) = 0x231 ∧ (t.getCore core).state = 2
      ∧ (∀ a, WorkCounter a → t.rd a = (u.mxCounted core (MxDesc.of raw) masked).rd a) ∧ berthsSame core s t
      ∧ coreFrame core s t := by
  intro u t
  have issue : Within core Core.sansIssue WorkCounter s u := State.issued_within s core 1 h
  have count := State.mxCounted_log u core (MxDesc.of raw) masked
  obtain ⟨info, stop⟩ := State.mxEnterRun_stops u core h desc raw masked b a
  have fault := State.coreFault_within (u.mxCounted core (MxDesc.of raw) masked) core 0x231 info false
  have brk : Within core Core.sansIssue NoTrigger _ t := State.brkIssue_within _ core 1 h
  have code : t.faultCode (coreP core) = 0x231 := by
    rw [State.faultCode_congr (brk.regs _ ((butAt_page (coreP_aligned core) (by decide)).2 (by decide))), stop]
    exact State.faultCode_coreFault ..
  have state : (t.getCore core).state = 2 := by
    rw [(Core.works_of_sansIssue brk.core).2.2.1, stop, State.state_coreFault, count.getCore core,
      (Core.works_of_sansIssue issue.core).2.2.1, State.ready_serves hr]
    rfl
  obtain ⟨frame, kept, regs⟩ := (stop ▸ fault).trans (State.brkIssue_counters _ core 1 h).orStopped
  rw [count.getCore core] at kept
  obtain ⟨mx, -, berths⟩ := Core.works_of_sansFault (kept.trans issue.orStopped.core)
  exact ⟨mx, code, state, regs, berthsSame_iff.2 berths, issue.frame.trans ((count.coreFrame core).trans frame)⟩

end
/-! A row of a product (R70, R74, R75). -/

section
variable {x : Core} {rc : Nat} {run : Run} {j : MxJob} {w : MxRow}

/-- A product whose rows have all entered takes none in, and loads no weights (R57, R75). -/
theorem mxEnter_past (inject : Bool) (hj : run.mx = some j) (hrc : run.issue + (MxDesc.of j.raw).rowCount + 1 ≤ rc) :
    x.mxEnter rc inject run = (run, {}) := by
  have entered : ¬ rc - run.issue - 1 < (MxDesc.of j.raw).rowCount := by omega
  have loaded : ¬ rc - run.issue < (MxDesc.of j.raw).rowCount := by omega
  have same : { run with mx := some j } = run := by rw [← hj]
  simp [Core.mxEnter, hj, entered, loaded, same]

/-- The only row on its way, of a product that no checker stops, is accumulated when it is due (R74). -/
theorem mxAll_row (hj : run.mx = some j) (hd : run.dead = false) (hs : j.stop = none) (hf : j.flight = [w])
    (hrc : run.issue + w.num + (MxDesc.of j.raw).delay = rc) :
    ∃ runs, x.mxAll rc [] {} [run] = ([(x.mxAccumulate run j [] w).1],
      { flags := (x.mxAccumulate run j [] w).2.1, sats := (x.mxAccumulate run j [] w).2.2 }, runs) := by
  have due : run.due rc = [w] := by simp [Run.due, hj, hd, hf, hrc]
  simp [Core.mxAll, hj, hd, due, Core.mxRows, hs]

/-- The array in the cycle in which that row is due: its landing, flags and saturated writes, and nothing else (R74). -/
theorem mxCycle_row (inject : Bool) (hx : x.mx = [run]) (hl : x.mxLands = []) (hj : run.mx = some j) (hd : run.dead = false)
    (hs : j.stop = none) (hf : j.flight = [w]) (hrc : run.issue + w.num + (MxDesc.of j.raw).delay = rc)
    (hin : run.issue + (MxDesc.of j.raw).rowCount + 1 ≤ rc) :
    ∃ runs, x.mxCycle rc inject = ({ x with mx := runs, mxLands := [(x.mxAccumulate run j [] w).1] },
      { flags := (x.mxAccumulate run j [] w).2.1, sats := (x.mxAccumulate run j [] w).2.2 }) := by
  obtain ⟨runs, all⟩ := mxAll_row (x := x) hj hd hs hf hrc
  have enter : x.mx.map (x.mxEnter rc inject) = [(run, {})] := by rw [hx, List.map_singleton, mxEnter_past inject hj hin]
  refine ⟨runs, ?_⟩
  unfold Core.mxCycle
  simp only [enter, hl, List.map_singleton, all]
  rfl

end

theorem satAdd_zero (v : Word) : satAdd v 0 = v := by
  have := v.isLt
  apply BitVec.eq_of_toNat_eq
  simp only [satAdd, word, BitVec.toNat_ofNat]
  omega

/-- What a cycle of the array without a mismatch makes of the state. -/
theorem State.mxCycle_clean {s : State} {k rc : Nat} {x : Core} {flags : Word} {sats : Nat} (hs : (s.getCore k).state = 1)
    (hm : (s.getCore k).mx ≠ [])
    (h : (s.getCore k).mxCycle rc (bitOf (s.rd (coreP k + 0x4C)) 0) = (x, { flags := flags, sats := sats })) :
    s.mxCycle k rc = ((s.setCore k x).count (cnt k 3) sats).orBits (coreP k + 0x54) flags := by
  unfold State.mxCycle
  rw [if_neg (by simp [hs, hm]), h]
  rfl

/-- The cycle of the array in which a row is due: where it lands, and what is as before (R74, R75, R83). -/
theorem mxCycle_lands {s : State} {core : Nat} {x : Core} {flags : Word} {sats : Nat}
    (hx : ∃ runs, x = { s.getCore core with mx := runs, mxLands := x.mxLands }) :
    let t := ((s.setCore core x).count (cnt core 3) sats).orBits (coreP core + 0x54) flags
    (t.getCore core).mxLands = x.mxLands ∧ t.rd (coreP core + 0x54) = s.rd (coreP core + 0x54) ||| flags
      ∧ t.rd (cnt core 3) = satAdd (s.rd (cnt core 3)) sats ∧ berthsSame core s t ∧ coreFrame core s t := by
  have apart : cnt core 3 ≠ coreP core + 0x54 := by unfold cnt; omega
  have put : ∀ a, (s.setCore core x).rd a = s.rd a := fun _ => rfl
  intro t
  have same : t.getCore core = x := by simp [t]
  have log : State.LogOnly (s.setCore core x) t := ((State.LogOnly.refl _).count _ _).wr _ _
  refine ⟨congrArg Core.mxLands same, ?_, ?_, ?_, ?_⟩
  · rw [State.rd_orBits_self, State.rd_count_ne _ _ apart, put]
  · rw [State.rd_orBits_ne _ _ apart.symm, State.rd_count_self, put]
    split
    · next h => rw [h, satAdd_zero]
    · rfl
  · rw [berthsSame_iff, same]
    obtain ⟨runs, hx⟩ := hx
    rw [hx]
    rfl
  · exact ((coreFrame.refl core s).modCore fun _ => x).trans (log.coreFrame core)

/-- Settles O12: the issue keeps all but bookkeeping, the entry adds the run and counts it, and the row that is due is
accumulated into its landing. -/
theorem matrixProductEntersArray : Obligations.MatrixProductEntersArray := by
  refine ⟨fun core s h raw i masked op up ⟨hk, ha, hclock⟩ hc hi hr hfree hraw hres => ?_,
    fun core rc s run j w hs hm hj hd hstop hl => ?_⟩
  · intro d u hform hcheck counted
    have issue : exec i s = .next (s.framed (State.mxIssue op masked core up s)) := by
      simp only [List.mem_cons, List.not_mem_nil, or_false, Prod.mk.injEq] at hi
      obtain ⟨rfl, rfl, rfl⟩ | ⟨rfl, rfl, rfl⟩ := hi <;> exact actCore_running (by simpa using hk) ha hclock
    rw [State.mxIssue_free hr hfree hc, State.mxMm_passes hraw hres hform hcheck] at issue
    have book := (State.issued_within s core 1 h).regs
    refine ⟨fun hup => ⟨_, issue, ?_⟩, fun b a hup => ⟨_, issue, ?_⟩⟩
    · obtain ⟨mx, tile, regs, berths, frame⟩ := mx_entered (s := s) (core := core) (h := h) (desc := fieldOf h.word 55 49)
        (raw := raw) (masked := masked) hup
      obtain ⟨instrs, tiles, fallbacks⟩ := mx_counted book regs
      exact ⟨mx, tile, instrs, tiles, fallbacks, berths, frame.framed⟩
    · subst hup
      obtain ⟨mx, code, state, regs, berths, frame⟩ := mx_stopped (desc := fieldOf h.word 55 49) (raw := raw) (masked := masked)
        (State.readyHead_ready hr) b a
      obtain ⟨instrs, tiles, fallbacks⟩ := mx_counted book regs
      exact ⟨mx, code, state, instrs, tiles, fallbacks, berths, frame.framed⟩
  · intro d hf hrc hin r t
    obtain ⟨runs, cycle⟩ := mxCycle_row (bitOf (s.rd (coreP core + 0x4C)) 0) hm hl hj hd hstop hf hrc hin
    have clean := State.mxCycle_clean hs (by rw [hm]; exact List.cons_ne_nil _ _) cycle
    obtain ⟨lands, flags, sats, berths, frame⟩ := mxCycle_lands (s := s) (core := core) (flags := r.2.1) (sats := r.2.2)
      (x := { s.getCore core with mx := runs, mxLands := [r.1] }) ⟨runs, rfl⟩
    rw [← clean] at lands flags sats berths frame
    have due : r.1.rc = rc + 1 := by
      have landing : r.1.rc = run.issue + 1 + w.num + d.delay := rfl
      omega
    exact ⟨lands, due, rfl, flags, sats, berths, frame⟩

end Sys2Proof.Machine
end

section
/-! PROOF. Writes of a CORE page: what the window makes of one that it admits (R449, R451, R459), and what each register of a
CORE page does with it (R81, R116, R227, R232, R246, R467). -/

namespace Sys2Proof.Machine

namespace State

/-! Writes that the window admits. -/

theorem awake_of_answers {s : State} {a : Nat} (h : s.answers a = true) (hp : (pageOf a).1 ≠ 1) : s.awake = true := by
  simp only [answers, Bool.and_eq_true, Bool.or_eq_true, decide_eq_true_eq, hp, false_or] at h
  exact h.1.2

/-- What a page makes of a write by the register's answer: it counts one that the register takes, and records 0x600 for one that
it refuses (R451, R460). -/
def answered (s : State) (page : Nat) (r : Option State) : State := r.elim (s.configFault page) fun u => u.accept page

/-- A write that the window admits reaches its register. -/
theorem write_admitted {s : State} {p : Party} {a : Nat} (h : s.admits p a) (f : State → Option State) :
    s.write p a f = s.answered (a / 0x1000 * 0x1000) (f s) := by
  obtain ⟨range, answer, reset, kind, writer⟩ := h
  have reached : ¬ (¬ s.answers a = true ∨ ((pageOf a).1 = 1 ∧ s.inReset = true) ∨ regKind (pageOf a).1 (a % 0x1000) = .none_) := by
    rintro (h | ⟨h, h'⟩ | h)
    · exact h answer
    · exact absurd h' (by rw [reset h]; decide)
    · exact kind h
  unfold write
  rw [if_neg (by omega), if_neg reached, if_neg (by simp [writer])]
  cases f s <;> rfl

theorem answered_none (s : State) (page : Nat) : s.answered page none = s.configFault page := rfl

theorem answered_some (s u : State) (page : Nat) : s.answered page (some u) = u.accept page := rfl

theorem faultCode_framed (s t : State) (page : Nat) : (s.framed t).faultCode page = t.faultCode page := rfl

theorem getCore_accept (s : State) (page j : Nat) : (s.accept page).getCore j = s.getCore j := rfl

theorem getCore_setSel (s : State) (p : Party) (a : Nat) (v : Word) (j : Nat) : (s.setSel p a v).getCore j = s.getCore j := rfl

theorem accept_log (s : State) (page : Nat) : LogOnly s (s.accept page) := (LogOnly.refl s).wr _ _

theorem rd_accept_ne (s : State) {page a : Nat} (h : page + oSEQ ≠ a) : (s.accept page).rd a = s.rd a := rd_wr_ne s _ h

end State

/-- A command that writes a word of a CORE page. -/
theorem coreWrite_admitted {s : State} {p : Party} {k o : Nat} {present : Bool} (hp : present = true) (hk : k < 1088)
    (ho : o < 0x1000) (h : s.admits p (coreP k + o)) (f : State → Option State) :
    actAt present (fun s => s.write p (coreP k + o) f) s = .next (s.framed (s.answered (coreP k) (f s))) := by
  have page : (coreP k + o) / 0x1000 * 0x1000 = coreP k := by unfold coreP; omega
  have awake := State.awake_of_answers h.2.1 (by simp [pageOf_coreP ho hk])
  rw [hp, actAt_present, act_awake awake, State.write_admitted h, page]

theorem berthsSame.of_core {k : Nat} {s t : State} {y : Core} (h : t.getCore k = y) (hy : y.berths = (s.getCore k).berths) :
    berthsSame k s t := berthsSame_iff.2 ((congrArg Core.berths h).trans hy)

/-- A page that counts a write keeps the frame of the core. -/
theorem coreFrame.accepted {k page : Nat} {s u : State} (h : coreFrame k s u) : coreFrame k s (s.framed (u.accept page)) :=
  (h.trans ((State.accept_log u page).coreFrame k)).framed

theorem berthsSame.framed {k : Nat} {s t : State} (h : berthsSame k s t) : berthsSame k s (s.framed t) := h

/-! Bollards, the breakpoint, the bank mapping and error injection. -/

/-- The word that a write of BRK_CTRL stores (R246): its fields, and HIT and ARM. -/
theorem brkWord_fields {m : Nat} (hm : m < 2 ^ 7) (hit arm : Bool) :
    let w := word (m * 2 ^ 25 + hit.toNat * 2 ^ 24 + arm.toNat)
    fieldOf w 31 25 = m ∧ bitOf w 24 = hit ∧ bitOf w 0 = arm := by
  have hits := hit.toNat_le
  have arms := arm.toNat_le
  intro w
  have value : w.toNat = m * 2 ^ 25 + hit.toNat * 2 ^ 24 + arm.toNat := by
    simp only [w, word, BitVec.toNat_ofNat]
    omega
  have bit : ∀ (i : Nat) (b : Bool), w.toNat / 2 ^ i % 2 = b.toNat → bitOf w i = b := fun i b h => by
    rw [bitOf, BitVec.getLsbD, Nat.testBit_eq_decide_div_mod_eq, h]
    cases b <;> rfl
  exact ⟨by simp only [fieldOf, value, Nat.shiftRight_eq_div_pow]; omega, bit _ _ (by omega), bit _ _ (by omega)⟩

section
variable {s : State} {p : Party} {core : Nat} (v : Word) (hk : core < 1088)
include hk

/-- A write of BOL_b joins the updates of its region cycle (R232). -/
theorem bolWrite_joins {b : Nat} (hb : b < 64) (h : s.admits p (coreP core + 0x200 + 4 * b)) :
    ∃ t, exec (.bolWrite p core b v) s = .next t
      ∧ (t.getCore core).bolOps = (s.getCore core).bolOps ++ [⟨b, false, v.toNat, State.bolWritten, 0xFFF⟩]
      ∧ berthsSame core s t ∧ coreFrame core s t := by
  rw [Nat.add_assoc] at h
  have write : exec (.bolWrite p core b v) s = actAt (core < 1088 && b < 64)
      (fun s => s.write p (coreP core + (0x200 + 4 * b)) (State.wrBol core b v)) s := by rw [← Nat.add_assoc]; rfl
  have queued := State.getCore_modCore_self s core fun x =>
    { x with bolOps := x.bolOps ++ [⟨b, false, v.toNat, State.bolWritten, 0xFFF⟩] }
  refine ⟨_, write.trans (coreWrite_admitted (by simp [hk, hb]) hk (by omega) h _), congrArg Core.bolOps queued,
    .of_core queued rfl, ((coreFrame.refl core s).modCore _).accepted⟩

/-- A write of BRK_CTRL keeps its fields, HIT clears by a 1, and ARM sets (R246). -/
theorem brkArm_stores (h : s.admits p (coreP core + 0xA0)) :
    ∃ t, exec (.brkArm p core v) s = .next t
      ∧ fieldOf (t.rd (coreP core + 0xA0)) 31 25 = fieldOf v 31 25
      ∧ bitOf (t.rd (coreP core + 0xA0)) 24 = (bitOf (s.rd (coreP core + 0xA0)) 24 && !bitOf v 24)
      ∧ bitOf (t.rd (coreP core + 0xA0)) 0 = (bitOf (s.rd (coreP core + 0xA0)) 0 || bitOf v 0)
      ∧ berthsSame core s t ∧ coreFrame core s t := by
  obtain ⟨fields, hit, arm⟩ := brkWord_fields (m := fieldOf v 31 25) (Nat.mod_lt _ (by decide))
    (bitOf (s.rd (coreP core + 0xA0)) 24 && !bitOf v 24) (bitOf (s.rd (coreP core + 0xA0)) 0 || bitOf v 0)
  obtain ⟨u, take, stored, kept⟩ : ∃ u, State.wrBrk core v s = some u
      ∧ u.rd (coreP core + 0xA0) = word (fieldOf v 31 25 * 2 ^ 25
        + (bitOf (s.rd (coreP core + 0xA0)) 24 && !bitOf v 24).toNat * 2 ^ 24
        + (bitOf (s.rd (coreP core + 0xA0)) 0 || bitOf v 0).toNat)
      ∧ Within core (fun x => { x with brkRc := 0 }) (fun _ => False) s u := by
    refine ⟨_, rfl, ?_, .ite ((Within.refl.wr _ id).modCore fun _ => rfl) (Within.refl.wr _ id)⟩
    split
    · exact State.rd_wr_self ..
    · exact State.rd_wr_self ..
  have word : (u.accept (coreP core)).rd (coreP core + 0xA0) = u.rd (coreP core + 0xA0) := State.rd_accept_ne u (by simp [oSEQ])
  rw [← stored, ← word] at fields hit arm
  refine ⟨_, coreWrite_admitted (by simpa using hk) hk (by decide) h _, ?_⟩
  rw [take, State.answered_some]
  have berths : (u.getCore core).berths = (s.getCore core).berths := by
    have := congrArg Core.berths kept.core
    exact this
  exact ⟨fields, hit, arm, berthsSame_iff.2 berths, kept.frame.accepted⟩

/-- A write of BANK_MODE while no context holds the region: it is stored, and a write of the mode in force keeps the berths
(R116). -/
theorem bankMode_free (h : s.admits p (coreP core + 0x40)) (hfree : s.regionHeld (s.regionOf core) = false) :
    ∃ t, exec (.bankModeWrite p core v) s = .next t ∧ t.rd (coreP core + 0x40) = v &&& 7
      ∧ (s.rd (coreP core + 0x40) = v &&& 7 → berthsSame core s t) ∧ coreFrame core s t := by
  have seq : coreP core + oSEQ ≠ coreP core + 0x40 := by simp [oSEQ]
  refine ⟨_, coreWrite_admitted (by simpa using hk) hk (by decide) h _, ?_⟩
  by_cases hsame : s.rd (coreP core + 0x40) = v &&& 7
  · have take : State.wrBankMode core v s = some s := by simp [State.wrBankMode, hfree, hsame]
    rw [take, State.answered_some]
    exact ⟨(State.rd_accept_ne s seq).trans hsame, fun _ => berthsSame_iff.2 rfl, (coreFrame.refl core s).accepted⟩
  · obtain ⟨u, take, stored, kept⟩ : ∃ u, State.wrBankMode core v s = some u ∧ u.rd (coreP core + 0x40) = v &&& 7
        ∧ coreFrame core s u := by
      refine ⟨_, by simp only [State.wrBankMode, hfree, hsame, if_false, Bool.false_eq_true]; rfl, ?_, ?_⟩
      · exact State.rd_wr_self ..
      · have stored : coreFrame core s (s.freshId.2.wr (coreP core + 0x40) (v &&& 7)) := .refl core s
        exact stored.modCore _
    rw [take, State.answered_some]
    exact ⟨(State.rd_accept_ne u seq).trans stored, fun h => absurd h hsame, kept.accepted⟩

/-- While a context holds the region the write is refused with 0x600 (R116). -/
theorem bankMode_held (h : s.admits p (coreP core + 0x40)) (hheld : s.regionHeld (s.regionOf core) = true) :
    ∃ t, exec (.bankModeWrite p core v) s = .next t ∧ t.rd (coreP core + 0x40) = s.rd (coreP core + 0x40)
      ∧ t.faultCode (coreP core) = 0x600 ∧ berthsSame core s t ∧ coreFrame core s t := by
  have refuse : State.wrBankMode core v s = none := by simp [State.wrBankMode, hheld]
  have log : State.LogOnly s (s.configFault (coreP core)) := State.raise_log ..
  have kept : (s.configFault (coreP core)).rd (coreP core + 0x40) = s.rd (coreP core + 0x40) :=
    State.rd_raise_ne s (coreP core) 0x600 0 none 0 (by unfold coreP; omega) (by simp [oFCODE]) (by simp [oFINFO]) (by simp [oEVENT])
  have code : (s.configFault (coreP core)).faultCode (coreP core) = 0x600 :=
    State.faultCode_raise s (coreP core) 0x600 0 none 0 (by unfold coreP oFCODE; omega)
  have berths : berthsSame core s (s.configFault (coreP core)) := .of_core (log.getCore core) rfl
  refine ⟨_, coreWrite_admitted (by simpa using hk) hk (by decide) h _, ?_⟩
  rw [refuse, State.answered_none, State.rd_framed, State.faultCode_framed]
  exact ⟨kept, code, berths.framed, (log.coreFrame core).framed⟩

/-- A write of DEBUG_INJECT with bit 0 sets MX_INJECT (R81). -/
theorem mxInject_sets (h : s.admits p (coreP core + 0x4C)) (hv : bitOf v 0 = true) :
    ∃ t, exec (.mxInject p core v) s = .next t ∧ t.rd (coreP core + 0x4C) = 1 ∧ berthsSame core s t ∧ coreFrame core s t := by
  have take : State.wrInject core v s = some (s.wr (coreP core + 0x4C) 1) := by simp [State.wrInject, hv]
  refine ⟨_, coreWrite_admitted (by simpa using hk) hk (by decide) h _, ?_⟩
  rw [take, State.answered_some]
  exact ⟨(State.rd_accept_ne _ (by simp [oSEQ])).trans (State.rd_wr_self ..), berthsSame_iff.2 rfl,
    (((State.LogOnly.refl s).wr _ _).coreFrame core).accepted⟩

end

/-- A write of CAP_INJECT sets MX_INJECT of the core that it names (R467). -/
theorem capInject_sets {s : State} {p : Party} {v : Word} (h : s.admits p (captureP + 0x48)) (hv : bitOf v 31 = true)
    (hk : fieldOf v 10 0 < s.build.physCores) :
    ∃ t, exec (.capInject p v) s = .next t ∧ t.rd (coreP (fieldOf v 10 0) + 0x4C) = 1 ∧ partsSame s t := by
  have awake := State.awake_of_answers h.2.1 (by decide)
  have seq : captureP + oSEQ ≠ coreP (fieldOf v 10 0) + 0x4C := by unfold captureP coreP oSEQ; omega
  have take : State.wrCapInject v s
      = some ((s.wr (captureP + 0x48) (word (fieldOf v 10 0))).wr (coreP (fieldOf v 10 0) + 0x4C) 1) := by
    have named : bitOf v 31 = true ∧ fieldOf v 10 0 < (s.wr (captureP + 0x48) (word (fieldOf v 10 0))).build.physCores := ⟨hv, hk⟩
    unfold State.wrCapInject
    dsimp only
    rw [if_pos named]
  have write : exec (.capInject p v) s = .next (s.framed (s.write p (captureP + 0x48) (State.wrCapInject v))) := act_awake awake
  rw [State.write_admitted h, take, State.answered_some] at write
  exact ⟨_, write, (State.rd_accept_ne _ seq).trans (State.rd_wr_self ..), rfl, rfl, rfl, rfl, rfl, rfl, rfl, rfl, rfl, rfl⟩

end Sys2Proof.Machine
end

section
/-! PROOF. The chart and berth windows of a CORE page (R120, R122, R227, R229, R475). -/

namespace Sys2Proof.Machine

theorem Tab.find?_put {α : Type} (t : Tab α) (k : Nat) (v : α) : (Tab.put t k v).find? (fun e => e.1 = k) = some (k, v) := by
  induction t with
  | nil => simp [Tab.put]
  | cons e t ih =>
    obtain ⟨i, w⟩ := e
    by_cases h : i = k
    · simp [Tab.put, h]
    · simpa [Tab.put, h] using ih

/-! Chart memory (R227, R229). -/

/-- CHART_ADDR after an access: the next word, at the end of chart memory the first (R227). -/
theorem chartAddr_next {s : State} {p : Party} {k a : Nat} (ha : a = s.chartAddr p k) (t : State) :
    (t.setSel p (coreP k + 0x80) (word ((a + 8) % 65536))).chartAddr p k = (a + 8) % 65536 := by
  simp only [State.chartAddr] at ha
  simp only [State.chartAddr, State.sel, State.setSel, Tab.get_put_self, word, BitVec.toNat_ofNat]
  omega

/-- A write of CHART_DATA_HI (R227). -/
theorem chartDataHi_writes {s : State} {p : Party} {core : Nat} (v : Word) (hk : core < 1088)
    (h : s.admits p (coreP core + 0x88)) :
    let a := s.chartAddr p core
    let lo : Word := Tab.get 0 s.staged (State.own p (coreP core + 0x84))
    let l := leBytes 4 lo.toNat ++ leBytes 4 v.toNat
    ∃ t, exec (.chartDataHi p core v) s = .next t
      ∧ (t.getCore core).chart = (s.getCore core).chart.putBytes a l
      ∧ (t.getCore core).chartOps = (s.getCore core).chartOps ++ [(a, l)]
      ∧ (t.getCore core).sects = (s.getCore core).sects ∧ (t.getCore core).progs = (s.getCore core).progs
      ∧ t.chartAddr p core = (a + 8) % 65536 ∧ (t.getCore core).wb = (s.getCore core).wb
      ∧ (t.getCore core).ab = (s.getCore core).ab ∧ (t.getCore core).pb = (s.getCore core).pb ∧ coreFrame core s t := by
  intro a lo l
  have write : exec (.chartDataHi p core v) s
      = .next (s.framed (((s.chartWrite core a l).setSel p (coreP core + 0x80) (word ((a + 8) % 65536))).accept (coreP core))) :=
    coreWrite_admitted (by simpa using hk) hk (by decide) h _
  have written : (s.chartWrite core a l).getCore core
      = { s.getCore core with chart := (s.getCore core).chart.putBytes a l,
                              chartOps := (s.getCore core).chartOps ++ [(a, l)] } := State.getCore_modCore_self ..
  have frame : coreFrame core s (s.chartWrite core a l) := (coreFrame.refl core s).modCore _
  refine ⟨_, write, ?_⟩
  rw [State.getCore_framed, State.getCore_accept, State.getCore_setSel, written]
  exact ⟨rfl, rfl, rfl, rfl, chartAddr_next rfl _, rfl, rfl, rfl, coreFrame.accepted frame⟩

/-- What a read of CHART_DATA_LO gives of the bytes `l` of a word: the low half, with the high half latched (R227, R454). -/
def State.giveChart (s : State) (p : Party) (k : Nat) (l : List Byte) : State :=
  ({ s with latched := Tab.put s.latched (State.own p (coreP k + 0x88)) (word (leNat (l.drop 4))) }).give p (word (leNat (l.take 4)))

theorem rdata_give (s : State) (p : Party) (v : Word) : Tab.get 0 (s.give p v).rdata (partyNo p) = v := Tab.get_put_self ..

theorem held_giveChart (s : State) (p : Party) (k : Nat) (l : List Byte) :
    (s.giveChart p k l).held? p (coreP k + 0x88) = some (word (leNat (l.drop 4))) := by
  have found := Tab.find?_put s.latched (State.own p (coreP k + 0x88)) (word (leNat (l.drop 4)))
  exact congrArg (Option.map (·.2)) found

theorem faultCode_chartCe (s : State) (k : Nat) : (s.chartCe k).faultCode (coreP k) = 0x105 := by
  have counted : (s.chartCe k).faultCode (coreP k) = (s.raise (coreP k) 0x105 0 none 1).faultCode (coreP k) :=
    State.faultCode_congr (State.rd_count_ne _ _ (by unfold cnt oFCODE; omega))
  exact counted.trans (State.faultCode_raise _ _ _ _ _ _ (by unfold coreP oFCODE; omega))

section
variable {s : State} {p : Party} {core : Nat} {up : Upset} (hk : core < 1088) (h : s.answers (coreP core + 0x84) = true)
include hk h

/-- A read of a word with a double-bit error gives zeros, and the core faults (R229, log 67). -/
theorem exec_chartDataLoRead_ue (w : Nat) : exec (.chartDataLoRead p ⟨core, .chartUe w⟩) s
    = .next (s.framed ((s.chartUe core 6 w).giveChart p core (List.replicate 8 0))) := by
  have read : exec (.chartDataLoRead p ⟨core, .chartUe w⟩) s = actRawAt (core < 1088) (State.rdChartLo p core (.chartUe w)) s := rfl
  rw [read, actRawAt, if_pos (by simpa using hk), actRaw, State.rdChartLo, if_neg (not_not_intro h)]
  rfl

/-- A read of any other word gives it; a corrected one is recorded (R229). -/
theorem exec_chartDataLoRead_given (hup : ∀ w, up ≠ .chartUe w) :
    ∃ u, exec (.chartDataLoRead p ⟨core, up⟩) s
        = .next (s.framed (u.giveChart p core ((s.getCore core).chart.bytes (s.chartAddr p core) 8)))
      ∧ State.LogOnly s u ∧ ((∀ w, up ≠ .chartCe w) → u = s) ∧ ∀ w, up = .chartCe w → u.faultCode (coreP core) = 0x105 := by
  have read : exec (.chartDataLoRead p ⟨core, up⟩) s = actRawAt (core < 1088) (State.rdChartLo p core up) s := rfl
  rw [read, actRawAt, if_pos (by simpa using hk), actRaw, State.rdChartLo, if_neg (not_not_intro h)]
  cases up with
  | chartUe w => exact absurd rfl (hup w)
  | chartCe w =>
    exact ⟨_, rfl, (State.raise_log ..).count _ _, fun hce => absurd rfl (hce w), fun _ _ => faultCode_chartCe s core⟩
  | _ => exact ⟨s, rfl, .refl s, fun _ => rfl, nofun⟩

theorem chartDataLoRead_gives (hup : ∀ w, up ≠ .chartUe w) :
    let l := (s.getCore core).chart.bytes (s.chartAddr p core) 8
    ∃ t, exec (.chartDataLoRead p ⟨core, up⟩) s = .next t ∧ Tab.get 0 t.rdata (partyNo p) = word (leNat (l.take 4))
      ∧ t.held? p (coreP core + 0x88) = some (word (leNat (l.drop 4)))
      ∧ ((∀ w, up ≠ .chartCe w) → t.reg = s.reg) ∧ (∀ w, up = .chartCe w → t.faultCode (coreP core) = 0x105)
      ∧ partsSame s t := by
  obtain ⟨u, read, log, same, corrected⟩ := exec_chartDataLoRead_given (p := p) hk h hup
  have regs : (∀ w, up ≠ .chartCe w) → u.reg = s.reg := fun hce => congrArg State.reg (same hce)
  refine ⟨_, read, rdata_give .., held_giveChart .., regs, corrected, ?_⟩
  obtain ⟨r, f, o, rfl⟩ := log
  exact ⟨rfl, rfl, rfl, rfl, rfl, rfl, rfl, rfl, rfl, rfl⟩

/-- FAULT_INFO of an uncorrectable chart word names its SOURCE and the word (R233). -/
theorem chartDataLoRead_faults (w : Nat) :
    ∃ t, exec (.chartDataLoRead p ⟨core, .chartUe w⟩) s = .next t ∧ Tab.get 0 t.rdata (partyNo p) = 0
      ∧ t.held? p (coreP core + 0x88) = some 0 ∧ t.faultCode (coreP core) = 0x252
      ∧ fieldOf (t.rd (coreP core + oFINFO)) 31 29 = 6 ∧ fieldOf (t.rd (coreP core + oFINFO)) 28 16 = w % 2 ^ 13
      ∧ ((s.getCore core).state ≠ 3 → (t.getCore core).state = 2) ∧ berthsSame core s t ∧ coreFrame core s t := by
  obtain ⟨frame, kept, -⟩ := State.coreFault_within s core 0x252 (word (6 * 2 ^ 29 + w % 2 ^ 13 * 2 ^ 16)) false
  have info : (s.chartUe core 6 w).rd (coreP core + oFINFO) = word (6 * 2 ^ 29 + w % 2 ^ 13 * 2 ^ 16) :=
    State.faultInfo_coreFault ..
  have state : (s.getCore core).state ≠ 3 → ((s.chartUe core 6 w).getCore core).state = 2 := fun hs =>
    (State.state_coreFault ..).trans (if_neg hs)
  have value : (word (6 * 2 ^ 29 + w % 2 ^ 13 * 2 ^ 16)).toNat = 6 * 2 ^ 29 + w % 2 ^ 13 * 2 ^ 16 := by
    simp only [word, BitVec.toNat_ofNat]
    omega
  have source : fieldOf ((s.chartUe core 6 w).rd (coreP core + oFINFO)) 31 29 = 6 := by
    simp only [info, fieldOf, value, Nat.shiftRight_eq_div_pow]
    omega
  have place : fieldOf ((s.chartUe core 6 w).rd (coreP core + oFINFO)) 28 16 = w % 2 ^ 13 := by
    simp only [info, fieldOf, value, Nat.shiftRight_eq_div_pow]
    omega
  have berths : berthsSame core s (s.chartUe core 6 w) := berthsSame_iff.2 (Core.works_of_sansFault kept).2.2
  exact ⟨_, exec_chartDataLoRead_ue hk h w, rdata_give .., held_giveChart .., State.faultCode_coreFault .., source, place, state,
    berths, coreFrame.framed frame⟩

end

/-! The berth window (R120, R122, R475). -/

/-- A write of whole bytes overwrites them. -/
theorem Scratch.puts_putsOf (l : List Byte) (m : Scratch) (a : Nat) : m.puts (putsOf a l) = m.putBytes a l := by
  induction l generalizing m a with
  | nil => rfl
  | cons b l ih =>
    have whole : (m.get a &&& ~~~(0xFF : Byte)) ||| (b &&& 0xFF) = b := by
      rw [show (0xFF : Byte) = BitVec.allOnes 8 from rfl, BitVec.not_allOnes, BitVec.and_zero, BitVec.zero_or,
        BitVec.and_allOnes]
    have byte : m.putBits ⟨a, b, 0xFF, none⟩ = m.put a b := congrArg (m.put a) whole
    rw [Scratch.putBytes, ← ih, ← byte]
    rfl

theorem Core.space_setSpace (x : Core) {n b : Nat} (hn : n < 3) (hb : b < 3) (m : Scratch) :
    (x.setSpace n m).space b = if b = n then m else x.space b := by
  interval_cases n <;> interval_cases b <;> rfl

/-- A berth that is written at once, and the others (R475). -/
theorem space_berthPut (s : State) (k : Nat) {berth b : Nat} (hn : berth < 3) (hb : b < 3) (a : Nat) (l : List Byte) :
    ((s.berthPut k berth a l).getCore k).space b
      = if b = berth then ((s.getCore k).space berth).putBytes a l else (s.getCore k).space b := by
  rw [← Scratch.puts_putsOf, ← Core.space_setSpace _ hn hb, State.berthPut, State.getCore_modCore_self]
  rfl

/-- What the window gives where a check withholds the word: a read gives 0 (R120, R122). -/
def State.withheld (s : State) (p : Party) (w : Option Word) : State := w.elim (s.give p 0) fun _ => s

/-- The berth and the word that the window of core `k` shows a party (R475). -/
abbrev State.winBerth (s : State) (p : Party) (k : Nat) : Nat := fieldOf (s.sel p (coreP k + 0x8C)) 31 30

abbrev State.winAddr (s : State) (p : Party) (k : Nat) : Nat := fieldOf (s.sel p (coreP k + 0x8C)) 18 0 / 4 * 4

/-- `t` with the window's ADDR, as it was in `s`, advanced by a word within the berth (R475). -/
def State.winMove (t s : State) (p : Party) (k : Nat) : State :=
  t.setSel p (coreP k + 0x8C)
    (setField (s.sel p (coreP k + 0x8C)) 18 0 ((s.winAddr p k + 4) % s.build.berthBytes (s.winBerth p k)))

theorem berthBytes_le {b : Build} (h : b.legal = true) (berth : Nat) : b.berthBytes berth ≤ 2 ^ 19 := by
  obtain ⟨-, -, -, -, -, wb, ab, pb, -⟩ := Laws.Wf.legal_bounds h
  unfold Build.berthBytes
  split <;> omega

section
variable {s : State} {p : Party} {core : Nat} {up : Upset} (hin : s.winAddr p core < s.build.berthBytes (s.winBerth p core))
include hin

/-- ADDR behind an access, as the party reads it. -/
theorem winMove_addr (hlegal : s.build.legal = true) (t : State) :
    fieldOf ((t.winMove s p core).sel p (coreP core + 0x8C)) 18 0
      = (s.winAddr p core + 4) % s.build.berthBytes (s.winBerth p core) := by
  have selected : (t.winMove s p core).sel p (coreP core + 0x8C)
      = setField (s.sel p (coreP core + 0x8C)) 18 0 ((s.winAddr p core + 4) % s.build.berthBytes (s.winBerth p core)) :=
    Tab.get_put_self ..
  have small := berthBytes_le hlegal (s.winBerth p core)
  rw [selected, fieldOf_setField _ _ (by decide)]
  exact Nat.mod_eq_of_lt (lt_of_lt_of_le (Nat.mod_lt _ (by omega)) small)

variable (hb : s.winBerth p core ≠ 3)
include hb

/-- A word in a gated segment is withheld and reported (R120). -/
theorem winAccess_gated {g : Nat} (w : Option Word) (hg : s.gatedAt core (s.winBerth p core) (s.winAddr p core) 4 = some g) :
    s.winAccess p core w up
      = (((s.raise (coreP core) 0x230 (s.berthInfo (s.winBerth p core) g 5)).withheld p w).winMove s p core) := by
  unfold State.winAccess
  dsimp only
  rw [if_neg (not_or.2 ⟨hb, Nat.not_le.2 hin⟩), hg]
  cases w <;> rfl

variable (hg : s.gatedAt core (s.winBerth p core) (s.winAddr p core) 4 = none)
include hg

/-- A word with a double-bit error is withheld, and the core faults (R122). -/
theorem winAccess_ue {b : Nat} {w : Option Word}
    (hu : (State.wordUpset up (s.winBerth p core) (s.winAddr p core) 4 w.isNone).1 = some b) :
    s.winAccess p core w up
      = (((s.coreFault core 0x231 (s.berthInfo (s.winBerth p core) b 5)).withheld p w).winMove s p core) := by
  unfold State.winAccess
  dsimp only
  rw [if_neg (not_or.2 ⟨hb, Nat.not_le.2 hin⟩), hg, hu]
  cases w <;> rfl

/-- A sound word is read; an error that was corrected is reported (R122). -/
theorem winAccess_reads (hu : (State.wordUpset up (s.winBerth p core) (s.winAddr p core) 4 true).1 = none) :
    ∃ u, State.LogOnly s u ∧ s.winAccess p core none up
      = (u.give p (word (leNat (s.berthRead core (s.winBerth p core) (s.winAddr p core) 4)))).winMove s p core := by
  have corrected : State.LogOnly s (s.berthCe core) := (State.raise_log ..).count _ _
  obtain ⟨u, hu', log⟩ : ∃ u, u = (if (State.wordUpset up (s.winBerth p core) (s.winAddr p core) 4 true).2 then s.berthCe core else s)
      ∧ State.LogOnly s u := ⟨_, rfl, corrected.ite (.refl s)⟩
  refine ⟨u, log, ?_⟩
  have read : ∀ n a l, u.berthRead core n a l = s.berthRead core n a l := fun n a l => by
    rw [State.berthRead, log.getCore, State.berthRead]
  unfold State.winAccess
  dsimp only [Option.isNone]
  rw [if_neg (not_or.2 ⟨hb, Nat.not_le.2 hin⟩), hg, hu]
  dsimp only
  rw [← hu', read]
  rfl

/-- A sound word is written, and the page counts the write (R451). -/
theorem winAccess_writes (v : Word) (hu : (State.wordUpset up (s.winBerth p core) (s.winAddr p core) 4 false).1 = none) :
    ∃ u, State.LogOnly s u ∧ s.winAccess p core (some v) up
      = ((u.berthPut core (s.winBerth p core) (s.winAddr p core) (leBytes 4 v.toNat)).winMove s p core).accept (coreP core) := by
  have corrected : State.LogOnly s (s.berthCe core) := (State.raise_log ..).count _ _
  refine ⟨if (State.wordUpset up (s.winBerth p core) (s.winAddr p core) 4 false).2 then s.berthCe core else s,
    corrected.ite (.refl s), ?_⟩
  unfold State.winAccess
  dsimp only [Option.isNone]
  rw [if_neg (not_or.2 ⟨hb, Nat.not_le.2 hin⟩), hg, hu]
  rfl

end

theorem State.getCore_congr {s t : State} (h : s.core = t.core) (k : Nat) : s.getCore k = t.getCore k := by
  rw [getCore, h, getCore]

/-- What a withheld word leaves of the state `u` that its report made: the answer 0 of a read, and ADDR moved. -/
theorem withheld_winMove (s u : State) (p : Party) (k : Nat) (w : Option Word) :
    let t := (u.withheld p w).winMove s p k
    t.core = u.core ∧ (∀ a, t.rd a = u.rd a) ∧ (w = none → Tab.get 0 t.rdata (partyNo p) = 0) ∧ coreFrame k u t := by
  cases w with
  | none => exact ⟨rfl, fun _ => rfl, fun _ => rdata_give u p 0, .refl k u⟩
  | some v => exact ⟨rfl, fun _ => rfl, nofun, .refl k u⟩

/-! WIN_DATA (R475). -/

section
variable {s : State} {p : Party} {core : Nat} {up : Upset} (hk : core < 1088) (h : s.answers (coreP core + 0x90) = true)
  (hlegal : s.build.legal = true) (hin : s.winAddr p core < s.build.berthBytes (s.winBerth p core)) (hb : s.winBerth p core ≠ 3)
include hk h

theorem exec_winData (w : Option Word) : exec (.winData p ⟨core, up⟩ w) s = .next (s.framed (s.winAccess p core w up)) := by
  have access : exec (.winData p ⟨core, up⟩ w) s = actRawAt (core < 1088) (fun s =>
      if s.answers (coreP core + 0x90) then s.winAccess p core w up else w.elim (s.give p 0) fun _ => s) s := by
    cases w <;> rfl
  rw [access, actRawAt, if_pos (by simpa using hk), actRaw, if_pos h]

include hlegal hin hb

/-- A gated word is neither given nor written (R120). -/
theorem winData_gated {g : Nat} (w : Option Word) (hg : s.gatedAt core (s.winBerth p core) (s.winAddr p core) 4 = some g) :
    ∃ t, exec (.winData p ⟨core, up⟩ w) s = .next t ∧ t.faultCode (coreP core) = 0x230
      ∧ (w = none → Tab.get 0 t.rdata (partyNo p) = 0)
      ∧ fieldOf (t.sel p (coreP core + 0x8C)) 18 0 = (s.winAddr p core + 4) % s.build.berthBytes (s.winBerth p core)
      ∧ t.core = s.core ∧ coreFrame core s t := by
  obtain ⟨cores, regs, zero, frame⟩ :=
    withheld_winMove s (s.raise (coreP core) 0x230 (s.berthInfo (s.winBerth p core) g 5)) p core w
  have raised := State.raise_log s (coreP core) 0x230 (s.berthInfo (s.winBerth p core) g 5) none 0
  have code := State.faultCode_raise s (coreP core) 0x230 (s.berthInfo (s.winBerth p core) g 5) none 0
    (by unfold coreP oFCODE; omega)
  refine ⟨_, exec_winData hk h w, ?_⟩
  rw [winAccess_gated hin hb w hg, State.faultCode_framed]
  exact ⟨(State.faultCode_congr (regs _)).trans code, zero, winMove_addr hin hlegal _,
    cores.trans (State.raise_core ..), ((raised.coreFrame core).trans frame).framed⟩

variable (hg : s.gatedAt core (s.winBerth p core) (s.winAddr p core) 4 = none)
include hg

/-- A word with a double-bit error is neither given nor written, and the core faults (R122). -/
theorem winData_ue {b : Nat} (w : Option Word)
    (hu : (State.wordUpset up (s.winBerth p core) (s.winAddr p core) 4 w.isNone).1 = some b) :
    ∃ t, exec (.winData p ⟨core, up⟩ w) s = .next t ∧ t.faultCode (coreP core) = 0x231
      ∧ ((s.getCore core).state ≠ 3 → (t.getCore core).state = 2) ∧ (w = none → Tab.get 0 t.rdata (partyNo p) = 0)
      ∧ fieldOf (t.sel p (coreP core + 0x8C)) 18 0 = (s.winAddr p core + 4) % s.build.berthBytes (s.winBerth p core)
      ∧ berthsSame core s t ∧ coreFrame core s t := by
  obtain ⟨cores, regs, zero, frame⟩ :=
    withheld_winMove s (s.coreFault core 0x231 (s.berthInfo (s.winBerth p core) b 5)) p core w
  obtain ⟨faulted, kept, -⟩ := State.coreFault_within s core 0x231 (s.berthInfo (s.winBerth p core) b 5) false
  have code := State.faultCode_coreFault s core 0x231 (s.berthInfo (s.winBerth p core) b 5) false
  have state := State.state_coreFault s core 0x231 (s.berthInfo (s.winBerth p core) b 5) false
  have same := State.getCore_congr cores core
  refine ⟨_, exec_winData hk h w, ?_⟩
  rw [winAccess_ue hin hb hg hu, State.faultCode_framed, State.getCore_framed, same]
  exact ⟨(State.faultCode_congr (regs _)).trans code, fun hs => state.trans (if_neg hs), zero, winMove_addr hin hlegal _,
    .framed (.of_core same (Core.works_of_sansFault kept).2.2), (faulted.trans frame).framed⟩

/-- A read gives the word (R475). -/
theorem winData_reads (hu : (State.wordUpset up (s.winBerth p core) (s.winAddr p core) 4 true).1 = none) :
    ∃ t, exec (.winData p ⟨core, up⟩ none) s = .next t
      ∧ Tab.get 0 t.rdata (partyNo p) = word (leNat (s.berthRead core (s.winBerth p core) (s.winAddr p core) 4))
      ∧ fieldOf (t.sel p (coreP core + 0x8C)) 18 0 = (s.winAddr p core + 4) % s.build.berthBytes (s.winBerth p core)
      ∧ berthsSame core s t ∧ coreFrame core s t := by
  obtain ⟨u, log, access⟩ := winAccess_reads hin hb hg hu
  have same := log.getCore core
  refine ⟨_, exec_winData hk h none, ?_⟩
  rw [access]
  exact ⟨rdata_give .., winMove_addr hin hlegal _, .framed (.of_core same rfl), (log.coreFrame core).framed⟩

/-- A write replaces the word, and nothing else of the berths (R475). -/
theorem winData_writes (v : Word) (hu : (State.wordUpset up (s.winBerth p core) (s.winAddr p core) 4 false).1 = none) :
    ∃ t, exec (.winData p ⟨core, up⟩ (some v)) s = .next t
      ∧ (t.getCore core).space (s.winBerth p core)
          = ((s.getCore core).space (s.winBerth p core)).putBytes (s.winAddr p core) (leBytes 4 v.toNat)
      ∧ (∀ b < 3, b ≠ s.winBerth p core → (t.getCore core).space b = (s.getCore core).space b)
      ∧ fieldOf (t.sel p (coreP core + 0x8C)) 18 0 = (s.winAddr p core + 4) % s.build.berthBytes (s.winBerth p core)
      ∧ coreFrame core s t := by
  obtain ⟨u, log, access⟩ := winAccess_writes hin hb hg v hu
  have berth : s.winBerth p core < 3 := by
    have field : s.winBerth p core < 2 ^ 2 := Nat.mod_lt _ (by decide)
    omega
  have put := fun b (hb : b < 3) => space_berthPut u core berth hb (s.winAddr p core) (leBytes 4 v.toNat)
  rw [log.getCore] at put
  have frame : coreFrame core s (u.berthPut core (s.winBerth p core) (s.winAddr p core) (leBytes 4 v.toNat)) :=
    (log.coreFrame core).modCore _
  refine ⟨_, exec_winData hk h _, ?_⟩
  rw [access, State.getCore_framed, State.getCore_accept, State.winMove, State.getCore_setSel]
  exact ⟨(put _ berth).trans (if_pos rfl), fun b hb hne => (put b hb).trans (if_neg hne), winMove_addr hin hlegal _,
    coreFrame.accepted frame⟩

end

/-- Settles O31: each register of a CORE page by the rule of its own; for WIN_DATA the checks of R120 and R122 decide first
whether the word is withheld. -/
theorem coreWindowWrites : Obligations.CoreWindowWrites := by
  intro p core v up s hk
  refine ⟨fun b hb h => bolWrite_joins v hk hb h, brkArm_stores v hk, fun h => ⟨bankMode_free v hk h, bankMode_held v hk h⟩,
    mxInject_sets v hk, capInject_sets, chartDataHi_writes v hk,
    fun h => ⟨chartDataLoRead_gives hk h, chartDataLoRead_faults hk h⟩, ?_⟩
  intro h hlegal x berth a moved hb hin
  exact ⟨fun hg => ⟨winData_reads hk h hlegal hin hb hg, winData_writes hk h hlegal hin hb hg v,
      fun w b => winData_ue hk h hlegal hin hb hg w⟩,
    fun w g => winData_gated hk h hlegal hin hb w⟩

end Sys2Proof.Machine
end

section
/-! PROOF. An instruction of the VXE: its issue and entry into a pipe (R99 to R102, R104, R106, R110, R122), what a cycle of a
pipe writes (R85, R92), and the result groups of the Wharf slice (R104, R107, R279, R280). -/

namespace Sys2Proof.Machine

/-- A core without the bookkeeping of entries and the number of its next flag record (R102). -/
def Core.sansRecord (x : Core) : Core := { x.sansIssue with records := 0 }

/-- The issue of an instruction keeps the runs of the VXE, the Wharf planes, the state and the berths. -/
theorem Core.vxe_of_sansRecord {x y : Core} (h : x.sansRecord = y.sansRecord) :
    x.vx = y.vx ∧ x.plane = y.plane ∧ x.state = y.state ∧ x.berths = y.berths := by
  have vx := congrArg Core.vx h
  have plane := congrArg Core.plane h
  have state := congrArg Core.state h
  have berths := congrArg Core.berths h
  exact ⟨vx, plane, state, berths⟩

/-- A fault keeps the runs of the VXE, their writes on the way and the berths. -/
theorem Core.vxe_of_sansFault {x y : Core} (h : x.sansFault = y.sansFault) :
    x.vx = y.vx ∧ x.vxLands = y.vxLands ∧ x.berths = y.berths := by
  have vx := congrArg Core.vx h
  have lands := congrArg Core.vxLands h
  have berths := congrArg Core.berths h
  exact ⟨vx, lands, berths⟩

theorem Within.sansRecord {k : Nat} {R : Nat → Prop} {s t : State} (h : Within k Core.sansIssue R s t) :
    Within k Core.sansRecord R s t :=
  h.coarsen (fun _ _ => congrArg fun x : Core => { x with records := 0 }) fun _ => id

/-- The region cycle of a core stands outside what its commands touch. -/
theorem coreFrame.coreRc {k : Nat} {s t : State} (h : coreFrame k s t) (j : Nat) : t.coreRc j = s.coreRc j := by
  obtain ⟨-, -, -, -, -, clk, build, -⟩ := h
  simp only [State.coreRc, State.rcOf, State.regionOf, clk, build]

theorem workCounter_vxInstr (k : Nat) : WorkCounter (cnt k 13) := by
  refine ⟨by unfold cnt coreP; omega, by unfold cnt coreP; omega, ?_⟩
  simp only [List.mem_cons, List.not_mem_nil, or_false, cnt, coreP]
  omega

namespace State

/-- A counter that counts one event (R456). -/
theorem rd_count_one (s : State) (a : Nat) : (s.count a 1).rd a = satAdd (s.rd a) 1 := by
  rw [rd_count_self, if_neg one_ne_zero]

/-! The issue. -/

section
variable {s : State} {k : Nat} {h : Head} {p : VPlan} {up : Upset}

/-- A head that nothing holds and whose issue check passes goes on to its pipe (R99, R101). -/
theorem vxIssue_passes {isOp : Nat → Bool} (hc : chartClean up) (hh : s.head? k 2 = some h) (hop : isOp (opOf h.word / 4) = true)
    (hr : s.ready k 2 h = true) (hg : s.vxGate k h = 0) (hp : (s.issued k 2 h).vxPlan k h = .ok p)
    (hranges : (s.issued k 2 h).vxRanges k p.ranges = .ok) :
    vxIssue isOp k up s = (if p.v.op = vWharf then (s.issued k 2 h).vxWharfEnter k h p up
      else (s.issued k 2 h).vxArith k h p up).brkIssue k 2 h := by
  have start : (s.issued k 2 h).vxStart k h up = if p.v.op = vWharf then (s.issued k 2 h).vxWharfEnter k h p up
      else (s.issued k 2 h).vxArith k h p up := by
    unfold vxStart
    rw [hp]
    dsimp only
    rw [hranges]
  unfold vxIssue
  rw [hh]
  dsimp only
  rw [if_pos (by simp [hop, hr, hg]), chartRead_clean hc, start]

/-- The number of the flag record of an instruction that issues (R102). -/
theorem issuedRecord_number (s : State) (k : Nat) (h : Head) (fw : Bool) :
    ((s.issued k 2 h).vxRecord k fw).1 = if fw then some (s.getCore k).records else none := by
  have issue := (issued_within s k 2 h).core
  have records : ((s.issued k 2 h).getCore k).records = (s.getCore k).records := (congrArg Core.records issue :)
  unfold vxRecord
  rw [← records]
  cases fw <;> rfl

/-- The issue, with the number of the flag record taken. -/
theorem issuedRecord_within (s : State) (k : Nat) (h : Head) (fw : Bool) :
    Within k Core.sansRecord WorkCounter s ((s.issued k 2 h).vxRecord k fw).2 := by
  have issue := (issued_within s k 2 h).sansRecord
  cases fw with
  | false => exact issue
  | true => exact issue.modCore (f := fun x => { x with records := x.records + 1 }) fun _ => rfl

end

/-! The entry into a pipe (R110, R122). -/

section
variable (s : State) (k : Nat) (run : Run)

theorem vxEnterRun_enters {up : Upset} (hup : ∀ b a, up ≠ .berthUe b a) :
    Within k id WorkCounter ((s.count (cnt k 13) 1).vxEnter k run) (s.vxEnterRun k run up) := by
  cases up with
  | berthUe b a => exact absurd rfl (hup b a)
  | berthCe b a => exact berthCe_within _ k
  | _ => exact .refl

theorem vxEnterRun_stops (b a : Nat) : ∃ info,
    s.vxEnterRun k run (.berthUe b a) = (s.count (cnt k 13) 1).coreFault k 0x231 info :=
  ⟨_, rfl⟩

theorem vxInstr_log : LogOnly s (s.count (cnt k 13) 1) := (LogOnly.refl s).count _ _

end

/-- A fault at the issue of an entry, whether or not the issue triggers the breakpoint as well (R47, R247). -/
theorem faulted_issue (s : State) (k e : Nat) (h : Head) (code : Nat) (info : Word) :
    let t := (s.coreFault k code info).brkIssue k e h
    Within k Core.sansFault WorkCounter s t ∧ t.faultCode (coreP k) = code % 2 ^ 12
      ∧ (t.getCore k).state = if (s.getCore k).state = 3 then 3 else 2 := by
  intro t
  have trigger : Within k Core.sansIssue NoTrigger (s.coreFault k code info) t := brkIssue_within _ k e h
  have page : NoTrigger (coreP k + oFCODE) := (butAt_page (coreP_aligned k) (by decide)).2 (by decide)
  obtain ⟨-, -, state, -⟩ := Core.works_of_sansIssue trigger.core
  exact ⟨(coreFault_within s k code info false).trans (brkIssue_counters _ k e h).orStopped,
    (faultCode_congr (trigger.regs _ page)).trans (faultCode_coreFault ..), state.trans (state_coreFault ..)⟩

end State

section
variable {s v : State} {core : Nat} {h : Head} {run : Run} {up : Upset}
  (hv : Within core Core.sansRecord WorkCounter s v)
include hv

/-- An instruction that issues and reads no double-bit error: its run enters behind the others, and what is as before. -/
theorem vx_entered (hup : ∀ b a, up ≠ .berthUe b a) :
    let t := (v.vxEnterRun core run up).brkIssue core 2 h
    (t.getCore core).vx = (s.getCore core).vx ++ [run] ∧ t.rd (cnt core 13) = satAdd (s.rd (cnt core 13)) 1
      ∧ berthsSame core s t ∧ coreFrame core s t := by
  intro t
  have count := State.vxInstr_log v core
  obtain ⟨frame, kept, regs⟩ := ((State.vxEnterRun_enters v core run hup).unchanged.trans
    (State.brkIssue_counters _ core 2 h)).sansRecord
  rw [State.vxEnter, State.getCore_modCore_self, count.getCore core] at kept
  obtain ⟨vx, -, -, berths⟩ := Core.vxe_of_sansRecord kept
  obtain ⟨vx', -, -, berths'⟩ := Core.vxe_of_sansRecord hv.core
  have counter := workCounter_vxInstr core
  refine ⟨vx.trans (congrArg (· ++ _) vx'), ?_, berthsSame_iff.2 (berths.trans berths'),
    hv.frame.trans (((count.coreFrame core).modCore _).trans frame)⟩
  rw [← hv.regs _ counter, ← State.rd_count_one]
  exact regs _ counter

/-- An instruction that issues and reads a double-bit error: the core has stopped on 0x231, and what is as before (R122). -/
theorem vx_stopped (hs : (s.getCore core).state = 1) (b a : Nat) :
    let t := (v.vxEnterRun core run (.berthUe b a)).brkIssue core 2 h
    (t.getCore core).vx = (s.getCore core).vx ∧ t.faultCode (coreP core) = 0x231 ∧ (t.getCore core).state = 2
      ∧ t.rd (cnt core 13) = satAdd (s.rd (cnt core 13)) 1 ∧ berthsSame core s t ∧ coreFrame core s t := by
  intro t
  have count := State.vxInstr_log v core
  obtain ⟨info, stop⟩ := State.vxEnterRun_stops v core run b a
  have ended : t = ((v.count (cnt core 13) 1).coreFault core 0x231 info).brkIssue core 2 h :=
    congrArg (State.brkIssue · core 2 h) stop
  obtain ⟨⟨frame, kept, regs⟩, code, state⟩ := State.faulted_issue (v.count (cnt core 13) 1) core 2 h 0x231 info
  rw [← ended, count.getCore core] at kept state
  rw [← ended] at frame regs code
  obtain ⟨vx, -, berths⟩ := Core.vxe_of_sansFault kept
  obtain ⟨vx', -, state', berths'⟩ := Core.vxe_of_sansRecord hv.core
  have counter := workCounter_vxInstr core
  refine ⟨vx.trans vx', code, state.trans (by rw [state', hs]; rfl), ?_, berthsSame_iff.2 (berths.trans berths'),
    hv.frame.trans ((count.coreFrame core).trans frame)⟩
  rw [← hv.regs _ counter, ← State.rd_count_one]
  exact regs _ counter

end

/-! Writes of a run (R85, R92). -/

namespace State

section
variable (s : State) (k rc : Nat) (r : Run) (m : VMade) (quants : List (Nat × Nat × Bool))

theorem getCore_setVx : (s.setVx k r).getCore k
    = { s.getCore k with
        vx := (s.getCore k).vx.map fun y => if y.inst = r.inst ∧ y.stream = r.stream then r else y } :=
  getCore_modCore_self ..

/-- The core behind the writes of a run: they are on their way, and the run has collected their flags. -/
theorem getCore_vxWrite : (s.vxWrite k rc r m quants).getCore k
    = { (s.setVx k { r with flags := r.flags ||| m.flags }).getCore k with
        vxLands := (s.getCore k).vxLands ++ m.puts.map fun p => (⟨rc, p.1, p.2, quants⟩ : Landing) } := by
  unfold vxWrite
  dsimp only
  rw [getCore_orBits, getCore_modCore_self, getCore_setVx]

theorem berthsSame_vxWrite : berthsSame k s (s.vxWrite k rc r m quants) :=
  .of_core (getCore_vxWrite ..) (by rw [getCore_setVx]; rfl)

theorem rd_vxWrite_flags : (s.vxWrite k rc r m quants).rd (coreP k + 0x58) = s.rd (coreP k + 0x58) ||| m.flags :=
  rd_orBits_self ..

theorem rd_vxWrite_ne {a : Nat} (h : coreP k + 0x58 ≠ a) : (s.vxWrite k rc r m quants).rd a = s.rd a := rd_orBits_ne _ _ h

theorem coreFrame_vxWrite : coreFrame k s (s.vxWrite k rc r m quants) :=
  (((coreFrame.refl k s).modCore _).modCore _).trans (((LogOnly.refl _).wr _ _).coreFrame k)

end

section
variable {s : State} {k o : Nat} {r : Run} {j : VJob}

/-- A cycle of an instruction that goes beat by beat, one region cycle a beat, writes the cycle's beat. -/
theorem goBeat_writes (e : VEnv) (hsent : j.plan.v.op ≠ vSent) (hred : isRed j.plan.v.op = false) (hq : j.plan.q = none)
    (htwo : j.two = false) :
    s.goBeat k r j j.plan e o = s.vxWrite k (r.issue + o + r.lat) r (e.beat j.plan o j.plan.beats) [] := by
  have beat : beatOf j o = some o := by simp [beatOf, htwo, hsent]
  unfold goBeat
  rw [if_neg hsent, hq, beat]
  cases j.plan.d with
  | none => rfl
  | some d =>
    cases j.plan.a with
    | none => cases d <;> rfl
    | some a => simp [hred]

/-- A region cycle of such an instruction that no checker stops (R85, R110). -/
theorem vxRunCycle_writes (hj : r.vx = some j) (hw : r.wharf = none) (hd : r.dead = false) (ho : o < r.occ)
    (hstop : j.stop = none) (hsent : j.plan.v.op ≠ vSent) (hred : isRed j.plan.v.op = false) (hq : j.plan.q = none)
    (htwo : j.two = false) :
    vxRunCycle (r.issue + o) s k r = (s.count (cnt k 14) 1).vxWrite k (r.issue + o + r.lat) r
      ((vxEnvOf (s.getCore k) j).beat j.plan o j.plan.beats) [] := by
  have busy : ¬ (r.dead = true ∨ r.occ ≤ o) := by simp [hd, ho]
  unfold vxRunCycle
  rw [hj, hw]
  dsimp only
  rw [if_neg (by omega), Nat.add_sub_cancel_left, if_neg busy, arithCycle, hstop]
  dsimp only
  rw [getCore_count, goBeat_writes _ hsent hred hq htwo]

end
end State

/-- Each instruction of the arithmetic pipe issues the operations of its row (R84, R92). -/
theorem exec_vxArithRow {s : State} {core : Nat} {up : Upset} {e : Instr × (Nat → Bool)} (hs : s.runs core)
    (he : e ∈ vxArithRows core up) : exec e.1 s = .next (s.framed (State.vxIssue e.2 core up s)) := by
  obtain ⟨hk, ha, hclock⟩ := hs
  simp only [vxArithRows, List.mem_cons, List.not_mem_nil, or_false] at he
  rcases he with rfl | rfl | rfl | rfl | rfl | rfl | rfl | rfl | rfl | rfl | rfl | rfl | rfl | rfl <;>
    exact actCore_running (by simpa using hk) ha hclock

/-- Settles O15: the issue keeps all but bookkeeping and the number of the flag record, the entry adds the run and counts it,
and a cycle of the pipe is the writes of one beat. -/
theorem vectorInstructionEntersPipe : Obligations.VectorInstructionEntersPipe := by
  refine ⟨fun core s h p up e hs hc he hh hop hr hg => ?_,
    fun core o s r j hj hw hd ho hstop hsent hred hq htwo => ?_⟩
  · intro u hp hranges hwharf hsent
    have issue := exec_vxArithRow hs he
    have before := State.issuedRecord_within s core h (State.hasRecord p)
    rw [State.vxIssue_passes hc hh hop hr hg hp hranges, if_neg hwharf] at issue
    refine ⟨fun hup => ?_, fun b a hup => ⟨_, issue, ?_⟩⟩
    · obtain ⟨vx, instrs, berths, frame⟩ := vx_entered (h := h) before hup
      refine ⟨_, _, issue, vx, rfl, before.frame.coreRc core, rfl, rfl, rfl, ?_, instrs, berths, frame.framed⟩
      refine (State.issuedRecord_number s core h (State.hasRecord p)).trans (if_congr ?_ rfl rfl)
      simp [State.hasRecord, hsent, and_assoc]
    · subst hup
      let w := u.vxRecord core (State.hasRecord p)
      obtain ⟨vx, code, state, instrs, berths, frame⟩ := vx_stopped (h := h) (run := w.2.vxRun core h p (.berthUe b a) w.1) before
        (State.ready_serves hr) b a
      exact ⟨vx, code, state, instrs, berths, frame.framed⟩
  · intro m t
    have cycle : t = _ := State.vxRunCycle_writes hj hw hd ho hstop hsent hred hq htwo
    have apart : coreP core + 0x58 ≠ cnt core 14 := by unfold cnt; omega
    have count : State.LogOnly s (s.count (cnt core 14) 1) := (State.LogOnly.refl s).count _ _
    rw [cycle, State.rd_vxWrite_flags, State.rd_count_ne _ _ apart.symm, State.rd_vxWrite_ne _ _ _ _ _ _ apart]
    refine ⟨?_, rfl, State.rd_count_one .., berthsSame_iff.2 ?_, (count.coreFrame core).trans (State.coreFrame_vxWrite ..)⟩
    · rw [State.getCore_vxWrite, count.getCore]
    · exact (berthsSame_iff.1 (State.berthsSame_vxWrite ..)).trans (congrArg Core.berths (count.getCore core))

/-- Settles O16: both issue and enter as any instruction of the VXE does, vx.wharf with a run for the Wharf pipe. -/
theorem wharfAndSentinelEnterVxe : Obligations.WharfAndSentinelEnterVxe := by
  intro core s h p up ⟨hk, ha, hclock⟩ hc hup hh hr hg u hp hranges hv
  refine ⟨fun hop hdst => ?_, fun hop => ?_⟩
  · obtain ⟨d, hd⟩ := Option.isSome_iff_exists.1 hdst
    have issue : exec (.vxWharf core up) s = .next (s.framed (State.vxIssue (· == vWharf) core up s)) :=
      actCore_running (by simpa using hk) ha hclock
    have before := State.issuedRecord_within s core h p.v.fw
    have enter : u.vxWharfEnter core h p up
        = (u.vxRecord core p.v.fw).2.vxEnterRun core
            ((u.vxRecord core p.v.fw).2.wharfRunOf core h p up d (u.vxRecord core p.v.fw).1) up := by
      unfold State.vxWharfEnter
      rw [hd]
    rw [State.vxIssue_passes hc hh (by simp [hop]) hr hg hp hranges, if_pos (hv.trans hop), enter] at issue
    obtain ⟨vx, instrs, berths, frame⟩ := vx_entered (h := h) before hup
    have plane := (Core.vxe_of_sansRecord before.core).2.1
    exact ⟨_, _, issue, vx, rfl, before.frame.coreRc core, congrArg (fun pl : Plane => (p.v.n + 15) / 16 * max 1 pl.div) plane,
      rfl, rfl, instrs, berths, frame.framed⟩
  · have issue : exec (.vxSent core up) s = .next (s.framed (State.vxIssue (· == vSent) core up s)) :=
      actCore_running (by simpa using hk) ha hclock
    have before := State.issuedRecord_within s core h (State.hasRecord p)
    have sent : p.v.op = vSent := hv.trans hop
    have unrecorded : State.hasRecord p = false := by simp [State.hasRecord, sent]
    rw [State.vxIssue_passes hc hh (by simp [hop]) hr hg hp hranges, if_neg (by rw [sent]; decide)] at issue
    obtain ⟨vx, instrs, berths, frame⟩ := vx_entered (h := h) before hup
    refine ⟨_, _, issue, vx, before.frame.coreRc core, rfl, ?_, rfl, instrs, berths, frame.framed⟩
    exact (State.issuedRecord_number s core h (State.hasRecord p)).trans (if_neg (by simp [unrecorded]))

/-! Result groups (R104, R107, R279, R280). -/

namespace State

section
variable {s : State} {k g : Nat} {r : Run} {w : WharfRun} {rest : List Nat}

/-- The Wharf cycle in which a run awaits a group. -/
theorem wharfDue_group {now : Nat} (hw : r.wharf = some w) (hg : w.groups = g :: rest)
    (hfrom : r.issue + (g + w.lat) * w.div ≤ now) (hto : now < r.issue + (g + 1 + w.lat) * w.div) :
    wharfDue now r = some (w, g) := by
  simp [wharfDue, hw, hg, hfrom, hto]

/-- In a cycle in which no run awaits a group, a valid one is counted (R280). -/
theorem wharfResult_spurious (hnone : ∀ r ∈ (s.getCore k).vx, wharfDue (s.coreRc k) r = none) (valid ok : Bool)
    (words : List Word) : s.wharfResult k valid words ok = if valid then s.count (cnt k 31) 1 else s := by
  have find : ((s.getCore k).vx.find? fun r => (wharfDue (s.coreRc k) r).isSome) = none :=
    List.find?_eq_none.2 fun r hr => by simp [hnone r hr]
  unfold wharfResult
  rw [find]

section
variable (hx : (s.getCore k).vx = [r]) (hdue : wharfDue (s.coreRc k) r = some (w, g)) (words : List Word)
include hx hdue

/-- What the only run makes of the cycle in which it awaits group `g`. -/
theorem wharfResult_due (valid ok : Bool) :
    let l := wharfLand r.stamp w g words
    s.wharfResult k valid words ok = if ¬ valid then s.wharfFail k r w g 0x227 else if ¬ ok then s.wharfFail k r w g 0x221
      else s.vxWrite k (r.issue + (g + 1 + w.lat) * w.div + 3) { r with wharf := some { w with groups := w.groups.drop 1 } }
        { puts := [(w.space, l.1)], flags := l.2 } [] := by
  have find : ([r].find? fun r => (wharfDue (s.coreRc k) r).isSome) = some r := by simp [hdue]
  unfold wharfResult
  rw [hx, find]
  dsimp only
  rw [hdue]
  rfl

/-- A group that does not come, or comes with bad parity, ends the run. -/
theorem wharfResult_fails {valid ok : Bool} (hbad : valid = false ∨ ok = false) :
    s.wharfResult k valid words ok = s.wharfFail k r w g (if valid then 0x221 else 0x227) := by
  rw [wharfResult_due hx hdue words]
  cases valid with
  | false => rfl
  | true => simp [hbad.resolve_left (by decide)]

end

/-- A run that ends at group `g` is dead, and the core faults (R104, R107). -/
theorem wharfFail_faults (hd : r.dead = false) (code : Nat) :
    ∃ info r68, s.wharfFail k r w g code
      = (s.setVx k { r with dead := true, wharf := some { w with groups := [] } }).coreFault k code info r68 := by
  unfold wharfFail
  dsimp only
  rw [if_neg (by simp [hd])]
  split
  · exact ⟨_, _, rfl⟩
  · exact ⟨_, _, rfl⟩

theorem getCore_setVx_only {r' : Run} (hx : (s.getCore k).vx = [r]) (hi : r.inst = r'.inst) (hs : r.stream = r'.stream) :
    (s.setVx k r').getCore k = { s.getCore k with vx := [r'] } := by
  rw [getCore_setVx, hx, List.map_singleton, if_pos ⟨hi, hs⟩]

end
end State

section
variable {s : State} {core g : Nat} {r : Run} {w : WharfRun}

/-- A result group that is taken: its writes, its flags, the next group awaited, and what is as before. -/
theorem wharf_takes (hx : (s.getCore core).vx = [r]) (rc : Nat) (rest : List Nat) (l : List Put × Word) :
    let t := s.vxWrite core rc { r with wharf := some { w with groups := rest } } { puts := [(w.space, l.1)], flags := l.2 } []
    (t.getCore core).vx = [{ r with wharf := some { w with groups := rest }, flags := r.flags ||| l.2 }]
      ∧ (t.getCore core).vxLands = (s.getCore core).vxLands ++ [⟨rc, w.space, l.1, []⟩]
      ∧ t.rd (coreP core + 0x58) = s.rd (coreP core + 0x58) ||| l.2 ∧ berthsSame core s t ∧ coreFrame core s t := by
  intro t
  have behind := State.getCore_vxWrite s core rc { r with wharf := some { w with groups := rest } }
    { puts := [(w.space, l.1)], flags := l.2 } []
  have only := State.getCore_setVx_only (s := s) (k := core)
    (r' := { r with wharf := some { w with groups := rest }, flags := r.flags ||| l.2 }) hx rfl rfl
  rw [only] at behind
  exact ⟨congrArg Core.vx behind, congrArg Core.vxLands behind, State.rd_vxWrite_flags .., State.berthsSame_vxWrite ..,
    State.coreFrame_vxWrite ..⟩

/-- A run that ends at a group: the core's fault, and what is as before. -/
theorem wharf_fails (hx : (s.getCore core).vx = [r]) (hd : r.dead = false) (code : Nat) :
    let t := s.wharfFail core r w g code
    (t.getCore core).vx = [{ r with dead := true, wharf := some { w with groups := [] } }]
      ∧ t.faultCode (coreP core) = code % 2 ^ 12 ∧ (t.getCore core).vxLands = (s.getCore core).vxLands
      ∧ berthsSame core s t ∧ coreFrame core s t := by
  intro t
  obtain ⟨info, r68, fails⟩ := State.wharfFail_faults (s := s) (k := core) (w := w) (g := g) hd code
  have ended : t = _ := fails
  have only := State.getCore_setVx_only (s := s) (k := core)
    (r' := { r with dead := true, wharf := some { w with groups := [] } }) hx rfl rfl
  obtain ⟨frame, kept, -⟩ := State.coreFault_within
    (s.setVx core { r with dead := true, wharf := some { w with groups := [] } }) core code info r68
  rw [← ended] at frame kept
  rw [only] at kept
  obtain ⟨vx, lands, berths⟩ := Core.vxe_of_sansFault kept
  refine ⟨vx, ?_, lands, berthsSame_iff.2 berths, ((coreFrame.refl core s).modCore _).trans frame⟩
  rw [ended]
  exact State.faultCode_coreFault ..

end

/-- Settles O17: by whether the run awaits a group in the cycle, and whether it comes sound. -/
theorem wharfResultGroupIsTaken : Obligations.WharfResultGroupIsTaken := by
  intro core s valid ok words ⟨hk, ha, hclock⟩
  have result : exec (.wharfResultGroup core valid words ok) s = .next (s.framed (s.wharfResult core valid words ok)) :=
    actCore_running (by simpa using hk) ha hclock
  refine ⟨fun r w g rest hx hw hg hd hfrom hto => ?_, fun hnone => ?_⟩
  · have due := State.wharfDue_group hw hg hfrom hto
    refine ⟨fun hvalid hok => ?_, fun hbad => ?_⟩
    · subst hvalid hok
      have taken : s.wharfResult core true words true = _ := State.wharfResult_due hx due words true true
      rw [if_neg (by simp), if_neg (by simp), hg, List.drop_succ_cons, List.drop_zero] at taken
      intro l
      obtain ⟨vx, lands, flags, berths, frame⟩ := wharf_takes (w := w) hx (r.issue + (g + 1 + w.lat) * w.div + 3) rest l
      rw [taken] at result
      exact ⟨_, result, vx, lands, flags, berths, frame.framed⟩
    · rw [State.wharfResult_fails hx due words hbad] at result
      obtain ⟨vx, code, lands, berths, frame⟩ := wharf_fails (w := w) (g := g) hx hd (if valid then 0x221 else 0x227)
      refine ⟨_, _, result, vx, rfl, code.trans ?_, lands, berths, frame.framed⟩
      split <;> rfl
  · rw [State.wharfResult_spurious hnone] at result
    refine ⟨fun hvalid => ?_, fun hvalid => ?_⟩
    · subst hvalid
      have log : State.LogOnly s (s.count (cnt core 31) 1) := (State.LogOnly.refl s).count _ _
      exact ⟨_, result, State.rd_count_one .., rfl, fun a ha => State.rd_count_ne s 1 ha.symm, (log.coreFrame core).framed⟩
    · subst hvalid
      exact result

end Sys2Proof.Machine
end

section
/-! PROOF. What leaves device memory and host memory as they are (O59): one rule for each function of the state that a
command or the passage of time runs, in the order in which the functions call each other. -/

namespace Sys2Proof.Machine
namespace State

/-- The two memories outside the block. -/
def mems (s : State) : Mem × Mem := (s.devMem, s.hostMem)

theorem mems_pair_dev {s t : State} (h : t.mems = s.mems) : t.devMem = s.devMem := congrArg Prod.fst h

theorem mems_pair_host {s t : State} (h : t.mems = s.mems) : t.hostMem = s.hostMem := congrArg Prod.snd h

@[simp] theorem mems_pair (s : State) : (s.devMem, s.hostMem) = s.mems := by simp only [mems]

/-- Of a state that is written out, the two memories; stated as a rewriting rule, so that no proof compares two states field
by field. -/
@[simp] theorem mems_mk (pending clk build reg core region ctx queue bbol hostMem devMem rdata flog inReset quiet staged
    latched select net nextPkt quays remote nextId bbolIn bbolNow carve retired share once subst groups wload pilot boot
    update link convoy capStamp scan wir tapIr boundary rtWas lifeline lifelineAt testEn slipMode rootKey uniqueId quayPs) :
    mems ⟨pending, clk, build, reg, core, region, ctx, queue, bbol, hostMem, devMem, rdata, flog, inReset, quiet, staged,
      latched, select, net, nextPkt, quays, remote, nextId, bbolIn, bbolNow, carve, retired, share, once, subst, groups,
      wload, pilot, boot, update, link, convoy, capStamp, scan, wir, tapIr, boundary, rtWas, lifeline, lifelineAt, testEn,
      slipMode, rootKey, uniqueId, quayPs⟩ = (devMem, hostMem) := by
  simp only [mems]

/-! The ways in which effects are put together. -/

@[simp] theorem mems_ite (c : Prop) [Decidable c] (s t : State) :
    (if c then s else t).mems = if c then s.mems else t.mems := apply_ite ..

@[simp] theorem getD_ite (c : Prop) [Decidable c] (a b : Option State) (s : State) :
    (if c then a else b).getD s = if c then a.getD s else b.getD s := apply_ite (fun o => Option.getD o s) ..

@[simp] theorem snd_mems_ite {α : Type} (c : Prop) [Decidable c] (s t : α × State) :
    (if c then s else t).2.mems = if c then s.2.mems else t.2.mems := apply_ite (fun p : α × State => p.2.mems) ..

theorem snd_mems {α : Type} {x : α × State} {s t : State} {a : α} (e : x = (a, t)) (h : x.2.mems = s.mems) :
    t.mems = s.mems := by
  rw [← h, e]

theorem when_mems {f : State → State} (hf : ∀ s, (f s).mems = s.mems) (b : Bool) (s : State) :
    (when b f s).mems = s.mems := by
  unfold when
  split
  · exact hf s
  · rfl

@[simp] theorem foldl_mems {α : Type} {f : State → α → State} (hf : ∀ s a, (f s a).mems = s.mems) (l : List α)
    (s : State) : (l.foldl f s).mems = s.mems := by
  induction l generalizing s with
  | nil => rfl
  | cons a l ih => exact (ih _).trans (hf s a)

/-- The state in which an access to memory ends, granted or refused. -/
def Acc.state {α : Type} : Acc α → State
  | .ok _ s => s
  | .fail _ s => s

@[simp] theorem Acc.state_ok {α : Type} (a : α) (s : State) : Acc.state (.ok a s) = s := rfl

@[simp] theorem Acc.state_fail {α : Type} (st : Nat) (s : State) : Acc.state (.fail st s : Acc α) = s := rfl

@[simp] theorem Acc.state_ite {α : Type} (c : Prop) [Decidable c] (s t : Acc α) :
    (if c then s else t).state = if c then s.state else t.state := apply_ite ..

theorem Acc.mems_of {α : Type} {x y : Acc α} {m : Mem × Mem} (e : x = y) (h : x.state.mems = m) :
    y.state.mems = m := e ▸ h

theorem Acc.ok_mems {α : Type} {x : Acc α} {s t : State} {a : α} (e : x = .ok a t) (h : x.state.mems = s.mems) :
    t.mems = s.mems := Acc.mems_of e h

theorem Acc.fail_mems {α : Type} {x : Acc α} {s t : State} {st : Nat} (e : x = .fail st t) (h : x.state.mems = s.mems) :
    t.mems = s.mems := Acc.mems_of e h

/-! The functions of the state. -/

@[simp] theorem raise_mems (s : State) (q code : Nat) (i : Word) (x : Option Nat) (o : Nat) :
    (s.raise q code i x o).mems = s.mems := by
  simp [mems, -mems_pair]

@[simp] theorem logEntry_mems (s : State) (p c : Nat) (i : Word) (x : Option Nat) (o : Nat) :
    (s.logEntry p c i x o).mems = s.mems := by
  obtain ⟨r, f, g, h⟩ := logEntry_log s p c i x o
  rw [h]
  rfl

@[simp] theorem logFault_mems (s : State) (p c : Nat) (i : Word) (x : Option Nat) (o : Nat) :
    (s.logFault p c i x o).mems = s.mems := by
  obtain ⟨r, f, g, h⟩ := logFault_log s p c i x o
  rw [h]
  rfl

@[simp] theorem recordFault_mems (s : State) (p c : Nat) (i : Word) : (s.recordFault p c i).mems = s.mems := by
  obtain ⟨r, f, g, h⟩ := recordFault_log s p c i
  rw [h]
  rfl

@[simp] theorem wr_mems (s : State) (a : Nat) (v : Word) : (wr s a v).mems = s.mems := by
  simp [wr]

@[simp] theorem wrField_mems (s : State) (a hi lo x : Nat) : (wrField s a hi lo x).mems = s.mems := by
  simp [wrField]

@[simp] theorem orBits_mems (s : State) (a : Nat) (m : Word) : (orBits s a m).mems = s.mems := by
  simp [orBits]

@[simp] theorem event_mems (s : State) (page bit : Nat) : (event s page bit).mems = s.mems := by
  simp [event]

@[simp] theorem rangeDone_mems (s : State) (r : Nat) : (rangeDone s r).mems = s.mems := by
  simp [rangeDone]

@[simp] theorem setCtxState_mems (s : State) (c st : Nat) : (setCtxState s c st).mems = s.mems := by
  simp [setCtxState]

@[simp] theorem setQueue_mems (s : State) (q : Nat) (x : Queue) : (setQueue s q x).mems = s.mems := by
  simp [setQueue]

@[simp] theorem endItem_mems (s : State) (q status detail : Nat) : (endItem s q status detail).mems = s.mems := by
  unfold endItem
  dsimp only
  split <;> simp

@[simp] theorem endItems_mems (s : State) (c status : Nat) : (endItems s c status).mems = s.mems := by
  simp [endItems]

@[simp] theorem setCtx_mems (s : State) (c : Nat) (x : Ctx) : (setCtx s c x).mems = s.mems := by
  simp [setCtx]

@[simp] theorem modCtx_mems (s : State) (c : Nat) (f : Ctx → Ctx) : (modCtx s c f).mems = s.mems := by
  simp [modCtx]

@[simp] theorem loseCtx_mems (s : State) (c code : Nat) (r68 : Bool) : (loseCtx s c code r68).mems = s.mems := by
  simp [loseCtx]

@[simp] theorem count_mems (s : State) (a n : Nat) : (count s a n).mems = s.mems := by
  simp [count]

@[simp] theorem regionFault_mems (s : State) (r code : Nat) (info : Word) (c : Option Nat) :
    (regionFault s r code info c).mems = s.mems := by
  unfold regionFault
  split <;> simp

@[simp] theorem setRegion_mems (s : State) (r : Nat) (x : Region) : (setRegion s r x).mems = s.mems := by
  simp [setRegion]

@[simp] theorem modRegion_mems (s : State) (r : Nat) (f : Region → Region) : (modRegion s r f).mems = s.mems := by
  simp [modRegion]

@[simp] theorem takeSample_mems (s : State) (r sample : Nat) : (takeSample s r sample).mems = s.mems := by
  simp [takeSample]

@[simp] theorem tideStep_mems (s : State) (r sample : Nat) (parityOk : Bool) :
    (tideStep s r sample parityOk).mems = s.mems := by
  simp [tideStep]

@[simp] theorem chartCe_mems (s : State) (k : Nat) : (chartCe s k).mems = s.mems := by
  simp [chartCe]

@[simp] theorem setCore_mems (s : State) (k : Nat) (c : Core) : (setCore s k c).mems = s.mems := by
  simp [setCore]

@[simp] theorem modCore_mems (s : State) (k : Nat) (f : Core → Core) : (modCore s k f).mems = s.mems := by
  simp [modCore]

@[simp] theorem coreFault_mems (s : State) (k code : Nat) (info : Word) (r68 : Bool) :
    (coreFault s k code info r68).mems = s.mems := by
  unfold coreFault
  dsimp only
  split <;> simp

@[simp] theorem chartUe_mems (s : State) (k source w : Nat) : (chartUe s k source w).mems = s.mems := by
  simp [chartUe]

@[simp] theorem lateEvent_mems (s : State) (k c e cause ref late : Nat) :
    (lateEvent s k c e cause ref late).mems = s.mems := by
  simp [lateEvent]

@[simp] theorem lateIssue_mems (s : State) (k e : Nat) (h : Head) : (lateIssue s k e h).mems = s.mems := by
  simp [lateIssue]

@[simp] theorem unwatch_mems (s : State) (k : Nat) (h : Head) : (unwatch s k h).mems = s.mems := by
  simp [unwatch]

@[simp] theorem setEng_mems (s : State) (k e : Nat) (x : Eng) : (setEng s k e x).mems = s.mems := by
  simp [setEng]

@[simp] theorem issued_mems (s : State) (k e : Nat) (h : Head) : (issued s k e h).mems = s.mems := by
  simp [issued]

@[simp] theorem wr64_mems (s : State) (a v : Nat) : (wr64 s a v).mems = s.mems := by
  simp [wr64]

@[simp] theorem brkTrigger_mems (s : State) (k tag line stamp rc : Nat) :
    (brkTrigger s k tag line stamp rc).mems = s.mems := by
  unfold brkTrigger
  dsimp only
  split <;> simp

@[simp] theorem brkIssue_mems (s : State) (k e : Nat) (h : Head) : (brkIssue s k e h).mems = s.mems := by
  simp [brkIssue]

@[simp] theorem gatedFault_mems (s : State) (k berth a source : Nat) :
    (gatedFault s k berth a source).mems = s.mems := by
  simp [gatedFault]

@[simp] theorem berthCe_mems (s : State) (k : Nat) : (berthCe s k).mems = s.mems := by
  simp [berthCe]

@[simp] theorem vxEnter_mems (s : State) (k : Nat) (r : Run) : (vxEnter s k r).mems = s.mems := by
  simp [vxEnter]

@[simp] theorem vxEnterRun_mems (s : State) (k : Nat) (run : Run) (up : Upset) :
    (vxEnterRun s k run up).mems = s.mems := by
  unfold vxEnterRun
  split <;> simp

@[simp] theorem vxRecord_mems (s : State) (k : Nat) (fw : Bool) : (vxRecord s k fw).2.mems = s.mems := by
  unfold vxRecord
  split <;> simp

@[simp] theorem vxArith_mems (s : State) (k : Nat) (h : Head) (p : VPlan) (up : Upset) :
    (vxArith s k h p up).mems = s.mems := by
  simp [vxArith]

@[simp] theorem vxWharfEnter_mems (s : State) (k : Nat) (h : Head) (p : VPlan) (up : Upset) :
    (vxWharfEnter s k h p up).mems = s.mems := by
  unfold vxWharfEnter
  split <;> simp

@[simp] theorem vxStart_mems (s : State) (k : Nat) (h : Head) (up : Upset) : (vxStart s k h up).mems = s.mems := by
  unfold vxStart
  dsimp only
  (repeat' split) <;> simp

@[simp] theorem chartRead_mems (s : State) (k : Nat) (up : Upset) {f : State → State} (hf : ∀ s, (f s).mems = s.mems)
    :
    (s.chartRead k up f).mems = s.mems := by
  unfold chartRead; split <;> simp [hf]
@[simp] theorem vxIssue_mems (isOp : Nat → Bool) (k : Nat) (up : Upset) (s : State) :
    (vxIssue isOp k up s).mems = s.mems := by
  unfold vxIssue; split <;> simp

@[simp] theorem setChLink_mems (s : State) (l : ChLink) : (setChLink s l).mems = s.mems := by
  simp [setChLink]

@[simp] theorem injectAt_mems (s : State) (n : Node) (load : Load) (src dst : Port) (vc len ready : Nat) (all : Bool)
    :
    (injectAt s n load src dst vc len ready all).mems = s.mems := by
  simp [injectAt]

@[simp] theorem inject_mems (s : State) (load : Load) (src dst : Port) (vc len ready : Nat) :
    (inject s load src dst vc len ready).mems = s.mems := by
  simp [inject]

@[simp] theorem bbolLeaves_mems (s : State) (k : Nat) (o : BBolOp) : (bbolLeaves s k o).mems = s.mems := by
  simp [bbolLeaves]

@[simp] theorem quayFail_mems (s : State) (code pa : Nat) (write decerr : Bool) (source : Nat) :
    (quayFail s code pa write decerr source).mems = s.mems := by
  simp [quayFail]

@[simp] theorem toQuay_mems (s : State) (r : QReq) : (toQuay s r).mems = s.mems := by
  simp [toQuay]

@[simp] theorem ctxFatal_mems (s : State) (c code : Nat) (info : Word) : (ctxFatal s c code info).mems = s.mems := by
  simp [ctxFatal]

@[simp] theorem sendRemote_mems (s : State) (r : LineReq) (l : List LineReq) : (sendRemote s r l).mems = s.mems := by
  unfold sendRemote
  dsimp only
  split <;> simp

@[simp] theorem gateForward_mems (s : State) (c : Nat) (g : GateReq) (l : List GateReq) :
    (gateForward s c g l).mems = s.mems := by
  unfold gateForward
  split <;> simp

@[simp] theorem dropPacket_mems (s : State) (p : Packet) : (dropPacket s p).mems = s.mems := by
  simp [dropPacket]

@[simp] theorem drainNet_mems (s : State) (l : List Nat) : (drainNet s l).mems = s.mems := by
  simp [drainNet]

@[simp] theorem salvage_mems (s : State) (l : List Nat) : (salvage s l).mems = s.mems := by
  simp [salvage]

@[simp] theorem setPairState_mems (s : State) (c st : Nat) : (setPairState s c st).mems = s.mems := by
  simp [setPairState]

@[simp] theorem detachSide_mems (s : State) (c : Nat) : (detachSide s c).mems = s.mems := by
  unfold detachSide
  dsimp only
  split <;> simp

@[simp] theorem refuseWrite_mems (s : State) (p : Party) (a : Nat) : (refuseWrite s p a).mems = s.mems := by
  simp [refuseWrite]

@[simp] theorem configFault_mems (s : State) (page : Nat) (info : Word) :
    (configFault s page info).mems = s.mems := by
  simp [configFault]

@[simp] theorem accept_mems (s : State) (page : Nat) : (accept s page).mems = s.mems := by
  simp [accept]

@[simp] theorem setCap_mems (s : State) (st result : Nat) : (setCap s st result).mems = s.mems := by
  simp [setCap]

@[simp] theorem capCancel_mems (s : State) : (capCancel s).mems = s.mems := by
  simp [capCancel]

@[simp] theorem capArm_mems (s : State) (r : Nat) : (capArm s r).mems = s.mems := by
  simp [capArm]

@[simp] theorem wrCap_mems (v : Word) (s : State) : ((wrCap v s).getD s).mems = s.mems := by
  unfold wrCap
  split <;> simp

@[simp] theorem rtEnd_mems (s : State) (q : Nat) : (rtEnd s q).mems = s.mems := by
  simp [rtEnd]

@[simp] theorem modQueue_mems (s : State) (q : Nat) (f : Queue → Queue) : (modQueue s q f).mems = s.mems := by
  simp [modQueue]

@[simp] theorem modExec_mems (s : State) (q : Nat) (f : Exec → Exec) : (modExec s q f).mems = s.mems := by
  simp [modExec]

@[simp] theorem failCmd_mems (s : State) (q status detail at_ : Nat) :
    (failCmd s q status detail at_).mems = s.mems := by
  simp [failCmd]

@[simp] theorem translate_mems (s : State) (c va : Nat) (write : Bool) :
    (translate s c va write).2.mems = s.mems := by
  unfold translate
  (repeat' split) <;> simp

@[simp] theorem cmdPage_mems (s : State) (c va : Nat) (write must : Bool) :
    (cmdPage s c va write must).state.mems = s.mems := by
  unfold cmdPage
  split
  · next e =>
    have page := snd_mems e (translate_mems ..)
    split
    · exact (ctxFatal_mems ..).trans page
    · split
      · exact page
      · exact (quayFail_mems ..).trans page
  · next e =>
    have page := snd_mems e (translate_mems ..)
    split
    · exact (ctxFatal_mems ..).trans page
    · exact ((wr64_mems ..).trans (raise_mems ..)).trans page
  · next e => exact (ctxFatal_mems ..).trans (snd_mems e (translate_mems ..))

@[simp] theorem quayLines_mems (s : State) (pa n : Nat) (write : Bool) : (quayLines s pa n write).mems = s.mems := by
  simp [quayLines]

@[simp] theorem cmdRead_mems (s : State) (c : Nat) (must : Bool) (asked : Bool) (l : List (Nat × Nat)) (acc : List
    Byte) :
    (cmdRead s c must asked l acc).state.mems = s.mems := by
  induction l generalizing s acc with
  | nil => simp [cmdRead]
  | cons e l ih => unfold cmdRead; split <;> next e => simpa [ih] using Acc.mems_of e (cmdPage_mems ..)

@[simp] theorem relocHandle_mems (s : State) (c : Nat) (ref : DWord) (len : Nat) :
    (relocHandle s c ref len).state.mems = s.mems := by
  unfold relocHandle
  extract_lets h off
  split
  · rfl
  split <;> next e => simpa using Acc.mems_of e (cmdRead_mems ..)

@[simp] theorem reloc_mems (s : State) (q : Nat) (ref : DWord) (len : Nat) :
    (reloc s q ref len).state.mems = s.mems := by
  unfold reloc
  split <;> simp

@[simp] theorem readLoc_mems (s : State) (q a n : Nat) (asked : Bool) :
    (readLoc s q a n asked).state.mems = s.mems := by
  simp [readLoc]

@[simp] theorem taskBuffer_mems (s : State) (q : Nat) : (taskBuffer s q).state.mems = s.mems := by
  unfold taskBuffer
  dsimp only
  split <;> next e => simpa using Acc.mems_of e (reloc_mems ..)

@[simp] theorem modTop_mems (s : State) (q : Nat) (f : CFrame → CFrame) : (modTop s q f).mems = s.mems := by
  simp [modTop]

@[simp] theorem condValue_mems (s : State) (q cond : Nat) (ref value : DWord) :
    (condValue s q cond ref value).state.mems = s.mems := by
  unfold condValue
  dsimp only
  split
  · split
    · next e => exact Acc.fail_mems e (reloc_mems ..)
    · next e =>
      split <;> next e' => simpa using (Acc.mems_of e' (readLoc_mems ..)).trans (Acc.ok_mems e (reloc_mems ..))
  · simp

@[simp] theorem settle_mems (n q : Nat) (s : State) : (settle n q s).mems = s.mems := by
  induction n generalizing s with
  | zero => rfl
  | succ n ih =>
    unfold settle
    dsimp only
    (repeat' split) <;> simp [ih] <;> grind [condValue_mems, Acc.state]

@[simp] theorem qFlags_mems (s : State) (q : Nat) : (qFlags s q).mems = s.mems := by
  simp [qFlags]

@[simp] theorem begin_mems (s : State) (q : Nat) : (begin_ s q).mems = s.mems := by
  unfold begin_
  dsimp only
  split
  · split
    · split
      · split <;> next e => simpa using Acc.mems_of e (taskBuffer_mems ..)
      · simp
    · rfl
  · rfl

@[simp] theorem failHere_mems (s : State) (q status : Nat) : (failHere s q status).mems = s.mems := by
  unfold failHere
  split <;> simp

@[simp] theorem advance_mems (s : State) (q : Nat) : (advance s q).mems = s.mems := by
  simp [advance]

@[simp] theorem cmdWait_mems (q : Nat) (c : Cmd) (s : State) : (cmdWait q c s).mems = s.mems := by
  unfold cmdWait
  split <;> next e => simpa using Acc.mems_of e (condValue_mems ..)

@[simp] theorem resetState_mems (s : State) : (resetState s).mems = s.mems := by
  simp [resetState]

@[simp] theorem resetAssert_mems (s : State) : (resetAssert s).mems = s.mems := by
  simp [resetAssert]

@[simp] theorem captureStop_mems (s : State) (r c : Nat) : (captureStop s r c).mems = s.mems := by
  simp [captureStop]

@[simp] theorem capFreeze_mems (s : State) : (capFreeze s).mems = s.mems := by
  simp [capFreeze]

@[simp] theorem putCtr_mems (s : State) (k i : Nat) (v : Word) : (putCtr s k i v).mems = s.mems := by
  simp [putCtr]

@[simp] theorem retireSoon_mems (s : State) (k e : Nat) (h : Head) : (retireSoon s k e h).mems = s.mems := by
  simp [retireSoon]

@[simp] theorem queueTimeout_mems (s : State) (q : Nat) : (queueTimeout s q).mems = s.mems := by
  unfold queueTimeout
  (repeat' split) <;> simp

@[simp] theorem modConvoy_mems (s : State) (f : Convoy → Convoy) : (modConvoy s f).mems = s.mems := by
  simp [modConvoy]

@[simp] theorem attn_mems (s : State) : (attn s).mems = s.mems := by
  simp [attn]

@[simp] theorem loseMember_mems (s : State) (m : Nat) : (loseMember s m).mems = s.mems := by
  simp [loseMember]

@[simp] theorem loseDark_mems (s : State) : (loseDark s).mems = s.mems := by
  simp [loseDark]

@[simp] theorem setLink_mems (s : State) (j : Nat) (x : Link) : (setLink s j x).mems = s.mems := by
  simp [setLink]

@[simp] theorem setLinkState_mems (s : State) (j st : Nat) : (setLinkState s j st).mems = s.mems := by
  simp [setLinkState]

@[simp] theorem darken_mems (s : State) (j : Nat) : (darken s j).mems = s.mems := by
  simp [darken]

@[simp] theorem jettyFault_mems (s : State) (j code detail seq : Nat) :
    (jettyFault s j code detail seq).mems = s.mems := by
  simp [jettyFault]

@[simp] theorem jettyRetry_mems (s : State) (j : Nat) : (jettyRetry s j).mems = s.mems := by
  unfold jettyRetry
  split <;> simp

@[simp] theorem gateMatch_mems (s : State) (c mindex path : Nat) : (gateMatch s c mindex path).mems = s.mems := by
  unfold gateMatch
  dsimp only
  split <;> simp

@[simp] theorem queueFault_mems (s : State) (q code : Nat) : (queueFault s q code).mems = s.mems := by
  simp [queueFault]

@[simp] theorem deferLeg_mems (s : State) (c : Nat) : (deferLeg s c).mems = s.mems := by
  unfold deferLeg
  split <;> simp

@[simp] theorem rtOpen_mems (s : State) (q : Nat) : (rtOpen s q).mems = s.mems := by
  simp [rtOpen]

@[simp] theorem wrDoorbell_mems (q : Nat) (v : Word) (s : State) : ((wrDoorbell q v s).getD s).mems = s.mems := by
  simp [wrDoorbell]

@[simp] theorem holdArrival_mems (s : State) (k : Nat) : (holdArrival s k).mems = s.mems := by
  unfold holdArrival
  split <;> simp

@[simp] theorem bolQueue_mems (s : State) (k : Nat) (o : BolOp) : (bolQueue s k o).mems = s.mems := by
  simp [bolQueue]

@[simp] theorem wrBol_mems (k b : Nat) (v : Word) (s : State) : ((wrBol k b v s).getD s).mems = s.mems := by
  simp [wrBol]

@[simp] theorem setStream_mems (s : State) (k : Nat) (store : Bool) (slot : Nat) (x : Stream) :
    (setStream s k store slot x).mems = s.mems := by
  simp [setStream]

@[simp] theorem chunkWait_mems (s : State) (k : Nat) (store : Bool) (slot : Nat) :
    (chunkWait s k store slot).mems = s.mems := by
  unfold chunkWait
  dsimp only
  (repeat' split) <;> simp

@[simp] theorem basinDrop_mems (s : State) (r c la : Nat) : (basinDrop s r c la).mems = s.mems := by
  simp [basinDrop]

@[simp] theorem basinMod_mems (s : State) (r c la : Nat) (f : BLine → BLine) :
    (basinMod s r c la f).mems = s.mems := by
  simp [basinMod]

@[simp] theorem basinPut_mems (s : State) (r c la : Nat) (data : List Byte) :
    (basinPut s r c la data).mems = s.mems := by
  unfold basinPut
  dsimp only
  (repeat' split) <;> simp

@[simp] theorem planKept_mems (s : State) (r c la : Nat) : (planKept s r c la).mems = s.mems := by
  simp [planKept]

@[simp] theorem planLost_mems (s : State) (r c la : Nat) : (planLost s r c la).mems = s.mems := by
  simp [planLost]

@[simp] theorem pinRefused_mems (s : State) (r c la : Nat) : (pinRefused s r c la).mems = s.mems := by
  simp [pinRefused]

@[simp] theorem pinLine_mems (s : State) (r c la : Nat) : (pinLine s r c la).2.mems = s.mems := by
  unfold pinLine
  (repeat' split) <;> simp

@[simp] theorem wayError_mems (s : State) (r w : Nat) : (wayError s r w).mems = s.mems := by
  simp [wayError]

@[simp] theorem basinDataLoss_mems (s : State) (r : Nat) (l : BLine) : (basinDataLoss s r l).mems = s.mems := by
  simp [basinDataLoss]

@[simp] theorem basinTagLoss_mems (s : State) (r set w : Nat) : (basinTagLoss s r set w).mems = s.mems := by
  simp [basinTagLoss]

@[simp] theorem freshId_mems (s : State) : (freshId s).2.mems = s.mems := by
  simp [freshId]

@[simp] theorem basinRefetch_mems (s : State) (r : Nat) (l : BLine) : (basinRefetch s r l).mems = s.mems := by
  simp [basinRefetch]

@[simp] theorem basinCe_mems (s : State) (r : Nat) : (basinCe s r).mems = s.mems := by
  simp [basinCe]

@[simp] theorem wrResume_mems (c v : Nat) (s : State) : ((wrResume c v s).getD s).mems = s.mems := by
  simp [wrResume]
  split <;> simp

@[simp] theorem raiseCap_mems (s : State) (r idx : Nat) : (raiseCap s r idx).mems = s.mems := by
  simp [raiseCap]

@[simp] theorem stageAll_mems (s : State) (w : WLoad) (f : Plane → Plane) : (stageAll s w f).mems = s.mems := by
  simp [stageAll]

@[simp] theorem wloadReject_mems (s : State) (w : WLoad) (headed : Bool) (code : Nat) :
    (wloadReject s w headed code).mems = s.mems := by
  simp [wloadReject]

@[simp] theorem wloadResolve_mems (s : State) (key used : Nat) (w : WLoad) :
    (wloadResolve s key used w).mems = s.mems := by
  simp [wloadResolve]

@[simp] theorem wharfPowerLoss_mems (s : State) (r : Nat) : (wharfPowerLoss s r).mems = s.mems := by
  simp [wharfPowerLoss]

@[simp] theorem driveCode_mems (s : State) (r n : Nat) : (driveCode s r n).mems = s.mems := by
  simp [driveCode]

@[simp] theorem clearNet_mems (s : State) (r : Nat) : (clearNet s r).mems = s.mems := by
  simp [clearNet]

@[simp] theorem regionOff_mems (s : State) (r code : Nat) (info : Word) :
    (regionOff s r code info).mems = s.mems := by
  simp [regionOff]

@[simp] theorem leaveGroup_mems (s : State) (page : Nat) : (leaveGroup s page).mems = s.mems := by
  simp [leaveGroup]

@[simp] theorem refusePage_mems (s : State) (page : Nat) : (refusePage s page).mems = s.mems := by
  simp [refusePage]

@[simp] theorem refuseGroup_mems (s : State) (g : Group) : (refuseGroup s g).mems = s.mems := by
  simp [refuseGroup]

@[simp] theorem joinGroup_mems (s : State) (want : Nat) (m : Commit) : (joinGroup s want m).mems = s.mems := by
  unfold joinGroup
  split <;> simp

@[simp] theorem armVals_mems (s : State) (page want : Nat) (vals : List (Nat × Word)) :
    (armVals s page want vals).mems = s.mems := by
  simp [armVals]

@[simp] theorem armPage_mems (s : State) (page : Nat) : (armPage s page).mems = s.mems := by
  unfold armPage
  dsimp only
  (repeat' split) <;> simp

@[simp] theorem pilotCommit_mems (s : State) (page : Nat) (vals : List (Nat × Word)) :
    (pilotCommit s page vals).mems = s.mems := by
  simp [pilotCommit]

@[simp] theorem replanStep_mems (s : State) (r : Nat) (margin : Int) (n : Nat) :
    (replanStep s r margin n).mems = s.mems := by
  simp [replanStep]

@[simp] theorem gaugeReading_mems (s : State) (r : Nat) (margins : List (BitVec 16)) (hits : Nat) :
    (gaugeReading s r margins hits).mems = s.mems := by
  simp [gaugeReading]
  split <;> simp

theorem takeMsg_mems {s t : State} {k src : Nat} {link : Bool} {m : Msg} (h : s.takeMsg k src link = some (m, t)) :
    t.mems = s.mems := by
  unfold takeMsg at h
  grind [modCore_mems]
@[simp] theorem remoteAdd_mems (s : State) (k : Nat) (src : Nat) (link : Bool) :
    (remoteAdd s k src link).mems = s.mems := by
  unfold remoteAdd; split
  · next h => simp [takeMsg_mems h]
  · rfl

@[simp] theorem ctxResult_mems (s : State) (c n : Nat) : (ctxResult s c n).mems = s.mems := by
  simp [ctxResult]

@[simp] theorem startCtx_mems (s : State) (c : Nat) : (startCtx s c).mems = s.mems := by
  simp [startCtx]

@[simp] theorem takeRegion_mems (s : State) (c r : Nat) : (takeRegion s c r).mems = s.mems := by
  unfold takeRegion
  exact foldl_mems (fun t i => by dsimp only; split <;> simp) _ _

@[simp] theorem setRow_mems (s : State) (r idx : Nat) : (setRow s r idx).mems = s.mems := by
  simp [setRow]

@[simp] theorem applyClock_mems (s : State) (r : Nat) : (applyClock s r).mems = s.mems := by
  simp [applyClock]
  split <;> simp

@[simp] theorem modeApply_mems (s : State) (v : Word) : (modeApply s v).mems = s.mems := by
  simp [modeApply]

@[simp] theorem waysApply_mems (s : State) (r : Nat) (v : Word) : (waysApply s r v).mems = s.mems := by
  simp [waysApply]

@[simp] theorem gateApply_mems (s : State) (k : Nat) (v : Word) : (gateApply s k v).mems = s.mems := by
  simp [gateApply]

@[simp] theorem planeApply_mems (s : State) (r : Nat) (vals : List (Nat × Word)) :
    (planeApply s r vals).mems = s.mems := by
  simp [planeApply]

@[simp] theorem applyPage_mems (s : State) (m : Commit) : (applyPage s m).mems = s.mems := by
  unfold applyPage
  dsimp only
  split <;> simp

@[simp] theorem openAccept_mems (s : State) (c : Nat) : (openAccept s c).mems = s.mems := by
  simp [openAccept]

@[simp] theorem setUpd_mems (s : State) (n : Nat) : (setUpd s n).mems = s.mems := by
  simp [setUpd]

@[simp] theorem updFail_mems (s : State) (code : Nat) : (updFail s code).mems = s.mems := by
  simp [updFail]

@[simp] theorem unbindQueue_mems (s : State) (q : Nat) : (unbindQueue s q).mems = s.mems := by
  simp [unbindQueue]

@[simp] theorem destroyCtx_mems (s : State) (c : Nat) : (destroyCtx s c).mems = s.mems := by
  simp [destroyCtx]

@[simp] theorem wrCtx_mems (c : Nat) (v : Word) (s : State) : ((wrCtx c v s).getD s).mems = s.mems := by
  simp [wrCtx]
  split <;> simp

@[simp] theorem fetchEng_mems (s : State) (k e : Nat) : (fetchEng s k e).mems = s.mems := by
  unfold fetchEng
  dsimp only
  (repeat' split) <;> simp

@[simp] theorem startStream_mems (s : State) (k e n : Nat) : (startStream s k e n).mems = s.mems := by
  unfold startStream
  split <;> simp

@[simp] theorem promoteEng_mems (s : State) (k e : Nat) : (promoteEng s k e).mems = s.mems := by
  simp [promoteEng]

@[simp] theorem retire_mems (s : State) (k e num : Nat) (i : Inst) (tag line stamp rc : Nat) :
    (retire s k e num i tag line stamp rc).mems = s.mems := by
  unfold retire
  dsimp only
  (repeat' split) <;> simp

@[simp] theorem sendMsg_mems (s : State) (t : Nat) (m : Msg) : (sendMsg s t m).mems = s.mems := by
  simp [sendMsg]

@[simp] theorem post_mems (s : State) (k t : Nat) (link : Bool) (m : MsgKind) :
    (post s k t link m).mems = s.mems := by
  simp [post]

@[simp] theorem fenceProbes_mems (s : State) (k : Nat) : (fenceProbes s k).mems = s.mems := by
  simp [fenceProbes]

@[simp] theorem sendArrival_mems (s : State) (c k id : Nat) : (sendArrival s c k id).mems = s.mems := by
  simp [sendArrival]

@[simp] theorem streamRetire_mems (s : State) (k : Nat) (store : Bool) (slot : Nat) (x : Stream) :
    (streamRetire s k store slot x).mems = s.mems := by
  unfold streamRetire
  dsimp only
  split <;> simp

@[simp] theorem send_mems (s : State) (k t : Nat) (link : Bool) (m : MsgKind) :
    (send s k t link m).mems = s.mems := by
  simp [send]

@[simp] theorem chunkComplete_mems (s : State) (k : Nat) (store : Bool) (slot : Nat) :
    (chunkComplete s k store slot).mems = s.mems := by
  unfold chunkComplete
  dsimp only
  (repeat' split) <;> simp

@[simp] theorem holdCtx_mems (s : State) (c tf : Nat) : (holdCtx s c tf).mems = s.mems := by
  simp [holdCtx]

@[simp] theorem wrHold_mems (c : Nat) (v : Word) (s : State) : ((wrHold c v s).getD s).mems = s.mems := by
  simp [wrHold]

@[simp] theorem answer_mems (s : State) (n : Node) (src : Port) (r : LineReq) (data : List Byte) (ready : Nat) :
    (answer s n src r data ready).mems = s.mems := by
  simp [answer]

@[simp] theorem fillServe_mems (s : State) (r c la : Nat) (l : List LineReq) (data : List Byte) :
    (fillServe s r c la l data).1.mems = s.mems := by
  induction l generalizing s data with
  | nil => rfl
  | cons q l ih => unfold fillServe; split <;> simp [ih]

@[simp] theorem hintWrite_mems (s : State) (r c : Nat) (q : LineReq) : (hintWrite s r c q).mems = s.mems := by
  simp [hintWrite]

@[simp] theorem stalest_mems (s : State) (r c la : Nat) : (stalest s r c la).mems = s.mems := by
  simp [stalest]

@[simp] theorem newest_mems (s : State) (r c la : Nat) : (newest s r c la).mems = s.mems := by
  simp [newest]

@[simp] theorem hintRead_mems (s : State) (r c la hint : Nat) : (hintRead s r c la hint).mems = s.mems := by
  unfold hintRead
  split <;> simp

@[simp] theorem fillComplete_mems (s : State) (r : Nat) : (fillComplete s r).mems = s.mems := by
  unfold fillComplete
  split <;> simp

@[simp] theorem cmdIf_mems (q : Nat) (c : Cmd) (s : State) : (cmdIf q c s).mems = s.mems := by
  unfold cmdIf
  dsimp only
  split
  · simp
  · split <;> next e => simpa using Acc.mems_of e (condValue_mems ..)

@[simp] theorem dropLaunch_mems (s : State) (c : Nat) (l : Launch) : (dropLaunch s c l).mems = s.mems := by
  simp [dropLaunch]

@[simp] theorem joinFill_mems (s : State) (r c la : Nat) (q : LineReq) : (joinFill s r c la q).mems = s.mems := by
  simp [joinFill]

@[simp] theorem rangeLine_mems (s : State) (r c op pa : Nat) : (rangeLine s r c op pa).2.mems = s.mems := by
  simp [rangeLine]

theorem translate_mems_of {s t : State} {c va : Nat} {w : Bool} {r : Trans} (h : s.translate c va w = (r, t)) :
    t.mems = s.mems :=
  congrArg (·.2.mems) h ▸ translate_mems s c va w
@[simp] theorem pinLines_mems (r c n va : Nat) (s : State) : (pinLines r c n va s).2.mems = s.mems := by
  induction n generalizing s va with
  | zero => rfl
  | succ n ih =>
    unfold pinLines
    split
    · next h => simp [ih, translate_mems_of h]
    · next h => exact translate_mems_of h

theorem foldl_pair_mems {α β : Type} {f : β × State → α → β × State} (hf : ∀ p a, (f p a).2.mems = p.2.mems) (l : List
    α) (p : β × State) :
    (l.foldl f p).2.mems = p.2.mems := by
  induction l generalizing p with
  | nil => rfl
  | cons a l ih => exact (ih _).trans (hf p a)
@[simp] theorem pinPlan_mems (s : State) (c : Nat) (m : List Byte) : (pinPlan s c m).2.mems = s.mems := by
  unfold pinPlan
  exact foldl_pair_mems (fun p x => foldl_pair_mems (fun p y => foldl_pair_mems (fun p r => by simp) _ _) _ _) _ _

@[simp] theorem activation_mems (s : State) (c : Nat) (m : List Byte) : (activation s c m).2.mems = s.mems := by
  unfold activation; split <;> simp

@[simp] theorem modLaunch_mems (s : State) (c id : Nat) (f : Launch → Launch) :
    (modLaunch s c id f).mems = s.mems := by
  simp [modLaunch]

@[simp] theorem pollQueue_mems (s : State) (mem : Bool) (q : Nat) : (pollQueue s mem q).mems = s.mems := by
  unfold pollQueue
  split
  · rfl
  next e _ =>
  extract_lets st
  split
  · rfl
  split
  · rfl
  next c _ =>
  split
  · simp
  split
  · split
    · rfl
    · have h := condValue_mems s q c.arg (c.word 0) (c.word 1)
      split <;> next h' => rw [h'] at h; simpa using h
  · simp

@[simp] theorem resumeLeads_mems (s : State) : (resumeLeads s).mems = s.mems := by
  simp [resumeLeads]

@[simp] theorem crewLead_mems (s : State) (c : Nat) : (crewLead s c).mems = s.mems := by
  unfold crewLead
  extract_lets s1 st
  have h1 : s1.mems = s.mems := by unfold s1; split <;> simp
  split
  · exact h1
  split
  · exact h1
  dsimp only
  split <;> next e => simp [snd_mems e (activation_mems ..), h1]

@[simp] theorem bootErr_mems (s : State) (code : Nat) : (bootErr s code).mems = s.mems := by
  simp [bootErr]

@[simp] theorem bootFault_mems (s : State) (code : Nat) (info : Word) (outcome : Nat) :
    (bootFault s code info outcome).mems = s.mems := by
  simp [bootFault]

@[simp] theorem setBoot_mems (s : State) (st : Nat) : (setBoot s st).mems = s.mems := by
  simp [setBoot]

@[simp] theorem quietAssert_mems (s : State) : (quietAssert s).mems = s.mems := by
  simp [quietAssert]

@[simp] theorem pilotLost_mems (s : State) : (pilotLost s).mems = s.mems := by
  simp [pilotLost]

@[simp] theorem lsStart_mems (s : State) (k : Nat) (store : Bool) (h : Head) (slot : Nat) :
    (lsStart s k store h slot).mems = s.mems := by
  unfold lsStart
  dsimp only
  (repeat' split) <;> simp

@[simp] theorem lsIssue_mems (store : Bool) (isOp : Nat → Bool) (k : Nat) (up : Upset) (s : State) :
    (lsIssue store isOp k up s).mems = s.mems := by
  unfold lsIssue
  dsimp only
  (repeat' split) <;> simp

@[simp] theorem wayUseChange_mems (s : State) (r : Nat) : (wayUseChange s r).mems = s.mems := by
  simp [wayUseChange]

@[simp] theorem pauseLeads_mems (s : State) (limit : Nat) : (pauseLeads s limit).mems = s.mems := by
  simp [pauseLeads]

@[simp] theorem swapVoyages_mems (s : State) (c a b : Nat) : (swapVoyages s c a b).mems = s.mems := by
  unfold swapVoyages
  dsimp only
  split <;> simp

@[simp] theorem updSwitch_mems (s : State) (want : Nat) (cores : List Nat) :
    (updSwitch s want cores).mems = s.mems := by
  simp [updSwitch]

@[simp] theorem crewStart_mems (s : State) (img : List Byte) : (crewStart s img).mems = s.mems := by
  simp [crewStart]

@[simp] theorem runImage_mems (s : State) (kind : Nat) (img : List Byte) : (runImage s kind img).mems = s.mems := by
  simp [runImage]

@[simp] theorem updRevert_mems (s : State) (auto : Bool) (code : Nat) : (updRevert s auto code).mems = s.mems := by
  unfold updRevert
  split <;> simp

@[simp] theorem pilotFault_mems (s : State) (code : Nat) : (pilotFault s code).mems = s.mems := by
  simp [pilotFault]

@[simp] theorem wrFlogRead_mems (v : Word) (s : State) : ((wrFlogRead v s).getD s).mems = s.mems := by
  simp [wrFlogRead]

@[simp] theorem comparePoint_mems (s : State) (c : Nat) : (comparePoint s c).mems = s.mems := by
  simp [comparePoint]

@[simp] theorem legEnd_mems (s : State) (c : Nat) : (legEnd s c).mems = s.mems := by
  unfold legEnd
  dsimp only
  (repeat' split) <;> simp

@[simp] theorem rewind_mems (s : State) (j : Nat) : (rewind s j).mems = s.mems := by
  simp [rewind]

@[simp] theorem replayTimeout_mems (s : State) (j : Nat) : (replayTimeout s j).mems = s.mems := by
  simp [replayTimeout]

@[simp] theorem wloadState_mems (s : State) (w : WLoad) (st : Nat) : (wloadState s w st).mems = s.mems := by
  simp [wloadState]

@[simp] theorem wloadHeader_mems (s : State) (key : Nat) (w : WLoad) : (wloadHeader s key w).2.mems = s.mems := by
  simp [wloadHeader]

@[simp] theorem wloadGolden_mems (s : State) (code r : Nat) (regs : List Nat) :
    (s.wloadGolden code r regs).mems = s.mems := by
  unfold wloadGolden
  extract_lets g h w
  split
  · simp
  split
  · rfl
  have head := wloadHeader_mems s r w
  split <;> next eq => rw [eq] at head; simpa using head

@[simp] theorem wloadFail_mems (s : State) (key : Nat) (w : WLoad) (headed : Bool) (code : Nat) :
    (wloadFail s key w headed code).mems = s.mems := by
  simp [wloadFail]

@[simp] theorem wloadBegin_mems (s : State) (key : Nat) (w : WLoad) : (wloadBegin s key w).mems = s.mems := by
  unfold wloadBegin
  split <;> next e => simp [snd_mems e (wloadHeader_mems ..)]

@[simp] theorem wrWload_mems (r : Nat) (v : Word) (s : State) : ((wrWload r v s).getD s).mems = s.mems := by
  simp [wrWload]

@[simp] theorem give_mems (s : State) (p : Party) (v : Word) : (give s p v).mems = s.mems := by
  simp [give]

@[simp] theorem berthPut_mems (s : State) (k berth a : Nat) (l : List Byte) :
    (berthPut s k berth a l).mems = s.mems := by
  simp [berthPut]

@[simp] theorem setSel_mems (s : State) (p : Party) (a : Nat) (v : Word) : (setSel s p a v).mems = s.mems := by
  simp [setSel]

@[simp] theorem winAccess_mems (s : State) (p : Party) (k : Nat) (w : Option Word) (up : Upset) :
    (winAccess s p k w up).mems = s.mems := by
  unfold winAccess
  dsimp only
  (repeat' split) <;> simp

theorem bind_mems {o : Option State} {f : State → Option State} {s : State} (ho : (o.getD s).mems = s.mems) (hf : ∀ t,
    ((f t).getD t).mems = t.mems) :
    ((o.bind f).getD s).mems = s.mems := by
  cases o with
  | none => rfl
  | some t =>
    have h := hf t
    cases hft : f t with
    | none => simp [hft]
    | some u => simp_all
@[simp] theorem flushQueue_mems (s : State) (q : Nat) : ((flushQueue s q).getD s).mems = s.mems := by
  unfold flushQueue
  split
  · rfl
  · extract_lets x last s1 s2 s3
    have h2 : s2.mems = s.mems := by
      unfold s2
      split
      · rfl
      · exact modQueue_mems ..
    exact (qFlags_mems ..).trans ((modQueue_mems ..).trans h2)

@[simp] theorem resetQueue_mems (s : State) (q : Nat) : ((resetQueue s q).getD s).mems = s.mems := by
  simp [resetQueue]

@[simp] theorem bindQueue_mems (s : State) (q : Nat) : ((bindQueue s q).getD s).mems = s.mems := by
  simp [bindQueue]

@[simp] theorem unbindReq_mems (s : State) (q : Nat) : ((unbindReq s q).getD s).mems = s.mems := by
  simp [unbindReq]

@[simp] theorem wrQctrl_mems (q : Nat) (v : Word) (s : State) : ((wrQctrl q v s).getD s).mems = s.mems := by
  unfold wrQctrl
  extract_lets s1 s2 s3
  have h1 : (s1.getD s).mems = s.mems := by unfold s1; split <;> simp
  have h2 : (s2.getD s).mems = s.mems := by unfold s2; split; exacts [bind_mems h1 fun t => resetQueue_mems t q, h1]
  have h3 : (s3.getD s).mems = s.mems := by unfold s3; split; exacts [bind_mems h2 fun t => unbindReq_mems t q, h2]
  split
  exacts [bind_mems h3 fun t => bindQueue_mems t q, h3]

@[simp] theorem wrCapInject_mems (v : Word) (s : State) : ((wrCapInject v s).getD s).mems = s.mems := by
  unfold wrCapInject
  dsimp only
  split <;> simp

@[simp] theorem loadTide_mems (s : State) (r : Nat) : (loadTide s r).mems = s.mems := by
  simp [loadTide]

@[simp] theorem capReleased_mems (s : State) : (capReleased s).mems = s.mems := by
  simp [capReleased]

@[simp] theorem barrierRelease_mems (s : State) (c : Nat) : (barrierRelease s c).mems = s.mems := by
  simp [barrierRelease]

@[simp] theorem controlUe_mems (s : State) (c path : Nat) : (controlUe s c path).mems = s.mems := by
  simp [controlUe]

@[simp] theorem sendFlit_mems (s : State) (j seq typ vcSlots dst src hops : Nat) (body : List Byte) :
    (sendFlit s j seq typ vcSlots dst src hops body).2.mems = s.mems := by
  simp [sendFlit]

@[simp] theorem sendControl_mems (s : State) (j typ : Nat) (body : List Byte) :
    (sendControl s j typ body).mems = s.mems := by
  simp [sendControl]

@[simp] theorem flood_mems (s : State) (rec : List Byte) (but : Option Nat) : (flood s rec but).mems = s.mems := by
  simp [flood]

@[simp] theorem setConvoy_mems (s : State) (st : Nat) : (setConvoy s st).mems = s.mems := by
  simp [setConvoy]

@[simp] theorem leaveConvoy_mems (s : State) : (leaveConvoy s).mems = s.mems := by
  simp [leaveConvoy]

@[simp] theorem musterStart_mems (s : State) (rate : Int) : (musterStart s rate).mems = s.mems := by
  simp [musterStart]

@[simp] theorem wrConvoy_mems (rate : Int) (v : Word) (s : State) : ((wrConvoy rate v s).getD s).mems = s.mems := by
  simp [wrConvoy]

@[simp] theorem takeAck_mems (s : State) (j ack : Nat) : (takeAck s j ack).mems = s.mems := by
  simp [takeAck]

@[simp] theorem takeNak_mems (s : State) (j expected : Nat) : (takeNak s j expected).mems = s.mems := by
  simp [takeNak]

@[simp] theorem restartExpiry_mems (s : State) (j : Nat) : (restartExpiry s j).mems = s.mems := by
  simp [restartExpiry]

@[simp] theorem lowerVreq_mems (s : State) (r : Nat) : (lowerVreq s r).mems = s.mems := by
  unfold lowerVreq
  dsimp only
  split <;> simp

@[simp] theorem retireHead_mems (s : State) (k e : Nat) (h : Head) : (retireHead s k e h).mems = s.mems := by
  simp [retireHead]

@[simp] theorem syArrival_mems (s : State) (k c : Nat) : (syArrival s k c).mems = s.mems := by
  simp [syArrival]

@[simp] theorem digestWrite_mems (s : State) (k a : Nat) (l : List Byte) : (digestWrite s k a l).mems = s.mems := by
  simp [digestWrite]

@[simp] theorem bbolSend_mems (s : State) (k c i : Nat) (sub : Bool) (amount : Nat) :
    (bbolSend s k c i sub amount).mems = s.mems := by
  simp [bbolSend]

@[simp] theorem syPerform_mems (s : State) (k c source : Nat) (w : DWord) :
    (syPerform s k c source w).mems = s.mems := by
  simp [syPerform]
  split <;> simp

@[simp] theorem syIssue_mems (op : Nat) (soon : Head → Bool) (k : Nat) (up : Upset) (s : State) :
    (syIssue op soon k up s).mems = s.mems := by
  unfold syIssue
  split <;> simp

@[simp] theorem rangeRun_mems (s : State) (r c op n va : Nat) : (rangeRun s r c op n va).mems = s.mems := by
  induction n generalizing s va with
  | zero => rfl
  | succ n ih =>
    unfold rangeRun
    split
    · next e => split <;> simp [ih, snd_mems e (translate_mems ..)]
    · next e => simp [snd_mems e (translate_mems ..)]

@[simp] theorem wrRange_mems (r op : Nat) (s : State) : ((wrRange r op s).getD s).mems = s.mems := by
  simp [wrRange]
  split <;> simp

@[simp] theorem haltStream_mems (s : State) (k : Nat) (store : Bool) (slot : Nat) (x : Stream) (cause : Nat) :
    (haltStream s k store slot x cause).mems = s.mems := by
  simp [haltStream]

@[simp] theorem wordFault_mems (s : State) (k : Nat) (store : Bool) (slot berth : Nat) (x : Stream) (x6 :
    State.PortStop) :
    (wordFault s k store slot berth x x6).mems = s.mems := by
  unfold wordFault
  split <;> simp

@[simp] theorem berthWrite_mems (s : State) (k berth a : Nat) (l : List Byte) :
    (berthWrite s k berth a l).mems = s.mems := by
  simp [berthWrite]

@[simp] theorem putIndex_mems (s : State) (k : Nat) (store : Bool) (slot : Nat) (x : Stream) (j v : Nat) :
    (putIndex s k store slot x j v).mems = s.mems := by
  simp [putIndex]

@[simp] theorem portWord_mems (s : State) (k port berth a : Nat) : (portWord s k port berth a).2.mems = s.mems := by
  simp [portWord]

@[simp] theorem portMove_mems (k port berth : Nat) (read : Bool) (up : Upset) (w a n : Nat) (s : State) :
    (portMove k port berth read up w a n s).2.2.mems = s.mems := by
  induction w generalizing a n s with
  | zero => rfl
  | succ w ih =>
    unfold portMove
    extract_lets m u
    split
    · rfl
    split
    · rfl
    split
    · rfl
    have word := portWord_mems s k port berth a
    split
    next e =>
    rw [e] at word
    split
    · exact word
    · simp only [ih]
      split
      · simpa using word
      · exact word

@[simp] theorem lineDeposit_mems (s : State) (k : Nat) (up : Upset) : (lineDeposit s k up).mems = s.mems := by
  unfold lineDeposit
  dsimp only
  (repeat' split) <;> simp

@[simp] theorem fenceIssue_mems (s : State) (k : Nat) (h : Head) : (fenceIssue s k h).mems = s.mems := by
  simp [fenceIssue]

@[simp] theorem heartbeat_mems (s : State) : (heartbeat s).mems = s.mems := by
  simp [heartbeat]

@[simp] theorem musterRefuse_mems (s : State) (result m : Nat) : (musterRefuse s result m).mems = s.mems := by
  simp [musterRefuse]

@[simp] theorem formConvoy_mems (s : State) : (formConvoy s).mems = s.mems := by
  unfold formConvoy
  split <;> simp

@[simp] theorem musterAccept_mems (s : State) (l : List (List Byte × Nat)) : (musterAccept s l).mems = s.mems := by
  unfold musterAccept
  split <;> simp

@[simp] theorem musterDecide_mems (s : State) : (musterDecide s).mems = s.mems := by
  unfold musterDecide
  dsimp only
  (repeat' split) <;> simp

@[simp] theorem capApply_mems (s : State) : (capApply s).mems = s.mems := by
  unfold capApply
  split <;> simp

@[simp] theorem relay_mems (s : State) (k : Nat) (f : List ChartSect → List ChartSect) :
    (relay s k f).mems = s.mems := by
  simp [relay]

@[simp] theorem untranslateVoyage_mems (s : State) (c k voyage : Nat) :
    (untranslateVoyage s c k voyage).mems = s.mems := by
  simp [untranslateVoyage]

@[simp] theorem commitGates_mems (s : State) (c : Nat) : (commitGates s c).mems = s.mems := by
  simp [commitGates]

@[simp] theorem cmdRelease_mems (q : Nat) (c : Cmd) (s : State) : (cmdRelease q c s).mems = s.mems := by
  simp [cmdRelease]

@[simp] theorem bootRefused_mems (s : State) : (bootRefused s).mems = s.mems := by
  simp [bootRefused]

@[simp] theorem wrBoot_mems (v : Word) (s : State) : ((wrBoot v s).getD s).mems = s.mems := by
  simp [wrBoot]

@[simp] theorem bbolJoin_mems (s : State) (o : BBolOp) : (bbolJoin s o).mems = s.mems := by
  simp [bbolJoin]

theorem map_mems {α : Type} {f : α → State} {s : State} (hf : ∀ a, (f a).mems = s.mems) (o : Option α) :
    ((o.map f).getD s).mems = s.mems := by
  cases o with
  | none => rfl
  | some a => exact hf a
@[simp] theorem wrBbolOp_mems (p : Party) (c : Nat) (sub : Bool) (v : Word) (s : State) :
    ((wrBbolOp p c sub v s).getD s).mems = s.mems :=
  map_mems (fun _ => bbolJoin_mems ..) _

@[simp] theorem loseTasks_mems (s : State) (code : Nat) : (loseTasks s code).mems = s.mems := by
  simp [loseTasks]

@[simp] theorem setPending_mems (s : State) (b : Bool) : (setPending s b).mems = s.mems := by
  simp [setPending]

@[simp] theorem handoverEnd_mems (s : State) (accepted : Bool) : (handoverEnd s accepted).mems = s.mems := by
  simp [handoverEnd]

@[simp] theorem updActivate_mems (s : State) (accepted : Bool) : (updActivate s accepted).mems = s.mems := by
  simp [updActivate]
  split <;> simp

@[simp] theorem testRise_mems (s : State) : (testRise s).mems = s.mems := by
  simp [testRise]
  split <;> simp

@[simp] theorem powerSpares_mems (s : State) (l : List (Nat × Nat)) : (powerSpares s l).mems = s.mems := by
  simp [powerSpares]

@[simp] theorem placeSpare_mems (s : State) (c f t : Nat) : (placeSpare s c f t).mems = s.mems := by
  simp [placeSpare]

@[simp] theorem copyCore_mems (s : State) (c k t : Nat) : (copyCore s c k t).mems = s.mems := by
  simp [copyCore]

@[simp] theorem rebuildCopy_mems (s : State) (c : Nat) (spares : List (Nat × Nat)) :
    (rebuildCopy s c spares).mems = s.mems := by
  unfold rebuildCopy
  dsimp only
  simp only [modCtx_mems, wr64_mems]
  rw [foldl_mems (fun _ _ => modCore_mems ..), foldl_mems fun t k => ?_, foldl_mems fun t e => placeSpare_mems ..]
  split
  · split <;> simp
  · rfl

@[simp] theorem rebuildSide_mems (s : State) (c : Nat) : (rebuildSide s c).mems = s.mems := by
  unfold rebuildSide
  dsimp only
  (repeat' split) <;> simp

@[simp] theorem cmdEnd_mems (q : Nat) (x1 : Cmd) (s : State) : (cmdEnd q x1 s).mems = s.mems := by
  simp [cmdEnd]

@[simp] theorem slipFault_mems (s : State) (code : Nat) : (slipFault s code).mems = s.mems := by
  simp [slipFault]

@[simp] theorem wharfSlip_mems (s : State) (payload : List Byte) (whole : Bool) :
    (wharfSlip s payload whole).mems = s.mems := by
  unfold wharfSlip
  dsimp only
  split <;> simp

@[simp] theorem slipTransfer_mems (s : State) (bytes : List Byte) (overrun : Bool) :
    (slipTransfer s bytes overrun).mems = s.mems := by
  simp [slipTransfer]

@[simp] theorem mxSetdim_mems (s : State) (k : Nat) (h : Head) : (mxSetdim s k h).mems = s.mems := by
  simp [mxSetdim]

@[simp] theorem pilotReject_mems (s : State) (code : Nat) : (pilotReject s code).mems = s.mems := by
  simp [pilotReject]

@[simp] theorem readParams_mems (s : State) : (readParams s).mems = s.mems := by
  simp [readParams]

@[simp] theorem enterPilot_mems (s : State) (img : List Byte) : (enterPilot s img).mems = s.mems := by
  simp [enterPilot]

@[simp] theorem pilotImageComplete_mems (s : State) (readErr : Bool) :
    (pilotImageComplete s readErr).mems = s.mems := by
  simp [pilotImageComplete]
  split <;> simp

@[simp] theorem updChecked_mems (s : State) (readErr : Bool) : (updChecked s readErr).mems = s.mems := by
  unfold updChecked
  dsimp only
  (repeat' split) <;> simp

@[simp] theorem vxRetire_mems (s : State) (k : Nat) : (vxRetire s k).mems = s.mems := by
  unfold vxRetire
  (repeat' split) <;> simp

@[simp] theorem installProg_mems (s : State) (k : Nat) (p : Prog) : (installProg s k p).mems = s.mems := by
  simp [installProg]

@[simp] theorem legBase_mems (s : State) (c : Nat) : (legBase s c).mems = s.mems := by
  unfold legBase
  (repeat' split) <;> simp

@[simp] theorem cmdFence_mems (q : Nat) (x1 : Cmd) (s : State) : (cmdFence q x1 s).mems = s.mems := by
  unfold cmdFence
  split <;> simp

@[simp] theorem resetRelease_mems (s : State) (mode : BitVec 2) (selfOk : Bool) :
    (resetRelease s mode selfOk).mems = s.mems := by
  simp [resetRelease]

@[simp] theorem modProg_mems (s : State) (k n : Nat) (f : Prog → Prog) : (modProg s k n f).mems = s.mems := by
  simp [modProg]

@[simp] theorem decide_mems (s : State) (k : Nat) (h : Head) (d : Nat) : (decide_ s k h d).mems = s.mems := by
  simp [decide_]

@[simp] theorem updArm_mems (s : State) : (updArm s).2.mems = s.mems := by
  unfold updArm
  extract_lets want late e done s1 cores t
  have h1 : s1.mems = s.mems := by unfold s1; split <;> simp
  have ht : t.mems = s.mems := (updSwitch_mems ..).trans h1
  have hdone : ∀ u, (done u).2.mems = u.mems := fun u => by simp [done]
  split
  · exact (hdone s1).trans h1
  · split
    · rfl
    · split
      · exact (hdone _).trans (by simpa using ht)
      · exact ht

@[simp] theorem updConfirm_mems (s : State) : (updConfirm s).mems = s.mems := by
  unfold updConfirm
  split <;> simp

@[simp] theorem updRefused_mems (s : State) : (updRefused s).mems = s.mems := by
  simp [updRefused]

@[simp] theorem updStopLoads_mems (s : State) : (updStopLoads s).mems = s.mems := by
  simp [updStopLoads]

@[simp] theorem updLoads_mems (s : State) (src : Nat) (regs : List Nat) : (updLoads s src regs).mems = s.mems := by
  simp [updLoads]

@[simp] theorem updStart_mems (s : State) (v : Word) : (updStart s v).mems = s.mems := by
  simp [updStart]

@[simp] theorem cancelPage_mems (s : State) (page : Nat) : (cancelPage s page).mems = s.mems := by
  unfold cancelPage
  split <;> simp

@[simp] theorem wrUpd_mems (v : Word) (s : State) : ((wrUpd v s).getD s).mems = s.mems := by
  unfold wrUpd
  extract_lets cmd kind st s1 s2
  have h1 : s1.mems = s.mems := wr_mems ..
  have h2 : s2.mems = s.mems := by unfold s2; split <;> simp [h1]
  rw [Option.getD_some]
  split
  · exact h1
  split
  · simp [h1]
  split
  · simp [h1]
  split
  · split <;> next e => simp [snd_mems e (updArm_mems _), h1]
  · simp [h1, h2]

@[simp] theorem latch_mems (s : State) (p : Party) (a : Nat) (v : Word) : (latch s p a v).mems = s.mems := by
  simp [latch]

@[simp] theorem readFlog_mems (s : State) (p : Party) : (readFlog s p).mems = s.mems := by
  simp [readFlog]

@[simp] theorem rdChartLo_mems (p : Party) (k : Nat) (up : Upset) (s : State) :
    (rdChartLo p k up s).mems = s.mems := by
  simp [rdChartLo]
  split <;> simp

@[simp] theorem read_mems (s : State) (p : Party) (a : Nat) : (read s p a).mems = s.mems := by
  simp [read]

@[simp] theorem frequencyRise_mems (s : State) (r : Nat) : (frequencyRise s r).mems = s.mems := by
  unfold frequencyRise
  dsimp only
  split <;> simp

@[simp] theorem wrParamAddr_mems (v : Nat) (s : State) : ((wrParamAddr v s).getD s).mems = s.mems := by
  simp [wrParamAddr]

@[simp] theorem mxEnterRun_mems (s : State) (k : Nat) (h : Head) (desc : Nat) (raw : List Byte) (masked : Bool) (up :
    Upset) :
    (mxEnterRun s k h desc raw masked up).mems = s.mems := by
  unfold mxEnterRun
  split <;> simp

@[simp] theorem mxMm_mems (s : State) (k : Nat) (h : Head) (masked : Bool) (up : Upset) :
    (mxMm s k h masked up).mems = s.mems := by
  unfold mxMm
  dsimp only
  (repeat' split) <;> simp

@[simp] theorem mxIssue_mems (op : Nat) (masked : Bool) (k : Nat) (up : Upset) (s : State) :
    (mxIssue op masked k up s).mems = s.mems := by
  unfold mxIssue
  split <;> simp

@[simp] theorem freeRegion_mems (s : State) (c r : Nat) : (freeRegion s c r).mems = s.mems := by
  simp [freeRegion]

@[simp] theorem freeCore_mems (s : State) (k : Nat) : (freeCore s k).mems = s.mems := by
  simp [freeCore]

@[simp] theorem teardown_mems (s : State) (c : Nat) : (teardown s c).mems = s.mems := by
  simp [teardown]

@[simp] theorem relocBlock_mems (q bits : Nat) (is : List Nat) (l : List Byte) (s : State) :
    (relocBlock q bits is l s).state.mems = s.mems := by
  induction is generalizing l s with
  | nil => rfl
  | cons i is ih =>
    unfold relocBlock
    split
    · exact ih ..
    split
    · rfl
    split <;> next e => simpa [ih] using Acc.mems_of e (reloc_mems ..)

@[simp] theorem cmdLaunch_mems (q : Nat) (c : Cmd) (s : State) : (cmdLaunch q c s).mems = s.mems := by
  -- the relocation stays a variable, so that the kernel does not evaluate its 128 steps
  obtain ⟨block, eq⟩ := exists_eq'
    (a' := relocBlock q ((c.word 2).toNat + (c.word 3).toNat * 2 ^ 64) (List.range 128))
  have hb := relocBlock_mems q ((c.word 2).toNat + (c.word 3).toNat * 2 ^ 64) (List.range 128)
  rw [eq] at hb
  unfold cmdLaunch
  rw [eq]
  extract_lets x id n got
  have hgot : got.state.mems = s.mems := by
    unfold got
    split
    · rfl
    · split <;> next e => simpa using Acc.mems_of e (reloc_mems ..)
  clear_value got
  split
  · exact failHere_mems ..
  split
  · exact failHere_mems ..
  split
  · exact (failHere_mems ..).trans hgot
  refine Eq.trans ?_ hgot
  split
  · next e => exact (failHere_mems ..).trans (Acc.fail_mems e (hb ..))
  · next e =>
    refine Eq.trans ?_ (Acc.ok_mems e (hb ..))
    split <;> simp

@[simp] theorem putCmp_mems (s : State) (k i : Nat) (v : Bool) : (putCmp s k i v).mems = s.mems := by
  simp [putCmp]

@[simp] theorem wrBbolValue_mems (p : Party) (c : Nat) (v : Word) (s : State) :
    ((wrBbolValue p c v s).getD s).mems = s.mems :=
  map_mems (fun _ => bbolJoin_mems ..) _

@[simp] theorem wloadDone_mems (s : State) (r : Nat) : (wloadDone s r).mems = s.mems := by
  unfold wloadDone
  dsimp only
  (repeat' split) <;> simp

@[simp] theorem memoryBist_mems (s : State) : (memoryBist s).mems = s.mems := by
  simp [memoryBist]

@[simp] theorem shiftOut_mems (s : State) (v : Nat) : (shiftOut s v).mems = s.mems := by
  simp [shiftOut]

@[simp] theorem instrument_mems (s : State) (what : Instrument) : (instrument s what).mems = s.mems := by
  unfold instrument
  (repeat' split) <;> simp

@[simp] theorem shiftFree_mems (s : State) : (shiftFree s).mems = s.mems := by
  simp [shiftFree]

@[simp] theorem testAccess_mems (s : State) (i : TestInstr) (shift : BitVec 80) (what : Instrument) :
    (testAccess s i shift what).mems = s.mems := by
  unfold testAccess
  split <;> simp

@[simp] theorem stepGauges_mems (s : State) (e : BringUpFindings) : (stepGauges s e).mems = s.mems := by
  simp [stepGauges]

@[simp] theorem stepWays_mems (s : State) : (stepWays s).mems = s.mems := by
  simp [stepWays]

@[simp] theorem bootFail_mems (s : State) (code : Nat) (info : Word) : (bootFail s code info).mems = s.mems := by
  simp [bootFail]

@[simp] theorem stepCrew_mems (s : State) (e : BringUpFindings) (l : List Byte) :
    (stepCrew s e l).2.mems = s.mems := by
  unfold stepCrew
  dsimp only
  (repeat' split) <;> simp

@[simp] theorem regionWithdraw_mems (s : State) (r : Nat) : (regionWithdraw s r).mems = s.mems := by
  simp [regionWithdraw]

@[simp] theorem stepRegions_mems (s : State) (e : BringUpFindings) : (stepRegions s e).mems = s.mems := by
  unfold stepRegions
  exact foldl_mems (fun t i => by dsimp only; split <;> simp) _ _

@[simp] theorem zeroFault_mems (s : State) (k : Nat) (b : ZeroBad) : (zeroFault s k b).mems = s.mems := by
  unfold zeroFault
  split <;> simp

@[simp] theorem coreWithdraw_mems (s : State) (k : Nat) : (coreWithdraw s k).mems = s.mems := by
  unfold coreWithdraw
  dsimp only
  (repeat' split) <;> simp

@[simp] theorem stepZero_mems (s : State) (e : BringUpFindings) : (stepZero s e).mems = s.mems := by
  simp [stepZero]

@[simp] theorem planRegion_mems (s : State) (e : BringUpFindings) (r tier vreq : Nat) :
    (planRegion s e r tier vreq).mems = s.mems := by
  simp [planRegion]

@[simp] theorem stepPlan_mems (s : State) (e : BringUpFindings) : (stepPlan s e).mems = s.mems := by
  unfold stepPlan
  split <;> simp

@[simp] theorem readbackFail_mems (s : State) (key : Nat) (w : WLoad) (k : Nat) :
    (readbackFail s key w k).mems = s.mems := by
  simp [readbackFail]

@[simp] theorem frameWrite_mems (s : State) (w : WLoad) (cores : List Nat) (bay : Nat) (data : List Byte) :
    (frameWrite s w cores bay data).mems = s.mems := by
  simp [frameWrite]

@[simp] theorem frameWrites_mems (s : State) (key : Nat) (w : WLoad) (bad : List Nat) (l : List (List Nat × Nat × List
    Byte)) :
    (frameWrites s key w bad l).mems = s.mems := by
  induction l generalizing s w with
  | nil => simp [frameWrites]
  | cons e l ih => unfold frameWrites; dsimp only; split <;> simp [ih]

@[simp] theorem wharfRecord_mems (s : State) (r : Nat) (bad : List Nat) : (wharfRecord s r bad).mems = s.mems := by
  unfold wharfRecord
  split
  · rfl
  next key w _ =>
  extract_lets body size fail go data
  have hfail : ∀ c, (fail c).mems = s.mems := fun c => wloadFail_mems ..
  have hgo : ∀ l w, (go l w).mems = s.mems := fun l w => by unfold go; split <;> simp
  split
  · rfl
  split
  · exact hfail _
  extract_lets next mask
  (repeat' split) <;> simp only [hfail, hgo, mems_mk, mems_pair]

@[simp] theorem runLoad_mems (r : Nat) (bad : List Nat) (n : Nat) (s : State) :
    (runLoad r bad n s).mems = s.mems := by
  induction n generalizing s with
  | zero => rfl
  | succ n ih => unfold runLoad; split <;> simp [ih]

@[simp] theorem stepWharf_mems (s : State) (e : BringUpFindings) (l : List Byte) :
    (stepWharf s e l).mems = s.mems := by
  simp [stepWharf]

@[simp] theorem bringUp_mems (s : State) (e : BringUpFindings) : (bringUp s e).mems = s.mems := by
  unfold bringUp
  split
  · rfl
  split
  · rfl
  split
  · simp
  dsimp only
  split <;> next h => simp [snd_mems h (stepCrew_mems ..)]

@[simp] theorem translateVoyage_mems (s : State) (c k voyage : Nat) (legs : List (List Byte)) :
    (translateVoyage s c k voyage legs).mems = s.mems := by
  simp [translateVoyage]

@[simp] theorem failRegister_mems (s : State) (q st : Nat) : (failRegister s q st).mems = s.mems := by
  unfold failRegister
  split <;> simp

@[simp] theorem retryPlans_mems (s : State) (c : Nat) : (retryPlans s c).mems = s.mems := by
  simp [retryPlans]

@[simp] theorem readLegs_mems (q c params : Nat) (l acc : List (List Byte)) (s : State) :
    (readLegs q c params l acc s).state.mems = s.mems := by
  induction l generalizing acc s with
  | nil => rfl
  | cons e l ih =>
    unfold readLegs
    dsimp only
    split
    · next h => exact Acc.fail_mems h (reloc_mems ..)
    next h =>
    have hr := Acc.ok_mems h (reloc_mems ..)
    split
    · next h' => exact (Acc.fail_mems h' (readLoc_mems ..)).trans hr
    next h' =>
    have hm := (Acc.ok_mems h' (readLoc_mems ..)).trans hr
    split
    · exact hm
    split
    · simpa using hm
    · rw [ih, hm]

@[simp] theorem cmdRegister_mems (q : Nat) (c : Cmd) (s : State) : (cmdRegister q c s).mems = s.mems := by
  unfold cmdRegister
  dsimp only
  split
  · simp
  split
  · next h => simp [Acc.fail_mems h (reloc_mems ..)]
  next h =>
  have h1 := Acc.ok_mems h (reloc_mems ..)
  split
  · next h => simp [Acc.fail_mems h (readLoc_mems ..), h1]
  next h =>
  have h2 := (Acc.ok_mems h (readLoc_mems ..)).trans h1
  split
  · simp [h2]
  split
  · next h => simp [Acc.fail_mems h (reloc_mems ..), h2]
  next h =>
  have h3 := (Acc.ok_mems h (reloc_mems ..)).trans h2
  split
  · next h => simp [Acc.fail_mems h (readLoc_mems ..), h3]
  next h =>
  have h4 := (Acc.ok_mems h (readLoc_mems ..)).trans h3
  split
  · simp [h4]
  split <;> next h => simpa [h4] using Acc.mems_of h (readLegs_mems ..)

@[simp] theorem write_mems (s : State) (p : Party) (a : Nat) {f : State → Option State} (hf : ((f s).getD s).mems =
    s.mems) :
    (s.write p a f).mems = s.mems := by
  unfold write
  dsimp only
  split
  · split
    · rfl
    · split <;> simp
  split
  · rfl
  split
  · simp
  split
  · simp
  · next h => simpa [h] using hf
@[simp] theorem writeCommit_mems (s : State) (p : Party) (page : Nat) (v : Word) :
    (writeCommit s p page v).mems = s.mems := by
  unfold writeCommit
  dsimp only
  split
  · simp
  · refine write_mems _ _ _ ?_
    split
    · split <;> rfl
    · simp

@[simp] theorem fenceDone_mems (s : State) (k : Nat) : (fenceDone s k).mems = s.mems := by
  unfold fenceDone
  dsimp only
  split <;> simp

@[simp] theorem lifelineToggle_mems (s : State) : (lifelineToggle s).mems = s.mems := by
  simp [lifelineToggle]

@[simp] theorem basinHit_mems (s : State) (r : Nat) (l : BLine) : (basinHit s r l).mems = s.mems := by
  simp [basinHit]

@[simp] theorem basinTags_mems (s : State) (r la : Nat) (x3 : BasinEcc) : (basinTags s r la x3).mems = s.mems := by
  unfold basinTags
  split <;> simp

@[simp] theorem planMiss_mems (s : State) (r c la : Nat) : (planMiss s r c la).mems = s.mems := by
  simp [planMiss]

@[simp] theorem gateWrite_mems (s : State) (r : LineReq) : (gateWrite s r).mems = s.mems := by
  simp [gateWrite]

@[simp] theorem basinWrite_mems (s : State) (r : Nat) (q : LineReq) (found : BasinEcc) :
    (basinWrite s r q found).mems = s.mems := by
  simp [basinWrite]
  split <;> simp

@[simp] theorem gateRead_mems (s : State) (r : LineReq) (alloc pin : Bool) :
    (gateRead s r alloc pin).mems = s.mems := by
  simp [gateRead]

@[simp] theorem basinRead_mems (s : State) (r : Nat) (q : LineReq) (found : BasinEcc) :
    (basinRead s r q found).mems = s.mems := by
  simp [basinRead]
  split <;> simp

@[simp] theorem basinRequest_mems (s : State) (r : Nat) (found : BasinEcc) :
    (basinRequest s r found).mems = s.mems := by
  unfold basinRequest
  (repeat' split) <;> simp

@[simp] theorem modLink_mems (s : State) (j : Nat) (f : Link → Link) : (modLink s j f).mems = s.mems := by
  simp [modLink]

@[simp] theorem linkUp_mems (s : State) (j : Nat) : (linkUp s j).mems = s.mems := by
  simp [linkUp]

@[simp] theorem postPacket_mems (s : State) (dst vc epoch rc : Nat) (p : RemotePacket) :
    (postPacket s dst vc epoch rc p).mems = s.mems := by
  simp [postPacket]

@[simp] theorem answerTo_mems (s : State) (src vc epoch : Nat) (p : RemotePacket) :
    (answerTo s src vc epoch p).mems = s.mems := by
  simp [answerTo]

@[simp] theorem windowAdd_mems (s : State) : (windowAdd s).mems = s.mems := by
  unfold windowAdd
  split <;> simp

@[simp] theorem discardFlit_mems (s : State) (r : Nat) (p : Option Packet) : (discardFlit s r p).mems = s.mems := by
  unfold discardFlit
  split <;> simp

@[simp] theorem flitArrival_mems (s : State) (r : Nat) (part : ChPart) (vc gr gc src : Nat) (second : Bool) (found :
    Ecc) :
    (flitArrival s r part vc gr gc src second found).mems = s.mems := by
  unfold flitArrival
  split <;> simp

@[simp] theorem takeItem_mems (s : State) (q units : Nat) (l : List Byte) : (takeItem s q units l).mems = s.mems := by
  simp [takeItem]

@[simp] theorem ringRead_mems (s : State) (q u n : Nat) : (ringRead s q u n).state.mems = s.mems := by
  simp [ringRead]

@[simp] theorem fetchItem_mems (s : State) (q : Nat) : (fetchItem s q).mems = s.mems := by
  unfold fetchItem
  dsimp only
  split
  · rfl
  split
  · next e => exact Acc.fail_mems e (ringRead_mems ..)
  next e =>
  have h := Acc.ok_mems e (ringRead_mems ..)
  split
  · simp [h]
  split <;> next e => simpa [h] using Acc.mems_of e (ringRead_mems ..)

@[simp] theorem cmdLoop_mems (q : Nat) (c : Cmd) (s : State) : (cmdLoop q c s).mems = s.mems := by
  simp [cmdLoop]

@[simp] theorem wrBrk_mems (k : Nat) (v : Word) (s : State) : ((wrBrk k v s).getD s).mems = s.mems := by
  simp [wrBrk]

@[simp] theorem loseAny_mems (s : State) (c code : Nat) : (loseAny s c code).mems = s.mems := by
  simp [loseAny]

@[simp] theorem crewFault_mems (s : State) (code : Nat) : (crewFault s code).mems = s.mems := by
  simp [crewFault]

@[simp] theorem setVx_mems (s : State) (k : Nat) (r : Run) : (setVx s k r).mems = s.mems := by
  simp [setVx]

@[simp] theorem wharfFail_mems (s : State) (k : Nat) (r : Run) (w : WharfRun) (g code : Nat) :
    (wharfFail s k r w g code).mems = s.mems := by
  simp [wharfFail]

@[simp] theorem wharfResult_mems (s : State) (k : Nat) (valid : Bool) (words : List Word) (parityOk : Bool) :
    (wharfResult s k valid words parityOk).mems = s.mems := by
  unfold wharfResult
  (repeat' split) <;> simp

@[simp] theorem askLines_mems (q : Nat) (write : Bool) (n la : Nat) (s : State) :
    (askLines q write n la s).mems = s.mems := by
  induction n generalizing la s with
  | zero => rfl
  | succ n ih =>
    unfold askLines
    exact (ih ..).trans ((toQuay_mems ..).trans (freshId_mems ..))

@[simp] theorem askRuns_mems (q : Nat) (write : Bool) (l : List (Nat × Nat)) (done : Nat) (s : State) :
    (askRuns q write l done s).2.mems = s.mems := by
  induction l generalizing done s with
  | nil => rfl
  | cons e l ih =>
    unfold askRuns
    split
    · next h => split <;> simp [ih, snd_mems h (translate_mems ..)]
    · next h => exact snd_mems h (translate_mems ..)

@[simp] theorem askMove_mems (s : State) (q : Nat) (t : Transfer) : (askMove s q t).mems = s.mems := by
  simp [askMove]

@[simp] theorem startTransfer_mems (s : State) (q : Nat) (t : Transfer) : (startTransfer s q t).mems = s.mems := by
  simp [startTransfer]

@[simp] theorem cmdFill_mems (q : Nat) (c : Cmd) (s : State) : (cmdFill q c s).mems = s.mems := by
  unfold cmdFill
  dsimp only
  split <;> next e => simpa using Acc.mems_of e (reloc_mems ..)

@[simp] theorem sendSync_mems (s : State) (but : Option Nat) : (sendSync s but).mems = s.mems := by
  simp [sendSync]

@[simp] theorem tideSync_mems (s : State) : (tideSync s).mems = s.mems := by
  simp [tideSync]

@[simp] theorem zeroSegment_mems (s : State) (k berth seg : Nat) : (zeroSegment s k berth seg).mems = s.mems := by
  simp [zeroSegment]

@[simp] theorem segmentReady_mems (s : State) (k : Nat) : (segmentReady s k).mems = s.mems := by
  simp [segmentReady]

@[simp] theorem cmdCall_mems (q : Nat) (c : Cmd) (s : State) : (cmdCall q c s).mems = s.mems := by
  unfold cmdCall
  dsimp only
  split
  · simp
  split
  · next e => simp [Acc.fail_mems e (reloc_mems ..)]
  · next e => split <;> next e' => simpa using (Acc.mems_of e' (readLoc_mems ..)).trans (Acc.ok_mems e (reloc_mems ..))

@[simp] theorem mirrorCheck_mems (s : State) (r : Nat) (x2 : Option (Nat × Word)) :
    (mirrorCheck s r x2).mems = s.mems := by
  unfold mirrorCheck
  (repeat' split) <;> simp

@[simp] theorem updExpiry_mems (s : State) : (updExpiry s).mems = s.mems := by
  simp [updExpiry]

@[simp] theorem commitApply_mems (s : State) (stamp : Nat) : (commitApply s stamp).mems = s.mems := by
  simp [commitApply]

@[simp] theorem forwardStep_mems (s : State) : (forwardStep s).mems = s.mems := by
  unfold forwardStep
  split <;> simp

@[simp] theorem quayLate_mems (s : State) (quay id latency : Nat) : (quayLate s quay id latency).mems = s.mems := by
  simp [quayLate]

@[simp] theorem slotLost_mems (s : State) (o : OutSlot) : (slotLost s o).mems = s.mems := by
  simp [slotLost]
  split <;> simp

@[simp] theorem notePort_mems (s : State) (dst j : Nat) : (notePort s dst j).mems = s.mems := by
  unfold notePort
  split <;> simp

@[simp] theorem sendSlots_mems (s : State) (o : OutSlot) : (sendSlots s o).mems = s.mems := by
  simp [sendSlots]
  split <;> simp

@[simp] theorem pump_mems (s : State) : (pump s).mems = s.mems := by
  simp [pump]

@[simp] theorem fenceEnd_mems (s : State) (dst : Nat) : (fenceEnd s dst).mems = s.mems := by
  unfold fenceEnd
  split <;> simp

@[simp] theorem powerLoss_mems (s : State) : (powerLoss s).mems = s.mems := by
  simp [powerLoss]

@[simp] theorem vreqAckFall_mems (s : State) (r : Nat) : (vreqAckFall s r).mems = s.mems := by
  simp [vreqAckFall]

@[simp] theorem idleForAck_mems (s : State) (j : Nat) : (idleForAck s j).mems = s.mems := by
  simp [idleForAck]

@[simp] theorem wipeCtx_mems (s : State) (c : Nat) : (wipeCtx s c).mems = s.mems := by
  simp [wipeCtx]

@[simp] theorem replayResult_mems (s : State) (c n : Nat) : (replayResult s c n).mems = s.mems := by
  simp [replayResult]

@[simp] theorem translateAll_mems (s : State) (c k : Nat) : (translateAll s c k).mems = s.mems := by
  simp [translateAll]

@[simp] theorem replayBegin_mems (s : State) (c : Nat) : (replayBegin s c).mems = s.mems := by
  simp [replayBegin]
  split <;> simp

@[simp] theorem replayDue_mems (s : State) (c : Nat) : (replayDue s c).mems = s.mems := by
  simp [replayDue]

@[simp] theorem wrReplay_mems (c : Nat) (v : Word) (s : State) : ((wrReplay c v s).getD s).mems = s.mems := by
  simp [wrReplay]

@[simp] theorem chartWrite_mems (s : State) (k a : Nat) (l : List Byte) : (chartWrite s k a l).mems = s.mems := by
  simp [chartWrite]

@[simp] theorem wrChart_mems (p : Party) (k : Nat) (v : Word) (s : State) :
    ((wrChart p k v s).getD s).mems = s.mems := by
  simp [wrChart]

@[simp] theorem hqReset_mems (s : State) : (hqReset s).mems = s.mems := by
  unfold hqReset
  extract_lets s1 s2
  have h1 : s1.mems = s.mems := by unfold s1; split <;> simp
  have h2 : s2.mems = s1.mems := foldl_mems (fun t e => by split; rfl; split <;> simp) _ _
  split
  · exact h1
  · rw [foldl_mems fun t q => ?_, h2, h1]
    split <;> simp

@[simp] theorem remoteWords_mems (s : State) (k src : Nat) (link : Bool) (up : Upset) :
    (remoteWords s k src link up).mems = s.mems := by
  unfold remoteWords
  split
  · next h =>
    have ht := takeMsg_mems h
    split
    · simp [ht]
    · next berth a data rc after s' _ _ =>
      have hm := portMove_mems k berth berth false up (wordsOf a data.length) a data.length s'
      dsimp only
      split <;> simp [hm, ht]
  · rfl

@[simp] theorem wrTlbInval_mems (c : Nat) (v : Word) (s : State) : ((wrTlbInval c v s).getD s).mems = s.mems := by
  simp [wrTlbInval]

@[simp] theorem readLine_mems (s : State) (k : Nat) (x : Stream) (d : LsDesc) (a n : Nat) (up : Upset) :
    (readLine s k x d a n up).2.2.mems = s.mems := by
  simp [readLine]

@[simp] theorem postLine_mems (s : State) (k t berth a len : Nat) (all : Bool) (x : Stream) :
    (postLine s k t berth a len all x).2.mems = s.mems := by
  simp [postLine]

@[simp] theorem postStep_mems (s : State) (k slot : Nat) (x : Stream) (d : LsDesc) (ext : Int) (ln : Int × Nat) (up :
    Upset) :
    (postStep s k slot x d ext ln up).mems = s.mems := by
  unfold postStep
  split <;> simp

@[simp] theorem zeroStep_mems (s : State) (k slot : Nat) (x : Stream) (d : LsDesc) :
    (zeroStep s k slot x d).mems = s.mems := by
  unfold zeroStep
  dsimp only
  (repeat' split) <;> simp

@[simp] theorem skipPlane_mems (s : State) (k : Nat) (store : Bool) (slot : Nat) (x : Stream) (d : LsDesc) :
    (skipPlane s k store slot x d).mems = s.mems := by
  simp [skipPlane]

@[simp] theorem memRequest_mems (s : State) (r : LineReq) : (memRequest s r).mems = s.mems := by
  simp [memRequest]

@[simp] theorem lineLeaves_mems (s : State) (k : Nat) (store : Bool) (slot : Nat) (x : Stream) (r : LineReq) (next :
    Stream) :
    (lineLeaves s k store slot x r next).mems = s.mems := by
  simp [lineLeaves]

@[simp] theorem storeStep_mems (s : State) (k slot : Nat) (x : Stream) (d : LsDesc) (ext : Int) (ln : Int × Nat) (r :
    LineReq) (up : Upset) :
    (storeStep s k slot x d ext ln r up).mems = s.mems := by
  unfold storeStep
  dsimp only
  split <;> simp

@[simp] theorem lineRefused_mems (s : State) (k c : Nat) (store : Bool) (slot : Nat) (x : Stream) (va : Nat) (x7 :
    Trans) :
    (lineRefused s k c store slot x va x7).mems = s.mems := by
  unfold lineRefused
  split <;> simp

@[simp] theorem lineRequest_mems (s : State) (k : Nat) (store : Bool) (slot : Nat) (up : Upset) :
    (lineRequest s k store slot up).mems = s.mems := by
  unfold lineRequest
  dsimp only
  (repeat' split) <;> simp

@[simp] theorem askAgain_mems (s : State) (j detail : Nat) : (askAgain s j detail).mems = s.mems := by
  simp [askAgain]

@[simp] theorem notePeer_mems (s : State) (j : Nat) (l : List Byte) : (notePeer s j l).mems = s.mems := by
  simp [notePeer]

@[simp] theorem linkFresh_mems (s : State) (j : Nat) : (linkFresh s j).mems = s.mems := by
  simp [linkFresh]

@[simp] theorem takeSync_mems (s : State) (j : Nat) (l : List Byte) : (takeSync s j l).mems = s.mems := by
  simp [takeSync]

@[simp] theorem takeRecord_mems (s : State) (j : Nat) (rec : List Byte) : (takeRecord s j rec).mems = s.mems := by
  simp [takeRecord]

@[simp] theorem takeAnswer_mems (s : State) (j epoch id : Nat) (data : Option (List Byte)) (refused : Bool) :
    (takeAnswer s j epoch id data refused).mems = s.mems := by
  unfold takeAnswer
  dsimp only
  split <;> simp

@[simp] theorem foreignFail_mems (s : State) (code : Nat) (q : QReq) (decerr : Bool) :
    (foreignFail s code q decerr).mems = s.mems := by
  simp [foreignFail]

@[simp] theorem deposit_mems (s : State) (j c src vc epoch id off len : Nat) (store : Bool) (data : List Byte) :
    (deposit s j c src vc epoch id off len store data).mems = s.mems := by
  simp [deposit]

@[simp] theorem admitForeign_mems (s : State) (j src vc epoch conv : Nat) (p : RemotePacket) :
    (admitForeign s j src vc epoch conv p).mems = s.mems := by
  simp [admitForeign]
  split <;> simp

@[simp] theorem takePacket_mems (s : State) (j src vc epoch conv : Nat) (x6 : RemotePacket) :
    (takePacket s j src vc epoch conv x6).mems = s.mems := by
  unfold takePacket
  split <;> simp

@[simp] theorem takeSlot_mems (j src vc : Nat) (s : State) (slot : List Byte) :
    (takeSlot j src vc s slot).mems = s.mems := by
  unfold takeSlot
  dsimp only
  split <;> simp

@[simp] theorem takeData_mems (s : State) (j : Nat) (l : List Byte) : (takeData s j l).mems = s.mems := by
  simp [takeData]
  split <;> simp

@[simp] theorem takeFlit_mems (s : State) (j : Nat) (l : List Byte) : (takeFlit s j l).mems = s.mems := by
  unfold takeFlit
  split <;> simp

@[simp] theorem flitRx_mems (s : State) (j : Nat) (l : List Byte) : (flitRx s j l).mems = s.mems := by
  simp [flitRx]
  split <;> simp

@[simp] theorem w1c_mems (s : State) (a : Nat) (m v : Word) : (w1c s a m v).mems = s.mems := by
  simp [w1c]

@[simp] theorem stageLo_mems (s : State) (p : Party) (a : Nat) (v : Word) : (stageLo s p a v).mems = s.mems := by
  simp [stageLo]

@[simp] theorem store_mems (a : Nat) (m v : Word) (s : State) : ((store a m v s).getD s).mems = s.mems := by
  simp [store]

@[simp] theorem wrInject_mems (k : Nat) (v : Word) (s : State) : ((wrInject k v s).getD s).mems = s.mems := by
  simp [wrInject]

@[simp] theorem wrBankMode_mems (k : Nat) (v : Word) (s : State) : ((wrBankMode k v s).getD s).mems = s.mems := by
  simp [wrBankMode]

@[simp] theorem wrCoreReg_mems (p : Party) (k o a : Nat) (v : Word) (s : State) :
    ((wrCoreReg p k o a v s).getD s).mems = s.mems := by
  simp [wrCoreReg]

@[simp] theorem wrPair_mems (p : Party) (lo a m : Nat) (v : Word) (s : State) :
    ((wrPair p lo a m v s).getD s).mems = s.mems := by
  simp [wrPair]

@[simp] theorem only_mems {f : State → Option State} {s : State} (hf : ((f s).getD s).mems = s.mems) (b : Bool) :
    ((only b f s).getD s).mems = s.mems := by
  unfold only
  split
  · exact hf
  · rfl
@[simp] theorem wrQueueReg_mems (p : Party) (q o a : Nat) (v : Word) (s : State) :
    ((wrQueueReg p q o a v s).getD s).mems = s.mems := by
  simp [wrQueueReg]

@[simp] theorem wrConvoyReg_mems (p : Party) (o a : Nat) (v : Word) (s : State) :
    ((wrConvoyReg p o a v s).getD s).mems = s.mems := by
  unfold wrConvoyReg
  extract_lets calm
  split
  · have h := freshId_mems s
    dsimp only
    have h' := wrConvoy_mems (Config.freeWord s.freshId.1).toInt v s.freshId.2
    cases e : wrConvoy (Config.freeWord s.freshId.1).toInt v s.freshId.2 with
    | none => rfl
    | some t => rw [e] at h'; exact h'.trans h
  · simp

@[simp] theorem wrHeader_mems (p : Party) (code a o : Nat) (v : Word) (s : State) :
    ((wrHeader p code a o v s).getD s).mems = s.mems := by
  simp [wrHeader]

@[simp] theorem wrUpdReg_mems {f : State → State} {s : State} (hf : (f s).mems = s.mems) :
    ((wrUpdReg f s).getD s).mems = s.mems := by
  simp [wrUpdReg, hf]
@[simp] theorem wrUpdWindow_mems (v : Word) (s : State) : ((wrUpdWindow v s).getD s).mems = s.mems := by
  simp [wrUpdWindow]

@[simp] theorem wrCtxReg_mems (p : Party) (c o a : Nat) (v : Word) (s : State) :
    ((wrCtxReg p c o a v s).getD s).mems = s.mems := by
  simp [wrCtxReg]

@[simp] theorem wrJetty_mems (j : Nat) (v : Word) (s : State) : ((wrJetty j v s).getD s).mems = s.mems := by
  simp [wrJetty]

@[simp] theorem wrReg_mems (p : Party) (a : Nat) (v : Word) (s : State) : ((wrReg p a v s).getD s).mems = s.mems := by
  unfold wrReg
  dsimp only
  split
  · simp
  split <;> simp

@[simp] theorem regWrite_mems (s : State) (p : Party) (offset : Nat) (v : Word) :
    (regWrite s p offset v).mems = s.mems := by
  simp [regWrite]

@[simp] theorem jettySilent_mems (s : State) (j : Nat) : (jettySilent s j).mems = s.mems := by
  simp [jettySilent]

@[simp] theorem vreqTimeout_mems (s : State) (r : Nat) : (vreqTimeout s r).mems = s.mems := by
  simp [vreqTimeout]

@[simp] theorem indexWord_mems (s : State) (k : Nat) (store : Bool) (slot : Nat) (up : Upset) :
    (indexWord s k store slot up).mems = s.mems := by
  unfold indexWord
  dsimp only
  (repeat' split) <;> simp

@[simp] theorem tideSkew_mems (s : State) (lag : Int) : (tideSkew s lag).mems = s.mems := by
  unfold tideSkew
  dsimp only
  (repeat' split) <;> simp

@[simp] theorem rebuildEnd_mems (s : State) (c : Nat) : (rebuildEnd s c).mems = s.mems := by
  simp [rebuildEnd]

@[simp] theorem resumeAt_mems (s : State) (c : Nat) : (resumeAt s c).mems = s.mems := by
  unfold resumeAt
  split <;> simp

@[simp] theorem cmdSignal_mems (q : Nat) (c : Cmd) (s : State) : (cmdSignal q c s).mems = s.mems := by
  simp [cmdSignal]

@[simp] theorem probeAnswer_mems (s : State) (k src : Nat) : (probeAnswer s k src).mems = s.mems := by
  unfold probeAnswer
  dsimp only
  split
  · next h => simp [takeMsg_mems h]
  · rfl

@[simp] theorem hqRequest_mems (s : State) (req : HqReq) (latency : Nat) (err : Bool) :
    (hqRequest s req latency err).mems = s.mems := by
  unfold hqRequest
  dsimp only
  (repeat' split) <;> simp

@[simp] theorem crewAccess_mems (s : State) (pa : Nat) : (crewAccess s pa).mems = s.mems := by
  simp [crewAccess]

@[simp] theorem hqResponse_mems (s : State) (req : HqReq) (latency : Nat) (err : Bool) :
    (hqResponse s req latency err).mems = s.mems := by
  unfold hqResponse
  split <;> simp

@[simp] theorem segmentDown_mems (s : State) (k : Nat) : (segmentDown s k).mems = s.mems := by
  simp [segmentDown]

@[simp] theorem keepalive_mems (s : State) (j : Nat) : (keepalive s j).mems = s.mems := by
  simp [keepalive]

@[simp] theorem mxRetire_mems (s : State) (k : Nat) : (mxRetire s k).mems = s.mems := by
  simp [mxRetire]
  split <;> simp

@[simp] theorem vreqAck_mems (s : State) (r : Nat) : (vreqAck s r).mems = s.mems := by
  simp [vreqAck]
  split <;> simp

@[simp] theorem shareFrame_mems (s : State) (quay : Nat) (demand : List (Nat × Nat)) (bk : Nat) :
    (shareFrame s quay demand bk).mems = s.mems := by
  simp [shareFrame]

@[simp] theorem cmdCopy_mems (q : Nat) (c : Cmd) (s : State) : (cmdCopy q c s).mems = s.mems := by
  unfold cmdCopy
  dsimp only
  split
  · next e => simp [Acc.fail_mems e (reloc_mems ..)]
  · next e => split <;> next e' => simpa using (Acc.mems_of e' (reloc_mems ..)).trans (Acc.ok_mems e (reloc_mems ..))

@[simp] theorem planeSwitch_mems (s : State) (k : Nat) : (planeSwitch s k).mems = s.mems := by
  unfold planeSwitch
  dsimp only
  split <;> simp

@[simp] theorem synthLoss_mems (s : State) (x1 : Synth) : (synthLoss s x1).mems = s.mems := by
  unfold synthLoss
  split <;> simp

@[simp] theorem sampleTide_mems (s : State) (r : Nat) : (sampleTide s r).mems = s.mems := by
  simp [sampleTide]

@[simp] theorem retireDue_mems (s : State) (k was : Nat) : (retireDue s k was).mems = s.mems := by
  simp [retireDue]

@[simp] theorem bolStep_mems (s : State) (k b : Nat) (l : List BolOp) : (bolStep s k b l).mems = s.mems := by
  unfold bolStep
  split <;> simp

@[simp] theorem bolFlush_mems (s : State) (k : Nat) : (bolFlush s k).mems = s.mems := by
  simp [bolFlush]

@[simp] theorem mxCycle_mems (s : State) (k rc : Nat) : (mxCycle s k rc).mems = s.mems := by
  simp [mxCycle]
  split <;> simp

@[simp] theorem landCycle_mems (s : State) (k rc : Nat) : (landCycle s k rc).mems = s.mems := by
  simp [landCycle]

@[simp] theorem vxWrite_mems (s : State) (k rc : Nat) (r : Run) (m : VMade) (quants : List (Nat × Nat × Bool)) :
    (vxWrite s k rc r m quants).mems = s.mems := by
  simp [vxWrite]

@[simp] theorem sendGroup_mems (s : State) (k : Nat) (r : Run) (j : VJob) (g n : Nat) :
    (sendGroup s k r j g n).mems = s.mems := by
  unfold sendGroup
  split <;> simp

@[simp] theorem wharfCycle_mems (s : State) (k rc : Nat) (r : Run) (j : VJob) (w : WharfRun) (o : Nat) :
    (wharfCycle s k rc r j w o).mems = s.mems := by
  unfold wharfCycle
  dsimp only
  (repeat' split) <;> simp

@[simp] theorem vxFail_mems (s : State) (k : Nat) (r : Run) (j : VJob) (b code : Nat) :
    (vxFail s k r j b code).mems = s.mems := by
  simp [vxFail]

@[simp] theorem addSum_mems (s : State) (a : Nat) (x : Option ℚ) : (addSum s a x).mems = s.mems := by
  simp [addSum]

@[simp] theorem sentScore_mems (s : State) (k : Nat) (p : Prog) (y r : Word) :
    (sentScore s k p y r).mems = s.mems := by
  unfold sentScore
  split <;> simp

@[simp] theorem sentCycle_mems (s : State) (k : Nat) (r : Run) (j : VJob) (o : Nat) :
    (sentCycle s k r j o).mems = s.mems := by
  unfold sentCycle
  dsimp only
  (repeat' split) <;> simp

@[simp] theorem quantCycle_mems (s : State) (k : Nat) (r : Run) (j : VJob) (d : VDesc) (ea : Int) (q : QDesc) (a :
    Opnd) (o : Nat) :
    (quantCycle s k r j d ea q a o).mems = s.mems := by
  simp [quantCycle]

@[simp] theorem goBeat_mems (s : State) (k : Nat) (r : Run) (j : VJob) (p : VPlan) (e : VEnv) (o : Nat) :
    (goBeat s k r j p e o).mems = s.mems := by
  unfold goBeat
  (repeat' split) <;> simp

@[simp] theorem arithCycle_mems (s : State) (k : Nat) (r : Run) (j : VJob) (o : Nat) :
    (arithCycle s k r j o).mems = s.mems := by
  unfold arithCycle
  split <;> simp

@[simp] theorem vxRunCycle_mems (rc : Nat) (s : State) (k : Nat) (r : Run) : (vxRunCycle rc s k r).mems = s.mems := by
  unfold vxRunCycle
  (repeat' split) <;> simp

@[simp] theorem vxCycle_mems (s : State) (k rc : Nat) : (vxCycle s k rc).mems = s.mems := by
  simp [vxCycle]

@[simp] theorem engineCycle_mems (s : State) (k rc : Nat) : (engineCycle s k rc).mems = s.mems := by
  simp [engineCycle]

@[simp] theorem chartFlush_mems (s : State) (k : Nat) : (chartFlush s k).mems = s.mems := by
  simp [chartFlush]

@[simp] theorem brkOpen_mems (s : State) (k : Nat) : (brkOpen s k).mems = s.mems := by
  unfold brkOpen
  dsimp only
  split <;> simp

@[simp] theorem sliceCycle_mems (s : State) (k rc : Nat) : (sliceCycle s k rc).mems = s.mems := by
  simp [sliceCycle]

@[simp] theorem tickCore_mems (s : State) (k rc d : Nat) : (tickCore s k rc d).mems = s.mems := by
  unfold tickCore
  dsimp only
  split <;> simp

@[simp] theorem holdWait_mems (s : State) (k d e : Nat) : (holdWait s k d e).mems = s.mems := by
  unfold holdWait
  dsimp only
  split <;> simp

@[simp] theorem watch_mems (s : State) (k a : Nat) : (watch s k a).mems = s.mems := by
  simp [watch]

@[simp] theorem evaluate_mems (s : State) (k e : Nat) (h : Head) : (evaluate s k e h).mems = s.mems := by
  simp [evaluate]

@[simp] theorem vxFreed_mems (s : State) (k : Nat) (h : Head) : (vxFreed s k h).mems = s.mems := by
  simp [vxFreed]

@[simp] theorem tickEngine_mems (s : State) (k d e : Nat) : (tickEngine s k d e).mems = s.mems := by
  unfold tickEngine
  dsimp only
  split <;> simp

@[simp] theorem promote_mems (s : State) (k : Nat) : (promote s k).mems = s.mems := by
  simp [promote]

@[simp] theorem tickEngines_mems (s : State) (k d : Nat) : (tickEngines s k d).mems = s.mems := by
  simp [tickEngines]

@[simp] theorem handoverDue_mems (s : State) : (handoverDue s).mems = s.mems := by
  simp [handoverDue]

@[simp] theorem updFault_mems (s : State) : (updFault s).mems = s.mems := by
  simp [updFault]

@[simp] theorem pauseDue_mems (s : State) : (pauseDue s).mems = s.mems := by
  simp [pauseDue]

@[simp] theorem bbolCopies_mems (s : State) (a : Nat) : (bbolCopies s a).mems = s.mems := by
  simp [bbolCopies]

@[simp] theorem bbolStep_mems (s : State) (a : Nat) (l : List BBolOp) : (bbolStep s a l).mems = s.mems := by
  unfold bbolStep
  dsimp only
  (repeat' split) <;> simp

@[simp] theorem bbolFlush_mems (s : State) : (bbolFlush s).mems = s.mems := by
  simp [bbolFlush]

@[simp] theorem tickControl_mems (s : State) : (tickControl s).mems = s.mems := by
  simp [tickControl]

@[simp] theorem dropDark_mems (s : State) (r : Nat) : (dropDark s r).mems = s.mems := by
  simp [dropDark]

@[simp] theorem grant_mems (s : State) (n m : Node) (c : State.Cand) (floor : Bool) :
    (grant s n m c floor).mems = s.mems := by
  unfold grant
  dsimp only
  split <;> simp

@[simp] theorem grants_mems (n m : Node) (w : Nat) (s : State) : (grants n m w s).mems = s.mems := by
  induction w generalizing s with
  | zero => rfl
  | succ w ih => unfold grants; split <;> simp [ih]

@[simp] theorem nodeCycle_mems (s : State) (n : Node) : (nodeCycle s n).mems = s.mems := by
  unfold nodeCycle
  split <;> simp

@[simp] theorem takeOut_mems (s : State) (p : Port) : (takeOut s p).2.mems = s.mems := by
  unfold takeOut
  exact foldl_pair_mems (fun a l => foldl_pair_mems (fun a vc => by simp) _ _) _ _

@[simp] theorem netCycle_mems (s : State) (ran : Node → Bool) : (netCycle s ran).2.mems = s.mems := by
  unfold netCycle
  split
  · rfl
  · rw [foldl_pair_mems fun a n => ?_]
    · simp
    · split <;> simp

@[simp] theorem probed_mems (s : State) (k fence t : Nat) (link : Bool) :
    (probed s k fence t link).mems = s.mems := by
  simp [probed]

@[simp] theorem atJetty_mems (s : State) (r : LineReq) : (atJetty s r).mems = s.mems := by
  simp [atJetty]

@[simp] theorem fillArrive_mems (s : State) (id : Nat) (data : List Byte) : (fillArrive s id data).mems = s.mems := by
  unfold fillArrive
  split <;> simp

@[simp] theorem ackCore_mems (s : State) (k id : Nat) : (ackCore s k id).mems = s.mems := by
  simp [ackCore]

@[simp] theorem copyArrive_mems (s : State) (k a : Nat) (v : Word) : (copyArrive s k a v).mems = s.mems := by
  simp [copyArrive]

@[simp] theorem arrive_mems (s : State) (r : LineReq) : (arrive s r).mems = s.mems := by
  simp [arrive]

@[simp] theorem storeDone_mems (s : State) (r : LineReq) : (storeDone s r).mems = s.mems := by
  simp [storeDone]

@[simp] theorem atCore_mems (s : State) (q : LineReq) : (atCore s q).mems = s.mems := by
  simp [atCore]

@[simp] theorem atQuay_mems (s : State) (id : Nat) : (atQuay s id).mems = s.mems := by
  unfold atQuay
  split <;> simp

@[simp] theorem foreignDone_mems (s : State) (r : LineReq) : (foreignDone s r).mems = s.mems := by
  simp [foreignDone]

@[simp] theorem creditSlot_mems (s : State) (o : OutSlot) : (creditSlot s o).mems = s.mems := by
  unfold creditSlot
  split <;> simp

@[simp] theorem slotArrive_mems (s : State) (o : OutSlot) : (slotArrive s o).mems = s.mems := by
  simp [slotArrive]

@[simp] theorem arriveBarrier_mems (s : State) (c k id : Nat) : (arriveBarrier s c k id).mems = s.mems := by
  simp [arriveBarrier]

@[simp] theorem releaseAt_mems (s : State) (k c bol : Nat) : (releaseAt s k c bol).mems = s.mems := by
  simp [releaseAt]

@[simp] theorem atBasin_mems (s : State) (r : Nat) (q : LineReq) : (atBasin s r q).mems = s.mems := by
  simp [atBasin]

@[simp] theorem deliver_mems (s : State) (p : Port) (load : Load) : (deliver s p load).mems = s.mems := by
  unfold deliver
  (repeat' split) <;> simp

@[simp] theorem channelCycle_mems (s : State) (was : Tab Nat) : (channelCycle s was).mems = s.mems := by
  simp [channelCycle]

@[simp] theorem gateWait_mems (s : State) (c : Nat) : (gateWait s c).mems = s.mems := by
  simp [gateWait]

@[simp] theorem beginLeg_mems (s : State) (c : Nat) (g : LegRun) : (beginLeg s c g).mems = s.mems := by
  simp [beginLeg]

@[simp] theorem beginDue_mems (s : State) (c : Nat) : (beginDue s c).mems = s.mems := by
  simp [beginDue]

@[simp] theorem tickContexts_mems (s : State) : (tickContexts s).mems = s.mems := by
  simp [tickContexts]

@[simp] theorem tickParts_mems (was : Tab Nat) (s : State) : (tickParts was s).mems = s.mems := by
  simp [tickParts]

@[simp] theorem advanceRegion_mems (s : State) (r : Nat) : (advanceRegion s r).mems = s.mems := by
  simp [advanceRegion]

@[simp] theorem tickClk_mems (s : State) : (tickClk s).mems = s.mems := by
  simp [tickClk]

@[simp] theorem framed_mems (s t : State) : (s.framed t).mems = t.mems := by simp [framed, keep]
@[simp] theorem tick_mems (s : State) : s.tick.mems = s.mems := by
  unfold tick
  dsimp only
  split <;> simp

@[simp] theorem sqIssue_mems {f : State → Head → State} (hf : ∀ u h, (f u h).mems = u.mems) (op k : Nat) (up : Upset)
    (s : State) : (sqIssue op f k up s).mems = s.mems := by
  unfold sqIssue
  split
  · rfl
  · exact chartRead_mems _ _ _ fun u => (brkIssue_mems ..).trans ((hf ..).trans (issued_mems ..))

theorem evict_mems (s : State) (c pa n : Nat) : (s.evict c pa n).mems = s.mems := by
  simp [evict]

@[simp] theorem hourlyPlan_mems (s : State) (r : Nat) : (hourlyPlan s r).mems = s.mems := by
  unfold hourlyPlan
  dsimp only
  split <;> simp

@[simp] theorem quayAnswer_mems (s : State) (m : Nat) (r : LineReq) (l : List Byte) :
    (quayAnswer s m r l).mems = s.mems := by
  unfold quayAnswer
  split <;> simp

/-- What a command of a queue keeps: whatever the memories determine and its effect keeps. -/
theorem command_keeps {β : Type} {π : State → β} (hπ : ∀ {s t : State}, t.mems = s.mems → π t = π s)
    {f : Nat → Cmd → State → State} (hf : ∀ q c u, π (f q c u) = π u) (op q : Nat) (s : State) :
    π (command op f q s) = π s := by
  unfold command
  extract_lets t u v task
  split
  · rfl
  split
  · rfl
  have hu : u.mems = s.mems := by
    unfold u
    split <;> simp [t]
  have hv : v.mems = s.mems := (modExec_mems ..).trans hu
  split
  · exact hπ ((failHere_mems ..).trans hv)
  · exact (hf ..).trans (hπ hv)

/-! The functions that write device memory leave host memory. -/

theorem memWrite_host (s : State) (a : Nat) (l : List Byte) : (s.memWrite a l).hostMem = s.hostMem := rfl

theorem Acc.ok_host {α : Type} {x : Acc α} {s t : State} {a : α} (e : x = .ok a t) (h : x.state.hostMem = s.hostMem) :
    t.hostMem = s.hostMem := by
  rw [← h, e, Acc.state_ok]

theorem Acc.fail_host {α : Type} {x : Acc α} {s t : State} {st : Nat} (e : x = .fail st t)
    (h : x.state.hostMem = s.hostMem) : t.hostMem = s.hostMem := by
  rw [← h, e, Acc.state_fail]

theorem cmdWrite_host (s : State) (c : Nat) (must asked : Bool) (l : List (Nat × Nat)) (data : List Byte) :
    (cmdWrite s c must asked l data).state.hostMem = s.hostMem := by
  induction l generalizing s data with
  | nil => rfl
  | cons run l ih =>
    have page := cmdPage_mems s c run.1 true must
    unfold cmdWrite
    split
    · next pa _ e =>
      have asks : ∀ t : State, (if asked then t else t.quayLines pa run.2 true).mems = t.mems := fun t => by
        split <;> simp
      rw [ih, memWrite_host]
      exact mems_pair_host ((evict_mems ..).trans ((asks _).trans (Acc.ok_mems e page)))
    · next e => exact mems_pair_host (Acc.fail_mems e page)

theorem writeLoc_host (s : State) (q a : Nat) (l : List Byte) (asked : Bool) :
    (writeLoc s q a l asked).state.hostMem = s.hostMem := by
  unfold writeLoc
  by_cases h : itemAddr ≤ a
  · rw [if_pos h, Acc.state_ok]
    exact mems_pair_host (modExec_mems _ _ _)
  · rw [if_neg h]
    exact cmdWrite_host s (s.qCtx q) false asked (runsOf a l.length) l

theorem depositUnit_host (s : State) (q : Nat) (d : Deposit) : (depositUnit s q d).hostMem = s.hostMem := by
  -- the write stays a variable in the body, so that the kernel does not evaluate it
  have body : ∀ f, depositUnit = f → (f s q d).hostMem = s.hostMem := by
    intro f hf
    obtain ⟨write, hw⟩ := exists_eq' (a' := cmdWrite)
    have written := cmdWrite_host
    delta depositUnit at hf
    rw [hw] at hf written
    subst hf
    beta_reduce
    extract_lets t x units unit unit'
    split
    · next e => exact (mems_pair_host (failHere_mems ..)).trans (Acc.fail_host e (written ..))
    · next e =>
      refine (mems_pair_host ?_).trans (Acc.ok_host e (written ..))
      split <;> simp
  exact body _ rfl

theorem depositFirst_host (s : State) (q : Nat) (d : Deposit) : (depositFirst s q d).hostMem = s.hostMem := by
  unfold depositFirst
  extract_lets t
  split
  · exact mems_pair_host (failHere_mems ..)
  split
  · exact mems_pair_host (failHere_mems ..)
  split
  · exact mems_pair_host (modExec_mems ..)
  split
  · exact mems_pair_host (failHere_mems ..)
  · exact depositUnit_host ..

theorem enqueueDeposit_host (s : State) (q : Nat) : (enqueueDeposit s q).hostMem = s.hostMem := by
  unfold enqueueDeposit
  split
  · rfl
  split
  · rfl
  split
  · split
    · exact mems_pair_host (failHere_mems ..)
    · exact depositFirst_host ..
  split
  · split
    · rfl
    · exact depositFirst_host ..
  · exact depositUnit_host ..

theorem cmdEnqueue_host (q : Nat) (c : Cmd) (s : State) : (cmdEnqueue q c s).hostMem = s.hostMem := by
  have fails : ∀ (t : State) (st : Nat), t.mems = s.mems → (t.failHere q st).hostMem = s.hostMem := fun t st h =>
    mems_pair_host ((failHere_mems ..).trans h)
  unfold cmdEnqueue
  extract_lets target
  split
  · exact fails _ _ rfl
  split
  · exact fails _ _ rfl
  split
  · next e => exact fails _ _ (Acc.fail_mems e (reloc_mems ..))
  next e =>
  have h1 := Acc.ok_mems e (reloc_mems ..)
  split
  · next e => exact fails _ _ ((Acc.fail_mems e (readLoc_mems ..)).trans h1)
  next e =>
  have h2 := (Acc.ok_mems e (readLoc_mems ..)).trans h1
  extract_lets units
  split
  · exact fails _ _ h2
  split
  · next e => exact fails _ _ ((Acc.fail_mems e (reloc_mems ..)).trans h2)
  next e =>
  have h3 := (Acc.ok_mems e (reloc_mems ..)).trans h2
  split
  · next e => exact fails _ _ ((Acc.fail_mems e (readLoc_mems ..)).trans h3)
  · next e => exact (depositFirst_host ..).trans (mems_pair_host ((Acc.ok_mems e (readLoc_mems ..)).trans h3))

theorem cmdTimestamp_host (q : Nat) (c : Cmd) (s : State) : (cmdTimestamp q c s).hostMem = s.hostMem := by
  unfold cmdTimestamp
  split
  · next e => exact mems_pair_host ((failHere_mems ..).trans (Acc.fail_mems e (reloc_mems ..)))
  next e =>
  have h := mems_pair_host (Acc.ok_mems e (reloc_mems ..))
  split
  · next e => exact (mems_pair_host (failHere_mems ..)).trans ((Acc.fail_host e (writeLoc_host ..)).trans h)
  · next e => exact (mems_pair_host (advance_mems ..)).trans ((Acc.ok_host e (writeLoc_host ..)).trans h)

theorem moveBytes_host (q : Nat) (t : Transfer) (n at_ : Nat) (s : State) :
    (moveBytes q t n at_ s).state.hostMem = s.hostMem := by
  induction n generalizing at_ s with
  | zero => rfl
  | succ n ih =>
    unfold moveBytes
    split
    · rfl
    extract_lets src dst m m' data
    have hdata : data.state.hostMem = s.hostMem := by
      unfold data
      split
      · rfl
      · exact congrArg Prod.snd (readLoc_mems s q src m' true)
    clear_value data
    split
    · exact hdata
    split
    · next e => exact (Acc.fail_host e (writeLoc_host ..)).trans hdata
    · next e => exact (ih ..).trans ((Acc.ok_host e (writeLoc_host ..)).trans hdata)

theorem copyComplete_host (s : State) (q : Nat) : (copyComplete s q).hostMem = s.hostMem := by
  unfold copyComplete
  split
  · rfl
  split
  · rfl
  split
  · rfl
  next t l _ =>
  extract_lets moved
  refine (mems_pair_host ((pollQueue_mems ..).trans (modExec_mems ..))).trans ?_
  unfold moved
  split
  · next e => exact Acc.ok_host e (moveBytes_host ..)
  · next e => exact (mems_pair_host (failCmd_mems ..)).trans (Acc.fail_host e (moveBytes_host ..))

theorem memWrites_host (l : List LineReq) (s : State) :
    (l.foldl (fun s r => s.memWrite r.pa r.data) s).hostMem = s.hostMem := by
  induction l generalizing s with
  | nil => rfl
  | cons r l ih => exact ih _

theorem quayOkay_host (s : State) (m : Nat) (q : QReq) : (quayOkay s m q).hostMem = s.hostMem := by
  unfold quayOkay
  extract_lets t u
  have ht : t.hostMem = s.hostMem := by
    unfold t
    split
    · exact memWrites_host ..
    · rfl
  refine (mems_pair_host ?_).trans ht
  split
  · split <;> simp
  split
  · exact foldl_mems (fun _ _ => injectAt_mems ..) _ _
  split
  · simp only [u, inject_mems, mems_mk, mems_pair]
  · exact foldl_mems (fun _ _ => quayAnswer_mems ..) _ _

theorem quayResponse_host (s : State) (m id : Nat) (resp : QuayResp) (lat : Nat) :
    (quayResponse s m id resp lat).hostMem = s.hostMem := by
  unfold quayResponse
  split
  · simp
  next q _ =>
  extract_lets s1 a s2 fail
  have fails : ∀ code d, (fail s2 code d).mems = s2.mems := fun code d => by
    unfold fail
    (repeat' split) <;> simp
  have h2 : s2.hostMem = s.hostMem := by simp [s2, s1]
  split
  · exact (mems_pair_host (fails ..)).trans h2
  · exact (mems_pair_host (fails ..)).trans h2
  · exact (mems_pair_host (fails ..)).trans h2
  · exact (quayOkay_host ..).trans h2

/-! The ledger is written in host memory (R344). -/

theorem hourlyPlans_dev (c : Bool) (l : List Nat) (p) (s : State) :
    (if c then l.foldl (fun s r => s.hourlyPlan r) { s with pilot := p } else s).devMem = s.devMem := by
  cases c with
  | true => exact (mems_pair_dev (foldl_mems (fun _ _ => hourlyPlan_mems ..) l { s with pilot := p })).trans rfl
  | false => rfl

theorem ledgerRecord_dev (s : State) : (ledgerRecord s).devMem = s.devMem := by
  obtain ⟨ticks, ht⟩ := exists_eq' (a' := hourTicks)
  unfold ledgerRecord
  rw [ht]
  extract_lets p hour gap s1
  have h1 : s1.devMem = s.devMem := hourlyPlans_dev ..
  clear_value s1
  split
  · rfl
  split
  · exact h1
  split
  · exact h1
  · simpa using h1

end State

/-! Commands: what their effect keeps stays. -/

section
variable {β : Type} {π : State → β} (hπ : ∀ s t : State, π (s.framed t) = π t) {f : State → State} {s t : State}
include hπ

theorem actRaw_keeps (hf : π (f s) = π s) (ht : actRaw f s = .next t) : π t = π s := by
  cases ht
  exact (hπ ..).trans hf

omit hπ in
theorem when_keeps (hf : π (f s) = π s) (b : Bool) : π (when b f s) = π s := by
  unfold when
  split
  · exact hf
  · rfl

theorem act_keeps (hf : π (f s) = π s) (ht : act f s = .next t) : π t = π s :=
  actRaw_keeps hπ (when_keeps hf _) ht

theorem actAt_keeps (hf : π (f s) = π s) {p : Bool} (ht : actAt p f s = .next t) : π t = π s := by
  cases p with
  | true => exact act_keeps hπ hf ht
  | false => cases ht

theorem actRawAt_keeps (hf : π (f s) = π s) {p : Bool} (ht : actRawAt p f s = .next t) : π t = π s := by
  cases p with
  | true => exact actRaw_keeps hπ hf ht
  | false => cases ht

theorem actCore_keeps (hf : π (f s) = π s) {k : Nat} {p : Bool} (ht : actCore k p f s = .next t) : π t = π s :=
  actAt_keeps hπ (when_keeps hf _) ht

theorem actRegion_keeps (hf : π (f s) = π s) {r : Nat} {p : Bool} (ht : actRegion r p f s = .next t) : π t = π s :=
  actAt_keeps hπ (when_keeps hf _) ht

end

open State

theorem actClk_mems {c : State → Clk} {f : State → State} {s t : State} (hf : (f s).mems = s.mems)
    (ht : actClk c f s = .next t) : t.mems = s.mems := by
  cases ht
  simpa [keep] using hf

theorem execInstrumentAccess_mems {a : TestAccess} {s t : State} (ht : execInstrumentAccess a s = .next t) :
    t.mems = s.mems := by
  unfold execInstrumentAccess at ht
  refine actRaw_keeps framed_mems ?_ ht
  split <;> simp

theorem execBootParamAddrHi_mems {p : Party} {v : Word} {s t : State} (ht : execBootParamAddrHi p v s = .next t) :
    t.mems = s.mems := by
  unfold execBootParamAddrHi at ht
  exact actRaw_keeps framed_mems (write_mems _ _ _ (wrParamAddr_mems ..)) ht

/-- The commands that write device memory. -/
def writesDeviceMemory : Instr → Bool
  | .quayResponse .. | .copyComplete _ | .cmdTimestamp _ | .cmdEnqueue _ | .enqueueDeposit _ | .itemComplete _ => true
  | _ => false

/-- Every other command but the ledger's leaves both memories, by the rule of its effect. -/
theorem exec_mems {i : Instr} {s t : State} (hd : writesDeviceMemory i = false) (hl : i ≠ .ledgerRecord)
    (ht : exec i s = .next t) : t.mems = s.mems := by
  cases i with
  -- of the clock of a core
  | sqLd | sqInc | sqDec | sqAddi | sqCmp | sqSkip | sqLoop =>
    exact actCore_keeps framed_mems (sqIssue_mems (fun u h => by simp) ..) ht
  | mxMm | mxMmMasked | mxRetire | vxAdd | vxMul
  | vxFma | vxMin | vxMax | vxCmp | vxSel | vxCvt | vxQuant | vxRed | vxCompress | vxExpand | vxMset | vxMlogic | vxWharf
  | vxSent | vxRetire | wharfResultGroup | ldStream | ldGather | stStream | stScatter | stHalo | stPost | streamSlotFree
  | chunkWaitMet | lineRequest | indexWordRead | lineDeposit | chunkComplete | haloDelivery | postWriteArrival | syWait
  | syAdd | sySub | sySignal | syArrive | signalArrival | fenceProbe | fenceComplete
  | segmentReady | segmentPowerDown | planeSwitch | holdArrival => exact actCore_keeps framed_mems (by simp) ht
  -- of the clock of a region
  | basinRequest | basinFillComplete | wayUseChange | rangeDone | tideStep => exact actRegion_keeps framed_mems (by simp) ht
  -- of a part of the build while the block serves
  | mxInject | barrierRelease | bolWrite | bbolValue | bbolAdd | bbolSub | brkArm | chartDataHi | bankModeWrite | brangePin
  | brangeUnpin | brangeEvict | flitArrival | quayShareFrame | frequencyRise | holdReq | resumeTide | resume | tlbInval
  | openCtx | start | destroy | teardownComplete | ctxReplay | bind | unbind | reset | flush | doorbell | itemFetch
  | condPoll
  | crewLead | legBase | legEnd
  | queueTimeout | quayLate | wloadGo | wharfRecord | wloadDone | coreFaultDetach | pairGateMatch | rebuild
  | configMirrorCheck | synthLockLoss | vreqAck | vreqTimeout | gaugeReading | hersilFlitRx | nak | replayTimeout
  | jettyRetry | keepalive | jettyDark | restart | vreqAckFall | idleForAck | restartExpiry | lowerVreq =>
    exact actAt_keeps framed_mems (by simp) ht
  | cmdEnd | cmdCopy | cmdFill | cmdSignal | cmdWait | cmdIf | cmdLoop
  | cmdCall | cmdFence =>
    exact actAt_keeps framed_mems (command_keeps id (fun q c u => by simp) ..) ht
  -- of the block while it serves
  | capInject | commitArm | commitCancel | commitApply | crewTrap | crewHang | stage
  | updateChecked | activate | updateActivation | confirm | revert | abort | updWindowExpiry | pilotHeartbeat | pilotLost
  | muster | musterDecide | leave | detourFenceEnd | bollardWindowAdd | tideSync | tideSkew | captureArm | captureCancel
  | captureFreeze | captureRelease | captureReleased | flogRead | lifelineToggle | pilotTrap | pilotSramUe =>
    exact act_keeps framed_mems (by simp) ht
  -- whatever BOOT STATE is
  | chartDataLoRead | quayLatMaxRead | linkUp => exact actRawAt_keeps framed_mems (by simp) ht
  | hqAresetN | testEnRise | hiWrite => exact actRaw_keeps framed_mems (by simp) ht
  | hqReadResponse => exact actRaw_keeps (f := fun s => s.hqResponse _ _ _) framed_mems (hqResponse_mems ..) ht
  | resetRelease => exact actRaw_keeps (f := fun s => s.resetRelease _ _) framed_mems (resetRelease_mems ..) ht
  | go => exact actRaw_keeps (f := fun s => s.write _ _ _) framed_mems (write_mems _ _ _ (wrBoot_mems ..)) ht
  | slipTransfer => exact actRaw_keeps (f := fun s => s.slipTransfer _ _) framed_mems (slipTransfer_mems ..) ht
  | pilotImageComplete =>
    exact actRaw_keeps (f := fun s => s.pilotImageComplete _) framed_mems (pilotImageComplete_mems ..) ht
  | bootParamAddrHi p v => exact execBootParamAddrHi_mems ht
  | loRead => exact actRaw_keeps (f := fun s => s.read _ _) framed_mems (read_mems ..) ht
  | registerWrite => exact actRaw_keeps (f := fun s => s.regWrite _ _ _) framed_mems (regWrite_mems ..) ht
  | flogE0Read p =>
    exact actRaw_keeps (f := fun s => if s.answers (faultP + 0x48) then s.readFlog p else s.give p 0) framed_mems (by simp)
      ht
  | retirementBoundOp k =>
    refine actCore_keeps framed_mems ?_ ht
    extract_lets x
    split <;> simp
  | mxSetdim | syFence | chartScrub | berthScrub =>
    refine actCore_keeps framed_mems ?_ ht
    (repeat' split) <;> simp
  | basinScrub =>
    refine actRegion_keeps framed_mems ?_ ht
    (repeat' split) <;> simp
  | cmdLaunch | cmdRegister | cmdRelease =>
    exact actAt_keeps framed_mems (when_mems (fun _ => command_keeps id (fun q c u => by simp) ..) ..) ht
  | blockBollardUpdate =>
    refine act_keeps framed_mems ?_ ht
    split <;> simp
  | winData =>
    refine actRawAt_keeps framed_mems ?_ ht
    (repeat' split) <;> simp
  | instrumentAccess a => exact execInstrumentAccess_mems ht
  | resetAssert => exact actClk_mems (c := fun s => { time := s.clk.time }) (resetAssert_mems s) ht
  | lossOfPower => exact actClk_mems (c := fun _ => {}) (powerLoss_mems s) ht
  | bringUp e => exact actClk_mems (c := fun s => s.bringUpClk e) (f := fun s => s.bringUp e) (bringUp_mems s e) ht
  | tideForwardStep =>
    exact actClk_mems (c := fun s => { s.clk with tide := if s.awake then s.forwardTide else s.clk.tide })
      (when_mems forwardStep_mems s.awake s) ht
  | ledgerRecord => exact absurd rfl hl
  | quayResponse | copyComplete | cmdTimestamp | cmdEnqueue | enqueueDeposit | itemComplete => exact nomatch hd

theorem exec_host {i : Instr} {s t : State} (hi : ∀ q, i ≠ .itemComplete q) (hl : i ≠ .ledgerRecord)
    (ht : exec i s = .next t) : t.hostMem = s.hostMem := by
  cases hd : writesDeviceMemory i with
  | false => exact mems_pair_host (exec_mems hd hl ht)
  | true =>
    have framed : ∀ s t : State, (s.framed t).hostMem = t.hostMem := fun _ _ => rfl
    cases i with
    | quayResponse => exact actAt_keeps framed (quayResponse_host ..) ht
    | copyComplete => exact actAt_keeps framed (copyComplete_host ..) ht
    | cmdTimestamp => exact actAt_keeps framed (command_keeps mems_pair_host cmdTimestamp_host ..) ht
    | cmdEnqueue => exact actAt_keeps framed (command_keeps mems_pair_host cmdEnqueue_host ..) ht
    | enqueueDeposit => exact actAt_keeps framed (enqueueDeposit_host ..) ht
    | itemComplete q => exact absurd rfl (hi q)
    | _ => exact nomatch hd

theorem exec_dev {i : Instr} {s t : State} (hd : writesDeviceMemory i = false) (ht : exec i s = .next t) :
    t.devMem = s.devMem := by
  by_cases hl : i = .ledgerRecord
  · subst hl
    exact act_keeps (π := State.devMem) (fun _ _ => rfl) (ledgerRecord_dev s) ht
  · exact mems_pair_dev (exec_mems hd hl ht)

/-- Settles O59: by the commands that write memory; every other effect, and the passage of time, leaves both. -/
theorem memoryChangesOnlyWhereItIsWritten : Obligations.MemoryChangesOnlyWhereItIsWritten := by
  unfold Obligations.MemoryChangesOnlyWhereItIsWritten
  intro s t
  refine ⟨fun i ht => ⟨fun hq hw => exec_dev ?_ ht, fun hi hl => exec_host hi hl ht⟩, fun hp ht => ?_⟩
  · cases i with
    | quayResponse m id resp lat => exact absurd rfl (hq m id resp lat)
    | copyComplete q => exact absurd rfl (hw q).1
    | cmdTimestamp q => exact absurd rfl (hw q).2.1
    | cmdEnqueue q => exact absurd rfl (hw q).2.2.1
    | enqueueDeposit q => exact absurd rfl (hw q).2.2.2.1
    | itemComplete q => exact absurd rfl (hw q).2.2.2.2
    | _ => rfl
  · cases (step_nil hp).symm.trans ht
    exact ⟨mems_pair_dev (tick_mems s), mems_pair_host (tick_mems s)⟩

end Sys2Proof.Machine
end

section
/-! PROOF. A quay's answers (R126, R242, R243, R255, R325, R429 to R434): the response that meets its request, and what comes
over the mesh to a quay, a Basin and a core (O48). -/

namespace Sys2Proof.Machine

theorem partsSame.refl (s : State) : partsSame s s := ⟨rfl, rfl, rfl, rfl, rfl, rfl, rfl, rfl, rfl, rfl⟩

theorem partsSame.trans {s t u : State} (h : partsSame s t) (h' : partsSame t u) : partsSame s u := by
  obtain ⟨core, region, ctx, queue, bbol, dev, host, clk, build, pending⟩ := h
  obtain ⟨core', region', ctx', queue', bbol', dev', host', clk', build', pending'⟩ := h'
  exact ⟨core'.trans core, region'.trans region, ctx'.trans ctx, queue'.trans queue, bbol'.trans bbol, dev'.trans dev,
    host'.trans host, clk'.trans clk, build'.trans build, pending'.trans pending⟩

theorem partsSame.framed {s t : State} (h : partsSame s t) : partsSame s (s.framed t) := by
  obtain ⟨core, region, ctx, queue, bbol, dev, host, -⟩ := h
  exact ⟨core, region, ctx, queue, bbol, dev, host, rfl, rfl, rfl⟩

theorem State.LogOnly.partsSame {s t : State} (h : State.LogOnly s t) : partsSame s t := by
  obtain ⟨r, f, o, rfl⟩ := h
  exact .refl s

theorem State.LogOnly.netSame {s t : State} (h : State.LogOnly s t) : netSame s t := by
  obtain ⟨r, f, o, rfl⟩ := h
  exact ⟨rfl, rfl⟩

theorem State.LogOnly.quays {s t : State} (h : State.LogOnly s t) : t.quays = s.quays := by
  obtain ⟨r, f, o, rfl⟩ := h
  rfl

namespace State

theorem rd_count (s : State) (a n : Nat) : (s.count a n).rd a = satAdd (s.rd a) n := by
  rw [rd_count_self]
  split
  · next h => rw [h, satAdd_zero]
  · rfl

/-! Packets that enter the mesh. -/

/-- A packet that enters the mesh changes the mesh and the number of the next packet. -/
theorem injectAt_eq (s : State) (n : Node) (load : Load) (src dst : Port) (vc len ready : Nat) (all : Bool) :
    s.injectAt n load src dst vc len ready all =
      { s with net := (s.injectAt n load src dst vc len ready all).net, nextPkt := s.nextPkt + 1 } := by
  unfold injectAt setChLink
  dsimp only
  split <;> rfl

@[simp] theorem injectAt_core (s : State) (n : Node) (load : Load) (src dst : Port) (vc len ready : Nat) (all : Bool) :
    (s.injectAt n load src dst vc len ready all).core = s.core := by rw [injectAt_eq]

@[simp] theorem injectAt_region (s : State) (n : Node) (load : Load) (src dst : Port) (vc len ready : Nat) (all : Bool) :
    (s.injectAt n load src dst vc len ready all).region = s.region := by rw [injectAt_eq]

@[simp] theorem injectAt_ctx (s : State) (n : Node) (load : Load) (src dst : Port) (vc len ready : Nat) (all : Bool) :
    (s.injectAt n load src dst vc len ready all).ctx = s.ctx := by rw [injectAt_eq]

@[simp] theorem injectAt_queue (s : State) (n : Node) (load : Load) (src dst : Port) (vc len ready : Nat) (all : Bool) :
    (s.injectAt n load src dst vc len ready all).queue = s.queue := by rw [injectAt_eq]

@[simp] theorem injectAt_bbol (s : State) (n : Node) (load : Load) (src dst : Port) (vc len ready : Nat) (all : Bool) :
    (s.injectAt n load src dst vc len ready all).bbol = s.bbol := by rw [injectAt_eq]

@[simp] theorem injectAt_devMem (s : State) (n : Node) (load : Load) (src dst : Port) (vc len ready : Nat) (all : Bool) :
    (s.injectAt n load src dst vc len ready all).devMem = s.devMem := by rw [injectAt_eq]

@[simp] theorem injectAt_hostMem (s : State) (n : Node) (load : Load) (src dst : Port) (vc len ready : Nat) (all : Bool) :
    (s.injectAt n load src dst vc len ready all).hostMem = s.hostMem := by rw [injectAt_eq]

@[simp] theorem injectAt_clk (s : State) (n : Node) (load : Load) (src dst : Port) (vc len ready : Nat) (all : Bool) :
    (s.injectAt n load src dst vc len ready all).clk = s.clk := by rw [injectAt_eq]

@[simp] theorem injectAt_build (s : State) (n : Node) (load : Load) (src dst : Port) (vc len ready : Nat) (all : Bool) :
    (s.injectAt n load src dst vc len ready all).build = s.build := by rw [injectAt_eq]

@[simp] theorem injectAt_pending (s : State) (n : Node) (load : Load) (src dst : Port) (vc len ready : Nat) (all : Bool) :
    (s.injectAt n load src dst vc len ready all).pending = s.pending := by rw [injectAt_eq]

@[simp] theorem injectAt_quays (s : State) (n : Node) (load : Load) (src dst : Port) (vc len ready : Nat) (all : Bool) :
    (s.injectAt n load src dst vc len ready all).quays = s.quays := by rw [injectAt_eq]

@[simp] theorem injectAt_reg (s : State) (n : Node) (load : Load) (src dst : Port) (vc len ready : Nat) (all : Bool) :
    (s.injectAt n load src dst vc len ready all).reg = s.reg := by rw [injectAt_eq]

@[simp] theorem injectAt_bbolIn (s : State) (n : Node) (load : Load) (src dst : Port) (vc len ready : Nat) (all : Bool) :
    (s.injectAt n load src dst vc len ready all).bbolIn = s.bbolIn := by rw [injectAt_eq]

theorem injectAt_partsSame (s : State) (n : Node) (load : Load) (src dst : Port) (vc len ready : Nat) (all : Bool) :
    partsSame s (s.injectAt n load src dst vc len ready all) := by simp [partsSame]

theorem setChLink_net (s : State) (l : ChLink) : (s.setChLink l).net =
    if s.net.any fun m => m.a = l.a && m.b = l.b then s.net.map fun m => if m.a = l.a ∧ m.b = l.b then l else m
    else s.net ++ [l] := by
  unfold setChLink
  split <;> rfl

/-- What a packet makes of the mesh depends on the mesh, the clocks and the build. -/
theorem injectAt_net_congr {s t : State} (h : netSame s t) (hc : t.clk = s.clk) (hb : t.build = s.build) (n : Node)
    (load : Load) (src dst : Port) (vc len ready : Nat) (all : Bool) :
    (t.injectAt n load src dst vc len ready all).net = (s.injectAt n load src dst vc len ready all).net := by
  obtain ⟨hn, hp⟩ := h
  simp only [injectAt, setChLink_net, chLink, nodeNow, rcOf, ctlCycle, instant, hn, hp, hc, hb]

theorem sendsAt_of_injectAt {s u : State} (h : netSame s u) (hc : u.clk = s.clk) (hb : u.build = s.build) (n : Node)
    (load : Load) (src dst : Port) (vc len ready : Nat) :
    sendsAt n load src dst vc len ready s (s.framed (u.injectAt n load src dst vc len ready false)) := by
  refine ⟨injectAt_net_congr h hc hb .., ?_⟩
  rw [injectAt_eq, framed_nextPkt, h.2]

theorem sends_of_inject {s u : State} (h : netSame s u) (hc : u.clk = s.clk) (hb : u.build = s.build) (load : Load)
    (src dst : Port) (vc len : Nat) : Machine.sends load src dst vc len s (s.framed (u.inject load src dst vc len)) :=
  sendsAt_of_injectAt h hc hb (.port src) load src dst vc len 0

/-! What a quay has answered. -/

/-- The requests that are left once quay `m` has answered those with tag `id`. -/
def quaysLeft (s : State) (m id : Nat) : List QReq := s.quays.filter fun o => ¬ (o.quay = m ∧ o.id = id ∧ o.phase = 1)

/-- The request has left its quay, and QUAY_LATENCY_MAX has seen its latency (R431). -/
def responded (s : State) (m id lat : Nat) : State :=
  ({ s with quays := s.quaysLeft m id }).wr (quayP m + 0x44)
    (word (max (s.rd (quayP m + 0x44)).toNat (min lat (2 ^ 20 - 1))))

theorem partsSame_responded (s : State) (m id lat : Nat) : partsSame s (s.responded m id lat) := .refl s

theorem netSame_responded (s : State) (m id lat : Nat) : netSame s (s.responded m id lat) := ⟨rfl, rfl⟩

theorem responded_quays (s : State) (m id lat : Nat) : (s.responded m id lat).quays = s.quaysLeft m id := rfl

theorem rd_responded (s : State) (m id lat : Nat) {a : Nat} (h : quayP m + 0x44 ≠ a) : (s.responded m id lat).rd a = s.rd a :=
  rd_wr_ne _ _ h

section
variable {s : State} {m id lat : Nat} {o : QReq}

/-- The oldest request of that tag that waits at the quay is the one answered (R432). -/
abbrev awaits (s : State) (m id : Nat) (o : QReq) : Prop :=
  (s.quays.find? fun o => o.quay = m && o.id = id && o.phase = 1) = some o

theorem quayResponse_okay (h : s.awaits m id o) : s.quayResponse m id .okay lat = (s.responded m id lat).quayOkay m o := by
  unfold quayResponse
  rw [h]
  rfl

/-- A response with an error (R398, R432). -/
theorem quayResponse_error (h : s.awaits m id o) {resp : QuayResp} (hr : resp ≠ .okay) :
    s.quayResponse m id resp lat =
      let u := s.responded m id lat
      let code : Nat := if resp = .poison then 0x402 else 0x401
      if isForeign o then u.foreignFail code o (decide (resp = .decerr))
      else if u.isStale o then u.count (ctxP o.source + 0xC4) (max 1 o.reqs.length)
      else u.quayFail code o.pa o.write (decide (resp = .decerr)) o.source := by
  unfold quayResponse
  rw [h]
  cases resp with
  | okay => exact absurd rfl hr
  | slverr => rfl
  | decerr => rfl
  | poison => rfl

theorem quayResponse_stray (h : (s.quays.find? fun o => o.quay = m && o.id = id && o.phase = 1) = none) (resp : QuayResp) :
    s.quayResponse m id resp lat = (s.raise (quayP m) 0x403 (word (id % 2 ^ 12))).count (quayP m + 0x90) 1 := by
  unfold quayResponse
  rw [h]

end
theorem exec_quayResponse {s : State} {m : Nat} (hm : m < s.build.quays) (ha : s.awake = true) (id : Nat) (resp : QuayResp)
    (lat : Nat) : exec (.quayResponse m id resp lat) s = .next (s.framed (s.quayResponse m id resp lat)) := by
  show actAt (decide (m < s.build.quays)) (fun s => s.quayResponse m id resp lat) s = _
  rw [decide_eq_true hm, actAt_present, act_awake ha]

theorem fresh_congr {s t : State} {c : Nat} (h : t.rd (ctxP c + oSTATUS) = s.rd (ctxP c + oSTATUS)) (e : Nat) :
    t.fresh c e = s.fresh c e := by
  unfold fresh epoch ctxState
  rw [h]


/-- Words at different offsets of a quay's page and a context's are apart. -/
theorem quay_apart_ctx (m c : Nat) {a b : Nat} (ha : a < 0x1000) (hb : b < 0x1000) (h : a ≠ b) : quayP m + a ≠ ctxP c + b := by
  unfold quayP ctxP
  omega

theorem fresh_responded (s : State) (m id lat c e : Nat) : (s.responded m id lat).fresh c e = s.fresh c e :=
  fresh_congr (rd_responded s m id lat (quay_apart_ctx m c (by decide) (by decide) (by decide))) e

theorem isStale_responded (s : State) (m id lat : Nat) (o : QReq) : (s.responded m id lat).isStale o = s.isStale o := by
  simp only [isStale, fresh_responded]

/-- The request waits for its line to come to its Basin (R126). -/
def filling (s : State) (o : QReq) : State := { s with quays := s.quays ++ [{ o with phase := 2 }] }

theorem partsSame_filling (s : State) (o : QReq) : partsSame s (s.filling o) := .refl s

theorem netSame_filling (s : State) (o : QReq) : netSame s (s.filling o) := ⟨rfl, rfl⟩

/-! The answer to one request (R126, R242, R243). -/

section
variable {u : State} {m : Nat} {o : QReq} {r : LineReq}

theorem isForeign_single (hr : o.reqs = [r]) : isForeign o = decide (r.core = foreign) := by
  simp [isForeign, hr]

theorem quayOkay_write (hc : o.copy = none) (hr : o.reqs = [r]) (hf : r.core ≠ foreign) (hw : o.write = true)
    (hs : r.store = true) : u.quayOkay m o = (u.memWrite r.pa r.data).quayAnswer m r [] := by
  simp [quayOkay, isForeign_single hr, hc, hr, hf, hw, hs]

theorem quayOkay_read (hc : o.copy = none) (hr : o.reqs = [r]) (hf : r.core ≠ foreign) (hw : o.write = false)
    (ha : o.alloc = false) : u.quayOkay m o = u.quayAnswer m r (if r.store then [] else u.memRead r.pa r.len) := by
  simp [quayOkay, isForeign_single hr, hc, hr, hf, hw, ha]

theorem quayOkay_fill (hc : o.copy = none) (hr : o.reqs = [r]) (hf : r.core ≠ foreign) (hw : o.write = false)
    (ha : o.alloc = true) :
    u.quayOkay m o = (u.filling o).inject (.fill o.id ((u.filling o).fillData o)) (.quay m) (.basin o.region) 3 2 := by
  simp [quayOkay, filling, isForeign_single hr, hc, hr, hf, hw, ha]

theorem quayOkay_foreign (hc : o.copy = none) (hr : o.reqs = [r]) (hf : r.core = foreign) (hw : o.write = false)
    (hs : r.store = false) :
    u.quayOkay m o = u.injectAt (.port (.quay m)) (.data { r with data := u.memRead r.pa r.len }) (.quay m) o.port 5
      (flitsOf (u.memRead r.pa r.len).length) 0 false := by
  simp [quayOkay, isForeign_single hr, hc, hr, hf, hw, hs]

theorem quayAnswer_done (h : u.fresh r.ctx r.epoch = true) (hs : r.store = true) (data : List Byte) :
    u.quayAnswer m r data =
      u.injectAt (.port (.quay m)) (.done { r with data := [] }) (.quay m) (.mem r.core) 3 1 0 false := by
  simp [quayAnswer, answer, h, hs]

theorem quayAnswer_data (h : u.fresh r.ctx r.epoch = true) (hs : r.store = false) (data : List Byte) :
    u.quayAnswer m r data = u.injectAt (.port (.quay m)) (.data { r with data := data }) (.quay m) (.mem r.core) 3
      (flitsOf data.length) 0 false := by
  simp [quayAnswer, answer, h, hs]

theorem quayAnswer_stale (h : u.fresh r.ctx r.epoch = false) (data : List Byte) :
    u.quayAnswer m r data = u.count (ctxP r.ctx + 0xC4) 1 := by
  simp [quayAnswer, h]

end

/-- A fill's line depends on memory and on the writes that wait at the region's gates and quays (R124). -/
theorem fillData_congr {s t : State} (hm : t.devMem = s.devMem) (hc : t.ctx = s.ctx)
    (hq : (t.quays.filter fun o => o.write) = s.quays.filter fun o => o.write) (o : QReq) : t.fillData o = s.fillData o := by
  simp only [fillData, writesTo, getCtx, memRead, hm, hc, hq]

end State

section
variable {s : State} {m id : Nat} {o : QReq} {r : LineReq} (hm : m < s.build.quays) (ha : s.awake = true)
  (ho : s.awaits m id o)
include hm ha ho

theorem exec_quayOkay (lat : Nat) :
    exec (.quayResponse m id .okay lat) s = .next (s.framed ((s.responded m id lat).quayOkay m o)) := by
  rw [State.exec_quayResponse hm ha, State.quayResponse_okay ho]

section
variable (hc : o.copy = none) (hr : o.reqs = [r])
include hc hr

/-- A write of a fresh request lands and is acknowledged (R242, R243). -/
theorem quayResponse_lands (hf : r.core ≠ State.foreign) (hfr : s.fresh r.ctx r.epoch = true) (hw : o.write = true)
    (hs : r.store = true) (lat : Nat) :
    ∃ t, exec (.quayResponse m id .okay lat) s = .next t ∧ t.core = s.core ∧ t.region = s.region ∧ t.hostMem = s.hostMem
      ∧ t.queue = s.queue ∧ t.ctx = s.ctx ∧ t.clk = s.clk ∧ t.quays = s.quaysLeft m id
      ∧ sendsAt (.port (.quay m)) (.done { r with data := [] }) (.quay m) (.mem r.core) 3 1 0 s t
      ∧ t.devMem = Mem.putBytes zeroFill s.devMem r.pa r.data := by
  have hfresh : ((s.responded m id lat).memWrite r.pa r.data).fresh r.ctx r.epoch = true :=
    (State.fresh_congr rfl _).trans ((State.fresh_responded s m id lat _ _).trans hfr)
  have parts := State.partsSame_responded s m id lat
  have net := State.netSame_responded s m id lat
  have left := State.responded_quays s m id lat
  refine ⟨_, exec_quayOkay hm ha ho lat, ?_⟩
  rw [State.quayOkay_write hc hr hf hw hs, State.quayAnswer_done hfresh hs]
  generalize s.responded m id lat = u at parts net left
  obtain ⟨core, region, ctx, queue, -, dev, host, clk, build, -⟩ := parts
  have sent := State.sendsAt_of_injectAt (u := u.memWrite r.pa r.data) net clk build (.port (.quay m))
    (.done { r with data := [] }) (.quay m) (.mem r.core) 3 1 0
  refine ⟨?_, ?_, ?_, ?_, ?_, rfl, ?_, sent, ?_⟩ <;> simp [State.memWrite, *]

/-- The bytes that a fresh request asked for leave for its core (R126, R255). -/
theorem quayResponse_reads (hf : r.core ≠ State.foreign) (hfr : s.fresh r.ctx r.epoch = true) (hw : o.write = false)
    (hs : r.store = false) (hn : o.alloc = false) (lat : Nat) :
    ∃ t, exec (.quayResponse m id .okay lat) s = .next t ∧ partsSame s t ∧ t.quays = s.quaysLeft m id
      ∧ sendsAt (.port (.quay m)) (.data { r with data := Mem.bytes zeroFill s.devMem r.pa r.len }) (.quay m) (.mem r.core) 3
          (State.flitsOf (Mem.bytes zeroFill s.devMem r.pa r.len).length) 0 s t := by
  have hfresh : (s.responded m id lat).fresh r.ctx r.epoch = true := (State.fresh_responded s m id lat _ _).trans hfr
  refine ⟨_, exec_quayOkay hm ha ho lat, ?_⟩
  rw [State.quayOkay_read hc hr hf hw hn, if_neg (by simp [hs]), State.quayAnswer_data hfresh hs]
  exact ⟨((State.partsSame_responded s m id lat).trans (State.injectAt_partsSame ..)).framed, State.injectAt_quays ..,
    State.sendsAt_of_injectAt (State.netSame_responded s m id lat) rfl rfl ..⟩

/-- The line of a fill leaves for its Basin (R124, R126). -/
theorem quayResponse_fills (hf : r.core ≠ State.foreign) (hw : o.write = false) (hn : o.alloc = true) (lat : Nat) :
    ∃ t, exec (.quayResponse m id .okay lat) s = .next t ∧ partsSame s t
      ∧ t.quays = s.quaysLeft m id ++ [{ o with phase := 2 }]
      ∧ sends (.fill o.id (({ s with quays := s.quaysLeft m id }).fillData o)) (.quay m) (.basin o.region) 3 2 s t := by
  refine ⟨_, exec_quayOkay hm ha ho lat, ?_⟩
  rw [State.quayOkay_fill hc hr hf hw hn]
  have parts := (State.partsSame_responded s m id lat).trans (State.partsSame_filling _ o)
  have line : ((s.responded m id lat).filling o).fillData o = ({ s with quays := s.quaysLeft m id }).fillData o := by
    refine State.fillData_congr (s := { s with quays := s.quaysLeft m id }) ?_ ?_ ?_ o
    · rfl
    · rfl
    · simp [State.filling, State.responded_quays, hw]
  rw [line]
  refine ⟨(parts.trans (State.injectAt_partsSame ..)).framed, State.injectAt_quays .., ?_⟩
  exact State.sends_of_inject (s := s) (u := (s.responded m id lat).filling o) ⟨rfl, rfl⟩ rfl rfl ..

/-- The request of another member is answered to its jetty (R397). -/
theorem quayResponse_foreign (hf : r.core = State.foreign) (hw : o.write = false) (hs : r.store = false) (lat : Nat) :
    ∃ t, exec (.quayResponse m id .okay lat) s = .next t ∧ t.quays = s.quaysLeft m id ∧ partsSame s t
      ∧ sendsAt (.port (.quay m)) (.data { r with data := Mem.bytes zeroFill s.devMem r.pa r.len }) (.quay m) o.port 5
          (State.flitsOf (Mem.bytes zeroFill s.devMem r.pa r.len).length) 0 s t := by
  refine ⟨_, exec_quayOkay hm ha ho lat, ?_⟩
  rw [State.quayOkay_foreign hc hr hf hw hs]
  exact ⟨State.injectAt_quays .., ((State.partsSame_responded s m id lat).trans (State.injectAt_partsSame ..)).framed,
    State.sendsAt_of_injectAt (State.netSame_responded s m id lat) rfl rfl ..⟩

/-- A stale request is only counted (R325). -/
theorem quayResponse_stale (hf : r.core ≠ State.foreign) (hfr : s.fresh r.ctx r.epoch = false) (hw : o.write = false)
    (hs : o.alloc = false) (lat : Nat) :
    ∃ t, exec (.quayResponse m id .okay lat) s = .next t ∧ netSame s t ∧ t.quays = s.quaysLeft m id
      ∧ t.rd (ctxP r.ctx + 0xC4) = satAdd (s.rd (ctxP r.ctx + 0xC4)) 1 ∧ partsSame s t := by
  have hfresh : (s.responded m id lat).fresh r.ctx r.epoch = false := (State.fresh_responded s m id lat _ _).trans hfr
  have counted := (State.LogOnly.refl (s.responded m id lat)).count (ctxP r.ctx + 0xC4) 1
  refine ⟨_, exec_quayOkay hm ha ho lat, ?_⟩
  rw [State.quayOkay_read hc hr hf hw hs, State.quayAnswer_stale hfresh]
  refine ⟨counted.netSame, counted.quays, ?_, (partsSame.trans (State.partsSame_responded s m id lat) counted.partsSame).framed⟩
  rw [State.rd_framed, State.rd_count, State.rd_responded s m id lat (State.quay_apart_ctx m r.ctx (by decide) (by decide) (by decide))]

end

/-- The response to a line of a COPY or FILL takes its request away (R309). -/
theorem quayResponse_copy {x : Nat × Nat} (hc : o.copy = some x) (hr : o.reqs = []) (lat : Nat) :
    ∃ t, exec (.quayResponse m id .okay lat) s = .next t ∧ t.quays = s.quaysLeft m id ∧ netSame s t ∧ partsSame s t := by
  have landed : State.LogOnly (s.responded m id lat) ((s.responded m id lat).quayOkay m o) := by
    simp only [State.quayOkay, hc, hr, List.foldl_nil, ite_self, Option.isSome_some, if_true]
    exact ((State.LogOnly.refl _).count _ _).ite (.refl _)
  exact ⟨_, exec_quayOkay hm ha ho lat, landed.quays, landed.netSame,
    (partsSame.trans (State.partsSame_responded s m id lat) landed.partsSame).framed⟩

end

/-! A response with an error, and one without a request (R325, R432, R433). -/

namespace State

/-- What a lost context keeps: everything but its items, its words and its own record (R326). -/
theorem loseCtx_keeps {β : Type} {π : State → β} (hq : ∀ (t : State) q x, π (t.setQueue q x) = π t)
    (hr : ∀ (t : State) a v, π (t.wr a v) = π t) (hc : ∀ (t : State) c f, π (t.modCtx c f) = π t) (s : State) (c code : Nat)
    (r68 : Bool) : π (s.loseCtx c code r68) = π s := by
  have items : ∀ (l : List Nat) (t : State), π (l.foldl (fun s q => s.endItem q 1 0) t) = π t := fun l => by
    induction l with
    | nil => exact fun _ => rfl
    | cons q l ih =>
      intro t
      refine (ih _).trans ?_
      unfold endItem
      dsimp only
      split
      · rfl
      · exact hq ..
  unfold loseCtx
  extract_lets st s1 s2 s3
  split
  · exact (hc ..).trans ((hr ..).trans ((hr ..).trans ((hr ..).trans (items ..))))
  · rfl

/-- A context that is lost is LOST (R326). -/
theorem ctxState_loseCtx (s : State) (c code : Nat) (r68 : Bool) (h : 1 ≤ s.ctxState c ∧ s.ctxState c ≤ 3) :
    (s.loseCtx c code r68).ctxState c = 4 := by
  unfold loseCtx
  dsimp only
  rw [if_pos h]
  unfold ctxState
  rw [rd_modCtx, rd_wrField_self, fieldOf_setField_apart _ _ (by decide) (.inl (by decide)), setCtxState,
    rd_event_ne _ _ (by simp [oEVENT, oSTATUS]), rd_wrField_self, fieldOf_setField _ _ (by decide)]
  rfl

theorem quayP_aligned (m : Nat) : quayP m % 0x1000 = 0 := by unfold quayP; omega

/-- Words at different offsets of pages are apart. -/
theorem offset_apart {p q a b : Nat} (hp : p % 0x1000 = 0) (hq : q % 0x1000 = 0) (ha : a < 0x1000) (hb : b < 0x1000)
    (h : a ≠ b) : p + a ≠ q + b := by
  omega

section
variable (s : State) (code pa : Nat) (write decerr : Bool) {source : Nat} (hs : source < 16)
include hs

/-- The report of an error on the page of its quay (R432, R434). -/
def quayReport (s : State) (code pa : Nat) (write decerr : Bool) (source : Nat) : State :=
  ((s.raise (quayP (s.quayOf pa).1) code (s.quayInfo pa write decerr source) (some source) 4).event
    (quayP (s.quayOf pa).1) 1).count (quayP (s.quayOf pa).1 + 0x8C) 1

theorem quayFail_eq : s.quayFail code pa write decerr source = (s.quayReport code pa write decerr source).loseCtx source code := by
  simp [quayFail, quayReport, hs]

omit hs in
theorem quayReport_log : LogOnly s (s.quayReport code pa write decerr source) :=
  ((raise_log ..).event _ _).count _ _

theorem rd_quayFail {a : Nat} (ha : a ∈ [oFCODE, oFINFO]) :
    (s.quayFail code pa write decerr source).rd (quayP (s.quayOf pa).1 + a)
      = (s.raise (quayP (s.quayOf pa).1) code (s.quayInfo pa write decerr source) (some source) 4).rd
          (quayP (s.quayOf pa).1 + a) := by
  have al := quayP_aligned (s.quayOf pa).1
  have small : a < 0x1000 ∧ a ∉ [oSTATUS, oEVENT] ∧ oEVENT ≠ a ∧ 0x8C ≠ a := by revert a; decide
  obtain ⟨hb, hn, he, hc⟩ := small
  rw [quayFail_eq s code pa write decerr hs, (loseCtx_within _ 0 source code false).regs _ ((butAt_page al hb).2 hn), quayReport,
    rd_count_ne _ _ (by omega), rd_event_ne _ _ (by omega)]

/-- The page of the quay shows the error (R432). -/
theorem quayFail_faultCode : (s.quayFail code pa write decerr source).faultCode (quayP (s.quayOf pa).1) = code % 2 ^ 12 := by
  rw [← faultCode_raise s (quayP (s.quayOf pa).1) code (s.quayInfo pa write decerr source) (some source) 4
    (by unfold quayP oFCODE; omega)]
  exact faultCode_congr (rd_quayFail s code pa write decerr hs (by simp))

/-- Bit 28 of its information tells a DECERR (R432). -/
theorem quayFail_decerr :
    bitOf ((s.quayFail code pa write decerr source).rd (quayP (s.quayOf pa).1 + oFINFO)) 28 = decerr := by
  rw [rd_quayFail s code pa write decerr hs (by simp), rd_raise_info _ _ _ _ _ _ (by unfold quayP oFINFO; omega)]
  have place : ∀ c w x y : Nat, y < 2 ^ 23 → x < 16 →
      (c * 2 ^ 30 + w * 2 ^ 29 + decerr.toNat * 2 ^ 28 + x % 32 * 2 ^ 23 + y) / 2 ^ 28 % 2 = decerr.toNat := fun c w x y hy hx => by
    have := decerr.toNat_lt
    omega
  have info : (s.quayOf pa).2.1 / 8192 % 2 ^ 23 < 2 ^ 23 := Nat.mod_lt _ (by decide)
  unfold bitOf quayInfo word
  rw [BitVec.getLsbD_ofNat, Nat.testBit_eq_decide_div_mod_eq, place _ _ _ _ info hs]
  cases decerr <;> rfl

theorem quayFail_ctxState (h : s.ctxState source = 2 ∨ s.ctxState source = 3) :
    (s.quayFail code pa write decerr source).ctxState source = 4 := by
  have same : (s.quayReport code pa write decerr source).ctxState source = s.ctxState source := by
    have apart : ∀ o ∈ [oFCODE, oFINFO, oEVENT, 0x8C], quayP (s.quayOf pa).1 + o ≠ ctxP source + oSTATUS := fun o ho =>
      quay_apart_ctx _ _ (by revert o; decide) (by decide) (by revert o; decide)
    unfold ctxState quayReport
    rw [rd_count_ne _ _ (apart _ (by simp)), rd_event_ne _ _ (apart _ (by simp)), rd_raise_ne _ _ _ _ _ _
      (by unfold ctxP oSTATUS; omega) (apart _ (by simp)) (apart _ (by simp)) (apart _ (by simp))]
  rw [quayFail_eq s code pa write decerr hs]
  exact ctxState_loseCtx _ _ _ _ (by omega)

theorem quayFail_keeps : (s.quayFail code pa write decerr source).core = s.core
    ∧ (s.quayFail code pa write decerr source).region = s.region ∧ outsideSame s (s.quayFail code pa write decerr source) := by
  have report := (quayReport_log s code pa write decerr (source := source)).partsSame
  obtain ⟨core, region, -, -, -, dev, host, clk, build, pending⟩ := report
  rw [quayFail_eq s code pa write decerr hs]
  refine ⟨(loseCtx_keeps ?_ ?_ ?_ ..).trans core, (loseCtx_keeps ?_ ?_ ?_ ..).trans region, (loseCtx_keeps ?_ ?_ ?_ ..).trans dev,
    (loseCtx_keeps ?_ ?_ ?_ ..).trans host, (loseCtx_keeps ?_ ?_ ?_ ..).trans clk, (loseCtx_keeps ?_ ?_ ?_ ..).trans build,
    (loseCtx_keeps ?_ ?_ ?_ ..).trans pending⟩ <;> exact fun _ _ _ => rfl

end

end State

section
variable {s : State} {m id : Nat} {o : QReq} (hm : m < s.build.quays) (ha : s.awake = true)
  (ho : s.awaits m id o) {resp : QuayResp} (hr : resp ≠ .okay) (hf : State.isForeign o = false)
include hm ha ho hr hf

/-- An error is reported on the page of the quay, and the context is lost (R432). -/
theorem quayResponse_fails (hs : o.source < 16) (hst : s.isStale o = false) (lat : Nat) :
    ∃ t, exec (.quayResponse m id resp lat) s = .next t
      ∧ t.faultCode (quayP (s.quayOf o.pa).1) = (if resp = .poison then 0x402 else 0x401)
      ∧ bitOf (t.rd (quayP (s.quayOf o.pa).1 + oFINFO)) 28 = decide (resp = .decerr)
      ∧ ((s.ctxState o.source = 2 ∨ s.ctxState o.source = 3) → t.ctxState o.source = 4)
      ∧ t.core = s.core ∧ t.region = s.region ∧ outsideSame s t := by
  have stale : (s.responded m id lat).isStale o = false := (State.isStale_responded s m id lat o).trans hst
  have state : (s.responded m id lat).ctxState o.source = s.ctxState o.source := by
    unfold State.ctxState
    rw [State.rd_responded s m id lat (State.quay_apart_ctx m _ (by decide) (by decide) (by decide))]
  refine ⟨_, State.exec_quayResponse hm ha .., ?_⟩
  rw [State.quayResponse_error ho hr]
  simp only [hf, stale, Bool.false_eq_true, if_false]
  have quay : (s.responded m id lat).quayOf o.pa = s.quayOf o.pa := rfl
  generalize hcode : (if resp = .poison then 0x402 else 0x401) = code
  have small : code % 2 ^ 12 = code := by subst hcode; split <;> rfl
  rw [← quay]
  refine ⟨(State.quayFail_faultCode _ code o.pa o.write _ hs).trans small, State.quayFail_decerr _ code o.pa o.write _ hs, ?_⟩
  obtain ⟨core, region, dev, host, -⟩ := State.quayFail_keeps (s.responded m id lat) code o.pa o.write (decide (resp = .decerr)) hs
  exact ⟨fun h => State.quayFail_ctxState _ code o.pa o.write _ hs (state ▸ h), core, region, dev, host, rfl, rfl, rfl⟩

/-- An error of a stale request is only counted (R325). -/
theorem quayResponse_failsStale (hst : s.isStale o = true) (lat : Nat) :
    ∃ t, exec (.quayResponse m id resp lat) s = .next t
      ∧ t.rd (ctxP o.source + 0xC4) = satAdd (s.rd (ctxP o.source + 0xC4)) (max 1 o.reqs.length) ∧ partsSame s t := by
  have stale : (s.responded m id lat).isStale o = true := (State.isStale_responded s m id lat o).trans hst
  have counted := (State.LogOnly.refl (s.responded m id lat)).count (ctxP o.source + 0xC4) (max 1 o.reqs.length)
  refine ⟨_, State.exec_quayResponse hm ha .., ?_⟩
  rw [State.quayResponse_error ho hr]
  simp only [hf, stale, Bool.false_eq_true, if_false, if_true]
  refine ⟨?_, (partsSame.trans (State.partsSame_responded s m id lat) counted.partsSame).framed⟩
  rw [State.rd_framed, State.rd_count,
    State.rd_responded s m id lat (State.quay_apart_ctx m o.source (by decide) (by decide) (by decide))]

end

/-- A response without a request is 0x403 and counted (R433). -/
theorem quayResponse_stray {s : State} {m : Nat} (hm : m < s.build.quays) (ha : s.awake = true) {id : Nat}
    (ho : (s.quays.find? fun o => o.quay = m && o.id = id && o.phase = 1) = none) (resp : QuayResp) (lat : Nat) :
    ∃ t, exec (.quayResponse m id resp lat) s = .next t ∧ t.faultCode (quayP m) = 0x403
      ∧ t.rd (quayP m + oFINFO) = word (id % 2 ^ 12) ∧ t.rd (quayP m + 0x90) = satAdd (s.rd (quayP m + 0x90)) 1
      ∧ partsSame s t := by
  have page : ∀ a, (quayP m + a) / 0x1000 ≠ 5 := fun a => by unfold quayP; omega
  refine ⟨_, State.exec_quayResponse hm ha .., ?_⟩
  rw [State.quayResponse_stray ho]
  refine ⟨?_, ?_, ?_, ((State.raise_log ..).count _ _).partsSame.framed⟩
  · refine (State.faultCode_framed ..).trans ((State.faultCode_congr (State.rd_count_ne _ _ ?_)).trans
      (State.faultCode_raise _ _ _ _ _ _ (page _)))
    unfold oFCODE; omega
  · rw [State.rd_framed, State.rd_count_ne _ _ (by unfold oFINFO; omega), State.rd_raise_info _ _ _ _ _ _ (page _)]
  · rw [State.rd_framed, State.rd_count, State.rd_raise_ne _ _ _ _ _ _ (page _)] <;> simp [oFCODE, oFINFO, oEVENT]

/-! The bound of a quay's latency (R431). -/

section
variable {s : State} {m : Nat} (hm : m < s.build.quays) (ha : s.awake = true) (id : Nat) {lat : Nat}
include hm ha

theorem exec_quayLate : exec (.quayLate m id lat) s = .next (s.framed (s.quayLate m id lat)) := by
  show actAt (decide (m < s.build.quays)) (fun s => s.quayLate m id lat) s = _
  rw [decide_eq_true hm, actAt_present, act_awake ha]

/-- A request within the bound is nothing. -/
theorem quayLate_within (h : lat ≤ fieldOf (s.rd (quayP m + 0x40)) 11 0) : exec (.quayLate m id lat) s = .next s := by
  rw [exec_quayLate hm ha, State.quayLate, if_pos h, State.framed_self]

/-- A request over the bound is 0x803 and counted. -/
theorem quayLate_over (h : fieldOf (s.rd (quayP m + 0x40)) 11 0 < lat) :
    ∃ t, exec (.quayLate m id lat) s = .next t ∧ t.faultCode (quayP m) = 0x803
      ∧ t.rd (quayP m + 0x88) = satAdd (s.rd (quayP m + 0x88)) 1 ∧ bitOf (t.rd (quayP m + oEVENT)) 0 = true
      ∧ t.rd (quayP m + 0x44) = word (max (s.rd (quayP m + 0x44)).toNat (min lat (2 ^ 20 - 1))) ∧ partsSame s t := by
  have page : ∀ a, (quayP m + a) / 0x1000 ≠ 5 := fun a => by unfold quayP; omega
  refine ⟨_, exec_quayLate hm ha id, ?_⟩
  rw [State.quayLate, if_neg (by omega)]
  extract_lets info
  have apart : ∀ {a b : Nat}, a ≠ b → quayP m + a ≠ quayP m + b := fun h h' => h (by omega)
  refine ⟨?_, ?_, ?_, State.rd_wr_self .., ((((State.raise_log ..).event _ _).count _ _).wr _ _).partsSame.framed⟩
  · refine (State.faultCode_framed ..).trans ((State.faultCode_congr ?_).trans (State.faultCode_raise s (quayP m) 0x803 info none 0 (page _)))
    rw [State.rd_wr_ne _ _ (apart (by decide)), State.rd_count_ne _ _ (apart (by decide)), State.rd_event_ne _ _ (apart (by decide))]
  · rw [State.rd_framed, State.rd_wr_ne _ _ (apart (by decide)), State.rd_count, State.rd_event_ne _ _ (apart (by decide)),
      State.rd_raise_ne _ _ _ _ _ _ (page _) (apart (by decide)) (apart (by decide)) (apart (by decide))]
  · rw [State.rd_framed, State.rd_wr_ne _ _ (apart (by decide)), State.rd_count_ne _ _ (apart (by decide)), State.rd_event_self]
    simp [bitOf, word]

end

/-- A read of QUAY_LATENCY_MAX clears it, and nothing else (R431). -/
theorem quayLatMaxRead_clears {s : State} {m : Nat} (hm : m < s.build.quays) (hl : s.build.legal = true) (p : Party)
    (h : s.answers (quayP m + 0x44) = true) :
    ∃ t, exec (.quayLatMaxRead p m) s = .next t ∧ t.rd (quayP m + 0x44) = 0 ∧ partsSame s t
      ∧ ∀ a, a ≠ quayP m + 0x44 → t.rd a = s.rd a := by
  have bounds := Laws.Wf.legal_bounds hl
  refine ⟨s.framed ((s.give p (s.rd (quayP m + 0x44))).wr (quayP m + 0x44) 0), ?_, State.rd_wr_self .., ?_,
    fun a ha => State.rd_wr_ne _ _ ha.symm⟩
  · show actRawAt (decide (m < 16)) _ s = _
    rw [decide_eq_true (by omega)]
    simp [actRawAt, actRaw, h]
  · exact .framed (.refl s)

/-! What comes over the mesh to a quay, a Basin and a core (R126, R242, R255, R434). -/

/-- A request that comes to its quay waits there and is counted. -/
theorem deliver_quay {s : State} {id : Nat} {o : QReq} (h : (s.quays.find? fun o => o.id = id && o.phase = 0) = some o)
    (p : Port) :
    (s.deliver p (.quay id)).rd (quayP o.quay + (if o.write then 0x84 else 0x80))
        = satAdd (s.rd (quayP o.quay + (if o.write then 0x84 else 0x80))) 1
      ∧ partsSame s (s.deliver p (.quay id)) ∧ netSame s (s.deliver p (.quay id))
      ∧ (s.deliver p (.quay id)).quays
          = s.quays.map fun x => if x.id = id ∧ x.phase = 0 then { x with phase := 1 } else x := by
  have counted := (State.LogOnly.refl s).count (quayP o.quay + (if o.write then 0x84 else 0x80)) 1
  have comes : s.deliver p (.quay id) =
      { s.count (quayP o.quay + (if o.write then 0x84 else 0x80)) 1 with
        quays := (s.count (quayP o.quay + (if o.write then 0x84 else 0x80)) 1).quays.map fun x =>
          if x.id = id ∧ x.phase = 0 then { x with phase := 1 } else x } := by
    show s.atQuay id = _
    unfold State.atQuay
    rw [h]
  rw [comes]
  exact ⟨State.rd_count .., counted.partsSame, counted.netSame, congrArg (List.map _) counted.quays⟩

/-- A line request that comes to its Basin waits with the cycle of its coming. -/
theorem deliver_line (s : State) (b : Nat) (q : LineReq) :
    ((s.deliver (.basin b) (.line q)).getRegion b).requests = (s.getRegion b).requests ++ [{ q with came := s.rcOf b }]
      ∧ ((s.deliver (.basin b) (.line q)).getRegion b).basin = (s.getRegion b).basin
      ∧ (s.deliver (.basin b) (.line q)).core = s.core ∧ netSame s (s.deliver (.basin b) (.line q))
      ∧ regionFrame b s (s.deliver (.basin b) (.line q)) := by
  show ((s.atBasin b q).getRegion b).requests = _ ∧ ((s.atBasin b q).getRegion b).basin = _ ∧ (s.atBasin b q).core = _
    ∧ netSame s (s.atBasin b q) ∧ regionFrame b s (s.atBasin b q)
  unfold State.atBasin
  rw [State.getRegion_modRegion_self]
  exact ⟨rfl, rfl, rfl, ⟨rfl, rfl⟩, fun x hx => State.getRegion_modRegion_ne _ _ hx.symm, rfl, rfl, rfl, rfl, rfl⟩

section
variable {s : State} {r : LineReq} (hfr : s.fresh r.ctx r.epoch = true)
include hfr

/-- The answer to a read that comes to its core is a line to deposit. -/
theorem deliver_data (k : Nat) (hs : r.store = false) :
    ((s.deliver (.mem k) (.data r)).getCore r.core).arrivals = (s.getCore r.core).arrivals ++ [r]
      ∧ netSame s (s.deliver (.mem k) (.data r)) ∧ coreFrame r.core s (s.deliver (.mem k) (.data r))
      ∧ berthsSame r.core s (s.deliver (.mem k) (.data r)) := by
  have comes : s.deliver (.mem k) (.data r) = s.arrive r := by
    show s.atCore r = _
    simp [State.atCore, hfr, hs]
  rw [comes]
  refine ⟨?_, ⟨rfl, rfl⟩, (coreFrame.refl r.core s).modCore _, berthsSame.of_core (State.getCore_modCore_self ..) rfl⟩
  rw [State.arrive, State.getCore_modCore_self]

/-- The answer to a write that comes to its core is its acknowledgement. -/
theorem deliver_done (k : Nat) (hs : r.store = true) :
    ((s.deliver (.mem k) (.done r)).getCore r.core).acks = (s.getCore r.core).acks.filter (· ≠ r.id)
      ∧ netSame s (s.deliver (.mem k) (.done r)) ∧ coreFrame r.core s (s.deliver (.mem k) (.done r))
      ∧ berthsSame r.core s (s.deliver (.mem k) (.done r)) := by
  have comes : s.deliver (.mem k) (.done r) = s.storeDone r := by
    show s.atCore r = _
    simp [State.atCore, hfr, hs]
  rw [comes]
  refine ⟨?_, ⟨rfl, rfl⟩, ((coreFrame.refl r.core s).modCore _).modCore _,
    berthsSame.of_core (State.getCore_modCore_self ..) (by rw [State.ackCore, State.getCore_modCore_self]; rfl)⟩
  unfold State.storeDone State.ackCore
  rw [State.getCore_modCore_self, State.getCore_modCore_self]

end

/-- Settles O48: a response meets the request it answers, by the request's kind; what comes over the mesh is put where it
waits. -/
theorem quaysAnswer : Obligations.QuaysAnswer := by
  unfold Obligations.QuaysAnswer
  refine ⟨fun m id s hm ha hl => ⟨fun o ho => ⟨?_, ?_, ?_, ?_, ?_, ?_⟩, ?_, ?_, ?_, ?_⟩, fun s => ⟨?_, deliver_line s, ?_⟩⟩
  · intro r lat hc hr hf _ hfr hs d
    obtain hw | hw := Bool.eq_false_or_eq_true o.write
    · obtain ⟨t, run, core, region, host, queue, ctx, clk, quays, sent, dev⟩ :=
        quayResponse_lands hm ha ho hc hr hf hfr hw (hs.trans hw) lat
      refine ⟨t, run, core, region, host, queue, ctx, clk, fun _ wf => ⟨quays, sent, ?_, fun a out => ?_⟩, by simp [hw]⟩
      · rw [dev, Mem.bytes_putBytes _ _ wf]
      · rw [dev, Mem.get_putBytes _ _ _ wf, if_neg (by omega)]
    · obtain hn | hn := Bool.eq_false_or_eq_true o.alloc
      · obtain ⟨t, run, ⟨core, region, ctx, queue, -, dev, host, clk, -⟩, quays, sent⟩ :=
          quayResponse_fills hm ha ho hc hr hf hw hn lat
        exact ⟨t, run, core, region, host, queue, ctx, clk, by simp [hw], fun _ => ⟨dev, by simp [hn], fun _ => ⟨quays, sent⟩⟩⟩
      · obtain ⟨t, run, ⟨core, region, ctx, queue, -, dev, host, clk, -⟩, quays, sent⟩ :=
          quayResponse_reads hm ha ho hc hr hf hfr hw (hs.trans hw) hn lat
        exact ⟨t, run, core, region, host, queue, ctx, clk, by simp [hw], fun _ => ⟨dev, fun _ => ⟨quays, sent⟩, by simp [hn]⟩⟩
  · exact fun r lat hc hr hf hw hs => quayResponse_foreign hm ha ho hc hr hf hw hs lat
  · exact fun r lat hc hr hf _ hfr hw hn => quayResponse_stale hm ha ho hc hr hf hfr hw hn lat
  · exact fun resp lat hr hf hs hst => quayResponse_fails hm ha ho hr hf hs hst lat
  · exact fun resp lat hr hf _ hst => quayResponse_failsStale hm ha ho hr hf hst lat
  · exact fun x lat hc hr => quayResponse_copy hm ha ho hc hr lat
  · exact fun ho resp lat => quayResponse_stray hm ha ho resp lat
  · exact fun lat h => quayLate_within hm ha id h
  · exact fun lat h => quayLate_over hm ha id h
  · exact fun p h => quayLatMaxRead_clears hm hl p h
  · exact fun p id o h => deliver_quay h p
  · exact fun k r hfr => ⟨fun hs => deliver_data hfr k hs, fun hs => deliver_done hfr k hs⟩

end Sys2Proof.Machine
end

section
/-! PROOF. What arrives at a core: lines, halo and posted words as far as their port moves them, and remote adds (R112, R115,
R138, R142, R149, R150, R159, R160, R230, R234) (O20). -/

namespace Sys2Proof.Machine

/-- A core without the words that its streaming ports have moved. -/
def Core.sansPort (x : Core) : Core := { x with port := [] }

namespace State

/-! What a port's transfer leaves as it was. -/

/-- The count of corrected words is no count of lines. -/
theorem berthCe_counts (s : State) (k : Nat) : Within k Core.sansPort (· = cnt k 19) s (s.berthCe k) := by
  have raised : Within k Core.sansPort (· = cnt k 19) s (s.raise (coreP k) 0x101 0 none 1) :=
    (raise_within s k ..).unchanged.coarsen (fun _ _ => id) fun a ha => by
      subst ha
      unfold WorkCounter cnt coreP
      simp only [List.mem_cons, List.not_mem_nil, or_false]
      omega
  exact raised.count 1 (by unfold cnt; omega)

theorem portWord_counts (s : State) (k port berth a : Nat) :
    Within k Core.sansPort (· = cnt k 19) s (s.portWord k port berth a).2 := by
  have conflict : Within k Core.sansPort (· = cnt k 19) s (s.count (cnt k 18) 1) := Within.refl.count 1 (by unfold cnt; omega)
  unfold portWord
  extract_lets now
  split
  extract_lets used
  split
  · exact .refl
  · split
    · exact conflict.modCore (f := fun x => { x with port := Tab.put x.port port _ }) fun _ => rfl
    · exact Within.refl.modCore (f := fun x => { x with port := Tab.put x.port port _ }) fun _ => rfl

/-- A port's transfer changes the port, the counters of conflicts and corrected words and the log (R115, R122). -/
theorem portMove_counts (k port berth : Nat) (read : Bool) (up : Upset) (w a n : Nat) (s : State) :
    Within k Core.sansPort (· = cnt k 19) s (portMove k port berth read up w a n s).2.2 := by
  induction w generalizing a n s with
  | zero => exact .refl
  | succ w ih =>
    unfold portMove
    dsimp only
    split
    · exact .refl
    · split
      · exact .refl
      · split
        · exact .refl
        · have word := portWord_counts s k port berth a
          generalize s.portWord k port berth a = moved at word
          obtain ⟨free, u⟩ := moved
          dsimp only at word ⊢
          split
          · exact word
          · exact (Within.trans word (.ite (berthCe_counts u k) .refl)).trans (ih ..)

theorem portMove_within {k port berth : Nat} {read : Bool} {up : Upset} {w a n m : Nat} {stop : PortStop} {s v : State}
    (h : portMove k port berth read up w a n s = (m, stop, v)) : Within k Core.sansPort (· = cnt k 19) s v := by
  have counts := portMove_counts k port berth read up w a n s
  rwa [h] at counts

/-! What comes to a core touches no other. -/

section
variable {s t : State} {k : Nat} (h : coreFrame k s t)
include h

theorem frame_count (a n : Nat) : coreFrame k s (t.count a n) := h.trans (((LogOnly.refl t).count a n).coreFrame k)

theorem frame_berthWrite (b a : Nat) (l : List Byte) : coreFrame k s (t.berthWrite k b a l) := h.modCore _

theorem frame_setStream (store : Bool) (slot : Nat) (x : Stream) : coreFrame k s (t.setStream k store slot x) := h.modCore _

end

/-! A line that has arrived. -/

/-- The writes that come to land at the end of the cycle. -/
theorem getCore_berthWrite (s : State) (k berth a : Nat) (l : List Byte) : (s.berthWrite k berth a l).getCore k =
    { s.getCore k with ldLands := (s.getCore k).ldLands ++ [⟨s.coreRc k, berth, putsOf a l, []⟩] } := getCore_modCore_self ..

theorem streamAt_setStream (s : State) (k : Nat) (store : Bool) (slot : Nat) (x : Stream) :
    (s.setStream k store slot x).streamAt k store slot = some x := by
  unfold streamAt setStream
  rw [getCore_modCore_self]
  cases store <;> simp [slotsOf, setSlots, Tab.find?_put]

theorem slotsOf_setSlots (x : Core) (store : Bool) (l : Tab Stream) : (setSlots x store l).berths = x.berths
    ∧ (setSlots x store l).ldLands = x.ldLands ∧ (setSlots x store l).arrivals = x.arrivals := by
  cases store <;> exact ⟨rfl, rfl, rfl⟩

/-- A line has left the queue of arrivals. -/
def popLine (s : State) (k : Nat) (r : LineReq) : State := s.modCore k fun x => { x with arrivals := x.arrivals.erase r }

theorem frame_popLine {s t : State} {k : Nat} (h : coreFrame k s t) (r : LineReq) : coreFrame k s (t.popLine k r) := h.modCore _

section
variable {s : State} {k : Nat}

variable {up : Upset} {r : LineReq} {x : Stream} (hr : s.nextDeposit k = some r)
  (hx : s.streamAt k (decide (4 ≤ r.slot)) (r.slot % 4) = some x) (hf : s.fresh r.ctx r.epoch = true) (hs : x.stream = r.stream)
include hr hx hf hs

/-- An index word is taken into its stream (R142). -/
theorem lineDeposit_index (hw : r.what = 1) : s.lineDeposit k up =
    (s.popLine k r).putIndex k (decide (4 ≤ r.slot)) (r.slot % 4) x r.chunk (leNat r.data) := by
  simp [lineDeposit, hr, hx, hf, hs, hw, popLine]

variable {m : Nat} {v : State} (hw : r.what ≠ 1)
include hw

/-- The port has moved the line's last byte (R115, R138). -/
theorem lineDeposit_done
    (hm : portMove k r.berth r.berth false up (wordsOf r.baddr r.len) r.baddr r.len s = (m, .none, v)) :
    s.lineDeposit k up = ((((v.berthWrite k r.berth r.baddr (r.data.take m)).popLine k r).count (cnt k 19) 1).setStream k
      (decide (4 ≤ r.slot)) (r.slot % 4) { x with outs := Tab.put x.outs r.chunk (Tab.get 0 x.outs r.chunk - 1) }) := by
  simp [lineDeposit, hr, hx, hf, hs, hw, hm, popLine]

/-- The port has stopped before it (R115). -/
theorem lineDeposit_waits
    (hm : portMove k r.berth r.berth false up (wordsOf r.baddr r.len) r.baddr r.len s = (m, .waits, v)) :
    s.lineDeposit k up = (v.berthWrite k r.berth r.baddr (r.data.take m)).modCore k fun y => { y with
      arrivals := y.arrivals.map fun o =>
        if o = r then { r with baddr := r.baddr + m, len := r.len - m, data := r.data.drop m } else o } := by
  simp [lineDeposit, hr, hx, hf, hs, hw, hm]

end

end State

theorem exec_lineDeposit {s : State} {core : Nat} (h : s.runs core) (up : Upset) :
    exec (.lineDeposit ⟨core, up⟩) s = .next (s.framed (s.lineDeposit core up)) := by
  obtain ⟨hc, ha, hk⟩ := h
  exact actCore_running (by simp [hc]) ha hk

/-- Bytes for berth `b` of core `k` have been written so that they land at the end of this region cycle; no berth has changed
yet. -/
def landsNext (k b a : Nat) (l : List Byte) (s t : State) : Prop :=
  berthsSame k s t ∧ (t.getCore k).ldLands = (s.getCore k).ldLands ++ [⟨s.coreRc k, b, putsOf a l, []⟩]

section
variable {s : State} {core : Nat} (run : s.runs core) {up : Upset} {r : LineReq} {x : Stream}
  (hr : s.nextDeposit core = some r)
  (hx : s.streamAt core (decide (4 ≤ r.slot)) (r.slot % 4) = some x) (hf : s.fresh r.ctx r.epoch = true)
  (hs : x.stream = r.stream)
include run hr hx hf hs

theorem lineDeposit_lands {m : Nat} {v : State} (hw : r.what ≠ 1)
    (hm : State.portMove core r.berth r.berth false up (State.wordsOf r.baddr r.len) r.baddr r.len s = (m, .none, v)) :
    ∃ t, exec (.lineDeposit ⟨core, up⟩) s = .next t ∧ landsNext core r.berth r.baddr (r.data.take m) s t
      ∧ (t.getCore core).arrivals = (s.getCore core).arrivals.erase r
      ∧ t.streamAt core (decide (4 ≤ r.slot)) (r.slot % 4)
          = some { x with outs := Tab.put x.outs r.chunk (Tab.get 0 x.outs r.chunk - 1) }
      ∧ t.rd (cnt core 19) = satAdd (s.rd (cnt core 19)) 1 ∧ coreFrame core s t := by
  obtain ⟨frame, same, regs⟩ := State.portMove_within hm
  have lands : (v.getCore core).ldLands = (s.getCore core).ldLands := (congrArg Core.ldLands same :)
  have arrivals : (v.getCore core).arrivals = (s.getCore core).arrivals := (congrArg Core.arrivals same :)
  have berths : (v.getCore core).berths = (s.getCore core).berths := (congrArg Core.berths same :)
  refine ⟨_, exec_lineDeposit run up, ?_⟩
  rw [State.lineDeposit_done hr hx hf hs hw hm]
  have held : ((((v.berthWrite core r.berth r.baddr (r.data.take m)).popLine core r).count (cnt core 19) 1).setStream core
      (decide (4 ≤ r.slot)) (r.slot % 4) { x with outs := Tab.put x.outs r.chunk (Tab.get 0 x.outs r.chunk - 1) }).getCore core
      = _ := State.getCore_modCore_self ..
  obtain ⟨b, l, a⟩ := State.slotsOf_setSlots _ _ _
  refine ⟨⟨?_, ?_⟩, ?_, State.streamAt_setStream .., ?_, ?_⟩
  · rw [berthsSame_iff, State.getCore_framed, held, b, State.getCore_count, State.popLine, State.getCore_modCore_self]
    rw [State.getCore_berthWrite, ← berths]
    rfl
  · rw [State.getCore_framed, held, l, State.getCore_count, State.popLine, State.getCore_modCore_self, State.getCore_berthWrite,
      lands, frame.coreRc]
  · rw [State.getCore_framed, held, a, State.getCore_count, State.popLine, State.getCore_modCore_self, State.getCore_berthWrite,
      arrivals]
  · rw [← regs _ rfl]
    exact State.rd_count ..
  · exact (State.frame_setStream (State.frame_count (State.frame_popLine (State.frame_berthWrite frame ..) r) ..) ..).framed

theorem lineDeposit_rests {m : Nat} {v : State} (hw : r.what ≠ 1)
    (hm : State.portMove core r.berth r.berth false up (State.wordsOf r.baddr r.len) r.baddr r.len s = (m, .waits, v)) :
    ∃ t, exec (.lineDeposit ⟨core, up⟩) s = .next t ∧ landsNext core r.berth r.baddr (r.data.take m) s t
      ∧ (t.getCore core).arrivals = (s.getCore core).arrivals.map (fun o => if o = r then
          { r with baddr := r.baddr + m, len := r.len - m, data := r.data.drop m } else o)
      ∧ t.streamAt core (decide (4 ≤ r.slot)) (r.slot % 4) = some x ∧ coreFrame core s t := by
  obtain ⟨frame, same, -⟩ := State.portMove_within hm
  have lands : (v.getCore core).ldLands = (s.getCore core).ldLands := (congrArg Core.ldLands same :)
  have arrivals : (v.getCore core).arrivals = (s.getCore core).arrivals := (congrArg Core.arrivals same :)
  have berths : (v.getCore core).berths = (s.getCore core).berths := (congrArg Core.berths same :)
  have slots : ∀ store, State.slotsOf (v.getCore core) store = State.slotsOf (s.getCore core) store := fun store =>
    (congrArg (State.slotsOf · store) same :)
  refine ⟨_, exec_lineDeposit run up, ?_⟩
  rw [State.lineDeposit_waits hr hx hf hs hw hm]
  refine ⟨⟨?_, ?_⟩, ?_, ?_, ((State.frame_berthWrite frame ..).modCore _).framed⟩
  · rw [berthsSame_iff, State.getCore_framed, State.getCore_modCore_self, State.getCore_berthWrite, ← berths]
    rfl
  · rw [State.getCore_framed, State.getCore_modCore_self, State.getCore_berthWrite, lands, frame.coreRc]
  · rw [State.getCore_framed, State.getCore_modCore_self, State.getCore_berthWrite, arrivals]
  · rw [← hx]
    unfold State.streamAt
    rw [State.getCore_framed, State.getCore_modCore_self, State.getCore_berthWrite, ← slots]
    rfl

theorem lineDeposit_takesIndex (hw : r.what = 1) (hv : leNat r.data = 2 ^ 32 - 1 ∨ leNat r.data < (LsDesc.of x.body).idxLimit) :
    ∃ t y, exec (.lineDeposit ⟨core, up⟩) s = .next t ∧ t.streamAt core (decide (4 ≤ r.slot)) (r.slot % 4) = some y
      ∧ Tab.get 0 y.index r.chunk = leNat r.data ∧ (t.getCore core).arrivals = (s.getCore core).arrivals.erase r
      ∧ berthsSame core s t ∧ coreFrame core s t := by
  refine ⟨_, { x with index := Tab.put x.index r.chunk (leNat r.data), indexAsked := x.indexAsked.filter (· ≠ r.chunk) },
    exec_lineDeposit run up, ?_⟩
  have taken : s.lineDeposit core up = (s.popLine core r).setStream core (decide (4 ≤ r.slot)) (r.slot % 4)
      { x with index := Tab.put x.index r.chunk (leNat r.data), indexAsked := x.indexAsked.filter (· ≠ r.chunk) } := by
    rw [State.lineDeposit_index hr hx hf hs hw, State.putIndex, if_neg (by omega)]
  rw [taken]
  have held : ((s.popLine core r).setStream core (decide (4 ≤ r.slot)) (r.slot % 4)
      { x with index := Tab.put x.index r.chunk (leNat r.data), indexAsked := x.indexAsked.filter (· ≠ r.chunk) }).getCore core
      = _ := State.getCore_modCore_self ..
  obtain ⟨b, -, a⟩ := State.slotsOf_setSlots _ _ _
  refine ⟨State.streamAt_setStream .., Tab.get_put_self .., ?_, ?_, (State.frame_setStream (State.frame_popLine (.refl core s) r) ..).framed⟩
  · rw [State.getCore_framed, held, a, State.popLine, State.getCore_modCore_self]
  · rw [berthsSame_iff, State.getCore_framed, held, b, State.popLine, State.getCore_modCore_self]
    rfl

end

/-! The words of a halo or a posted write, and a remote add (R149, R150, R230, R234). -/

namespace State

section
variable {s v : State} {k src : Nat} {link : Bool} {m : Msg} (h : s.takeMsg k src link = some (m, v))
include h

/-- The first message of its source and path has left the inbox. -/
theorem takeMsg_eq : m.src = src ∧ m.neighbour = link
    ∧ v = s.modCore k fun x => { x with inbox := (s.getCore k).inbox.erase m } := by
  unfold takeMsg at h
  dsimp only at h
  split at h
  · cases h
  · next y found =>
    split at h
    · cases h
    · cases h
      have := List.find?_some found
      simp only [Bool.and_eq_true, decide_eq_true_eq, beq_iff_eq] at this
      exact ⟨this.1, this.2, rfl⟩

section
variable {up : Upset} {b a : Nat} {data : List Byte} (hk : m.kind = .words b a data)
  (hg : s.gatedAt k b a data.length = none) {n : Nat} {u : State}
include hk hg

/-- The port has moved the last byte of the words. -/
theorem remoteWords_done (hm : portMove k b b false up (wordsOf a data.length) a data.length v = (n, .none, u)) :
    s.remoteWords k src link up = u.berthWrite k b a (data.take n) := by
  obtain ⟨msrc, sender, neighbour, kind, rc, after⟩ := m
  cases hk
  simp [remoteWords, h, hg, hm]

/-- The port has stopped before it: what is left stands first in the inbox. -/
theorem remoteWords_waits (hm : portMove k b b false up (wordsOf a data.length) a data.length v = (n, .waits, u)) :
    s.remoteWords k src link up = (u.berthWrite k b a (data.take n)).modCore k fun x =>
      { x with inbox := { m with kind := .words b (a + n) (data.drop n) } :: x.inbox } := by
  obtain ⟨hsrc, hlink, -⟩ := takeMsg_eq h
  obtain ⟨msrc, sender, neighbour, kind, rc, after⟩ := m
  cases hk
  cases hsrc
  cases hlink
  simp [remoteWords, h, hg, hm]

end

theorem remoteAdd_eq {b n : Nat} {done : Bool} (hk : m.kind = .add b n done) :
    s.remoteAdd k src link = (v.bolQueue k ⟨b, false, n, if done then 3 else 2, m.sender⟩).count (cnt k 28) 1 := by
  obtain ⟨msrc, sender, neighbour, kind, rc, after⟩ := m
  cases hk
  simp [remoteAdd, h]

end

end State

section
variable {s : State} {core : Nat} (run : s.runs core) {src : Nat} (hs : src < s.build.physCores) (link : Bool)
include run hs

theorem exec_remoteWords (up : Upset) :
    exec (if link then .haloDelivery ⟨core, up⟩ src else .postWriteArrival ⟨core, up⟩ src) s
      = .next (s.framed (s.remoteWords core src link up)) := by
  obtain ⟨hc, ha, hk⟩ := run
  cases link
  · exact actCore_running (by simp [hc, hs]) ha hk
  · exact actCore_running (by simp [hc, hs]) ha hk

theorem exec_signalArrival : exec (.signalArrival core src link) s = .next (s.framed (s.remoteAdd core src link)) := by
  obtain ⟨hc, ha, hk⟩ := run
  exact actCore_running (by simp [hc, hs]) ha hk

variable {link} {m : Msg} {v : State} (hm : s.takeMsg core src link = some (m, v))
include hm

section
variable {up : Upset} {b a n : Nat} {data : List Byte} {u : State} (hk : m.kind = .words b a data)
  (hg : s.gatedAt core b a data.length = none)
include hk hg

theorem remoteWords_lands
    (hp : State.portMove core b b false up (State.wordsOf a data.length) a data.length v = (n, .none, u)) :
    ∃ t, exec (if link then .haloDelivery ⟨core, up⟩ src else .postWriteArrival ⟨core, up⟩ src) s = .next t
      ∧ landsNext core b a (data.take n) s t ∧ (t.getCore core).inbox = (s.getCore core).inbox.erase m
      ∧ coreFrame core s t := by
  obtain ⟨-, -, hv⟩ := State.takeMsg_eq hm
  obtain ⟨frame, same, -⟩ := State.portMove_within hp
  rw [hv, State.getCore_modCore_self] at same
  have whole : coreFrame core s u := ((coreFrame.refl core s).modCore _).trans (hv ▸ frame)
  have lands : (u.getCore core).ldLands = (s.getCore core).ldLands := (congrArg Core.ldLands same :)
  have inbox : (u.getCore core).inbox = (s.getCore core).inbox.erase m := (congrArg Core.inbox same :)
  have berths : (u.getCore core).berths = (s.getCore core).berths := (congrArg Core.berths same :)
  refine ⟨_, exec_remoteWords run hs link up, ?_⟩
  rw [State.remoteWords_done hm hk hg hp]
  refine ⟨⟨?_, ?_⟩, ?_, (State.frame_berthWrite whole ..).framed⟩
  · rw [berthsSame_iff, State.getCore_framed, State.getCore_berthWrite, ← berths]
    rfl
  · rw [State.getCore_framed, State.getCore_berthWrite, lands, whole.coreRc]
  · rw [State.getCore_framed, State.getCore_berthWrite, inbox]

theorem remoteWords_rests
    (hp : State.portMove core b b false up (State.wordsOf a data.length) a data.length v = (n, .waits, u)) :
    ∃ t, exec (if link then .haloDelivery ⟨core, up⟩ src else .postWriteArrival ⟨core, up⟩ src) s = .next t
      ∧ landsNext core b a (data.take n) s t
      ∧ (t.getCore core).inbox = { m with kind := .words b (a + n) (data.drop n) } :: (s.getCore core).inbox.erase m
      ∧ coreFrame core s t := by
  obtain ⟨-, -, hv⟩ := State.takeMsg_eq hm
  obtain ⟨frame, same, -⟩ := State.portMove_within hp
  rw [hv, State.getCore_modCore_self] at same
  have whole : coreFrame core s u := ((coreFrame.refl core s).modCore _).trans (hv ▸ frame)
  have lands : (u.getCore core).ldLands = (s.getCore core).ldLands := (congrArg Core.ldLands same :)
  have inbox : (u.getCore core).inbox = (s.getCore core).inbox.erase m := (congrArg Core.inbox same :)
  have berths : (u.getCore core).berths = (s.getCore core).berths := (congrArg Core.berths same :)
  refine ⟨_, exec_remoteWords run hs link up, ?_⟩
  rw [State.remoteWords_waits hm hk hg hp]
  refine ⟨⟨?_, ?_⟩, ?_, ((State.frame_berthWrite whole ..).modCore _).framed⟩
  · rw [berthsSame_iff, State.getCore_framed, State.getCore_modCore_self, State.getCore_berthWrite, ← berths]
    rfl
  · rw [State.getCore_framed, State.getCore_modCore_self, State.getCore_berthWrite, lands, whole.coreRc]
  · rw [State.getCore_framed, State.getCore_modCore_self, State.getCore_berthWrite, inbox]

end

theorem signalArrival_joins {b n : Nat} {done : Bool} (hk : m.kind = .add b n done) :
    ∃ t, exec (.signalArrival core src link) s = .next t
      ∧ (t.getCore core).bolOps = (s.getCore core).bolOps ++ [⟨b, false, n, if done then 3 else 2, m.sender⟩]
      ∧ (t.getCore core).inbox = (s.getCore core).inbox.erase m
      ∧ t.rd (cnt core 28) = satAdd (s.rd (cnt core 28)) 1 ∧ berthsSame core s t ∧ coreFrame core s t := by
  obtain ⟨-, -, rfl⟩ := State.takeMsg_eq hm
  refine ⟨_, exec_signalArrival run hs link, ?_⟩
  rw [State.remoteAdd_eq hm hk, State.bolQueue]
  refine ⟨?_, ?_, State.rd_count .., ?_, (State.frame_count (((coreFrame.refl core s).modCore _).modCore _) ..).framed⟩
  · rw [State.getCore_framed, State.getCore_count, State.getCore_modCore_self, State.getCore_modCore_self]
  · rw [State.getCore_framed, State.getCore_count, State.getCore_modCore_self, State.getCore_modCore_self]
  · rw [berthsSame_iff, State.getCore_framed, State.getCore_count, State.getCore_modCore_self, State.getCore_modCore_self]
    rfl

end

/-! What lands in a region cycle (R74, R159). -/

/-- Bytes that land in this cycle stand in their berth after it. -/
theorem landCycle_lands {s : State} {core b a : Nat} {l : List Byte} (hb : b < 3) (hm : (s.getCore core).mxLands = [])
    (hv : (s.getCore core).vxLands = []) (hl : (s.getCore core).ldLands = [⟨s.coreRc core, b, putsOf a l, []⟩]) :
    ((s.landCycle core (s.coreRc core)).getCore core).space b = ((s.getCore core).space b).putBytes a l
      ∧ (∀ c < 3, c ≠ b → ((s.landCycle core (s.coreRc core)).getCore core).space c = (s.getCore core).space c)
      ∧ ((s.landCycle core (s.coreRc core)).getCore core).ldLands = []
      ∧ coreFrame core s (s.landCycle core (s.coreRc core)) := by
  have landed : ∀ c < 3, ((s.landCycle core (s.coreRc core)).getCore core).space c
      = if c = b then ((s.getCore core).space b).putBytes a l else (s.getCore core).space c := fun c hc => by
    rw [State.landCycle, State.getCore_modCore_self, hl, hm, hv, ← Scratch.puts_putsOf, ← Core.space_setSpace _ hb hc]
    obtain rfl | rfl | rfl : c = 0 ∨ c = 1 ∨ c = 2 := by omega
    all_goals simp [Core.land, Core.space]
  refine ⟨?_, fun c hc hcb => ?_, ?_, (coreFrame.refl core s).modCore _⟩
  · rw [landed b hb, if_pos rfl]
  · rw [landed c hc, if_neg hcb]
  · rw [State.landCycle, State.getCore_modCore_self, hl]
    simp

/-- Settles O20: each arrival by the stop of its port's transfer, and its landing by the writes of a cycle. -/
theorem arrivalsAreWritten : Obligations.ArrivalsAreWritten := by
  unfold Obligations.ArrivalsAreWritten
  intro core s up run now lands
  refine ⟨fun r x hr hx hf hs => ⟨?_, ?_, ?_⟩, fun src link m b a n data v u hs hm hk hg => ⟨?_, ?_⟩, ?_, ?_⟩
  · exact fun m v hw hp => lineDeposit_lands run hr hx hf hs hw hp
  · exact fun m v hw hp => lineDeposit_rests run hr hx hf hs hw hp
  · exact fun hw hv => lineDeposit_takesIndex run hr hx hf hs hw hv
  · exact fun hp => remoteWords_lands run hs hm hk hg hp
  · exact fun hp => remoteWords_rests run hs hm hk hg hp
  · exact fun b a l hb hm hv hl => landCycle_lands hb hm hv hl
  · exact fun src link m b n done v hs hm hk => signalArrival_joins run hs hm hk

end Sys2Proof.Machine
end

section
/-! PROOF. The scrubbers' reports (R134, R432, R449), at a build that no block has (O33). -/

namespace Sys2Proof.Machine

/-- A double-bit error in the data of a line: the line is dropped and fetched again (R134). -/
theorem exec_basinScrub_dataDouble {s : State} {r set way : Nat} (h : s.regionRuns r) (hset : set < s.build.basinSets)
    (hway : way < 16) {l : BLine} (found : ((s.getRegion r).basin.find? fun l => l.set = set && l.way = way) = some l) :
    exec (.basinScrub r set way .dataDouble) s = .next (s.framed ((s.basinDataLoss r l).basinRefetch r l)) := by
  obtain ⟨hr, ha, hc⟩ := h
  show actRegion r (r < s.build.regions && set < s.build.basinSets && way < 16) _ s = _
  rw [actRegion_running (by simp [hr, hset, hway]) ha hc, found]

/-- A build of 36 regions: the BASIN page of region 32 lies where the page of quay 0 does. -/
def wideBuild : Build := { Build.jx1024 with gridRows := 9 }

/-- A line whose address lies behind no quay. -/
def strayLine : BLine := { set := 0, way := 0, la := 0x200000000, ctx := 16, data := [] }

/-- Region 32 runs and holds that line. -/
def strayState : State :=
  { build := wideBuild, reg := [(0x14, 0x40000000)], inReset := false, quiet := false
    region := [(32, { clockOn := true, basin := [strayLine] })] }

theorem regionRuns_strayState : strayState.regionRuns 32 := by decide

theorem find_strayLine :
    ((strayState.getRegion 32).basin.find? fun l => l.set = 0 && l.way = 0) = some strayLine := by decide +kernel

/-- The refused fetch of the line is reported on the page of quay 0, over the report of the Basin. -/
theorem faultCode_strayState :
    ((strayState.basinDataLoss 32 strayLine).basinRefetch 32 strayLine).faultCode (basinP 32) = 0x401 := by decide +kernel

/-- Refutes O33: it bounds a region by the build's regions but asks for no legal build. With 36 regions the BASIN page of
region 32 is the page of quay 0, so that the report of a fetch that no quay takes (0x401) replaces 0x103. -/
theorem not_scrubbersReportAndSegmentsClear : ¬ Obligations.ScrubbersReportAndSegmentsClear := by
  unfold Obligations.ScrubbersReportAndSegmentsClear
  intro h
  have sets : 0 < strayState.build.basinSets := by decide
  obtain ⟨-, -, -, basin, -⟩ := h
  obtain ⟨-, -, -, data⟩ := basin 32 0 0 strayState regionRuns_strayState sets (by decide)
  obtain ⟨t, run, code, -⟩ := data strayLine find_strayLine
  rw [exec_basinScrub_dataDouble regionRuns_strayState sets (by decide) find_strayLine] at run
  cases run
  rw [State.faultCode_framed, faultCode_strayState] at code
  exact absurd code (by decide)

end Sys2Proof.Machine
end

section
/-! PROOF. A Basin's requests and fills (R124, R126, R129, R138, R255, R325) (O34). -/

namespace Sys2Proof.Machine

/-- A region without what its Basin holds: its lines and the pins that the plan has lost. -/
def Region.sansBasin (x : Region) : Region := { x with basin := [], unpinned := [] }

/-- `t` is `s` but for what the Basin of region `r` holds and for registers and the log of faults. -/
structure BasinOnly (r : Nat) (s t : State) : Prop where
  frame : regionFrame r s t
  region : (t.getRegion r).sansBasin = (s.getRegion r).sansBasin
  core : t.core = s.core
  ctx : t.ctx = s.ctx
  quays : t.quays = s.quays
  net : netSame s t

theorem regionFrame.refl (r : Nat) (s : State) : regionFrame r s s := ⟨fun _ _ => rfl, rfl, rfl, rfl, rfl, rfl⟩

theorem regionFrame.trans {r : Nat} {s t u : State} (h : regionFrame r s t) (h' : regionFrame r t u) : regionFrame r s u := by
  obtain ⟨other, dev, host, clk, build, pending⟩ := h
  obtain ⟨other', dev', host', clk', build', pending'⟩ := h'
  exact ⟨fun x hx => (other' x hx).trans (other x hx), dev'.trans dev, host'.trans host, clk'.trans clk, build'.trans build,
    pending'.trans pending⟩

theorem regionFrame.framed {r : Nat} {s t : State} (h : regionFrame r s t) : regionFrame r s (s.framed t) := by
  obtain ⟨other, dev, host, -⟩ := h
  exact ⟨other, dev, host, rfl, rfl, rfl⟩

theorem regionFrame.modRegion {r : Nat} {s t : State} (h : regionFrame r s t) (f : Region → Region) :
    regionFrame r s (t.modRegion r f) :=
  h.trans ⟨fun _ hx => State.getRegion_modRegion_ne t f hx.symm, rfl, rfl, rfl, rfl, rfl⟩

theorem partsSame.regionFrame {s t : State} (h : partsSame s t) (r : Nat) : regionFrame r s t := by
  obtain ⟨-, region, -, -, -, dev, host, clk, build, pending⟩ := h
  exact ⟨fun x _ => by unfold State.getRegion; rw [region], dev, host, clk, build, pending⟩

theorem netSame.refl (s : State) : netSame s s := ⟨rfl, rfl⟩

theorem netSame.trans {s t u : State} (h : netSame s t) (h' : netSame t u) : netSame s u :=
  ⟨h'.1.trans h.1, h'.2.trans h.2⟩

/-- A request that joins a fill changes the requests to the quays and region `r` (R126). -/
theorem regionFrame.joinFill {r : Nat} {s t : State} (h : regionFrame r s t) (c la : Nat) (q : LineReq) :
    regionFrame r s (t.joinFill r c la q) :=
  h.trans ⟨fun _ hx => State.getRegion_modRegion_ne _ _ hx.symm, rfl, rfl, rfl, rfl, rfl⟩

namespace BasinOnly

variable {r : Nat} {s t u : State}

theorem refl (r : Nat) (s : State) : BasinOnly r s s := ⟨.refl r s, rfl, rfl, rfl, rfl, .refl s⟩

theorem trans (h : BasinOnly r s t) (h' : BasinOnly r t u) : BasinOnly r s u :=
  ⟨h.frame.trans h'.frame, h'.region.trans h.region, h'.core.trans h.core, h'.ctx.trans h.ctx, h'.quays.trans h.quays,
    h.net.trans h'.net⟩

theorem ite {c : Prop} [Decidable c] (h : BasinOnly r s t) (h' : BasinOnly r s u) : BasinOnly r s (if c then t else u) := by
  split <;> assumption

theorem logged (h : State.LogOnly s t) : BasinOnly r s t := by
  obtain ⟨a, f, o, rfl⟩ := h
  exact ⟨.refl r s, rfl, rfl, rfl, rfl, .refl s⟩

theorem count (h : BasinOnly r s t) (a n : Nat) : BasinOnly r s (t.count a n) := h.trans (logged ((State.LogOnly.refl t).count a n))

theorem event (h : BasinOnly r s t) (p b : Nat) : BasinOnly r s (t.event p b) := h.trans (logged ((State.LogOnly.refl t).event p b))

theorem modRegion (h : BasinOnly r s t) {f : Region → Region} (hf : ∀ x, (f x).sansBasin = x.sansBasin) :
    BasinOnly r s (t.modRegion r f) :=
  h.trans ⟨(regionFrame.refl r t).modRegion f, by rw [State.getRegion_modRegion_self, hf], rfl, rfl, rfl, .refl t⟩

/-! The Basin's own operations (R124, R129, R130, R131, R136). -/

variable (h : BasinOnly r s t) (c la : Nat)
include h

theorem basinMod (f : BLine → BLine) : BasinOnly r s (t.basinMod r c la f) := h.modRegion fun _ => rfl

theorem basinDrop : BasinOnly r s (t.basinDrop r c la) := h.modRegion fun _ => rfl

theorem planLost : BasinOnly r s (t.planLost r c la) := h.modRegion fun _ => rfl

theorem planKept : BasinOnly r s (t.planKept r c la) := h.modRegion fun _ => rfl

theorem planMiss : BasinOnly r s (t.planMiss r c la) := (h.count ..).ite h

theorem pinRefused : BasinOnly r s (t.pinRefused r c la) := ((h.count ..).event ..).planLost c la

theorem basinHit (l : BLine) : BasinOnly r s (t.basinHit r l) := ((h.count ..).count ..).ite (h.count ..)

theorem newest : BasinOnly r s (t.newest r c la) := h.basinMod ..

theorem stalest : BasinOnly r s (t.stalest r c la) := h.basinMod ..

theorem pinLine : BasinOnly r s (t.pinLine r c la).2 := by
  unfold State.pinLine
  split
  · exact h.pinRefused c la
  · split
    · exact h
    · split
      · exact (h.basinMod ..).planKept c la
      · exact h.pinRefused c la

theorem hintRead (hint : Nat) : BasinOnly r s (t.hintRead r c la hint) := by
  unfold State.hintRead
  split
  · exact h.newest c la
  · exact h.stalest c la
  · exact .ite (h.pinLine c la) ((h.pinLine c la).newest c la)
  · exact (h.basinDrop c la).planKept c la

theorem basinPut (data : List Byte) : BasinOnly r s (t.basinPut r c la data) := by
  unfold State.basinPut
  split
  · exact h.basinMod ..
  · dsimp only
    split
    · exact h
    · exact h.modRegion fun _ => rfl

end BasinOnly


namespace State

/-! A Basin takes its next request (R126, R325). -/

/-- The request has left the queue, and is one more of the region cycle. -/
def taken (s : State) (r : Nat) (q : LineReq) : State :=
  s.modRegion r fun x => { x with
    requests := x.requests.erase q
    served := (s.rcOf r, (if (s.getRegion r).served.1 = s.rcOf r then (s.getRegion r).served.2 else 0) + 1) }

section
variable (s : State) (r : Nat) (q : LineReq)

theorem taken_frame : regionFrame r s (s.taken r q) := (regionFrame.refl r s).modRegion _

theorem taken_requests : ((s.taken r q).getRegion r).requests = (s.getRegion r).requests.erase q := by
  rw [taken, getRegion_modRegion_self]

theorem taken_basin : ((s.taken r q).getRegion r).basin = (s.getRegion r).basin := by
  rw [taken, getRegion_modRegion_self]

theorem basinFind_taken (c la : Nat) : (s.taken r q).basinFind r c la = s.basinFind r c la := by
  rw [basinFind, taken_basin, basinFind]

theorem fillOpen_taken (c la : Nat) : (s.taken r q).fillOpen r c la = s.fillOpen r c la := by
  simp only [fillOpen, taken, getRegion_modRegion_self]
  rfl

end

section
variable {s : State} {r : Nat} {q : LineReq}

theorem basinRequest_eq (hn : s.nextRequest (s.getRegion r).requests = some q)
    (hs : (s.getRegion r).served.1 = s.rcOf r → (s.getRegion r).served.2 < 4) (found : BasinEcc) :
    s.basinRequest r found = if ¬ s.fresh q.ctx q.epoch then (s.taken r q).count (ctxP q.ctx + 0xC4) 1
      else if q.store then (s.taken r q).basinWrite r q found else (s.taken r q).basinRead r q found := by
  have room : ¬ 4 ≤ if (s.getRegion r).served.1 = s.rcOf r then (s.getRegion r).served.2 else 0 := by
    split
    · next h => exact Nat.not_le.2 (hs h)
    · decide
  unfold basinRequest
  dsimp only
  rw [if_neg room, hn]
  rfl

/-- A Basin that has taken 4 requests in a region cycle takes no more (R126). -/
theorem basinRequest_full (h : (s.getRegion r).served = (s.rcOf r, 4)) (found : BasinEcc) : s.basinRequest r found = s := by
  unfold basinRequest
  rw [h]
  simp

/-! What a lookup counts (R126, R131, R136). -/

theorem basinP_aligned (r : Nat) : basinP r % 0x1000 = 0 := by unfold basinP; omega

/-- A lookup that passes the Basin. -/
def passed (s : State) (r : Nat) (q : LineReq) : State :=
  let u := (s.count (basinP r + 0x80) 1).planMiss r q.ctx (q.pa / 128)
  if q.hint = 1 then u.count (basinP r + 0x94) 1 else u

/-- A read that joins a fill. -/
def passedRead (s : State) (r : Nat) (q : LineReq) : State :=
  let u := (s.count (basinP r + 0x80) 1).planMiss r q.ctx (q.pa / 128)
  if q.hint = 1 ∨ q.hint = 3 then u.count (basinP r + 0x94) 1 else u

theorem planMiss_log {s t : State} (h : LogOnly s t) (r c la : Nat) : LogOnly s (t.planMiss r c la) := (h.count ..).ite h

theorem basinHit_log {s t : State} (h : LogOnly s t) (r : Nat) (l : BLine) : LogOnly s (t.basinHit r l) :=
  ((h.count ..).count ..).ite (h.count ..)

theorem passed_log (s : State) (r : Nat) (q : LineReq) : LogOnly s (s.passed r q) :=
  have looked := planMiss_log ((LogOnly.refl s).count (basinP r + 0x80) 1) r q.ctx (q.pa / 128)
  (looked.count ..).ite looked

theorem passedRead_log (s : State) (r : Nat) (q : LineReq) : LogOnly s (s.passedRead r q) :=
  have looked := planMiss_log ((LogOnly.refl s).count (basinP r + 0x80) 1) r q.ctx (q.pa / 128)
  (looked.count ..).ite looked

section
variable {s : State} {r a : Nat} (ha : ∀ o ∈ [0x80, 0x84, 0x88, 0x8C, 0x94], basinP r + o ≠ a)
include ha

theorem rd_planMiss (c la : Nat) : (s.planMiss r c la).rd a = s.rd a := by
  unfold planMiss
  split
  · exact rd_count_ne s 1 (ha _ (by decide))
  · rfl

theorem rd_basinHit (l : BLine) : (s.basinHit r l).rd a = s.rd a := by
  unfold basinHit
  dsimp only
  split
  · rw [rd_count_ne _ 1 (ha _ (by decide)), rd_count_ne s 1 (ha _ (by decide))]
  · exact rd_count_ne s 1 (ha _ (by decide))

omit ha in
/-- A hit counts as one (R136). -/
theorem rd_basinHit_hits (s : State) (r : Nat) (l : BLine) :
    (s.basinHit r l).rd (basinP r + 0x84) = satAdd (s.rd (basinP r + 0x84)) 1 := by
  unfold basinHit
  dsimp only
  split
  · rw [rd_count_ne _ 1 (by omega), rd_count]
  · exact rd_count ..

omit ha in
theorem rd_basinHit_lookups (s : State) (r : Nat) (l : BLine) :
    (s.basinHit r l).rd (basinP r + 0x80) = s.rd (basinP r + 0x80) := by
  unfold basinHit
  dsimp only
  split
  · rw [rd_count_ne _ 1 (by omega), rd_count_ne _ 1 (by omega)]
  · exact rd_count_ne _ 1 (by omega)

theorem rd_passed (q : LineReq) : (s.passed r q).rd a = s.rd a := by
  have looked : ((s.count (basinP r + 0x80) 1).planMiss r q.ctx (q.pa / 128)).rd a = s.rd a :=
    (rd_planMiss ha ..).trans (rd_count_ne s 1 (ha _ (by decide)))
  unfold passed
  dsimp only
  split
  · exact (rd_count_ne _ 1 (ha _ (by decide))).trans looked
  · exact looked

end

/-- The counters of a BASIN page lie apart from PAIR_STATUS of every context. -/
theorem counters_apart_pair (r c : Nat) : ∀ o ∈ [0x80, 0x84, 0x88, 0x8C, 0x94], basinP r + o ≠ ctxP c + 0xAC := fun o ho =>
  offset_apart (basinP_aligned r) (ctxP_aligned c) (by revert o; decide) (by decide) (by revert o; decide)

theorem pairState_congr {s t : State} {c : Nat} (h : t.rd (ctxP c + 0xAC) = s.rd (ctxP c + 0xAC)) : t.pairState c = s.pairState c := by
  unfold pairState
  rw [h]

/-! A read and a write at the Basin (R126, R129). -/

section
variable (hp : s.pinOnly = false)
include hp

section
variable (ho : s.fillOpen r q.ctx (q.pa / 128) = false)
include ho

theorem basinRead_hit {l : BLine} (hf : s.basinFind r q.ctx (q.pa / 128) = some l) :
    s.basinRead r q .clean = (((s.count (basinP r + 0x80) 1).basinHit r l).answer (.port (.basin r)) (.basin r) q
      ((l.data.drop (q.pa % 128)).take q.len) (q.came + 18)).hintRead r q.ctx (q.pa / 128) q.hint := by
  have same : (s.count (basinP r + 0x80) 1).basinFind r q.ctx (q.pa / 128) = some l := by
    rw [← hf]
    simp [basinFind]
  simp [basinRead, hp, ho, basinTags, same]

theorem basinRead_miss (hh : q.hint = 0) (hf : s.basinFind r q.ctx (q.pa / 128) = none) :
    s.basinRead r q .clean = ((s.count (basinP r + 0x80) 1).planMiss r q.ctx (q.pa / 128)).gateRead q true false := by
  have same : (s.count (basinP r + 0x80) 1).basinFind r q.ctx (q.pa / 128) = none := by
    rw [← hf]
    simp [basinFind]
  simp [basinRead, hp, ho, basinTags, same, hh]

/-- A write is merged into the line it hits (R124). -/
theorem basinWrite_hit (hh : q.hint ≤ 1) {l : BLine} (hf : s.basinFind r q.ctx (q.pa / 128) = some l) :
    s.basinWrite r q .clean = (((s.count (basinP r + 0x80) 1).basinHit r l).basinMod r q.ctx (q.pa / 128) fun l =>
      { l with data := mergeInto (q.pa / 128) q.pa l.data q.data }).gateWrite q := by
  have same : (s.count (basinP r + 0x80) 1).basinFind r q.ctx (q.pa / 128) = some l := by
    rw [← hf]
    simp [basinFind]
  have h2 : q.hint ≠ 2 := by omega
  have h3 : q.hint ≠ 3 := by omega
  simp [basinWrite, hp, ho, basinTags, same, hintWrite, h2, h3]

/-- A write that misses passes the Basin. -/
theorem basinWrite_miss (hh : q.hint ≤ 1) (hf : s.basinFind r q.ctx (q.pa / 128) = none) :
    s.basinWrite r q .clean = (s.passed r q).gateWrite q := by
  have same : (s.count (basinP r + 0x80) 1).basinFind r q.ctx (q.pa / 128) = none := by
    rw [← hf]
    simp [basinFind]
  have h3 : q.hint ≠ 3 := by omega
  simp [basinWrite, hp, ho, basinTags, same, passed, h3]

end

/-- A read whose line's fill is outstanding joins it (R126). -/
theorem basinRead_joins (ho : s.fillOpen r q.ctx (q.pa / 128) = true) (found : BasinEcc) :
    s.basinRead r q found = (s.passedRead r q).joinFill r q.ctx (q.pa / 128) q := by
  simp [basinRead, hp, ho, passedRead]

end
end


/-- Hints 0 and 1 change the age of a line (R129). -/
theorem hintRead_reg (s : State) (r c la : Nat) {hint : Nat} (h : hint ≤ 1) : (s.hintRead r c la hint).reg = s.reg := by
  obtain rfl | rfl : hint = 0 ∨ hint = 1 := by omega
  · rfl
  · rfl

/-- A line found and changed. -/
theorem basinFind_basinMod (s : State) (r c la : Nat) {f : BLine → BLine} (hf : ∀ l, (f l).ctx = l.ctx ∧ (f l).la = l.la) :
    (s.basinMod r c la f).basinFind r c la = (s.basinFind r c la).map f := by
  have key : (fun l : BLine => decide (l.ctx = c) && decide (l.la = la)) ∘ (fun l => if l.ctx = c ∧ l.la = la then f l else l)
      = fun l => decide (l.ctx = c) && decide (l.la = la) := by
    funext l
    simp only [Function.comp_apply]
    split
    · rw [(hf l).1, (hf l).2]
    · rfl
  unfold basinFind basinMod
  rw [getRegion_modRegion_self, List.find?_map, key]
  cases found : (s.getRegion r).basin.find? fun l => decide (l.ctx = c) && decide (l.la = la) with
  | none => rfl
  | some l =>
    have this := List.find?_some found
    simp only [Bool.and_eq_true, decide_eq_true_eq] at this
    simp [this]

/-! What leaves the Basin for a quay (R126, R255). -/

/-- A context that is not attached on both sides. -/
abbrev single (s : State) (c : Nat) : Prop := (s.getCtx c).paired = false ∨ s.pairState c ≠ 1

theorem quayOf_congr {s u : State} (h : u.build = s.build) (pa : Nat) : u.quayOf pa = s.quayOf pa := by
  unfold quayOf
  rw [h]

theorem behindQuay_congr {s u : State} (h : u.build = s.build) (pa : Nat) : u.behindQuay pa = s.behindQuay pa := by
  unfold behindQuay
  rw [h]

theorem toQuay_behind {s : State} {o : QReq} (h : s.behindQuay o.pa = true) :
    s.toQuay o = { s.inject (.quay o.id) o.port (.quay (s.quayOf o.pa).1) (reqVc o.port) (if o.write then flitsOf o.len else 1)
      with quays := (s.inject (.quay o.id) o.port (.quay (s.quayOf o.pa).1) (reqVc o.port)
        (if o.write then flitsOf o.len else 1)).quays ++ [{ o with quay := (s.quayOf o.pa).1, time := s.clk.tide }] } := by
  rw [toQuay, if_pos h]
  simp [inject]

theorem toQuay_quays {s : State} {o : QReq} (h : s.behindQuay o.pa = true) :
    (s.toQuay o).quays = s.quays ++ [{ o with quay := (s.quayOf o.pa).1, time := s.clk.tide }] := by
  rw [toQuay_behind h]
  simp [inject]

theorem toQuay_partsSame {s : State} {o : QReq} (h : s.behindQuay o.pa = true) : partsSame s (s.toQuay o) := by
  rw [toQuay_behind h]
  exact injectAt_partsSame ..

theorem sends_toQuay {s u : State} (h : netSame s u) (hc : u.clk = s.clk) (hb : u.build = s.build) {o : QReq}
    (ho : u.behindQuay o.pa = true) : Machine.sends (.quay o.id) o.port (.quay (u.quayOf o.pa).1) (reqVc o.port)
      (if o.write then flitsOf o.len else 1) s (s.framed (u.toQuay o)) := by
  rw [toQuay_behind ho]
  exact sends_of_inject h hc hb ..

/-- The request of a line that a read misses. -/
def lineFetch (s : State) (q : LineReq) : QReq :=
  { id := q.id, quay := 0, pa := 128 * (q.pa / 128), len := 128, write := false, source := q.ctx, reqs := [q], region := q.region,
    alloc := true, before := (s.writesTo q.region q.ctx (q.pa / 128)).map (·.id), port := .basin q.region }

/-- The request of a write. -/
def lineWrite (q : LineReq) : QReq :=
  { id := q.id, quay := 0, pa := q.pa, len := q.len, write := true, source := q.ctx, reqs := [q], region := q.region,
    port := .basin q.region }

/-- A read that will allocate shares no response with a twin (R361). -/
theorem gateRead_alloc (s : State) (q : LineReq) : s.gateRead q true false = s.toQuay (s.lineFetch q) := by
  simp [gateRead, lineFetch]

theorem gateWrite_single {s : State} {q : LineReq} (h : s.single q.ctx) (hpa : q.pa < 2 ^ 40) :
    s.gateWrite q = s.toQuay (lineWrite q) := by
  have alone : ¬ ((s.getCtx q.ctx).paired = true ∧ s.pairState q.ctx = 1) := by
    rintro ⟨hp, hs⟩
    exact h.elim (fun h => by simp [hp] at h) (absurd hs)
  have low : q.pa / 2 ^ 40 = 0 := Nat.div_eq_of_lt hpa
  unfold gateWrite
  rw [if_neg alone, if_neg (not_not_intro low)]
  rfl

end State


theorem State.answer_partsSame (u : State) (n : Node) (src : Port) (q : LineReq) (data : List Byte) (ready : Nat) :
    partsSame u (u.answer n src q data ready) := by
  unfold State.answer
  split <;> exact State.injectAt_partsSame ..

theorem State.answer_quays (u : State) (n : Node) (src : Port) (q : LineReq) (data : List Byte) (ready : Nat) :
    (u.answer n src q data ready).quays = u.quays := by
  unfold State.answer
  split <;> exact State.injectAt_quays ..

theorem State.answer_reg (u : State) (n : Node) (src : Port) (q : LineReq) (data : List Byte) (ready : Nat) :
    (u.answer n src q data ready).reg = u.reg := by
  unfold State.answer
  split <;> exact State.injectAt_reg ..

/-- The bytes of a read have left for their core, and nothing after them. -/
theorem sendsAt_answer {r : Nat} {s u t : State} (h : regionFrame r s u) (hn : netSame s u) {q : LineReq} (hs : q.store = false) {n : Node}
    {src : Port} {data : List Byte} {ready : Nat} (ht : netSame (u.answer n src q data ready) t) :
    sendsAt n (.data { q with data := data }) src (.mem q.core) 3 (State.flitsOf data.length) ready s (s.framed t) := by
  obtain ⟨-, -, -, clk, build, -⟩ := h
  have leaves : u.answer n src q data ready
      = u.injectAt n (.data { q with data := data }) src (.mem q.core) 3 (State.flitsOf data.length) ready false := by
    simp [State.answer, hs]
  rw [leaves] at ht
  obtain ⟨net, next⟩ := State.sendsAt_of_injectAt hn clk build n (.data { q with data := data }) src (.mem q.core) 3
    (State.flitsOf data.length) ready
  exact ⟨ht.1.trans net, ht.2.trans next⟩

theorem BasinOnly.requests {r : Nat} {s t : State} (h : BasinOnly r s t) :
    (t.getRegion r).requests = (s.getRegion r).requests := (congrArg Region.requests h.region :)

theorem BasinOnly.fills {r : Nat} {s t : State} (h : BasinOnly r s t) :
    (t.getRegion r).fills = (s.getRegion r).fills := (congrArg Region.fills h.region :)

/-- A request for a quay has left the Basin (R126, R255). -/
theorem leavesForQuay {s u : State} {r : Nat} (h : regionFrame r s u) (hn : netSame s u) (hq : u.quays = s.quays)
    (hc : u.core = s.core) {o : QReq} (hb : s.behindQuay o.pa = true) :
    (s.framed (u.toQuay o)).quays = s.quays ++ [{ o with quay := (s.quayOf o.pa).1, time := s.clk.tide }]
      ∧ sends (.quay o.id) o.port (.quay (s.quayOf o.pa).1) (State.reqVc o.port) (if o.write then State.flitsOf o.len else 1) s
          (s.framed (u.toQuay o))
      ∧ (s.framed (u.toQuay o)).getRegion r = u.getRegion r ∧ (s.framed (u.toQuay o)).core = s.core
      ∧ regionFrame r s (s.framed (u.toQuay o)) := by
  have outside := h
  obtain ⟨-, -, -, clk, build, -⟩ := outside
  have quay := State.quayOf_congr build o.pa
  have behind := (State.behindQuay_congr build o.pa).trans hb
  have queued := State.toQuay_partsSame behind
  refine ⟨?_, ?_, ?_, ?_, ?_⟩
  · rw [← hq, ← clk, ← quay]
    exact (State.framed_quays s _).trans (State.toQuay_quays behind)
  · rw [← quay]
    exact State.sends_toQuay hn clk build behind
  · rw [State.getRegion_framed]
    unfold State.getRegion
    rw [queued.2.1]
  · rw [State.framed_core, queued.1, hc]
  · exact (h.trans (queued.regionFrame r)).framed

section
variable {s : State} {r : Nat} (run : s.regionRuns r)
include run

theorem exec_basinRequest (found : BasinEcc) : exec (.basinRequest r found) s = .next (s.framed (s.basinRequest r found)) := by
  obtain ⟨hr, ha, hc⟩ := run
  exact actRegion_running (by simp [hr]) ha hc

theorem exec_basinFillComplete : exec (.basinFillComplete r) s = .next (s.framed (s.fillComplete r)) := by
  obtain ⟨hr, ha, hc⟩ := run
  exact actRegion_running (by simp [hr]) ha hc

variable {q : LineReq} (ht : s.basinTakes r q)
include ht

theorem exec_basinRequest_read (hs : q.store = false) (found : BasinEcc) :
    exec (.basinRequest r found) s = .next (s.framed ((s.taken r q).basinRead r q found)) := by
  obtain ⟨hn, hf, room⟩ := ht
  rw [exec_basinRequest run, State.basinRequest_eq hn room, if_neg (by simp [hf]), if_neg (by simp [hs])]

theorem exec_basinRequest_write (hs : q.store = true) (found : BasinEcc) :
    exec (.basinRequest r found) s = .next (s.framed ((s.taken r q).basinWrite r q found)) := by
  obtain ⟨hn, hf, room⟩ := ht
  rw [exec_basinRequest run, State.basinRequest_eq hn room, if_neg (by simp [hf]), if_pos hs]

variable (hp : s.pinOnly = false)
include hp

section
variable (ho : s.fillOpen r q.ctx (q.pa / 128) = false)
include ho

/-- A read that hits leaves for its core 18 rc after it came, and counts as a lookup and a hit (R126, R136). -/
theorem basinRequest_hits (hh : q.hint ≤ 1) (hs : q.store = false) {l : BLine}
    (hf : s.basinFind r q.ctx (q.pa / 128) = some l) :
    ∃ t, exec (.basinRequest r .clean) s = .next t
      ∧ sendsAt (.port (.basin r)) (.data { q with data := (l.data.drop (q.pa % 128)).take q.len }) (.basin r) (.mem q.core) 3
          (State.flitsOf ((l.data.drop (q.pa % 128)).take q.len).length) (q.came + 18) s t
      ∧ (t.getRegion r).requests = (s.getRegion r).requests.erase q
      ∧ t.rd (basinP r + 0x80) = satAdd (s.rd (basinP r + 0x80)) 1
      ∧ t.rd (basinP r + 0x84) = satAdd (s.rd (basinP r + 0x84)) 1 ∧ t.quays = s.quays ∧ t.core = s.core
      ∧ regionFrame r s t := by
  refine ⟨_, exec_basinRequest_read run ht hs .clean, ?_⟩
  rw [State.basinRead_hit (s := s.taken r q) hp ((s.fillOpen_taken ..).trans ho) ((s.basinFind_taken ..).trans hf)]
  have counted := ((BasinOnly.refl r (s.taken r q)).count (basinP r + 0x80) 1).basinHit l
  have lookups : (((s.taken r q).count (basinP r + 0x80) 1).basinHit r l).rd (basinP r + 0x80)
      = satAdd (s.rd (basinP r + 0x80)) 1 := by
    rw [State.rd_basinHit_lookups, State.rd_count]
    rfl
  have hits : (((s.taken r q).count (basinP r + 0x80) 1).basinHit r l).rd (basinP r + 0x84)
      = satAdd (s.rd (basinP r + 0x84)) 1 := by
    rw [State.rd_basinHit_hits, State.rd_count_ne _ 1 (by omega)]
    rfl
  generalize ((s.taken r q).count (basinP r + 0x80) 1).basinHit r l = u at counted lookups hits
  have frame := (s.taken_frame r q).trans counted.frame
  have parts := u.answer_partsSame (.port (.basin r)) (.basin r) q ((l.data.drop (q.pa % 128)).take q.len) (q.came + 18)
  have quays := u.answer_quays (.port (.basin r)) (.basin r) q ((l.data.drop (q.pa % 128)).take q.len) (q.came + 18)
  have reg := u.answer_reg (.port (.basin r)) (.basin r) q ((l.data.drop (q.pa % 128)).take q.len) (q.came + 18)
  have aged := (BasinOnly.refl r (u.answer (.port (.basin r)) (.basin r) q ((l.data.drop (q.pa % 128)).take q.len)
    (q.came + 18))).hintRead q.ctx (q.pa / 128) q.hint
  have still := State.hintRead_reg (u.answer (.port (.basin r)) (.basin r) q ((l.data.drop (q.pa % 128)).take q.len)
    (q.came + 18)) r q.ctx (q.pa / 128) hh
  refine ⟨sendsAt_answer frame ⟨counted.net.1, counted.net.2⟩ hs aged.net, ?_, ?_, ?_, ?_, ?_, ?_⟩
  · rw [State.getRegion_framed, aged.requests, State.getRegion, parts.2.1]
    exact counted.requests.trans (s.taken_requests r q)
  · rw [State.rd_framed, ← lookups]
    unfold State.rd
    rw [still, reg]
  · rw [State.rd_framed, ← hits]
    unfold State.rd
    rw [still, reg]
  · exact (aged.quays.trans quays).trans counted.quays
  · exact (aged.core.trans parts.1).trans counted.core
  · exact ((frame.trans (parts.regionFrame r)).trans aged.frame).framed
/-- A read that misses goes to its quay and will allocate (R126). -/
theorem basinRequest_misses (hh : q.hint = 0) (hs : q.store = false) (hf : s.basinFind r q.ctx (q.pa / 128) = none)
    (hb : s.behindQuay (128 * (q.pa / 128)) = true) :
    ∃ t, exec (.basinRequest r .clean) s = .next t
      ∧ t.quays = s.quays ++ [{ id := q.id, quay := (s.quayOf (128 * (q.pa / 128))).1, pa := 128 * (q.pa / 128), len := 128,
                                write := false, source := q.ctx, reqs := [q], region := q.region, alloc := true,
                                time := s.clk.tide, before := (s.writesTo q.region q.ctx (q.pa / 128)).map (·.id),
                                port := .basin q.region }]
      ∧ sends (.quay q.id) (.basin q.region) (.quay (s.quayOf (128 * (q.pa / 128))).1) 2 1 s t
      ∧ (t.getRegion r).requests = (s.getRegion r).requests.erase q ∧ (t.getRegion r).basin = (s.getRegion r).basin
      ∧ t.core = s.core ∧ regionFrame r s t := by
  refine ⟨_, exec_basinRequest_read run ht hs .clean, ?_⟩
  rw [State.basinRead_miss (s := s.taken r q) hp ((s.fillOpen_taken ..).trans ho) hh ((s.basinFind_taken ..).trans hf),
    State.gateRead_alloc]
  obtain ⟨a, f, o, hu⟩ := State.planMiss_log ((State.LogOnly.refl (s.taken r q)).count (basinP r + 0x80) 1) r q.ctx (q.pa / 128)
  rw [hu]
  generalize hv : (s.taken r q).withLog a f o = u
  have fetch : u.lineFetch q = s.lineFetch q := hv ▸ rfl
  have region : u.getRegion r = (s.taken r q).getRegion r := hv ▸ rfl
  obtain ⟨quays, sent, same, core, frame⟩ := leavesForQuay (s := s) (u := u) (r := r) (hv ▸ s.taken_frame r q) (hv ▸ ⟨rfl, rfl⟩)
    (hv ▸ rfl) (hv ▸ rfl) (o := s.lineFetch q) hb
  rw [fetch]
  exact ⟨quays, sent, same ▸ region ▸ s.taken_requests r q, same ▸ region ▸ s.taken_basin r q, core, frame⟩

/-- A write goes to its quay, and is merged into the line it hits (R124, R126). -/
theorem basinRequest_writes (hh : q.hint ≤ 1) (hs : q.store = true) (hc : s.single q.ctx) (hpa : q.pa < 2 ^ 40)
    (hb : s.behindQuay q.pa = true) :
    ∃ t, exec (.basinRequest r .clean) s = .next t
      ∧ t.quays = s.quays ++ [{ id := q.id, quay := (s.quayOf q.pa).1, pa := q.pa, len := q.len, write := true,
                                source := q.ctx, reqs := [q], region := q.region, time := s.clk.tide,
                                port := .basin q.region }]
      ∧ sends (.quay q.id) (.basin q.region) (.quay (s.quayOf q.pa).1) 2 (State.flitsOf q.len) s t
      ∧ t.basinFind r q.ctx (q.pa / 128) = (s.basinFind r q.ctx (q.pa / 128)).map (fun l =>
          { l with data := State.mergeInto (q.pa / 128) q.pa l.data q.data })
      ∧ (t.getRegion r).requests = (s.getRegion r).requests.erase q ∧ t.core = s.core ∧ regionFrame r s t := by
  refine ⟨_, exec_basinRequest_write run ht hs .clean, ?_⟩
  obtain ⟨u, writes, only, line, pair⟩ : ∃ u, (s.taken r q).basinWrite r q .clean = u.gateWrite q ∧ BasinOnly r (s.taken r q) u
      ∧ u.basinFind r q.ctx (q.pa / 128) = (s.basinFind r q.ctx (q.pa / 128)).map (fun l =>
          { l with data := State.mergeInto (q.pa / 128) q.pa l.data q.data })
      ∧ u.pairState q.ctx = s.pairState q.ctx := by
    have open_ := (s.fillOpen_taken r q q.ctx (q.pa / 128)).trans ho
    have apart := State.counters_apart_pair r q.ctx
    have counted := State.rd_count_ne (s.taken r q) 1 (apart 0x80 (by decide))
    cases hf : s.basinFind r q.ctx (q.pa / 128) with
    | none =>
      refine ⟨_, State.basinWrite_miss (s := s.taken r q) hp open_ hh ((s.basinFind_taken ..).trans hf),
        .logged ((s.taken r q).passed_log r q), ?_, State.pairState_congr ((State.rd_passed apart q).trans rfl)⟩
      obtain ⟨a, f, o, hu⟩ := (s.taken r q).passed_log r q
      rw [hu]
      exact (s.basinFind_taken ..).trans hf
    | some l =>
      refine ⟨_, State.basinWrite_hit (s := s.taken r q) hp open_ hh ((s.basinFind_taken ..).trans hf),
        (((BasinOnly.refl ..).count ..).basinHit l).basinMod .., ?_,
        State.pairState_congr ((State.rd_basinHit apart l).trans counted)⟩
      obtain ⟨a, f, o, hu⟩ := State.basinHit_log ((State.LogOnly.refl (s.taken r q)).count (basinP r + 0x80) 1) r l
      refine (State.basinFind_basinMod _ r q.ctx (q.pa / 128) ?_).trans ?_
      · exact fun _ => ⟨rfl, rfl⟩
      · rw [hu, ← hf]
        exact congrArg (Option.map _) (s.basinFind_taken r q ..)
  rw [writes, State.gateWrite_single ?_ hpa]
  · obtain ⟨quays, sent, same, core, frame⟩ := leavesForQuay (s := s) (u := u) (r := r) ((s.taken_frame r q).trans only.frame)
      ⟨only.net.1, only.net.2⟩ only.quays only.core (o := State.lineWrite q) hb
    refine ⟨quays, sent, ?_, same ▸ only.requests.trans (s.taken_requests r q), core, frame⟩
    rw [← line]
    unfold State.basinFind
    rw [same]
  · unfold State.single at hc ⊢
    rw [pair, State.getCtx, only.ctx]
    exact hc

end

/-- A read whose line's fill is outstanding joins it (R126). -/
theorem basinRequest_joins (ho : s.fillOpen r q.ctx (q.pa / 128) = true) (hs : q.store = false) :
    ∃ t, exec (.basinRequest r .clean) s = .next t
      ∧ (∀ o ∈ s.quays, State.isFill r q.ctx (q.pa / 128) o = true → { o with reqs := o.reqs ++ [q] } ∈ t.quays)
      ∧ (t.getRegion r).requests = (s.getRegion r).requests.erase q ∧ (t.getRegion r).basin = (s.getRegion r).basin
      ∧ netSame s t ∧ t.core = s.core ∧ regionFrame r s t := by
  refine ⟨_, exec_basinRequest_read run ht hs .clean, ?_⟩
  rw [State.basinRead_joins (s := s.taken r q) hp ((s.fillOpen_taken ..).trans ho)]
  obtain ⟨a, f, o, hu⟩ := (s.taken r q).passedRead_log r q
  rw [hu]
  generalize hv : (s.taken r q).withLog a f o = u
  have region : u.getRegion r = (s.taken r q).getRegion r := hv ▸ rfl
  have quays : u.quays = s.quays := hv ▸ rfl
  have frame : regionFrame r s u := hv ▸ s.taken_frame r q
  refine ⟨fun o ho hfill => ?_, ?_, ?_, hv ▸ ⟨rfl, rfl⟩, hv ▸ rfl, (frame.joinFill ..).framed⟩
  · show _ ∈ u.quays.map _
    rw [quays]
    exact List.mem_map.2 ⟨o, ho, if_pos hfill⟩
  · rw [State.getRegion_framed, State.joinFill, State.getRegion_modRegion_self]
    exact (congrArg Region.requests region).trans (s.taken_requests r q)
  · rw [State.getRegion_framed, State.joinFill, State.getRegion_modRegion_self]
    exact (congrArg Region.basin region).trans (s.taken_basin r q)

end

/-- A request of an earlier EPOCH is discarded (R325). -/
theorem basinRequest_discards {s : State} {r : Nat} (run : s.regionRuns r) {q : LineReq}
    (hn : s.nextRequest (s.getRegion r).requests = some q)
    (hs : (s.getRegion r).served.1 = s.rcOf r → (s.getRegion r).served.2 < 4) (hf : s.fresh q.ctx q.epoch = false) :
    ∃ t, exec (.basinRequest r .clean) s = .next t ∧ t.rd (ctxP q.ctx + 0xC4) = satAdd (s.rd (ctxP q.ctx + 0xC4)) 1
      ∧ (t.getRegion r).requests = (s.getRegion r).requests.erase q ∧ (t.getRegion r).basin = (s.getRegion r).basin
      ∧ t.quays = s.quays ∧ netSame s t ∧ t.core = s.core ∧ regionFrame r s t := by
  have counted := (BasinOnly.refl r (s.taken r q)).count (ctxP q.ctx + 0xC4) 1
  refine ⟨_, exec_basinRequest run .clean, ?_⟩
  rw [State.basinRequest_eq hn hs, if_pos (by simp [hf])]
  refine ⟨State.rd_count .., ?_, ?_, counted.quays, counted.net, counted.core, ((s.taken_frame r q).trans counted.frame).framed⟩
  · exact counted.requests.trans (s.taken_requests r q)
  · rw [State.getRegion_framed, State.getRegion_count]
    exact s.taken_basin r q

end Sys2Proof.Machine
end

section
/-! PROOF. A fill that completes (R126, R129, R130, R255), and the service of a Basin (O34). -/

namespace Sys2Proof.Machine

namespace State

/-! A fill with one read (R126, R255). -/

/-- The fill has left the queue of the Basin. -/
def fillTaken (s : State) (r : Nat) (more : List (QReq × List Byte)) : State := s.modRegion r fun x => { x with fills := more }

/-- What a fill with the one request `q` leaves in the Basin. -/
def fillKeep (s : State) (r : Nat) (f : QReq) (q : LineReq) (data : List Byte) : State :=
  let c := f.source
  let la := f.pa / 128
  let held := fieldOf (s.rd (regionP r + oSTATUS)) 24 24 = 1 ∧ fieldOf (s.rd (regionP r + oSTATUS)) 28 25 = c
  if ¬ held ∨ (s.pinOnly ∧ ¬ (f.pin || decide (q.hint = 2))) then s
  else
    let s := s.basinPut r c la data
    let s := if f.pin ∧ q.hint ≠ 2 then (s.pinLine r c la).2 else s
    let s := s.hintRead r c la q.hint
    if s.pinOnly ∧ ¬ (s.basinFind r c la).any (·.pinned) then s.basinDrop r c la else s

theorem fillComplete_eq {s : State} {r : Nat} {f : QReq} {data : List Byte} {more : List (QReq × List Byte)} {q : LineReq}
    (hf : (s.getRegion r).fills = (f, data) :: more) (hq : f.reqs = [q]) (hs : q.store = false) :
    s.fillComplete r = ((s.fillTaken r more).answer (.regionSwitch r) (.basin r) q ((data.drop (q.pa % 128)).take q.len)).fillKeep
      r f q data := by
  simp [fillComplete, hf, hq, hs, fillServe, fillKeep, fillTaken]

/-! The line of a fill in the Basin (R129, R130). -/

theorem pinOnly_congr {s t : State} (h : t.rd (modeP + 0x40) = s.rd (modeP + 0x40)) : t.pinOnly = s.pinOnly := by
  unfold pinOnly
  rw [h]

/-- Bytes of a line. -/
def lineBytes (s : State) (r c la : Nat) : Option (List Byte) := (s.basinFind r c la).map (·.data)

theorem lineBytes_basinMod (s : State) (r c la : Nat) {f : BLine → BLine}
    (hf : ∀ l, (f l).ctx = l.ctx ∧ (f l).la = l.la ∧ (f l).data = l.data) :
    (s.basinMod r c la f).lineBytes r c la = s.lineBytes r c la := by
  unfold lineBytes
  rw [basinFind_basinMod s r c la fun l => ⟨(hf l).1, (hf l).2.1⟩]
  cases s.basinFind r c la with
  | none => rfl
  | some l => exact congrArg some (hf l).2.2

theorem lineBytes_congr {s t : State} {r : Nat} (h : (t.getRegion r).basin = (s.getRegion r).basin) (c la : Nat) :
    t.lineBytes r c la = s.lineBytes r c la := by
  unfold lineBytes basinFind
  rw [h]

theorem lineBytes_pinRefused (s : State) (r c la : Nat) : (s.pinRefused r c la).lineBytes r c la = s.lineBytes r c la := by
  refine lineBytes_congr ?_ c la
  simp [pinRefused, planLost]

theorem lineBytes_pinLine (s : State) (r c la : Nat) : (s.pinLine r c la).2.lineBytes r c la = s.lineBytes r c la := by
  unfold pinLine
  split
  · exact lineBytes_pinRefused ..
  · split
    · rfl
    · split
      · refine (lineBytes_congr (s := s.basinMod r c la fun l => { l with pinned := true }) ?_ c la).trans ?_
        · simp [planKept]
        · exact lineBytes_basinMod s r c la fun _ => ⟨rfl, rfl, rfl⟩
      · exact lineBytes_pinRefused ..

theorem rd_pinLine (s : State) (r c la : Nat) {a : Nat} (ha : ∀ o ∈ [0x90, oEVENT], basinP r + o ≠ a) :
    (s.pinLine r c la).2.rd a = s.rd a := by
  have refused : (s.pinRefused r c la).rd a = s.rd a := by
    show ((s.count (basinP r + 0x90) 1).event (basinP r) 0).rd a = s.rd a
    rw [rd_event_ne _ _ (ha _ (by simp)), rd_count_ne _ _ (ha _ (by simp))]
  unfold pinLine
  split
  · exact refused
  · split
    · rfl
    · split
      · rfl
      · exact refused

theorem rd_basinPut (s : State) (r c la : Nat) (data : List Byte) (a : Nat) : (s.basinPut r c la data).rd a = s.rd a := by
  unfold basinPut
  split
  · rfl
  · dsimp only
    split
    · rfl
    · rfl

/-- A field of one bit. -/
theorem fieldOf_bit {w : Nat} (v : BitVec w) (i : Nat) : fieldOf v i i = 1 ↔ bitOf v i = true := by
  have one : i + 1 - i = 1 := by omega
  rw [fieldOf, bitOf, ← BitVec.testBit_toNat, Nat.testBit_eq_decide_div_mod_eq, Nat.shiftRight_eq_div_pow, one]
  simp

/-- A line that is allocated holds its bytes (R129). -/
theorem lineBytes_basinPut {s : State} {r c la : Nat} (hf : s.basinFind r c la = none) (hv : (s.victim r (s.setOf la)).isSome)
    (data : List Byte) : (s.basinPut r c la data).lineBytes r c la = some data := by
  obtain ⟨w, hw⟩ := Option.isSome_iff_exists.1 hv
  unfold basinPut
  rw [hf]
  dsimp only
  rw [hw]
  dsimp only
  unfold lineBytes basinFind
  rw [getRegion_modRegion_self, List.find?_append]
  have absent : (((s.getRegion r).basin.filter fun l => ¬ (l.set = s.setOf la ∧ l.way = w)).find? fun l =>
      decide (l.ctx = c) && decide (l.la = la)) = none := by
    unfold basinFind at hf
    rw [List.find?_eq_none] at hf ⊢
    exact fun l hl => hf l (List.mem_filter.1 hl).1
  rw [absent]
  simp

/-- The Basin holds the line of a fill for the context of its region (R126, R129). -/
theorem lineBytes_fillKeep {s : State} {r : Nat} {f : QReq} {q : LineReq} (hr : s.regionCtx r = some f.source)
    (hp : s.pinOnly = false) (hh : q.hint = 0) (hf : s.basinFind r f.source (f.pa / 128) = none)
    (hv : (s.victim r (s.setOf (f.pa / 128))).isSome) (data : List Byte) :
    (s.fillKeep r f q data).lineBytes r f.source (f.pa / 128) = some data := by
  have held : fieldOf (s.rd (regionP r + oSTATUS)) 24 24 = 1 ∧ fieldOf (s.rd (regionP r + oSTATUS)) 28 25 = f.source := by
    unfold regionCtx at hr
    split at hr
    · next h => exact ⟨(fieldOf_bit _ _).2 h, Option.some.inj hr⟩
    · cases hr
  have apart : ∀ o ∈ [0x90, oEVENT], basinP r + o ≠ modeP + 0x40 := fun o ho =>
    offset_apart (basinP_aligned r) rfl (by revert o; decide) (by decide) (by revert o; decide)
  unfold fillKeep
  extract_lets c la held' u1 u2 u3
  have put : u1.lineBytes r c la = some data := lineBytes_basinPut hf hv data
  have pinned : u2.lineBytes r c la = some data ∧ u2.rd (modeP + 0x40) = s.rd (modeP + 0x40) := by
    have mode : u1.rd (modeP + 0x40) = s.rd (modeP + 0x40) := rd_basinPut ..
    unfold u2
    split
    · exact ⟨(lineBytes_pinLine ..).trans put, (rd_pinLine u1 r c la apart).trans mode⟩
    · exact ⟨put, mode⟩
  have aged : u3.lineBytes r c la = some data := by
    unfold u3
    rw [hh]
    exact (lineBytes_basinMod u2 r c la (f := fun l => { l with age := u2.youngest r }) fun _ => ⟨rfl, rfl, rfl⟩).trans pinned.1
  have mode : u3.pinOnly = false := by
    rw [← hp]
    unfold u3
    rw [hh]
    exact pinOnly_congr pinned.2
  rw [if_neg, if_neg]
  · exact aged
  · simp [mode]
  · rintro (h | h)
    · exact h held
    · exact Bool.false_ne_true (hp.symm.trans h.1)

theorem fillKeep_only (s : State) (r : Nat) (f : QReq) (q : LineReq) (data : List Byte) : BasinOnly r s (s.fillKeep r f q data) := by
  unfold fillKeep
  extract_lets c la held u1 u2 u3
  have put : BasinOnly r s u1 := (BasinOnly.refl r s).basinPut ..
  have pinned : BasinOnly r s u2 := (put.pinLine ..).ite put
  have aged : BasinOnly r s u3 := pinned.hintRead ..
  exact (BasinOnly.refl r s).ite ((aged.basinDrop ..).ite aged)

end State

/-- A fill that completes hands its bytes to its reader past the Basin's return port, and the line is in the Basin. -/
theorem basinFillComplete_hands {s : State} {r : Nat} (run : s.regionRuns r) {f : QReq} {data : List Byte}
    {more : List (QReq × List Byte)} {q : LineReq} (hf : (s.getRegion r).fills = (f, data) :: more) (hq : f.reqs = [q])
    (hs : q.store = false) :
    ∃ t, exec (.basinFillComplete r) s = .next t
      ∧ sendsAt (.regionSwitch r) (.data { q with data := (data.drop (q.pa % 128)).take q.len }) (.basin r) (.mem q.core) 3
          (State.flitsOf ((data.drop (q.pa % 128)).take q.len).length) 0 s t
      ∧ (t.getRegion r).fills = more ∧ t.quays = s.quays ∧ t.core = s.core ∧ regionFrame r s t
      ∧ (s.regionCtx r = some f.source → s.pinOnly = false → q.hint = 0 → s.basinFind r f.source (f.pa / 128) = none →
          (s.victim r (s.setOf (f.pa / 128))).isSome → (t.basinFind r f.source (f.pa / 128)).map (·.data) = some data) := by
  refine ⟨_, exec_basinFillComplete run, ?_⟩
  rw [State.fillComplete_eq hf hq hs]
  have parts := (s.fillTaken r more).answer_partsSame (.regionSwitch r) (.basin r) q ((data.drop (q.pa % 128)).take q.len) 0
  have quays := (s.fillTaken r more).answer_quays (.regionSwitch r) (.basin r) q ((data.drop (q.pa % 128)).take q.len) 0
  have reg := (s.fillTaken r more).answer_reg (.regionSwitch r) (.basin r) q ((data.drop (q.pa % 128)).take q.len) 0
  have frame : regionFrame r s (s.fillTaken r more) := (regionFrame.refl r s).modRegion _
  have sent : ∀ t, netSame _ t → _ := fun t => sendsAt_answer (t := t) (ready := 0) (n := .regionSwitch r) (src := .basin r)
    (data := (data.drop (q.pa % 128)).take q.len) frame ⟨rfl, rfl⟩ hs
  generalize (s.fillTaken r more).answer (.regionSwitch r) (.basin r) q ((data.drop (q.pa % 128)).take q.len) = u
    at parts quays reg sent
  have kept := u.fillKeep_only r f q data
  have region : u.getRegion r = { s.getRegion r with fills := more } := by
    rw [State.getRegion, parts.2.1]
    exact State.getRegion_modRegion_self ..
  refine ⟨sent _ kept.net, ?_, (kept.quays.trans quays), (kept.core.trans parts.1),
    ((frame.trans (parts.regionFrame r)).trans kept.frame).framed, fun hr hp hh hnone hv => ?_⟩
  · rw [State.getRegion_framed, kept.fills, region]
  · have same : ∀ a, u.rd a = s.rd a := fun a => by
      unfold State.rd
      rw [reg]
      rfl
    refine State.lineBytes_fillKeep ?_ ((State.pinOnly_congr (same _)).trans hp) hh ?_ ?_ data
    · unfold State.regionCtx State.regionHeld at hr ⊢
      rw [same]
      exact hr
    · unfold State.basinFind at hnone ⊢
      rw [region]
      exact hnone
    · unfold State.victim State.ctxWays State.wayUse State.setOf at hv ⊢
      obtain ⟨-, -, -, -, -, -, -, -, build, -⟩ := parts
      rw [region, build]
      simp only [same]
      exact hv

/-- Settles O34: each request by what the Basin finds, and a fill by the line that it leaves. -/
theorem basinServesItsRequests : Obligations.BasinServesItsRequests := by
  unfold Obligations.BasinServesItsRequests
  intro r s q run la rest plain single
  refine ⟨?_, ?_, ?_, ?_, ?_, ?_, ?_⟩
  · rintro ⟨ht, hp, ho⟩ hh hs l hf
    exact basinRequest_hits run ht hp ho hh hs hf
  · rintro ⟨ht, hp, ho⟩ hh hs hf - hb
    exact basinRequest_misses run ht hp ho hh hs hf hb
  · exact fun ht hp ho hs => basinRequest_joins run ht hp ho hs
  · rintro ⟨ht, hp, ho⟩ hh hs hc hpa hb
    exact basinRequest_writes run ht hp ho hh hs hc hpa hb
  · exact fun hn room hf => basinRequest_discards run hn room hf
  · intro full
    rw [exec_basinRequest run, State.basinRequest_full full, State.framed_self]
  · exact fun f data more hf hq hs => basinFillComplete_hands run hf hq hs

end Sys2Proof.Machine
end

section
/-! PROOF. The range operations of a Basin and the change of a way's use (R127, R128, R129, R472) (O35). -/

namespace Sys2Proof.Machine

/-- A STATUS of a range operation in progress that can count `n` lines more. -/
def RangeBusy (v : Word) (n : Nat) : Prop := 2 ^ 31 ≤ v.toNat ∧ v.toNat % 2 ^ 24 + n < 2 ^ 24

theorem RangeBusy.bit {v : Word} {n : Nat} (h : RangeBusy v n) : bitOf v 31 = true := by
  obtain ⟨high, -⟩ := h
  have := v.isLt
  rw [bitOf, ← BitVec.testBit_toNat, Nat.testBit_eq_decide_div_mod_eq, decide_eq_true_eq]
  omega

theorem RangeBusy.next {v : Word} {n : Nat} (h : RangeBusy v (n + 1)) : RangeBusy (v + 1) n := by
  obtain ⟨high, low⟩ := h
  have := v.isLt
  have sum : (v + 1).toNat = v.toNat + 1 := by
    rw [BitVec.toNat_add]
    exact Nat.mod_eq_of_lt (show v.toNat + 1 < 2 ^ 32 by omega)
  unfold RangeBusy
  rw [sum]
  omega

theorem RangeBusy.mono {v : Word} {n m : Nat} (h : RangeBusy v n) (hm : m ≤ n) : RangeBusy v m := ⟨h.1, by have := h.2; omega⟩

/-- A flag above the count and below BUSY. -/
theorem RangeBusy.flag {v : Word} {n i : Nat} (h : RangeBusy v n) (hi : i = 29 ∨ i = 30) : RangeBusy (v ||| word (2 ^ i)) n := by
  obtain ⟨high, low⟩ := h
  have low' : (word (2 ^ i)).toNat % 2 ^ 24 = 0 := by
    obtain rfl | rfl := hi
    · rfl
    · rfl
  refine ⟨?_, ?_⟩
  · rw [BitVec.toNat_or]
    exact high.trans Nat.left_le_or
  · rw [BitVec.toNat_or, Nat.or_mod_two_pow, low', Nat.or_zero]
    exact low

/-- BUSY set and the count cleared, as a range operation starts (R472). -/
theorem RangeBusy.start (v : Word) {n : Nat} (hn : n < 2 ^ 24) : RangeBusy (setField (setField v 31 31 1) 23 0 0) n := by
  have busy : fieldOf (setField (setField v 31 31 1) 23 0 0) 31 31 = 1 := by
    rw [fieldOf_setField_apart _ _ (by decide) (.inr (by decide)), fieldOf_setField _ _ (by decide)]
    rfl
  have count : fieldOf (setField (setField v 31 31 1) 23 0 0) 23 0 = 0 := by
    rw [fieldOf_setField _ _ (by decide)]
    rfl
  generalize setField (setField v 31 31 1) 23 0 0 = u at busy count
  have := u.isLt
  simp only [fieldOf, Nat.shiftRight_eq_div_pow] at busy count
  unfold RangeBusy
  omega

theorem partsSame.getRegion {s t : State} (h : partsSame s t) (r : Nat) : t.getRegion r = s.getRegion r := by
  unfold State.getRegion
  rw [h.2.1]

namespace State

/-! What the lines of a range change (R129, R472). -/

/-- Region `r` and no word but the count of refused pins and EVENT of its page may differ. -/
structure RangeKeeps (r : Nat) (s t : State) : Prop where
  frame : regionFrame r s t
  regs : ∀ a, (∀ o ∈ [0x90, oEVENT], basinP r + o ≠ a) → t.rd a = s.rd a

theorem RangeKeeps.trans {r : Nat} {s t u : State} (h : RangeKeeps r s t) (h' : RangeKeeps r t u) : RangeKeeps r s u :=
  ⟨h.frame.trans h'.frame, fun a ha => (h'.regs a ha).trans (h.regs a ha)⟩

theorem translate_keeps (s : State) (r c va : Nat) (write : Bool) : RangeKeeps r s (s.translate c va write).2 := by
  have same : RangeKeeps r s s := ⟨.refl r s, fun _ _ => rfl⟩
  unfold translate
  split
  · exact same
  · split
    · split
      · exact same
      · exact same
    · split
      · exact ⟨⟨fun _ _ => rfl, rfl, rfl, rfl, rfl, rfl⟩, fun _ _ => rfl⟩
      · exact same

theorem rangeLine_keeps (s : State) (r c op pa : Nat) : RangeKeeps r s (s.rangeLine r c op pa).2 := by
  have lines : BasinOnly r s (if (s.basinFind r c (pa / 128)).isSome then s
      else s.basinPut r c (pa / 128) (s.lineNow r c (pa / 128))) := (BasinOnly.refl r s).ite ((BasinOnly.refl r s).basinPut ..)
  unfold rangeLine
  dsimp only
  split
  · refine ⟨(lines.pinLine ..).frame, fun a ha => (rd_pinLine _ r c (pa / 128) ha).trans ?_⟩
    split
    · rfl
    · exact rd_basinPut ..
  · split
    · have unpinned : BasinOnly r s ((s.basinMod r c (pa / 128) fun l => { l with pinned := false }).planKept r c (pa / 128)) :=
        ((BasinOnly.refl r s).basinMod ..).planKept ..
      refine ⟨((unpinned.basinDrop ..).ite (unpinned.newest ..)).frame, fun a _ => ?_⟩
      split <;> rfl
    · exact ⟨(((regionFrame.refl r s).joinFill ..).modRegion _).modRegion _, fun _ _ => rfl⟩

/-- An EVICT leaves the Basin without the line. -/
theorem evict_gone (s : State) (r c pa : Nat) :
    ∀ l ∈ ((s.rangeLine r c 3 pa).2.getRegion r).basin, ¬(l.ctx = c ∧ l.la = pa / 128) := by
  intro l hl
  simp only [rangeLine, OfNat.ofNat_ne_one, Nat.reduceEqDiff, if_false, planKept, basinDrop, getRegion_modRegion_self,
    List.mem_filter, decide_eq_true_eq] at hl
  exact hl.2

/-- A step of a range operation: CTRL stays, and a STATUS that can count `n` lines more is one that can count `m`. -/
structure RangeStep (r n m : Nat) (s t : State) : Prop where
  frame : regionFrame r s t
  ctrl : t.rd (basinP r + oCTRL) = s.rd (basinP r + oCTRL)
  busy : RangeBusy (s.rd (basinP r + oSTATUS)) n → RangeBusy (t.rd (basinP r + oSTATUS)) m

theorem RangeStep.trans {r n m l : Nat} {s t u : State} (h : RangeStep r n m s t) (h' : RangeStep r m l t u) :
    RangeStep r n l s u :=
  ⟨h.frame.trans h'.frame, h'.ctrl.trans h.ctrl, h'.busy ∘ h.busy⟩

theorem RangeKeeps.step {r : Nat} {s t : State} (h : RangeKeeps r s t) (n : Nat) : RangeStep r n n s t := by
  have status := h.regs (basinP r + oSTATUS) (by simp [oEVENT, oSTATUS])
  exact ⟨h.frame, h.regs _ (by simp [oEVENT, oCTRL]), fun hb => status ▸ hb⟩

theorem rangeStep_count (s : State) (r n : Nat) :
    RangeStep r (n + 1) n s (s.wr (basinP r + oSTATUS) (s.rd (basinP r + oSTATUS) + 1)) :=
  ⟨⟨fun _ _ => rfl, rfl, rfl, rfl, rfl, rfl⟩, rd_wr_ne s _ (by simp [oSTATUS, oCTRL]), fun h => by
    rw [rd_wr_self]
    exact h.next⟩

theorem rangeStep_flag (s : State) (r n : Nat) {i : Nat} (hi : i = 29 ∨ i = 30) :
    RangeStep r n n s (s.orBits (basinP r + oSTATUS) (word (2 ^ i))) :=
  ⟨⟨fun _ _ => rfl, rfl, rfl, rfl, rfl, rfl⟩, rd_orBits_ne s _ (by simp [oSTATUS, oCTRL]), fun h => by
    rw [rd_orBits_self]
    exact h.flag hi⟩

/-- The lines of a range leave CTRL as it is and BUSY set. -/
theorem rangeRun_step (r c op n va : Nat) (s : State) : RangeStep r n 0 s (s.rangeRun r c op n va) := by
  induction n generalizing s va with
  | zero => exact ⟨.refl r s, rfl, id⟩
  | succ n ih =>
    have stops : ∀ {u : State}, RangeStep r (n + 1) (n + 1) s u →
        RangeStep r (n + 1) 0 s (u.orBits (basinP r + oSTATUS) (word (2 ^ 29))) := fun h =>
      ⟨(h.trans (rangeStep_flag _ r _ (.inl rfl))).frame, (h.trans (rangeStep_flag _ r _ (.inl rfl))).ctrl,
        fun hb => ((h.trans (rangeStep_flag _ r _ (.inl rfl))).busy hb).mono (Nat.zero_le _)⟩
    have looked := (translate_keeps s r c va false).step (n + 1)
    unfold rangeRun
    generalize s.translate c va false = look at looked
    obtain ⟨tr, u⟩ := look
    cases tr with
    | absent => exact stops looked
    | refused code => exact stops looked
    | ok pa =>
      dsimp only at looked ⊢
      split
      · have line := (rangeLine_keeps u r c op pa).step (n + 1)
        generalize u.rangeLine r c op pa = acted at line
        obtain ⟨refused, v⟩ := acted
        have counted := (looked.trans line).trans (rangeStep_count v r n)
        dsimp only at counted ⊢
        split
        · exact (counted.trans (rangeStep_flag _ r n (.inr rfl))).trans (ih ..)
        · exact counted.trans (ih ..)
      · exact stops looked

/-- A range operation of one line. -/
theorem rangeRun_one {s u : State} {r c op va pa : Nat} (ht : s.translate c va false = (.ok pa, u))
    (hb : u.behindQuay pa = true) :
    (s.rangeRun r c op 1 va).region = (u.rangeLine r c op pa).2.region := by
  unfold rangeRun
  rw [ht]
  dsimp only
  rw [if_pos hb]
  unfold rangeRun
  split <;> rfl

end State


/-- The commands of a range operation write BRANGE_CTRL. -/
theorem exec_range {p : Party} {r op : Nat} {i : Instr} {s : State} (hr : r < 16) (ha : s.admits p (basinP r + oCTRL))
    (hi : (i, op) ∈ [(Instr.brangePin p r, 1), (.brangeUnpin p r, 2), (.brangeEvict p r, 3)]) :
    op ≠ 0 ∧ exec i s = .next (s.framed (s.answered (basinP r) (State.wrRange r op s))) := by
  have page : (basinP r + oCTRL) / 0x1000 * 0x1000 = basinP r := by unfold basinP oCTRL; omega
  have awake := State.awake_of_answers ha.2.1 (by simp [pageOf_basinP (o := oCTRL) (by decide) hr])
  have write : actAt (decide (r < 16)) (fun s => s.write p (basinP r + oCTRL) (State.wrRange r op)) s
      = .next (s.framed (s.answered (basinP r) (State.wrRange r op s))) := by
    rw [decide_eq_true hr, actAt_present, act_awake awake, State.write_admitted ha, page]
  simp only [List.mem_cons, Prod.mk.injEq, List.not_mem_nil, or_false] at hi
  obtain ⟨rfl, rfl⟩ | ⟨rfl, rfl⟩ | ⟨rfl, rfl⟩ := hi
  · exact ⟨by decide, write⟩
  · exact ⟨by decide, write⟩
  · exact ⟨by decide, write⟩


/-- The Basin with OP and BUSY set. -/
def State.rangeStarted (s : State) (r op : Nat) : State :=
  (s.wr (basinP r + oCTRL) (word op)).wr (basinP r + oSTATUS)
    (setField (setField (s.rd (basinP r + oSTATUS)) 31 31 1) 23 0 0)

/-- The start changes no word but of a STATUS and a CTRL. -/
theorem State.rd_rangeStarted (s : State) (r op : Nat) {p o : Nat} (hp : p % 0x1000 = 0) (ho : o < 0x1000)
    (hn : o ∉ [oSTATUS, oCTRL]) : (s.rangeStarted r op).rd (p + o) = s.rd (p + o) := by
  have apart : ∀ x ∈ [oSTATUS, oCTRL], basinP r + x ≠ p + o := fun x hx =>
    State.offset_apart (State.basinP_aligned r) hp (by revert x; decide) ho (fun h => hn (h ▸ hx))
  rw [State.rangeStarted, State.rd_wr_ne _ _ (apart _ (by simp)), State.rd_wr_ne _ _ (apart _ (by simp))]

theorem State.rd64_rangeStarted (s : State) (r op : Nat) {p o : Nat} (hp : p % 0x1000 = 0) (ho : o + 4 < 0x1000)
    (hn : o ∉ [oSTATUS, oCTRL]) (hn' : o + 4 ∉ [oSTATUS, oCTRL]) :
    (s.rangeStarted r op).rd64 (p + o) = s.rd64 (p + o) := by
  unfold State.rd64
  rw [s.rd_rangeStarted r op hp (by omega) hn, Nat.add_assoc, s.rd_rangeStarted r op hp ho hn']

/-- A translation depends on the context, its tables in device memory and what it may reach (R300). -/
theorem State.translate_congr {s t : State} (hc : t.ctx = s.ctx) (hm : t.devMem = s.devMem) (hv : t.carve = s.carve)
    (hy : t.rd (convoyP + 0x40) = s.rd (convoyP + 0x40)) {c : Nat} (hr : t.rd64 (ctxP c + 0x50) = s.rd64 (ctxP c + 0x50)) (va : Nat) (write : Bool) :
    (t.translate c va write).1 = (s.translate c va write).1 := by
  have reach : ∀ pa, t.checkPa c pa = s.checkPa c pa := fun pa => by
    unfold State.checkPa State.convoyCtx
    rw [hv, hy]
  unfold State.translate State.getCtx
  rw [hc, hm, hr]
  simp only [reach]
  split
  · rfl
  · split
    · split <;> rfl
    · split <;> rfl

section
variable {s : State} {r op : Nat}

theorem State.wrRange_starts (ho : op ≠ 0) (hb : bitOf (s.rd (basinP r + oSTATUS)) 31 = false) {c : Nat}
    (hc : s.regionCtx r = some c) : State.wrRange r op s = some ((s.rangeStarted r op).rangeRun r c op
      (fieldOf (s.rd (basinP r + 0x4C)) 23 0) (s.rd64 (basinP r + 0x44) / 128 * 128)) := by
  have size := s.rd_rangeStarted r op (State.basinP_aligned r) (o := 0x4C) (by decide) (by decide)
  have va := s.rd64_rangeStarted r op (State.basinP_aligned r) (o := 0x44) (by decide) (by decide) (by decide)
  unfold State.wrRange
  dsimp only
  rw [if_neg ho, if_neg (by simp [hb]), hc, ← size, ← va]
  rfl

theorem State.wrRange_refused (ho : op ≠ 0) (h : bitOf (s.rd (basinP r + oSTATUS)) 31 = true ∨ s.regionCtx r = none) :
    State.wrRange r op s = none := by
  unfold State.wrRange
  dsimp only
  rw [if_neg ho]
  split
  · rfl
  · next hb => rw [h.resolve_left hb]

end

section
variable {p : Party} {r op : Nat} {i : Instr} {s : State} (hr : r < 16) (ha : s.admits p (basinP r + oCTRL))
  (hi : (i, op) ∈ [(Instr.brangePin p r, 1), (.brangeUnpin p r, 2), (.brangeEvict p r, 3)])
include hr ha hi

/-- A range operation of a held region starts (R472), and an EVICT of one line takes it (R129). -/
theorem range_starts {c : Nat} (hb : bitOf (s.rd (basinP r + oSTATUS)) 31 = false) (hc : s.regionCtx r = some c) :
    ∃ t, exec i s = .next t ∧ t.rd (basinP r + oCTRL) = word op ∧ bitOf (t.rd (basinP r + oSTATUS)) 31 = true
      ∧ (∀ pa, op = 3 → fieldOf (s.rd (basinP r + 0x4C)) 23 0 = 1 → s.behindQuay pa = true →
          (s.translate c (s.rd64 (basinP r + 0x44) / 128 * 128) false).1 = .ok pa →
          ∀ l ∈ (t.getRegion r).basin, ¬(l.ctx = c ∧ l.la = pa / 128))
      ∧ regionFrame r s t := by
  obtain ⟨ho, run⟩ := exec_range hr ha hi
  have size : fieldOf (s.rd (basinP r + 0x4C)) 23 0 < 2 ^ 24 := Nat.mod_lt _ (by decide)
  have step := State.rangeRun_step r c op (fieldOf (s.rd (basinP r + 0x4C)) 23 0) (s.rd64 (basinP r + 0x44) / 128 * 128)
    (s.rangeStarted r op)
  have started : regionFrame r s (s.rangeStarted r op) := ⟨fun _ _ => rfl, rfl, rfl, rfl, rfl, rfl⟩
  have busy := step.busy (by
    rw [State.rangeStarted, State.rd_wr_self]
    exact RangeBusy.start _ size)
  refine ⟨_, run, ?_⟩
  rw [State.wrRange_starts ho hb hc, State.answered_some]
  refine ⟨?_, ?_, fun pa hop hone hpa htr => ?_, ((started.trans step.frame).trans
    ((State.accept_log ..).partsSame.regionFrame r)).framed⟩
  · rw [State.rd_framed, State.rd_accept_ne _ (by simp [oSEQ, oCTRL]), step.ctrl, State.rangeStarted,
      State.rd_wr_ne _ _ (by simp [oSTATUS, oCTRL]), State.rd_wr_self]
  · rw [State.rd_framed, State.rd_accept_ne _ (by simp [oSEQ, oSTATUS])]
    exact busy.bit
  · have tr := (State.translate_congr (s := s) (t := s.rangeStarted r op) rfl rfl rfl
      (s.rd_rangeStarted r op (p := convoyP) rfl (by decide) (by decide))
      (s.rd64_rangeStarted r op (ctxP_aligned c) (o := 0x50) (by decide) (by decide) (by decide))
      (s.rd64 (basinP r + 0x44) / 128 * 128) false).trans htr
    have looked := (State.translate_keeps (s.rangeStarted r op) r c (s.rd64 (basinP r + 0x44) / 128 * 128) false).frame
    generalize hl : (s.rangeStarted r op).translate c (s.rd64 (basinP r + 0x44) / 128 * 128) false = look at tr looked
    obtain ⟨x, u⟩ := look
    obtain rfl : x = .ok pa := tr
    obtain ⟨-, -, -, -, build, -⟩ := looked
    have behind : u.behindQuay pa = true := (State.behindQuay_congr (build.trans rfl) pa).trans hpa
    rw [hone, hop, State.getRegion_framed]
    unfold State.getRegion
    rw [(State.accept_log ..).partsSame.2.1, State.rangeRun_one (hop ▸ hl) behind]
    exact State.evict_gone u r c pa

theorem range_refused (h : bitOf (s.rd (basinP r + oSTATUS)) 31 = true ∨ s.regionCtx r = none) :
    ∃ t, exec i s = .next t ∧ t.faultCode (basinP r) = 0x600 ∧ t.rd (basinP r + oCTRL) = s.rd (basinP r + oCTRL)
      ∧ t.region = s.region ∧ outsideSame s t := by
  obtain ⟨ho, run⟩ := exec_range hr ha hi
  have page : ∀ a < 0x1000, (basinP r + a) / 0x1000 ≠ 5 := fun a _ => by unfold basinP; omega
  obtain ⟨-, region, -, -, -, dev, host, -⟩ := (State.raise_log s (basinP r) 0x600 0 none 0).partsSame
  refine ⟨_, run, ?_⟩
  rw [State.wrRange_refused ho h, State.answered_none]
  refine ⟨?_, ?_, region, dev, host, rfl, rfl, rfl⟩
  · exact (State.faultCode_framed ..).trans (State.faultCode_raise _ _ _ _ _ _ (page _ (by decide)))
  · exact State.rd_raise_ne _ _ _ _ _ _ (page _ (by decide)) (by simp [oFCODE, oCTRL]) (by simp [oFINFO, oCTRL])
      (by simp [oEVENT, oCTRL])

end

/-! The end of a range operation, and a change of a way's use (R127, R128, R472). -/

section
variable {s : State} {r : Nat} (run : s.regionRuns r)
include run

theorem exec_rangeDone : exec (.rangeDone r) s = .next (s.framed (s.rangeDone r)) := by
  obtain ⟨hr, ha, hc⟩ := run
  exact actRegion_running (by simp [hr]) ha hc

theorem exec_wayUseChange : exec (.wayUseChange r) s = .next (s.framed (s.wayUseChange r)) := by
  obtain ⟨hr, ha, hc⟩ := run
  exact actRegion_running (by simp [hr]) ha hc

theorem rangeDone_ends (hb : bitOf (s.rd (basinP r + oSTATUS)) 31 = true) :
    ∃ t, exec (.rangeDone r) s = .next t ∧ t.rd (basinP r + oCTRL) = 0 ∧ bitOf (t.rd (basinP r + oSTATUS)) 31 = false
      ∧ bitOf (t.rd (basinP r + oEVENT)) 2 = true ∧ t.region = s.region ∧ outsideSame s t := by
  refine ⟨_, exec_rangeDone run, ?_⟩
  rw [State.rangeDone, if_pos hb]
  refine ⟨?_, ?_, ?_, rfl, rfl, rfl, rfl, rfl, rfl⟩
  · rw [State.rd_framed, State.rd_event_ne _ _ (by simp [oEVENT, oCTRL]), State.rd_wrField_ne _ _ _ _ (by simp [oSTATUS, oCTRL]),
      State.rd_wr_self]
  · rw [State.rd_framed, State.rd_event_ne _ _ (by simp [oEVENT, oSTATUS]), State.rd_wrField_self, ← Bool.not_eq_true,
      ← State.fieldOf_bit, fieldOf_setField _ _ (by decide)]
    decide
  · rw [State.rd_framed, State.rd_event_self]
    simp [bitOf, word]

end

namespace State

/-- The new uses of ways written into WAY_USE (R128). -/
def putUses (r : Nat) (l : Tab Nat) (s : State) : State :=
  l.foldl (fun s e => s.wrField (basinP r + 0x40) (2 * e.1 + 1) (2 * e.1) e.2) s

theorem putUses_log (r : Nat) (l : Tab Nat) (s : State) : LogOnly s (putUses r l s) :=
  List.foldlRecOn l _ (LogOnly.refl s) fun _ h _ _ => h.wr _ _

/-- Each way named once has its new use, every other the one it had. -/
theorem wayUse_putUses (r : Nat) (l : Tab Nat) (s : State) (hl : ∀ e ∈ l, e.1 < 16) (hn : (l.map (·.1)).Nodup) {w : Nat}
    (hw : w < 16) : (putUses r l s).wayUse r w = match l.find? fun e => e.1 = w with
      | some e => e.2 % 4
      | none => s.wayUse r w := by
  induction l generalizing s with
  | nil => rfl
  | cons e l ih =>
    obtain ⟨he, hl⟩ := List.forall_mem_cons.1 hl
    obtain ⟨hne, hn⟩ := List.nodup_cons.1 hn
    show (putUses r l (s.wrField (basinP r + 0x40) (2 * e.1 + 1) (2 * e.1) e.2)).wayUse r w = _
    rw [ih _ hl hn]
    by_cases h : e.1 = w
    · have rest : (l.find? fun e => e.1 = w) = none := by
        rw [List.find?_eq_none]
        exact fun x hx hw => hne (List.mem_map.2 ⟨x, hx, (of_decide_eq_true hw).trans h.symm⟩)
      rw [rest, List.find?_cons_of_pos (by simp [h])]
      have wide : 2 * w + 1 + 1 - 2 * w = 2 := by omega
      simp only [wayUse, h, rd_wrField_self, fieldOf_setField _ _ (show 2 * w + 1 < 32 by omega), wide]
      rfl
    · have same : (s.wrField (basinP r + 0x40) (2 * e.1 + 1) (2 * e.1) e.2).wayUse r w = s.wayUse r w := by
        rw [wayUse, rd_wrField_self, fieldOf_setField_apart _ _ (by omega) (by omega)]
        rfl
      rw [List.find?_cons_of_neg (by simp [h]), same]

/-- What keeps a way from its new use: a fill of the Basin that is outstanding (R128). -/
def fillsBusy (s : State) (r : Nat) : Bool :=
  (s.quays.any fun q => q.alloc && q.region = r) || !(s.getRegion r).fills.isEmpty

theorem wayUseChange_busy {s : State} {r : Nat} (h : s.fillsBusy r = true) : s.wayUseChange r = s := by
  unfold fillsBusy at h
  unfold wayUseChange
  rw [Bool.or_eq_true, Bool.not_eq_true'] at h
  exact if_pos (.inr (h.imp id fun h => by simp [h]))

/-- The lines of ways that change their use go (R128). -/
def waysLeft (s : State) (r : Nat) : State := s.modRegion r fun x =>
  { x with wayTo := [], basin := x.basin.filter fun b => !((s.getRegion r).wayTo.any fun e => e.1 = b.way) }

theorem wayUseChange_free {s : State} {r : Nat} (h : s.fillsBusy r = false) : s.wayUseChange r =
    if (s.getRegion r).wayTo.isEmpty then s else putUses r (s.getRegion r).wayTo (s.waysLeft r) := by
  unfold fillsBusy at h
  unfold wayUseChange
  rw [Bool.or_eq_false_iff, Bool.not_eq_false'] at h
  obtain ⟨hq, hf⟩ := h
  simp only [hq, hf, Bool.false_eq_true, not_true_eq_false, or_false]
  rfl

end State

theorem wayUseChange_applies {s : State} {r : Nat} (run : s.regionRuns r) (hb : s.fillsBusy r = false)
    (hl : ∀ e ∈ (s.getRegion r).wayTo, e.1 < 16) (hn : ((s.getRegion r).wayTo.map (·.1)).Nodup) :
    ∃ t, exec (.wayUseChange r) s = .next t ∧ (t.getRegion r).wayTo = []
      ∧ (t.getRegion r).basin = (s.getRegion r).basin.filter (fun b => !((s.getRegion r).wayTo.any fun e => e.1 = b.way))
      ∧ (∀ w < 16, t.wayUse r w = (match (s.getRegion r).wayTo.find? fun e => e.1 = w with
          | some e => e.2 % 4
          | none => s.wayUse r w))
      ∧ t.core = s.core ∧ regionFrame r s t := by
  refine ⟨_, exec_wayUseChange run, ?_⟩
  rw [State.wayUseChange_free hb]
  split
  · next none =>
    rw [List.isEmpty_iff] at none
    rw [none]
    refine ⟨none, ?_, fun w _ => rfl, rfl, (regionFrame.refl r s).framed⟩
    exact (List.filter_eq_self.2 fun _ _ => rfl).symm
  · have written := (State.putUses_log r (s.getRegion r).wayTo (s.waysLeft r)).partsSame
    have region : (State.putUses r (s.getRegion r).wayTo (s.waysLeft r)).getRegion r = (s.waysLeft r).getRegion r :=
      written.getRegion r
    have left : regionFrame r s (s.waysLeft r) := (regionFrame.refl r s).modRegion _
    refine ⟨?_, ?_, fun w hw => ?_, written.1, (left.trans (written.regionFrame r)).framed⟩
    · rw [State.getRegion_framed, region, State.waysLeft, State.getRegion_modRegion_self]
    · rw [State.getRegion_framed, region, State.waysLeft, State.getRegion_modRegion_self]
    · exact State.wayUse_putUses r _ (s.waysLeft r) hl hn hw

/-- Settles O35: a range operation by its lines, and a change of use by the ways that it names. -/
theorem rangeOperationsAndWayUse : Obligations.RangeOperationsAndWayUse := by
  unfold Obligations.RangeOperationsAndWayUse
  refine ⟨fun p r op i s hr ha hi => ⟨fun c hb hc => range_starts hr ha hi hb hc, range_refused hr ha hi⟩,
    fun r s run => ⟨rangeDone_ends run, fun busy => ?_, fun free hl hn => wayUseChange_applies run free hl hn⟩⟩
  rw [exec_wayUseChange run, State.wayUseChange_busy busy, State.framed_self]

end Sys2Proof.Machine
end

section
/-! PROOF. Commits at a tide: ARM, CANCEL, the effect at the stamp, and a deferred plane switch (R118, R119, R190 to R194, R285)
(O37). -/

namespace Sys2Proof.Machine

/-! Bits of COMMIT. -/

theorem bitOf_or {w : Nat} (u v : BitVec w) (i : Nat) : bitOf (u ||| v) i = (bitOf u i || bitOf v i) := BitVec.getLsbD_or

theorem bitOf_setField {w : Nat} (v : BitVec w) {i : Nat} (x : Nat) (h : i < w) : bitOf (setField v i i x) i = decide (x % 2 = 1) := by
  have one : i + 1 - i = 1 := by omega
  have field := fieldOf_setField v (lo := i) x h
  rw [one] at field
  have bit := State.fieldOf_bit (setField v i i x) i
  rw [field] at bit
  exact Bool.eq_iff_iff.2 (bit.symm.trans decide_eq_true_iff.symm)

theorem bitOf_setField_apart {w : Nat} (v : BitVec w) {i j : Nat} (x : Nat) (hj : j < w) (h : i ≠ j) :
    bitOf (setField v i i x) j = bitOf v j := by
  have field := fieldOf_setField_apart v (hi := i) (lo := i) (hi' := j) (lo' := j) x hj (by omega)
  rw [Bool.eq_iff_iff, ← State.fieldOf_bit, ← State.fieldOf_bit, field]

namespace State

theorem page_coreP (k o : Nat) : (coreP k + o) / 0x1000 ≠ 5 ∨ 0x1000 ≤ o := by unfold coreP; omega

/-! A page that is refused (R193, R194). -/

theorem refusePage_log (s : State) (page : Nat) : LogOnly s (s.refusePage page) :=
  ((LogOnly.refl s).wr _ _).trans (raise_log (s.orBits (page + oCOMMIT) 0x20) page 0x600 0 none 0)

section
variable (s : State) (k : Nat)

theorem faultCode_refusePage : (s.refusePage (coreP k)).faultCode (coreP k) = 0x600 :=
  faultCode_raise _ _ _ _ _ _ (by unfold coreP oFCODE; omega)

theorem rd_refusePage_commit : (s.refusePage (coreP k)).rd (coreP k + oCOMMIT) = s.rd (coreP k + oCOMMIT) ||| 0x20 := by
  unfold refusePage configFault
  rw [rd_raise_ne _ _ _ _ _ _ (by unfold coreP oCOMMIT; omega) (by simp [oFCODE, oCOMMIT]) (by simp [oFINFO, oCOMMIT])
    (by simp [oEVENT, oCOMMIT]), rd_orBits_self]

theorem rd_refusePage_gate : (s.refusePage (coreP k)).rd (coreP k + 0x44) = s.rd (coreP k + 0x44) := by
  unfold refusePage configFault
  rw [rd_raise_ne _ _ _ _ _ _ (by unfold coreP; omega) (by simp [oFCODE]) (by simp [oFINFO]) (by simp [oEVENT]),
    rd_orBits_ne _ _ (by simp [oCOMMIT])]

end

/-! A write of COMMIT on a CORE page (R193). -/

/-- COMMIT as a write finds it: no W1C bit is written. -/
def commitSeen (s : State) (k : Nat) (v : Word) : State :=
  s.wr (coreP k + oCOMMIT) (s.rd (coreP k + oCOMMIT) &&& ~~~(v &&& 0x38))

theorem rd_commitSeen (s : State) (k : Nat) {v : Word} (hv : v &&& 0x38 = 0) (a : Nat) : (s.commitSeen k v).rd a = s.rd a := by
  by_cases h : coreP k + oCOMMIT = a
  · subst h
    rw [commitSeen, rd_wr_self, hv]
    exact BitVec.and_allOnes
  · exact rd_wr_ne s _ h

section
variable {s : State} {p : Party} {k : Nat} (hk : k < 1088) (ha : s.admits p (coreP k + oCOMMIT))
  (hm : mayCommit (coreP k) p = true)
include hk ha hm

theorem writeCommit_arm : s.writeCommit p (coreP k) 1 = ((s.commitSeen k 1).armPage (coreP k)).accept (coreP k) := by
  have page : (coreP k + oCOMMIT) / 0x1000 * 0x1000 = coreP k := by unfold coreP oCOMMIT; omega
  have code : (pageOf (coreP k)).1 = 0x30 := congrArg Prod.fst (pageOf_coreP (o := 0) (by decide) hk)
  unfold writeCommit
  dsimp only
  rw [if_neg (by simp [hm]), write_admitted ha, page, code, if_neg (by decide), if_pos (by decide), if_neg (by decide)]
  exact answered_some ..

theorem writeCommit_cancel : s.writeCommit p (coreP k) 2 = ((s.commitSeen k 2).cancelPage (coreP k)).accept (coreP k) := by
  have page : (coreP k + oCOMMIT) / 0x1000 * 0x1000 = coreP k := by unfold coreP oCOMMIT; omega
  have code : (pageOf (coreP k)).1 = 0x30 := congrArg Prod.fst (pageOf_coreP (o := 0) (by decide) hk)
  unfold writeCommit
  dsimp only
  rw [if_neg (by simp [hm]), write_admitted ha, page, code, if_neg (by decide), if_neg (by decide), if_pos (by decide)]
  exact answered_some ..

end

end State

section
variable {s : State} {p : Party} {k : Nat} (hk : k < 1088) (ha : s.admits p (coreP k + oCOMMIT))
  (hm : State.mayCommit (coreP k) p = true)
include hk ha hm

theorem exec_commitArm : exec (.commitArm p (coreP k)) s
    = .next (s.framed (((s.commitSeen k 1).armPage (coreP k)).accept (coreP k))) := by
  have page : coreP k / 0x1000 * 0x1000 = coreP k := by unfold coreP; omega
  have awake := State.awake_of_answers ha.2.1 (by simp [pageOf_coreP (o := oCOMMIT) (by decide) hk])
  have run : exec (.commitArm p (coreP k)) s = .next (s.framed (s.writeCommit p (coreP k / 0x1000 * 0x1000) 1)) := act_awake awake
  rw [run, page, State.writeCommit_arm hk ha hm]

theorem exec_commitCancel : exec (.commitCancel p (coreP k)) s
    = .next (s.framed (((s.commitSeen k 2).cancelPage (coreP k)).accept (coreP k))) := by
  have page : coreP k / 0x1000 * 0x1000 = coreP k := by unfold coreP; omega
  have awake := State.awake_of_answers ha.2.1 (by simp [pageOf_coreP (o := oCOMMIT) (by decide) hk])
  have run : exec (.commitCancel p (coreP k)) s = .next (s.framed (s.writeCommit p (coreP k / 0x1000 * 0x1000) 2)) := act_awake awake
  rw [run, page, State.writeCommit_cancel hk ha hm]

end


namespace State

/-! An ARM of a CORE page (R190 to R193). -/

/-- The stamp that a commit takes: the one asked for, or the turn that COMMIT_LEAD allows (R191). -/
def ownStamp (s : State) (want : Nat) : Nat := if s.clk.tide + 4096 ≤ want then want else turnAfter s.clk.tide

/-- A late ARM is noted on its page (R191). -/
def lateNoted (s : State) (k want : Nat) : State :=
  if want < s.clk.tide + 4096 then (s.orBits (coreP k + oCOMMIT) 0x10).raise (coreP k) 0x804 else s

theorem lateNoted_log (s : State) (k want : Nat) : LogOnly s (s.lateNoted k want) :=
  (((LogOnly.refl s).wr _ _).trans (raise_log (s.orBits (coreP k + oCOMMIT) 0x10) (coreP k) 0x804 0 none 0)).ite (.refl s)

theorem rd_lateNoted (s : State) (k want : Nat) {a : Nat} (hp : a / 0x1000 ≠ 5)
    (ha : ∀ o ∈ [oCOMMIT, oFCODE, oFINFO, oEVENT], coreP k + o ≠ a) : (s.lateNoted k want).rd a = s.rd a := by
  unfold lateNoted
  split
  · rw [rd_raise_ne _ _ _ _ _ _ hp (ha _ (by simp)) (ha _ (by simp)) (ha _ (by simp)), rd_orBits_ne _ _ (ha _ (by simp))]
  · rfl

theorem lateNoted_late {s : State} {want : Nat} (k : Nat) (h : want < s.clk.tide + 4096) :
    bitOf ((s.lateNoted k want).rd (coreP k + oCOMMIT)) 4 = true ∧ (s.lateNoted k want).faultCode (coreP k) = 0x804 := by
  unfold lateNoted
  rw [if_pos h]
  refine ⟨?_, faultCode_raise _ _ _ _ _ _ (by unfold coreP oFCODE; omega)⟩
  rw [rd_raise_ne _ _ _ _ _ _ (by unfold coreP oCOMMIT; omega) (by simp [oFCODE, oCOMMIT]) (by simp [oFINFO, oCOMMIT])
    (by simp [oEVENT, oCOMMIT]), rd_orBits_self, bitOf_or]
  exact Bool.or_eq_true_iff.2 (.inr (by decide))

section
variable {s : State} {k : Nat} (hk : k < 1088)
include hk

theorem shadowed_coreP : shadowed (coreP k) = [coreP k + 0x44] := by
  have code : pageOf (coreP k) = (0x30, k) := pageOf_coreP (o := 0) (by decide) hk
  unfold shadowed
  rw [code]
  rfl

/-- An ARM of a CORE page without a pending commit captures BERTH_GATE. -/
theorem armPage_free (hg : s.groupOf (coreP k) = none) (hn : s.noGroup (coreP k) (s.rd64 (coreP k + oCTIDE)) = false) :
    s.armPage (coreP k) = s.armVals (coreP k) (s.rd64 (coreP k + oCTIDE)) [(coreP k + 0x44, s.rd (coreP k + 0x844))] := by
  have code : pageOf (coreP k) = (0x30, k) := pageOf_coreP (o := 0) (by decide) hk
  have shadow : coreP k + 0x44 + 0x800 = coreP k + 0x844 := by omega
  unfold armPage
  rw [shadowed_coreP hk, List.map_cons, List.map_nil, shadow, hg]
  dsimp only
  rw [hn, if_neg Bool.false_ne_true]
  split
  · refine if_neg fun h => ?_
    split at h
    · next r other => exact absurd (congrArg Prod.fst (code.symm.trans other)) (by simp)
    · cases h
  · rfl

end

/-- The group that a capture of BERTH_GATE opens. -/
def gateGroup (s : State) (k want : Nat) (v : Word) : Group :=
  ⟨want, s.ownStamp want, [⟨coreP k, [(coreP k + 0x44, v)], s.ownStamp want⟩]⟩

/-- A commit of BERTH_GATE is captured: its group has opened, and PENDING is set. -/
def captured (s : State) (k want : Nat) (v : Word) : State :=
  ({ s.lateNoted k want with groups := s.groups ++ [s.gateGroup k want v] } : State).wrField (coreP k + oCOMMIT) 2 2 1

section
variable {s : State} {k want : Nat} (hw : ∀ g ∈ s.groups, g.want ≠ want) (hr : s.resumesAt want = [])
include hw hr

/-- A capture with a stamp of its own opens a group (R192). -/
theorem armVals_opens (v : Word) : s.armVals (coreP k) want [(coreP k + 0x44, v)] =
    if (s.captured k want v).groupFits (s.gateGroup k want v) then s.captured k want v
    else (s.captured k want v).refuseGroup (s.gateGroup k want v) := by
  have stamp : (if want < s.clk.tide + commitLead then turnAfter s.clk.tide else want) = s.ownStamp want := by
    unfold ownStamp commitLead
    split
    · rw [if_neg (by omega)]
    · rw [if_pos (by omega)]
  have noted : (if want < s.clk.tide + commitLead then (s.orBits (coreP k + oCOMMIT) 0x10).raise (coreP k) 0x804 else s)
      = s.lateNoted k want := rfl
  obtain ⟨a, f, o, hu⟩ := s.lateNoted_log k want
  unfold armVals
  dsimp only
  unfold captured gateGroup
  rw [stamp, noted, hu]
  have absent : (s.groups.find? fun g => g.want = want) = none := by
    rw [List.find?_eq_none]
    exact fun g hg => by simpa using hw g hg
  have alone : (s.withLog a f o).resumesAt want = [] := hr
  have still : ∀ l, ({ s.withLog a f o with groups := l } : State).resumesAt want = [] := fun _ => hr
  unfold joinGroup
  rw [show (s.withLog a f o).groups = s.groups from rfl, absent]
  dsimp only
  rw [alone, List.foldl_nil, still, List.foldl_nil]

end

/-! The check of a group, and its refusal (R118, R193). -/

/-- No capture is ARMED, FROZEN or RELEASING (R467). -/
def captureIdle (s : State) : Prop := fieldOf (s.rd (captureP + oSTATUS)) 31 29 = 0

/-- A capture of BERTH_GATE fits when it is the union of the registered manifests. -/
theorem groupFits_gate {s : State} {k : Nat} (hk : k < 1088) (hc : s.captureIdle) (want stamp own a : Nat) (v : Word) :
    s.groupFits ⟨want, stamp, [⟨coreP k, [(a, v)], own⟩]⟩ = s.gateFits k v := by
  have code : pageOf (coreP k) = (0x30, k) := pageOf_coreP (o := 0) (by decide) hk
  have free : s.captureRegion = none := if_pos hc
  unfold groupFits
  rw [List.all_cons, List.all_nil, Bool.and_true]
  unfold memberFits
  rw [code, free]
  dsimp only
  rw [Bool.and_false, if_neg Bool.false_ne_true]
  rfl

theorem refuseGroup_page {s : State} {g : Group} {m : Commit} (hm : g.members = [m]) (hr : s.resumesAt g.want = []) :
    s.refuseGroup g = (({ s with groups := s.groups.filter fun x => x.want ≠ g.want } : State).wrField (m.page + oCOMMIT) 2 2
      0).refusePage m.page := by
  have log := ((LogOnly.refl ({ s with groups := s.groups.filter fun x => x.want ≠ g.want } : State)).wr (m.page + oCOMMIT)
    (setField (s.rd (m.page + oCOMMIT)) 2 2 0)).trans (refusePage_log _ m.page)
  obtain ⟨a, f, o, hu⟩ := log
  have alone : (({ s with groups := s.groups.filter fun x => x.want ≠ g.want } : State).withLog a f o).resumesAt g.want = [] := hr
  unfold refuseGroup
  rw [hm]
  dsimp only [List.foldl_cons, List.foldl_nil]
  have folded : ({ s with groups := s.groups.filter fun x => x.want ≠ g.want } : State).wrField (m.page + oCOMMIT) 2 2 0
    = ({ s with groups := s.groups.filter fun x => x.want ≠ g.want } : State).wr (m.page + oCOMMIT)
        (setField (s.rd (m.page + oCOMMIT)) 2 2 0) := rfl
  rw [folded, hu, alone, List.foldl_nil]

theorem groups_leaveGroup (s : State) (page : Nat) : (s.leaveGroup page).groups =
    (s.groups.map fun g => ({ g with members := g.members.filter fun m => m.page ≠ page } : Group)).filter
      fun g => !g.members.isEmpty := rfl

/-- A page that leaves its group leaves no more groups than there were. -/
theorem length_leaveGroup (s : State) (page : Nat) : (s.leaveGroup page).groups.length ≤ s.groups.length := by
  unfold leaveGroup
  exact (List.length_filter_le _ _).trans (List.length_map _).le

theorem noGroup_of_room {s : State} (page want : Nat) (h : s.groups.length < 16) : s.noGroup page want = false := by
  have := s.length_leaveGroup page
  unfold noGroup
  rw [Bool.and_eq_false_iff]
  exact .inr (decide_eq_false (by omega))

/-- A page without a pending commit leaves every group as it is. -/
theorem leaveGroup_groups {s : State} {page : Nat} (hg : s.groupOf page = none) (hm : ∀ g ∈ s.groups, g.members ≠ []) :
    (s.leaveGroup page).groups = s.groups := by
  have out : ∀ g ∈ s.groups, ({ g with members := g.members.filter fun m => m.page ≠ page } : Group) = g := fun g hgs => by
    have absent := List.find?_eq_none.1 hg g hgs
    rw [List.filter_eq_self.2]
    intro m hm
    simp only [List.any_eq_true, decide_eq_true_eq, not_exists, not_and] at absent
    simpa using absent m hm
  rw [groups_leaveGroup, List.map_congr_left out, List.map_id']
  exact List.filter_eq_self.2 fun g hgs => by simp [hm g hgs]

theorem noGroup_of_full {s : State} {page want : Nat} (hg : s.groupOf page = none) (hn : 16 ≤ s.groups.length)
    (hm : ∀ g ∈ s.groups, g.want ≠ want ∧ g.members ≠ []) : s.noGroup page want = true := by
  unfold noGroup
  rw [leaveGroup_groups hg fun g h => (hm g h).2, Bool.and_eq_true, List.all_eq_true]
  exact ⟨fun g h => decide_eq_true (hm g h).1, decide_eq_true hn⟩

/-- An ARM that would open a 17th group is refused. -/
theorem armPage_full {s : State} {page : Nat} (hg : s.groupOf page = none)
    (hn : s.noGroup page (s.rd64 (page + oCTIDE)) = true) : s.armPage page = s.refusePage page := by
  unfold armPage
  rw [hg]
  dsimp only
  rw [if_pos hn]

section
variable {s : State} {page : Nat} {g : Group} (hg : s.groupOf page = some g)
include hg

theorem armPage_late (hs : g.stamp < s.clk.tide + 4096) : s.armPage page = s.refuseGroup g := by
  unfold armPage
  rw [hg]
  dsimp only
  exact if_pos hs

theorem cancelPage_late (hs : g.stamp < s.clk.tide + 4096) : s.cancelPage page = s := by
  unfold cancelPage
  rw [hg]
  exact if_pos hs

theorem cancelPage_early (hs : s.clk.tide + 4096 ≤ g.stamp) :
    s.cancelPage page = (s.leaveGroup page).wrField (page + oCOMMIT) 2 2 0 := by
  unfold cancelPage
  rw [hg]
  exact if_neg (Nat.not_lt.2 hs)

end

/-- No group that is left has the page. -/
theorem leaveGroup_pages (s : State) (page : Nat) : ∀ x ∈ (s.leaveGroup page).groups, ∀ m ∈ x.members, m.page ≠ page := by
  intro x hx m hm
  rw [groups_leaveGroup] at hx
  obtain ⟨g, -, rfl⟩ := List.mem_map.1 (List.mem_filter.1 hx).1
  exact of_decide_eq_true (List.mem_filter.1 hm).2

/-! The pages of a core after an ARM. -/

/-- The groups that stay when a page's group is refused, and PENDING cleared (R193). -/
def dropped (s : State) (k : Nat) (l : List Group) : State := ({ s with groups := l } : State).wrField (coreP k + oCOMMIT) 2 2 0

theorem dropped_partsSame (s : State) (k : Nat) (l : List Group) : partsSame s (s.dropped k l) := .refl s

theorem groups_dropped (s : State) (k : Nat) (l : List Group) : (s.dropped k l).groups = l := rfl

theorem rd_dropped (s : State) (k : Nat) (l : List Group) {a : Nat} (ha : coreP k + oCOMMIT ≠ a) : (s.dropped k l).rd a = s.rd a :=
  rd_wrField_ne _ _ _ _ ha

theorem LogOnly.groups {s t : State} (h : LogOnly s t) : t.groups = s.groups := by
  obtain ⟨r, f, o, rfl⟩ := h
  rfl

/-- A group that has just opened and does not fit is dropped again. -/
theorem refuseGroup_captured {s : State} {k want : Nat} (hw : ∀ g ∈ s.groups, g.want ≠ want) (hr : s.resumesAt want = [])
    (v : Word) : (s.captured k want v).refuseGroup (s.gateGroup k want v)
      = ((s.captured k want v).dropped k s.groups).refusePage (coreP k) := by
  have others : (s.groups ++ [s.gateGroup k want v]).filter (fun x => decide (x.want ≠ want)) = s.groups := by
    rw [List.filter_append, List.filter_eq_self.2 fun g h => decide_eq_true (hw g h)]
    simp [gateGroup]
  obtain ⟨a, f, o, hu⟩ := s.lateNoted_log k want
  have alone : (s.captured k want v).resumesAt (s.gateGroup k want v).want = [] := by
    unfold captured
    rw [hu]
    exact hr
  have held : (s.captured k want v).groups = s.groups ++ [s.gateGroup k want v] := rfl
  rw [refuseGroup_page (m := ⟨coreP k, [(coreP k + 0x44, v)], s.ownStamp want⟩) rfl alone, held]
  unfold dropped
  rw [show (s.gateGroup k want v).want = want from rfl, others]

section
variable (s : State) (k want : Nat) (v : Word)

theorem captured_partsSame : partsSame s (s.captured k want v) := (s.lateNoted_log k want).partsSame

theorem rd_captured {a : Nat} (hp : a / 0x1000 ≠ 5) (ha : ∀ o ∈ [oCOMMIT, oFCODE, oFINFO, oEVENT], coreP k + o ≠ a) :
    (s.captured k want v).rd a = s.rd a :=
  (rd_wrField_ne _ _ _ _ (ha _ (by simp))).trans (s.rd_lateNoted k want hp ha)

theorem rd_captured_commit : (s.captured k want v).rd (coreP k + oCOMMIT)
    = setField ((s.lateNoted k want).rd (coreP k + oCOMMIT)) 2 2 1 := rd_wrField_self ..

theorem faultCode_captured : (s.captured k want v).faultCode (coreP k) = (s.lateNoted k want).faultCode (coreP k) :=
  faultCode_congr (rd_wrField_ne _ _ _ _ (by simp [oCOMMIT, oFCODE]))

theorem gateFits_captured (w : Word) : (s.captured k want v).gateFits k w = s.gateFits k w := by
  obtain ⟨a, f, o, hu⟩ := s.lateNoted_log k want
  unfold captured
  rw [hu]
  rfl

end

end State


/-- A write of COMMIT to core `k`'s page that is refused (R193, R194): BERTH_GATE stays. -/
def commitRefused (k : Nat) (s t : State) : Prop :=
  bitOf (t.rd (coreP k + oCOMMIT)) 5 = true ∧ t.faultCode (coreP k) = 0x600
    ∧ t.rd (coreP k + 0x44) = s.rd (coreP k + 0x44) ∧ partsSame s t

/-- A page that counts a write and has refused it. -/
theorem commitRefused_of {s u : State} {k : Nat} (h : partsSame s u) (hg : u.rd (coreP k + 0x44) = s.rd (coreP k + 0x44)) :
    commitRefused k s (s.framed ((u.refusePage (coreP k)).accept (coreP k))) := by
  refine ⟨?_, ?_, ?_, ?_⟩
  · rw [State.rd_framed, State.rd_accept_ne _ (by simp [oSEQ, oCOMMIT]), State.rd_refusePage_commit, bitOf_or]
    exact Bool.or_eq_true_iff.2 (.inr (by decide))
  · rw [State.faultCode_framed, ← u.faultCode_refusePage k]
    exact State.faultCode_congr (State.rd_accept_ne _ (by simp [oSEQ, oFCODE]))
  · rw [State.rd_framed, State.rd_accept_ne _ (by simp [oSEQ]), State.rd_refusePage_gate, hg]
  · exact ((h.trans (u.refusePage_log _).partsSame).trans (State.accept_log ..).partsSame).framed

section
variable {s : State} {p : Party} {k : Nat} (hk : k < 1088) (ha : s.admits p (coreP k + oCOMMIT))
  (hm : State.mayCommit (coreP k) p = true)
include hk ha hm

section
variable (hc : s.captureIdle) (hg : s.groupOf (coreP k) = none) (hn : s.groups.length < 16)
  (hw : ∀ g ∈ s.groups, g.want ≠ s.rd64 (coreP k + oCTIDE)) (hr : s.resumesAt (s.rd64 (coreP k + oCTIDE)) = [])
include hc hg hn hw hr

/-- What an ARM that opens a group makes of the page. -/
theorem exec_commitArm_opens : exec (.commitArm p (coreP k)) s = .next (s.framed
    ((if s.gateFits k (s.rd (coreP k + 0x844)) then
        (s.commitSeen k 1).captured k (s.rd64 (coreP k + oCTIDE)) (s.rd (coreP k + 0x844))
      else (((s.commitSeen k 1).captured k (s.rd64 (coreP k + oCTIDE)) (s.rd (coreP k + 0x844))).dropped k
        s.groups).refusePage (coreP k)).accept (coreP k))) := by
  have want : (s.commitSeen k 1).rd64 (coreP k + oCTIDE) = s.rd64 (coreP k + oCTIDE) := by
    unfold State.rd64
    rw [s.rd_commitSeen k (by decide), s.rd_commitSeen k (by decide)]
  have free := State.armPage_free (s := s.commitSeen k 1) hk hg (State.noGroup_of_room _ _ hn)
  rw [want, s.rd_commitSeen k (by decide), State.armVals_opens (s := s.commitSeen k 1) hw hr] at free
  have idle : ((s.commitSeen k 1).captured k (s.rd64 (coreP k + oCTIDE)) (s.rd (coreP k + 0x844))).captureIdle := by
    unfold State.captureIdle
    rw [State.rd_captured _ _ _ _ (by decide) (by unfold coreP captureP oSTATUS; simp [oCOMMIT, oFCODE, oFINFO, oEVENT]; omega),
      s.rd_commitSeen k (by decide)]
    exact hc
  rw [exec_commitArm hk ha hm, free, State.gateGroup, State.groupFits_gate hk idle, State.gateFits_captured]
  have same : (s.commitSeen k 1).gateFits k (s.rd (coreP k + 0x844)) = s.gateFits k (s.rd (coreP k + 0x844)) := rfl
  rw [same]
  split
  · rfl
  · rw [← State.gateGroup, State.refuseGroup_captured (s := s.commitSeen k 1) hw hr]
    rfl

/-- An ARM captures the shadow register, sets PENDING and leaves the register as it was (R190, R191). -/
theorem commitArm_captures (hf : s.gateFits k (s.rd (coreP k + 0x844)) = true) :
    ∃ t, exec (.commitArm p (coreP k)) s = .next t
      ∧ t.groups = s.groups ++ [⟨s.rd64 (coreP k + oCTIDE), s.ownStamp (s.rd64 (coreP k + oCTIDE)),
          [⟨coreP k, [(coreP k + 0x44, s.rd (coreP k + 0x844))], s.ownStamp (s.rd64 (coreP k + oCTIDE))⟩]⟩]
      ∧ bitOf (t.rd (coreP k + oCOMMIT)) 2 = true ∧ t.rd (coreP k + 0x44) = s.rd (coreP k + 0x44) ∧ partsSame s t
      ∧ (s.rd64 (coreP k + oCTIDE) < s.clk.tide + 4096 →
          bitOf (t.rd (coreP k + oCOMMIT)) 4 = true ∧ t.faultCode (coreP k) = 0x804) := by
  refine ⟨_, exec_commitArm_opens hk ha hm hc hg hn hw hr, ?_⟩
  rw [if_pos hf]
  have commit := State.rd_accept_ne ((s.commitSeen k 1).captured k (s.rd64 (coreP k + oCTIDE)) (s.rd (coreP k + 0x844)))
    (page := coreP k) (a := coreP k + oCOMMIT) (by simp [oSEQ, oCOMMIT])
  rw [State.rd_captured_commit] at commit
  refine ⟨rfl, ?_, ?_, ?_, fun late => ⟨?_, ?_⟩⟩
  · rw [State.rd_framed, commit, bitOf_setField _ _ (by decide)]
    rfl
  · rw [State.rd_framed, State.rd_accept_ne _ (by simp [oSEQ]), State.rd_captured _ _ _ _ (by unfold coreP; omega)
      (by simp [oCOMMIT, oFCODE, oFINFO, oEVENT]), s.rd_commitSeen k (by decide)]
  · exact ((State.captured_partsSame (s.commitSeen k 1) ..).trans (State.accept_log ..).partsSame).framed
  · rw [State.rd_framed, commit, bitOf_setField_apart _ _ (by decide) (by decide)]
    exact (State.lateNoted_late (s := s.commitSeen k 1) k late).1
  · rw [State.faultCode_framed]
    refine (State.faultCode_congr (State.rd_accept_ne _ (by simp [oSEQ, oFCODE]))).trans ?_
    rw [State.faultCode_captured]
    exact (State.lateNoted_late (s := s.commitSeen k 1) k late).2

/-- A value that is not the union of the registered manifests is refused (R118, R193). -/
theorem commitArm_misfits (hf : s.gateFits k (s.rd (coreP k + 0x844)) = false) :
    ∃ t, exec (.commitArm p (coreP k)) s = .next t ∧ t.groups = s.groups ∧ commitRefused k s t := by
  refine ⟨_, exec_commitArm_opens hk ha hm hc hg hn hw hr, ?_⟩
  rw [hf, if_neg Bool.false_ne_true]
  refine ⟨?_, commitRefused_of ?_ ?_⟩
  · rw [State.framed_groups, (State.accept_log _ (coreP k)).groups, (State.refusePage_log _ (coreP k)).groups,
      State.groups_dropped]
  · exact (State.captured_partsSame (s.commitSeen k 1) ..).trans (State.dropped_partsSame ..)
  · rw [State.rd_dropped _ _ _ (by simp [oCOMMIT]), State.rd_captured _ _ _ _ (by unfold coreP; omega)
      (by simp [oCOMMIT, oFCODE, oFINFO, oEVENT]), s.rd_commitSeen k (by decide)]

end

section
variable (hg : s.groupOf (coreP k) = none) (hn : 16 ≤ s.groups.length)
  (hw : ∀ g ∈ s.groups, g.want ≠ s.rd64 (coreP k + oCTIDE) ∧ g.members ≠ [])
include hg hn hw

/-- A 17th group is refused (R192, R193). -/
theorem commitArm_overfull :
    ∃ t, exec (.commitArm p (coreP k)) s = .next t ∧ t.groups = s.groups ∧ commitRefused k s t := by
  have want : (s.commitSeen k 1).rd64 (coreP k + oCTIDE) = s.rd64 (coreP k + oCTIDE) := by
    unfold State.rd64
    rw [s.rd_commitSeen k (by decide), s.rd_commitSeen k (by decide)]
  have full : (s.commitSeen k 1).noGroup (coreP k) ((s.commitSeen k 1).rd64 (coreP k + oCTIDE)) = true := by
    rw [want]
    exact State.noGroup_of_full (s := s.commitSeen k 1) hg hn hw
  refine ⟨_, exec_commitArm hk ha hm, ?_⟩
  rw [State.armPage_full (s := s.commitSeen k 1) hg full]
  refine ⟨?_, commitRefused_of (.refl s) (s.rd_commitSeen k (by decide) _)⟩
  rw [State.framed_groups, (State.accept_log _ (coreP k)).groups, (State.refusePage_log _ (coreP k)).groups]
  rfl

end

section
variable {g : Group} (hg : s.groupOf (coreP k) = some g)
include hg

/-- A CANCEL in time ends the commit (R193). -/
theorem commitCancel_ends (hs : s.clk.tide + 4096 ≤ g.stamp) :
    ∃ t, exec (.commitCancel p (coreP k)) s = .next t ∧ (∀ x ∈ t.groups, ∀ m ∈ x.members, m.page ≠ coreP k)
      ∧ bitOf (t.rd (coreP k + oCOMMIT)) 2 = false ∧ t.rd (coreP k + 0x44) = s.rd (coreP k + 0x44) ∧ partsSame s t := by
  refine ⟨_, exec_commitCancel hk ha hm, ?_⟩
  rw [State.cancelPage_early (s := s.commitSeen k 2) hg hs]
  refine ⟨fun x hx m hxm => ?_, ?_, ?_, .framed (.refl s)⟩
  · exact State.leaveGroup_pages (s.commitSeen k 2) (coreP k) x hx m hxm
  · rw [State.rd_framed, State.rd_accept_ne _ (by simp [oSEQ, oCOMMIT]), State.rd_wrField_self, bitOf_setField _ _ (by decide)]
    rfl
  · rw [State.rd_framed, State.rd_accept_ne _ (by simp [oSEQ]), State.rd_wrField_ne _ _ _ _ (by simp [oCOMMIT])]
    exact s.rd_commitSeen k (by decide) _

variable (hs : g.stamp < s.clk.tide + 4096)
include hs

/-- A later CANCEL does nothing (R193). -/
theorem commitCancel_late :
    ∃ t, exec (.commitCancel p (coreP k)) s = .next t ∧ t.groups = s.groups
      ∧ t.rd (coreP k + oCOMMIT) = s.rd (coreP k + oCOMMIT) ∧ partsSame s t := by
  refine ⟨_, exec_commitCancel hk ha hm, ?_⟩
  rw [State.cancelPage_late (s := s.commitSeen k 2) hg hs]
  refine ⟨rfl, ?_, .framed (.refl s)⟩
  rw [State.rd_framed, State.rd_accept_ne _ (by simp [oSEQ, oCOMMIT]), s.rd_commitSeen k (by decide)]

/-- An ARM too near the stamp of the commit that it would replace refuses its group (R193). -/
theorem commitArm_late (hp : g.members.map (·.page) = [coreP k]) (hr : s.resumesAt g.want = []) :
    ∃ t, exec (.commitArm p (coreP k)) s = .next t ∧ t.groups = s.groups.filter (fun x => x.want ≠ g.want)
      ∧ bitOf (t.rd (coreP k + oCOMMIT)) 2 = false ∧ commitRefused k s t := by
  obtain ⟨m, hmem, hpage⟩ := List.map_eq_singleton_iff.1 hp
  refine ⟨_, exec_commitArm hk ha hm, ?_⟩
  have drop := State.refuseGroup_page (s := s.commitSeen k 1) hmem hr
  rw [hpage] at drop
  have refuse : (s.commitSeen k 1).refuseGroup g
      = ((s.commitSeen k 1).dropped k (s.groups.filter fun x => x.want ≠ g.want)).refusePage (coreP k) := drop
  rw [State.armPage_late (s := s.commitSeen k 1) hg hs, refuse]
  refine ⟨?_, ?_, commitRefused_of (.refl s) ?_⟩
  · rw [State.framed_groups, (State.accept_log _ (coreP k)).groups, (State.refusePage_log _ (coreP k)).groups,
      State.groups_dropped]
  · rw [State.rd_framed, State.rd_accept_ne _ (by simp [oSEQ, oCOMMIT]), State.rd_refusePage_commit, bitOf_or, State.dropped,
      State.rd_wrField_self, bitOf_setField _ _ (by decide)]
    decide
  · rw [State.rd_dropped _ _ _ (by simp [oCOMMIT]), s.rd_commitSeen k (by decide)]

end

end


namespace State

/-! The effect of a commit at its stamp (R118, R119, R192). -/

/-- A group before its stamp does nothing. -/
theorem commitApply_early {s : State} {stamp : Nat} (h : s.clk.tide < stamp) : s.commitApply stamp = s := if_pos h

/-- The page's commit has taken effect: its write is counted, BERTH_GATE holds the captured value, PENDING is clear and DONE
set. -/
def gateDone (s : State) (k : Nat) (v : Word) : State :=
  ((s.wr (coreP k + oSEQ) (s.rd (coreP k + oSEQ) + 1)).gateApply k v).wr (coreP k + oCOMMIT)
    (setBit (setBit (s.rd (coreP k + oCOMMIT)) 2 false) 3 true)

/-- The Pilot's own rewrites of a stamp apply with its commits (R363). -/
def fixesApplied (s : State) (stamp : Nat) : State :=
  (s.pilot.fixes.filter fun f => f.2.2 = stamp).foldl (fun s f => s.wr f.1 f.2.1)
    { s with pilot := { s.pilot with fixes := s.pilot.fixes.filter fun f => f.2.2 ≠ stamp } }

theorem fixesApplied_none {s : State} {stamp : Nat} (h : s.pilot.fixes = []) :
    s.fixesApplied stamp = { s with pilot := { s.pilot with fixes := [] } } := by
  unfold fixesApplied
  rw [h]
  rfl

theorem applyPage_gate (s : State) {k : Nat} (hk : k < 1088) (a own : Nat) (v : Word) :
    s.applyPage ⟨coreP k, [(a, v)], own⟩ = (s.wr (coreP k + oSEQ) (s.rd (coreP k + oSEQ) + 1)).gateApply k v := by
  have code : pageOf (coreP k) = (0x30, k) := pageOf_coreP (o := 0) (by decide) hk
  unfold applyPage
  rw [code]
  rfl

theorem commitApply_gate {s : State} {k want stamp own : Nat} {v : Word} (hk : k < 1088) (hs : stamp ≤ s.clk.tide)
    (hg : s.groups = [⟨want, stamp, [⟨coreP k, [(coreP k + 0x44, v)], own⟩]⟩]) (hx : s.pilot.fixes = []) (hc : s.captureIdle)
    (hf : s.gateFits k v = true) :
    ∃ pilot, s.commitApply stamp = { ({ s with groups := [] } : State).gateDone k v with pilot := pilot } := by
  have fits : ({ s with groups := [] } : State).groupFits ⟨want, stamp, [⟨coreP k, [(coreP k + 0x44, v)], own⟩]⟩ = true :=
    (groupFits_gate hk hc ..).trans hf
  have apply := ({ s with groups := [] } : State).applyPage_gate hk (coreP k + 0x44) own v
  unfold commitApply
  rw [if_neg (Nat.not_lt.2 hs), hg]
  simp only [List.filter_cons, List.filter_nil, decide_true, if_true, ne_eq, not_true_eq_false, decide_false,
    Bool.false_eq_true, if_false, List.foldl_cons, List.foldl_nil, fits, apply]
  exact ⟨_, fixesApplied_none (s := ({ s with groups := [] } : State).gateDone k v) hx⟩

section
variable (s : State) (k : Nat) (v : Word)

theorem getCore_wr_wr (a b : Nat) (u w : Word) (j : Nat) : ((s.wr a u).wr b w).getCore j = s.getCore j := rfl

/-- The segments that a gate value takes off. -/
abbrev segmentsOff : List (Nat × Nat) := segmentsOf (s.rd (coreP k + 0x44) &&& ~~~v)

/-- The core whose gate value is replaced: what comes on reports ready, what goes off awaits the work issued before. -/
def gatedCore : Core :=
  { s.getCore k with
    gating := (s.getCore k).gating.filter (fun g => !bitOf v g.1)
      ++ (s.segmentsOff k v).map (fun e => (8 * e.1 + e.2, s.segmentWork k e.1 e.2))
    readying := ((s.getCore k).readying &&& v) ||| (v &&& ~~~(s.rd (coreP k + 0x44))) }

theorem gateApply_eq : s.gateApply k v
    = ((s.wr (coreP k + 0x44) v).wr (coreP k + 0x48) (s.rd (coreP k + 0x48) &&& v)).modCore k fun _ => s.gatedCore k v := by
  have ready : (s.wr (coreP k + 0x44) v).rd (coreP k + 0x48) = s.rd (coreP k + 0x48) := rd_wr_ne _ _ (by simp)
  rw [← ready]
  rfl

/-- What the gate value replaces is read where the write of the sequence count leaves it. -/
theorem gatedCore_wr {a : Nat} (u : Word) (h : a ≠ coreP k + 0x44) : (s.wr a u).gatedCore k v = s.gatedCore k v := by
  have old : (s.wr a u).rd (coreP k + 0x44) = s.rd (coreP k + 0x44) := rd_wr_ne _ _ h
  unfold gatedCore segmentsOff
  rw [old]
  rfl

theorem gateDone_eq : s.gateDone k v = ((((s.wr (coreP k + oSEQ) (s.rd (coreP k + oSEQ) + 1)).wr (coreP k + 0x44) v).wr
      (coreP k + 0x48) (s.rd (coreP k + 0x48) &&& v)).modCore k fun _ => s.gatedCore k v).wr (coreP k + oCOMMIT)
        (setBit (setBit (s.rd (coreP k + oCOMMIT)) 2 false) 3 true) := by
  unfold gateDone
  rw [gateApply_eq, gatedCore_wr _ _ _ _ (by simp [oSEQ]), rd_wr_ne _ _ (by simp [oSEQ])]

theorem rd_gateDone_gate : (s.gateDone k v).rd (coreP k + 0x44) = v := by
  rw [gateDone_eq, rd_wr_ne _ _ (by simp [oCOMMIT]), rd_modCore, rd_wr_ne _ _ (by simp), rd_wr_self]

theorem rd_gateDone_ready : (s.gateDone k v).rd (coreP k + 0x48) = s.rd (coreP k + 0x48) &&& v := by
  rw [gateDone_eq, rd_wr_ne _ _ (by simp [oCOMMIT]), rd_modCore, rd_wr_self]

theorem rd_gateDone_commit : (s.gateDone k v).rd (coreP k + oCOMMIT)
    = setBit (setBit (s.rd (coreP k + oCOMMIT)) 2 false) 3 true := rd_wr_self ..

theorem getCore_gateDone : (s.gateDone k v).getCore k = s.gatedCore k v := by
  rw [gateDone_eq, getCore_wr, getCore_modCore_self]

theorem coreFrame_gateDone : coreFrame k s (s.gateDone k v) := by
  rw [gateDone_eq]
  exact ((((((LogOnly.refl s).wr _ _).wr _ _).wr _ _).coreFrame k).modCore fun _ => s.gatedCore k v).trans
    (((LogOnly.refl _).wr _ _).coreFrame k)

end

/-- The seat whose plane is switched holds the other plane, and its register page is as it was. -/
theorem planeSwitch_of {s : State} {k : Nat} {b : Bool} (hb : (s.getCore k).switchTo = some b)
    (hv : wharfBusy (s.getCore k) = false) : s.planeSwitch k = s.setCore k (usePlane (s.getCore k) (s.coreRc k) b) := by
  unfold planeSwitch
  simp only [hb, hv]
  rfl

end State

/-- A commit before its stamp does nothing (R191, R192). -/
theorem exec_commitApply_early {stamp : Nat} {s : State} (h : s.clk.tide < stamp) : exec (.commitApply stamp) s = .next s := by
  have none : exec (.commitApply stamp) s = act (fun s => s.commitApply stamp) s := rfl
  rw [none]
  cases awake : s.awake with
  | true => rw [act_awake awake, State.commitApply_early h, State.framed_self]
  | false => exact act_asleep awake

/-- At its stamp a capture of BERTH_GATE takes effect in one step (R118, R119, R192). -/
theorem exec_commitApply_gate {k want stamp own : Nat} {v : Word} {s : State} (hk : k < 1088) (ha : s.awake = true)
    (hs : stamp ≤ s.clk.tide) (hg : s.groups = [⟨want, stamp, [⟨coreP k, [(coreP k + 0x44, v)], own⟩]⟩])
    (hx : s.pilot.fixes = []) (hc : s.captureIdle) (hf : s.gateFits k v = true) :
    ∃ t, exec (.commitApply stamp) s = .next t ∧ t.rd (coreP k + 0x44) = v
      ∧ t.rd (coreP k + 0x48) = s.rd (coreP k + 0x48) &&& v ∧ t.groups = []
      ∧ (t.getCore k).readying = ((s.getCore k).readying &&& v) ||| (v &&& ~~~(s.rd (coreP k + 0x44)))
      ∧ (t.getCore k).gating = (s.getCore k).gating.filter (fun g => !bitOf v g.1)
          ++ (s.segmentsOff k v).map (fun e => (8 * e.1 + e.2, s.segmentWork k e.1 e.2))
      ∧ bitOf (t.rd (coreP k + oCOMMIT)) 2 = false ∧ bitOf (t.rd (coreP k + oCOMMIT)) 3 = true
      ∧ berthsSame k s t ∧ coreFrame k s t := by
  obtain ⟨pilot, done⟩ := State.commitApply_gate hk hs hg hx hc hf
  have run : exec (.commitApply stamp) s = .next (s.framed (s.commitApply stamp)) := act_awake ha
  have core : (({ s with groups := [] } : State).gateDone k v).getCore k = s.gatedCore k v :=
    State.getCore_gateDone { s with groups := [] } k v
  have flags : (({ s with groups := [] } : State).gateDone k v).rd (coreP k + oCOMMIT)
      = setBit (setBit (s.rd (coreP k + oCOMMIT)) 2 false) 3 true := State.rd_gateDone_commit { s with groups := [] } k v
  refine ⟨_, run, ?_⟩
  rw [done]
  refine ⟨State.rd_gateDone_gate { s with groups := [] } k v, State.rd_gateDone_ready { s with groups := [] } k v, rfl,
    congrArg Core.readying core, congrArg Core.gating core, (congrArg (bitOf · 2) flags).trans ?_,
    (congrArg (bitOf · 3) flags).trans ?_, .of_core core rfl, ?_⟩
  · exact (bitOf_setField_apart _ _ (by decide) (by decide)).trans (bitOf_setField _ _ (by decide))
  · exact bitOf_setField _ _ (by decide)
  · exact coreFrame.framed (State.coreFrame_gateDone { s with groups := [] } k v)

/-- A plane switch that waited takes place when no vx.wharf is in the pipe (R190, R285). -/
theorem exec_planeSwitch {core : Nat} {b : Bool} {s : State} (hr : s.runs core) (hb : (s.getCore core).switchTo = some b)
    (hv : State.wharfBusy (s.getCore core) = false) :
    ∃ t, exec (.planeSwitch core) s = .next t ∧ (t.getCore core).activeB = b ∧ (t.getCore core).switchTo = none
      ∧ t.reg = s.reg ∧ berthsSame core s t ∧ coreFrame core s t := by
  obtain ⟨present, awake, clocked⟩ := hr
  have run : exec (.planeSwitch core) s = .next (s.framed (s.planeSwitch core)) := actCore_running (decide_eq_true present) awake clocked
  refine ⟨_, run, ?_⟩
  rw [State.planeSwitch_of hb hv]
  have core' := State.getCore_setCore_self s core (State.usePlane (s.getCore core) (s.coreRc core) b)
  exact ⟨congrArg Core.activeB core', congrArg Core.switchTo core', rfl, .of_core core' rfl,
    ((coreFrame.refl core s).modCore fun _ => State.usePlane (s.getCore core) (s.coreRc core) b).framed⟩

/-- Settles O37: a write of COMMIT by what it finds (a free group, a full table, its own group near its stamp or not), the
groups before and at their stamp, and a seat whose plane switch waits. -/
theorem commitAtTide : Obligations.CommitAtTide := by
  refine ⟨fun p k s hk ha hm hc => ⟨fun hg hn hw hr => ⟨fun hf => ?_, fun hf => ?_⟩, fun hg hn hw => ?_, fun g hg =>
    ⟨fun hs => ?_, fun hs => ⟨?_, fun hp hr => ?_⟩⟩⟩, fun stamp s => exec_commitApply_early,
    fun k want stamp own v s hk ha hs hg hx hc hf => ?_, fun core b s => exec_planeSwitch⟩
  · exact commitArm_captures hk ha hm hc hg hn hw hr hf
  · exact commitArm_misfits hk ha hm hc hg hn hw hr hf
  · exact commitArm_overfull hk ha hm hg hn hw
  · exact commitCancel_ends hk ha hm hg hs
  · exact commitCancel_late hk ha hm hg hs
  · exact commitArm_late hk ha hm hg hs hp hr
  · exact exec_commitApply_gate hk ha hs hg hx hc hf

end Sys2Proof.Machine
end

section
/-! PROOF. REGISTER, RELEASE and LAUNCH: what a command's reads, its gate commits and the move to the next command leave
(R118, R215, R315, R316, R317) (O46). -/

namespace Sys2Proof.Machine

/-! The frame of a queue's command. -/

theorem outsideSame.trans {s t u : State} (h : outsideSame s t) (h' : outsideSame t u) : outsideSame s u := by
  obtain ⟨d, m, c, b, p⟩ := h
  obtain ⟨d', m', c', b', p'⟩ := h'
  exact ⟨d'.trans d, m'.trans m, c'.trans c, b'.trans b, p'.trans p⟩

theorem queueFrame.trans {q : Nat} {s t u : State} (h : queueFrame q s t) (h' : queueFrame q t u) : queueFrame q s u :=
  ⟨fun j hj => (h'.1 j hj).trans (h.1 j hj), h'.2.1.trans h.2.1, h'.2.2.1.trans h.2.2.1, h.2.2.2.trans h'.2.2.2⟩

theorem queueFrame.framed {q : Nat} {s t : State} (h : queueFrame q s t) : queueFrame q s (s.framed t) := by
  obtain ⟨hq, hc, hr, hd, hm, -, -, -⟩ := h
  exact ⟨hq, hc, hr, hd, hm, rfl, rfl, rfl⟩

namespace State

/-! What the executing item of a queue is after a change. -/

theorem execOf_modExec (s : State) (q : Nat) (f : Exec → Exec) : (s.modExec q f).execOf q = (s.execOf q).map f := by
  unfold execOf modExec
  rw [getQueue_modQueue_self]

theorem queueFrame_modExec (s : State) (q : Nat) (f : Exec → Exec) : queueFrame q s (s.modExec q f) :=
  ⟨fun _ hj => getQueue_modQueue_ne s _ (Ne.symm hj), rfl, rfl, rfl, rfl, rfl, rfl, rfl⟩

theorem execOf_rtEnd (s : State) (q p : Nat) : (s.rtEnd q).execOf p = s.execOf p := rfl

/-! A command that fails (R309). -/

section
variable {s : State} {q : Nat} {e : Exec} (he : s.execOf q = some e) (hf : e.failed = none)
include he hf

theorem execOf_failCmd (st detail at_ : Nat) : (s.failCmd q st detail at_).execOf q
    = some { e with failed := some (st, detail, at_), waiting := false, deposit := none } := by
  have failed := s.execOf_modExec q fun e =>
    { e with failed := some (e.failed.getD (st, detail, at_)), waiting := false, deposit := none }
  rw [he, Option.map_some, hf] at failed
  unfold failCmd
  dsimp only
  split
  · exact (execOf_rtEnd ..).trans failed
  · exact failed

end

/-! The parts that reads and commits leave alone. -/

end State

/-- What a context holds of voyages and launches. -/
def Ctx.sails (x : Ctx) : Tab Voyage × List Nat × List Launch × Nat := (x.voyages, x.regions, x.launches, x.nextLaunch)

/-- Every context has the voyages, the regions and the launches that it had. -/
def sailsSame (s t : State) : Prop := ∀ d, (t.getCtx d).sails = (s.getCtx d).sails

theorem sailsSame.refl (s : State) : sailsSame s s := fun _ => rfl
theorem sailsSame.trans {s t u : State} (h : sailsSame s t) (h' : sailsSame t u) : sailsSame s u :=
  fun d => (h' d).trans (h d)

theorem sailsSame.modCtx {s t : State} (h : sailsSame s t) (c : Nat) {f : Ctx → Ctx} (hf : ∀ x, (f x).sails = x.sails) :
    sailsSame s (t.modCtx c f) := fun d => by
  by_cases hd : c = d
  · subst hd
    rw [State.getCtx_modCtx_self, hf]
    exact h c
  · rw [State.getCtx_modCtx_ne _ _ hd]
    exact h d

section
variable {s t : State} (h : sailsSame s t) (d : Nat)
include h

theorem sailsSame.voyages : (t.getCtx d).voyages = (s.getCtx d).voyages := congrArg Prod.fst (h d)
theorem sailsSame.regions : (t.getCtx d).regions = (s.getCtx d).regions := congrArg (fun v => v.2.1) (h d)
theorem sailsSame.launches : (t.getCtx d).launches = (s.getCtx d).launches := congrArg (fun v => v.2.2.1) (h d)
theorem sailsSame.nextLaunch : (t.getCtx d).nextLaunch = (s.getCtx d).nextLaunch := congrArg (fun v => v.2.2.2) (h d)

end

/-- Registers, groups and contexts aside from their voyages and launches may differ; the cores, regions, queues and what is
outside are the same. -/
structure Beside (s t : State) : Prop where
  core : t.core = s.core
  region : t.region = s.region
  queue : t.queue = s.queue
  outside : outsideSame s t
  sails : sailsSame s t

theorem Beside.refl (s : State) : Beside s s := ⟨rfl, rfl, rfl, ⟨rfl, rfl, rfl, rfl, rfl⟩, .refl s⟩

theorem Beside.trans {s t u : State} (h : Beside s t) (h' : Beside t u) : Beside s u :=
  ⟨h'.core.trans h.core, h'.region.trans h.region, h'.queue.trans h.queue, h.outside.trans h'.outside, h.sails.trans h'.sails⟩

theorem Beside.modCtx {s t : State} (h : Beside s t) (c : Nat) {f : Ctx → Ctx} (hf : ∀ x, (f x).sails = x.sails) :
    Beside s (t.modCtx c f) := ⟨h.core, h.region, h.queue, h.outside, h.sails.modCtx c hf⟩

theorem State.LogOnly.beside {s t : State} (h : State.LogOnly s t) : Beside s t := by
  obtain ⟨r, f, o, rfl⟩ := h
  exact ⟨rfl, rfl, rfl, ⟨rfl, rfl, rfl, rfl, rfl⟩, .refl s⟩

theorem Beside.wr {s t : State} (h : Beside s t) (a : Nat) (v : Word) : Beside s (t.wr a v) :=
  h.trans ((State.LogOnly.refl t).wr a v).beside

theorem Beside.groups {s t : State} (h : Beside s t) (l : List Group) : Beside s { t with groups := l } :=
  ⟨h.core, h.region, h.queue, h.outside, h.sails⟩

theorem Beside.ite {s t u : State} {c : Prop} [Decidable c] (h : Beside s t) (h' : Beside s u) : Beside s (if c then t else u) := by
  split
  · exact h
  · exact h'

theorem Beside.foldl {α : Type} {s : State} {f : State → α → State} (hf : ∀ t x, Beside t (f t x)) (l : List α) :
    ∀ {t : State}, Beside s t → Beside s (l.foldl f t) := by
  induction l with
  | nil => exact id
  | cons x l ih => exact fun h => ih (h.trans (hf _ x))

theorem Beside.queueFrame {s t : State} (h : Beside s t) (q : Nat) : queueFrame q s t :=
  ⟨fun j _ => congrArg (fun l => (Tab.get {} l j : Queue)) h.queue, h.core, h.region, h.outside⟩

theorem Beside.execOf {s t : State} (h : Beside s t) (q : Nat) : t.execOf q = s.execOf q :=
  congrArg (fun l => (Tab.get {} l q : Queue).exec) h.queue

namespace State

theorem beside_rtEnd (s : State) (q : Nat) : Beside s (s.rtEnd q) := (Beside.refl s).modCtx _ fun _ => rfl

/-- What the failure of a command leaves: the end of an RT wait changes no voyage and no launch. -/
theorem failCmd_keeps (s : State) (q st detail at_ : Nat) :
    queueFrame q s (s.failCmd q st detail at_) ∧ sailsSame s (s.failCmd q st detail at_)
      ∧ (s.failCmd q st detail at_).reg = s.reg := by
  have failed := s.queueFrame_modExec q fun e =>
    { e with failed := some (e.failed.getD (st, detail, at_)), waiting := false, deposit := none }
  unfold failCmd
  dsimp only
  split
  · exact ⟨failed.trans ((beside_rtEnd ..).queueFrame q), (beside_rtEnd _ q).sails, rfl⟩
  · exact ⟨failed, .refl s, rfl⟩

/-! Commits that firmware makes (R118, R193). -/

theorem beside_refuseGroup (s : State) (g : Group) : Beside s (s.refuseGroup g) := by
  unfold refuseGroup
  refine .foldl (fun t c => ?_) _ (.foldl (fun t m => ?_) _ ((Beside.refl s).groups _))
  · exact ((Beside.refl t).modCtx c (f := fun x => { x with resume := none }) fun _ => rfl).trans (raise_log ..).beside
  · exact ((Beside.refl t).wr _ _).trans (refusePage_log ..).beside

theorem beside_joinGroup (s : State) (want : Nat) (m : Commit) : Beside s (s.joinGroup want m) := by
  have resumed (t : State) (stamp : Nat) (l : List Nat) :
      Beside t (l.foldl (fun s c => s.modCtx c fun x => { x with resume := some (want, stamp) }) t) :=
    .foldl (fun u c => (Beside.refl u).modCtx c (f := fun x => { x with resume := some (want, stamp) }) fun _ => rfl) l (.refl t)
  unfold joinGroup
  split
  · dsimp only
    refine .ite ?_ (.trans ?_ (beside_refuseGroup ..))
    all_goals exact (((Beside.refl s).groups _).trans (resumed ..)).wr _ _
  · dsimp only
    refine .ite ?_ (.trans ?_ (beside_refuseGroup ..))
    all_goals exact (((Beside.refl s).groups _).trans (resumed ..)).wr _ _

theorem beside_armVals (s : State) (page want : Nat) (vals : List (Nat × Word)) : Beside s (s.armVals page want vals) := by
  unfold armVals
  dsimp only
  refine .trans ?_ (beside_joinGroup ..)
  split
  · exact (((LogOnly.refl s).wr (page + oCOMMIT) _).trans (raise_log (s.orBits (page + oCOMMIT) 0x10) page 0x804 0 none 0)).beside
  · exact .refl s

theorem beside_armPage (s : State) (page : Nat) : Beside s (s.armPage page) := by
  have refused : Beside s (s.refusePage page) := (refusePage_log s page).beside
  have left : Beside s (s.leaveGroup page) := (Beside.refl s).groups _
  unfold armPage
  dsimp only
  generalize (shadowed page).map (fun a => (a, s.rd (a + 0x800))) = vals
  generalize s.rd64 (page + oCTIDE) = want
  split
  · refine .ite (beside_refuseGroup ..) (.ite refused ?_)
    have armed := left.trans (beside_armVals (s.leaveGroup page) page want vals)
    generalize (s.leaveGroup page).armVals page want vals = u at armed
    split
    · exact .ite (armed.trans (beside_refuseGroup ..)) armed
    · exact armed
  · refine .ite refused ?_
    have armed := beside_armVals s page want vals
    generalize s.armVals page want vals = u at armed
    split
    · exact .ite (armed.trans (beside_refuseGroup ..)) armed
    · exact armed

theorem beside_pilotCommit (s : State) (page : Nat) (vals : List (Nat × Word)) : Beside s (s.pilotCommit page vals) := by
  unfold pilotCommit
  exact (((Beside.foldl (fun t v => (Beside.refl t).wr _ _) vals (.refl s)).wr _ _).wr _ _).trans (beside_armPage ..)

theorem beside_commitGates (s : State) (c : Nat) : Beside s (s.commitGates c) :=
  .foldl (fun t _ => beside_pilotCommit t _ _) _ (.refl s)

/-- Regions whose plans are not blocked await no new plan (R388). -/
theorem retryPlans_unblocked {s : State} {c : Nat} (h : ∀ r ∈ (s.getCtx c).regions, (s.getRegion r).blocked = false) :
    s.retryPlans c = s := by
  have none : ((s.getCtx c).regions.filter fun r =>
      (s.getRegion r).blocked && s.power r = 2 && s.mayReplan r && (s.getRegion r).replan = none) = [] :=
    List.filter_eq_nil_iff.2 fun r hr => by simp [h r hr]
  unfold retryPlans
  rw [none]
  rfl


/-! A command of a buffer (R309, R313). -/

theorem sched_rtEnd (s : State) (p d : Nat) : (s.rtEnd p).sched d = s.sched d := by
  have same : ((s.rtEnd p).getCtx d).offset = (s.getCtx d).offset := by
    unfold rtEnd
    by_cases hd : s.qCtx p = d
    · subst hd
      rw [getCtx_modCtx_self]
    · rw [getCtx_modCtx_ne _ _ hd]
  exact congrArg (s.clk.tide - ·) same

/-- The start of a command is noted in schedule time once the RT wait has ended (R319, R322). -/
theorem atCommand_eq (s : State) (q : Nat) (c : Cmd) :
    let t := if s.qRt q ∧ c.op ≠ 1 then s.rtEnd q else s
    t.modExec q (fun e => { e with start := t.sched (t.qCtx q) }) = s.atCommand q c := by
  unfold atCommand
  dsimp only
  split
  · rw [sched_rtEnd]
    rfl
  · rfl

theorem beside_atCommand (s : State) (q : Nat) (c : Cmd) : queueFrame q s (s.atCommand q c) ∧ sailsSame s (s.atCommand q c)
    ∧ (s.atCommand q c).reg = s.reg := by
  unfold atCommand
  split
  · exact ⟨((beside_rtEnd s q).queueFrame q).trans (queueFrame_modExec ..), (beside_rtEnd s q).sails, rfl⟩
  · exact ⟨queueFrame_modExec .., .refl s, rfl⟩

section
variable {s : State} {q : Nat} {e : Exec} {f : CFrame} {fs : List CFrame} {c : Cmd} (h : s.mayCommand q e f fs c)
include h

theorem begin_idle : s.begin_ q = s := by
  obtain ⟨-, -, -, he, -⟩ := h
  have busy : (s.getQueue q).exec = some e := he
  unfold begin_
  dsimp only
  rw [busy]

theorem nextCmd_of : s.nextCmd q = some c := by
  obtain ⟨-, -, hr, he, hs, hc, hw, hf, -⟩ := h
  unfold nextCmd
  rw [he]
  dsimp only
  rw [if_neg (by simp [hr, hw, hf]), hs]
  exact hc

theorem execOf_atCommand : (s.atCommand q c).execOf q = some { e with start := s.sched (s.qCtx q) } := by
  obtain ⟨-, -, -, he, -⟩ := h
  unfold atCommand
  rw [execOf_modExec]
  split
  · rw [execOf_rtEnd, he]
    rfl
  · rw [he]
    rfl

/-- A command that may start does what its row does, in the state that it finds. -/
theorem command_runs {op : Nat} (ho : c.op = op) (g : Nat → Cmd → State → State) :
    State.command op g q s = g q c (s.atCommand q c) := by
  have run := execOf_atCommand h
  have begun := begin_idle h
  have next := nextCmd_of h
  have at_ := atCommand_eq s q c
  obtain ⟨-, -, -, he, -, -, -, -, ht, hk⟩ := h
  subst ho
  unfold command
  dsimp only at at_ ⊢
  rw [begun, next]
  dsimp only
  rw [if_neg (not_not.2 rfl), at_, run]
  dsimp only
  refine if_neg ?_
  rintro (bad | ⟨task, which⟩)
  · exact bad hk
  · obtain ⟨a, b, d⟩ := ht task
    omega

end

/-! The move to the next command (R313). -/

/-- The queue's item has gone on to its next command; nothing else differs. -/
def wentOn (q : Nat) (s t : State) : Prop := (∃ l, t = { s with queue := l }) ∧ ∀ j, j ≠ q → t.getQueue j = s.getQueue j

theorem wentOn.queueFrame {q : Nat} {s t : State} (h : wentOn q s t) : queueFrame q s t := by
  obtain ⟨⟨l, rfl⟩, hq⟩ := h
  exact ⟨hq, rfl, rfl, rfl, rfl, rfl, rfl, rfl⟩

theorem wentOn_modExec (s : State) (q : Nat) (g : Exec → Exec) : wentOn q s (s.modExec q g) :=
  ⟨⟨_, rfl⟩, (queueFrame_modExec s q g).1⟩

section
variable {s : State} {q : Nat} {e : Exec} {f : CFrame} {fs : List CFrame} (he : s.execOf q = some e)
  (hs : e.stack = f :: fs)
include he hs

/-- Inside its buffer and the pass of its loop, an item settles where it is. -/
theorem settle_stays (n : Nat) (hf : e.failed = none) (hw : e.waiting = false) (hg : f.goesOn f.pc) : settle n q s = s := by
  cases n with
  | zero => rfl
  | succ n =>
    unfold settle
    rw [he]
    dsimp only
    rw [if_neg (by simp [hf, hw]), hs]
    dsimp only
    unfold CFrame.goesOn at hg
    cases hl : f.loops with
    | nil =>
      rw [hl] at hg
      exact if_pos hg
    | cons lp ls =>
      rw [hl] at hg
      exact if_pos hg

theorem advance_goesOn (hf : e.failed = none) (hg : f.goesOn (f.pc + 1)) :
    (s.advance q).execOf q
        = some { e with waiting := false, deposit := none, stack := { f with pc := f.pc + 1 } :: fs }
      ∧ wentOn q s (s.advance q) := by
  have ready := s.execOf_modExec q fun e => { e with waiting := false, deposit := none }
  rw [he, Option.map_some] at ready
  have moved := execOf_modExec (s.modExec q fun e => { e with waiting := false, deposit := none }) q fun e =>
    match e.stack with
    | [] => e
    | t :: l => { e with stack := { t with pc := t.pc + 1 } :: l }
  rw [ready, Option.map_some] at moved
  dsimp only at moved
  rw [hs] at moved
  have stays := settle_stays moved rfl 16 hf rfl hg
  have done : s.advance q = (s.modExec q fun e => { e with waiting := false, deposit := none }).modTop q
    fun t => { t with pc := t.pc + 1 } := stays
  rw [done]
  exact ⟨moved, ⟨_, rfl⟩, ((queueFrame_modExec ..).trans (queueFrame_modExec ..)).1⟩

end

end State

/-! What the reads of a command leave: entries of its context's translation cache and counts of its quays (R434, R495). -/

structure CmdReads (c : Nat) (s t : State) : Prop where
  beside : Beside s t
  others : ∀ d, d ≠ c → t.getCtx d = s.getCtx d
  regs : ∀ a, a % 0x1000 ≠ 0x80 → t.rd a = s.rd a

theorem CmdReads.refl (c : Nat) (s : State) : CmdReads c s s := ⟨.refl s, fun _ _ => rfl, fun _ _ => rfl⟩

theorem CmdReads.trans {c : Nat} {s t u : State} (h : CmdReads c s t) (h' : CmdReads c t u) : CmdReads c s u :=
  ⟨h.beside.trans h'.beside, fun d hd => (h'.others d hd).trans (h.others d hd), fun a ha => (h'.regs a ha).trans (h.regs a ha)⟩

theorem CmdReads.qCtx {c : Nat} {s t : State} (h : CmdReads c s t) (q : Nat) : t.qCtx q = s.qCtx q :=
  congrArg (fieldOf · 23 20) (h.regs (queueP q + 0x50) (by unfold queueP; omega))

namespace State

theorem quayLines_reads (s : State) (c pa n : Nat) : CmdReads c s (s.quayLines pa n false) :=
  ⟨((LogOnly.refl s).count _ _).beside, fun d _ => getCtx_count .., fun a ha =>
    rd_count_ne s _ (by unfold quayP; rw [if_neg Bool.false_ne_true]; omega)⟩

theorem translate_reads (s : State) (c va : Nat) (write : Bool) : CmdReads c s (s.translate c va write).2 := by
  unfold translate
  split
  · exact .refl c s
  · split
    · split
      · exact .refl c s
      · exact .refl c s
    · split
      · next pa size base w _ =>
        exact ⟨(Beside.refl s).modCtx c (f := fun x => { x with tlb := (va / size * size, size, base, w) :: x.tlb }) fun _ => rfl,
          fun d hd => getCtx_modCtx_ne s _ (Ne.symm hd), fun _ _ => rfl⟩
      · exact .refl c s

/-- An access that reads only leaves what a read leaves, or ends with a status below those of a refused manifest. -/
def Acc.fetches {α : Type} (c : Nat) (s : State) : Acc α → Prop
  | .ok _ t => CmdReads c s t
  | .fail st _ => st < 0x300

section
variable {α : Type} {c : Nat} {s t : State} {a : Acc α}

theorem Acc.fetches.of (h : CmdReads c s t) (h' : Acc.fetches c t a) : Acc.fetches c s a := by
  cases a with
  | ok v u => exact h.trans h'
  | fail st u => exact h'

theorem Acc.fetches.read {v : α} (h : Acc.fetches c s a) (ha : a = .ok v t) : CmdReads c s t := by
  subst ha
  exact h

theorem Acc.fetches.small {st : Nat} (h : Acc.fetches c s a) (ha : a = .fail st t) : st < 0x300 := by
  subst ha
  exact h

end

theorem Acc.fetches.status {α : Type} {c st : Nat} {s t : State} (h : st < 0x300) : Acc.fetches c s (.fail st t : Acc α) := h

/-- A page that a command may use is found; one that it may not use ends it with 1 or 0x0B (R495). -/
theorem cmdPage_fetches (s : State) (c va : Nat) (write must : Bool) : (s.cmdPage c va write must).fetches c s := by
  have looked := translate_reads s c va write
  unfold cmdPage
  generalize s.translate c va write = look at looked
  obtain ⟨tr, u⟩ := look
  cases tr with
  | absent =>
    dsimp only
    split
    · exact .status (by decide)
    · exact .status (by decide)
  | refused code => exact .status (by decide)
  | ok pa =>
    dsimp only
    split
    · exact .status (by decide)
    · split
      · exact looked
      · exact .status (by decide)

theorem cmdRead_fetches (c : Nat) (must asked : Bool) (l : List (Nat × Nat)) :
    ∀ (acc : List Byte) (s : State), (s.cmdRead c must asked l acc).fetches c s := by
  induction l with
  | nil => exact fun acc s => CmdReads.refl c s
  | cons x l ih =>
    intro acc s
    have found := cmdPage_fetches s c x.1 false must
    unfold cmdRead
    split
    · next pa u hu =>
      refine .of ((found.read hu).trans ?_) (ih _ _)
      split
      · exact .refl c u
      · exact quayLines_reads ..
    · next st u hu => exact found.small hu

theorem relocHandle_fetches (s : State) (c : Nat) (ref : DWord) (len : Nat) : (s.relocHandle c ref len).fetches c s := by
  unfold relocHandle
  extract_lets h off
  split
  · exact .status (by decide)
  · have read := cmdRead_fetches c false false (runsOf (s.rd64 (ctxP c + 0x58) + 16 * h) 16) [] s
    generalize s.cmdRead c false false (runsOf (s.rd64 (ctxP c + 0x58) + 16 * h) 16) [] = got at read
    cases got with
    | fail st u => exact read
    | ok l u =>
      dsimp only
      split
      · exact .status (by decide)
      · exact read

theorem reloc_fetches (s : State) (q : Nat) (ref : DWord) (len : Nat) : (s.reloc q ref len).fetches (s.qCtx q) s := by
  unfold reloc
  split
  · exact .status (by decide)
  · dsimp only
    split
    · split
      · exact CmdReads.refl _ s
      · exact .status (by decide)
    · exact relocHandle_fetches ..

theorem readLoc_fetches (s : State) (q a n : Nat) : (s.readLoc q a n).fetches (s.qCtx q) s := by
  unfold readLoc
  split
  · exact CmdReads.refl _ s
  · exact cmdRead_fetches ..

/-- A reference and the bytes behind it. -/
theorem reads_of {s t u : State} {q a n m : Nat} {ref : DWord} {l : List Byte} (h : s.reloc q ref n = .ok a t)
    (h' : t.readLoc q a m = .ok l u) : CmdReads (s.qCtx q) s u := by
  have found := (reloc_fetches s q ref n).read h
  have read := (readLoc_fetches t q a m).read h'
  rw [found.qCtx q] at read
  exact found.trans read

/-- The parameter block is relocated by reads alone (R315). -/
theorem relocBlock_fetches (q bits : Nat) (is : List Nat) :
    ∀ (l : List Byte) (s : State), (relocBlock q bits is l s).fetches (s.qCtx q) s := by
  induction is with
  | nil => exact fun l s => CmdReads.refl _ s
  | cons i is ih =>
    intro l s
    have found := reloc_fetches s q (dwordAt l (8 * i)) 1
    unfold relocBlock
    split
    · exact ih l s
    · split
      · exact .status (by decide)
      · split
        · next st u hu => exact found.small hu
        · next va u hu =>
          have place := found.read hu
          have rest := ih (patchAt l (8 * i) (leBytes 8 va)) u
          rw [place.qCtx q] at rest
          exact .of place rest

/-- How the reading of a voyage's legs ends (R316): with reads alone, or with 0x920 for a manifest that fails its checks. -/
def Acc.readsLegs {α : Type} (c : Nat) (s : State) : Acc α → Prop
  | .ok _ t => CmdReads c s t
  | .fail st t => 0x300 ≤ st → ∃ u i, CmdReads c s u ∧ t = u.raise (ctxP c) 0x920 i (some c) 0

theorem Acc.readsLegs.of {α : Type} {c : Nat} {s t : State} {a : Acc α} (h : CmdReads c s t) (h' : Acc.readsLegs c t a) :
    Acc.readsLegs c s a := by
  cases a with
  | ok v u => exact h.trans h'
  | fail st u =>
    intro big
    obtain ⟨w, i, hw, hu⟩ := h' big
    exact ⟨w, i, h.trans hw, hu⟩

theorem Acc.readsLegs.small {α : Type} {c st : Nat} {s t : State} (h : st < 0x300) :
    Acc.readsLegs c s (.fail st t : Acc α) := fun big => absurd h (Nat.not_lt.2 big)

theorem readLegs_ends (q params : Nat) (es : List (List Byte)) : ∀ (acc : List (List Byte)) (s : State),
    (readLegs q (s.qCtx q) params es acc s).readsLegs (s.qCtx q) s := by
  induction es with
  | nil => exact fun acc s => CmdReads.refl _ s
  | cons e l ih =>
    intro acc s
    have found := reloc_fetches s q (dwordAt e 0) (fieldAt e 8 4)
    unfold readLegs
    dsimp only
    split
    · next st u hu => exact .small (found.small hu)
    · next va u hu =>
      split
      · next st w hw => exact .small ((readLoc_fetches u q va (fieldAt e 8 4)).small hw)
      · next m w hw =>
        have read := reads_of hu hw
        split
        · exact .small (by decide)
        · split
          · exact fun _ => ⟨w, _, read, rfl⟩
          · have rest := ih (acc ++ [m]) w
            rw [read.qCtx q] at rest
            exact .of read rest

end State

/-! A queue's command as the Dispatcher takes it. -/

theorem act_waits {q : Nat} (hq : q < 64) {b : Bool} (hb : b = false) (g : State → State) (s : State) :
    actAt (decide (q < 64)) (when b g) s = .next s := by
  subst hb
  rw [decide_eq_true hq, actAt_present]
  cases awake : s.awake with
  | true => exact act_awake awake
  | false => exact act_asleep awake

theorem act_command {s : State} {q : Nat} {e : Exec} {f : CFrame} {fs : List CFrame} {c : Cmd} (h : s.mayCommand q e f fs c)
    {op : Nat} (ho : c.op = op) {b : Bool} (hb : b = true) (g : Nat → Cmd → State → State) :
    actAt (decide (q < 64)) (when b (State.command op g q)) s = .next (s.framed (g q c (s.atCommand q c))) := by
  subst hb
  rw [decide_eq_true h.1, actAt_present, act_awake h.2.1, when_true rfl, State.command_runs h ho]

/-! Sections of chart memory that come and go (R215, R317). -/

/-- Only the chart memories of the cores in `l` may differ in their layout: the berths, the other cores, the queues, the
regions, the contexts' voyages and launches, and what is outside are the same. -/
structure Relaid (l : List Nat) (s t : State) : Prop where
  queue : t.queue = s.queue
  region : t.region = s.region
  outside : outsideSame s t
  sails : sailsSame s t
  others : ∀ k, k ∉ l → t.getCore k = s.getCore k
  berths : ∀ k, (t.getCore k).wb = (s.getCore k).wb ∧ (t.getCore k).ab = (s.getCore k).ab ∧ (t.getCore k).pb = (s.getCore k).pb

theorem Relaid.refl (l : List Nat) (s : State) : Relaid l s s :=
  ⟨rfl, rfl, ⟨rfl, rfl, rfl, rfl, rfl⟩, .refl s, fun _ _ => rfl, fun _ => ⟨rfl, rfl, rfl⟩⟩

theorem Relaid.trans {l : List Nat} {s t u : State} (h : Relaid l s t) (h' : Relaid l t u) : Relaid l s u :=
  ⟨h'.queue.trans h.queue, h'.region.trans h.region, h.outside.trans h'.outside, h.sails.trans h'.sails,
    fun k hk => (h'.others k hk).trans (h.others k hk), fun k => by
      obtain ⟨w, a, p⟩ := h.berths k
      obtain ⟨w', a', p'⟩ := h'.berths k
      exact ⟨w'.trans w, a'.trans a, p'.trans p⟩⟩

theorem Relaid.foldl {l : List Nat} {g : State → Nat → State} (hg : ∀ t, ∀ k ∈ l, Relaid l t (g t k)) (m : List Nat)
    (hm : ∀ k ∈ m, k ∈ l) : ∀ s, Relaid l s (m.foldl g s) := by
  induction m with
  | nil => exact fun s => .refl l s
  | cons k m ih =>
    exact fun s => (hg s k (hm k (List.mem_cons_self ..))).trans (ih (fun j hj => hm j (List.mem_cons_of_mem _ hj)) _)

namespace State

/-- A core whose sections change reads its chart memory in another layout (R226). -/
def relaidCore (s : State) (f : List ChartSect → List ChartSect) (x : Core) : Core :=
  { x with sects := f x.sects, layout := s.nextId, chart := { gen := 4 * s.nextId + 3 } }

/-- The sections of core `k` have changed, and the layout is one that no other has. -/
def relaid (s : State) (k : Nat) (f : List ChartSect → List ChartSect) : State := { s.relay k f with nextId := s.nextId + 1 }

theorem getCore_relaid_self (s : State) (k : Nat) (f : List ChartSect → List ChartSect) :
    (s.relaid k f).getCore k = s.relaidCore f (s.getCore k) := getCore_modCore_self s k (s.relaidCore f)

theorem getCore_relaid_ne (s : State) {k j : Nat} (f : List ChartSect → List ChartSect) (h : k ≠ j) :
    (s.relaid k f).getCore j = s.getCore j := getCore_modCore_ne s (s.relaidCore f) h

theorem relaid_relay {l : List Nat} {k : Nat} (hk : k ∈ l) (s : State) (f : List ChartSect → List ChartSect) :
    Relaid l s (s.relaid k f) := by
  refine ⟨rfl, rfl, ⟨rfl, rfl, rfl, rfl, rfl⟩, .refl s, fun j hj => getCore_relaid_ne s f ?_, fun j => ?_⟩
  · rintro rfl
    exact hj hk
  · by_cases hj : k = j
    · subst hj
      rw [getCore_relaid_self]
      exact ⟨rfl, rfl, rfl⟩
    · rw [getCore_relaid_ne s f hj]
      exact ⟨rfl, rfl, rfl⟩

theorem relaid_translateVoyage {l : List Nat} {k : Nat} (hk : k ∈ l) (s : State) (c v : Nat) (legs : List (List Byte)) :
    Relaid l s (s.translateVoyage c k v legs) := by
  unfold translateVoyage
  dsimp only
  split
  · exact .refl l s
  · exact relaid_relay hk ..

theorem relaid_untranslateVoyage {l : List Nat} {k : Nat} (hk : k ∈ l) (s : State) (c v : Nat) :
    Relaid l s (s.untranslateVoyage c k v) := by
  unfold untranslateVoyage
  split
  · exact relaid_relay hk ..
  · exact .refl l s

theorem sects_translateVoyage (s : State) (c k v : Nat) (legs : List (List Byte)) :
    ((s.translateVoyage c k v legs).getCore k).sects
      = (s.getCore k).sects ++ chartSects c v (s.getCore k).mindex legs := by
  unfold translateVoyage
  dsimp only
  split
  · next none => rw [List.isEmpty_iff.1 none, List.append_nil]
  · exact congrArg Core.sects (getCore_relaid_self s k _)

/-- The sections of a core but those of a voyage of a context. -/
def sectsBut (c v : Nat) (l : List ChartSect) : List ChartSect := l.filter fun y => !(y.ctx = c && y.voyage = v)

theorem sects_untranslateVoyage (s : State) (c k v : Nat) :
    ((s.untranslateVoyage c k v).getCore k).sects = sectsBut c v (s.getCore k).sects := by
  unfold untranslateVoyage sectsBut
  split
  · refine (congrArg Core.sects (getCore_relaid_self s k _)).trans (List.filter_congr fun y _ => ?_)
    simp
  · next none =>
    refine (List.filter_eq_self.2 fun y hy => ?_).symm
    have away := List.any_eq_false.1 (Bool.eq_false_iff.2 none) y hy
    rw [Bool.not_eq_true']
    exact Bool.eq_false_iff.2 away

/-- Each core of a list without repetition gets the sections of a voyage once. -/
theorem sects_translated (c v : Nat) (legs : List (List Byte)) (l : List Nat) : ∀ (s : State), l.Nodup → ∀ k ∈ l,
    ((l.foldl (fun s k => s.translateVoyage c k v legs) s).getCore k).sects
      = (s.getCore k).sects ++ chartSects c v (s.getCore k).mindex legs := by
  induction l with
  | nil => exact fun _ _ _ => nofun
  | cons a l ih =>
    intro s hn k hk
    obtain ⟨fresh, hn⟩ := List.nodup_cons.1 hn
    rw [List.foldl_cons]
    rcases List.mem_cons.1 hk with rfl | hk
    · rw [(Relaid.foldl (l := l) (fun t j hj => relaid_translateVoyage hj t c v legs) l (fun _ => id) _).others k fresh]
      exact sects_translateVoyage ..
    · have other : (s.translateVoyage c a v legs).getCore k = s.getCore k :=
        (relaid_translateVoyage (List.mem_singleton_self a) s c v legs).others k fun same =>
          fresh (List.mem_singleton.1 same ▸ hk)
      rw [ih _ hn k hk, other]

theorem sectsBut_twice (c v : Nat) (l : List ChartSect) : sectsBut c v (sectsBut c v l) = sectsBut c v l := by
  unfold sectsBut
  rw [List.filter_filter]
  exact List.filter_congr fun y _ => Bool.and_self _

/-- The sections of a voyage leave every core of a list. -/
theorem sects_untranslated (c v : Nat) (l : List Nat) : ∀ (s : State), ∀ k ∈ l,
    ((l.foldl (fun s k => s.untranslateVoyage c k v) s).getCore k).sects = sectsBut c v (s.getCore k).sects := by
  induction l with
  | nil => exact fun _ _ => nofun
  | cons a l ih =>
    intro s k hk
    have here : sectsBut c v ((s.untranslateVoyage c a v).getCore k).sects = sectsBut c v (s.getCore k).sects := by
      by_cases same : a = k
      · subst same
        rw [sects_untranslateVoyage, sectsBut_twice]
      · rw [(relaid_untranslateVoyage (List.mem_singleton_self a) s c v).others k fun m => same (List.mem_singleton.1 m).symm]
    rw [List.foldl_cons]
    by_cases more : k ∈ l
    · rw [ih _ k more, here]
    · obtain rfl : k = a := (List.mem_cons.1 hk).resolve_right more
      rw [(Relaid.foldl (l := l) (fun t j hj => relaid_untranslateVoyage hj t c v) l (fun _ => id) _).others k more]
      exact sects_untranslateVoyage ..


theorem coresOf_congr {s t : State} (h : t.core = s.core) (c : Nat) : t.coresOf c = s.coresOf c := by
  unfold coresOf
  rw [h]

/-! How REGISTER, RELEASE and LAUNCH go (R315, R316, R317). -/

/-- A voyage is added and its sections are placed. -/
def placed (s : State) (x v params : Nat) (ms : List (List Byte)) : State :=
  (s.coresOf x).foldl (fun s k => s.translateVoyage x k v ms)
    (s.modCtx x fun y => { y with voyages := Tab.put y.voyages v ⟨params, ms⟩ })

/-- A voyage and its sections are taken away. -/
def takenAway (s : State) (x v : Nat) : State :=
  (s.coresOf x).foldl (fun s k => s.untranslateVoyage x k v) (s.modCtx x fun y => { y with voyages := Tab.del y.voyages v })

/-- A REGISTER whose commits are made goes on, or waits for its segments. -/
def registered (s : State) (q x : Nat) : State :=
  if s.gatesReady x then s.advance q else s.modExec q fun e => { e with waiting := true }

/-- A launch starts behind the others, and is counted. -/
def launched (s : State) (q x : Nat) (l : Launch) : State :=
  ((s.modCtx x fun y => { y with launches := y.launches ++ [l], nextLaunch := l.id + 1, started := true }).count
    (ctxP x + 0xC0) 1).modExec q fun e => { e with launches := e.launches ++ [l.id] }

/-- The launch that a LAUNCH of the item `e` starts with a relocated parameter block. -/
def launchOf (s : State) (q : Nat) (c : Cmd) (e : Exec) (params : List Byte) : Launch where
  id := (s.getCtx (s.qCtx q)).nextLaunch
  queue := q
  seq := e.item.seq
  voyage := c.arg % 64
  params := params
  test := bitOf (word c.arg) 8
  rt := s.qRt q
  cmd := cmdIndex e

section
variable {s : State} {q : Nat} {c : Cmd}

theorem cmdRegister_taken (hv : ∃ v ∈ (s.getCtx (s.qCtx q)).voyages, v.1 = c.arg) : cmdRegister q c s = s.failHere q 8 := by
  obtain ⟨v, hm, he⟩ := hv
  unfold cmdRegister
  extract_lets x
  exact if_pos (List.any_eq_true.2 ⟨v, hm, decide_eq_true he⟩)

/-- A free number with a legal descriptor: the legs decide. -/
theorem cmdRegister_legs (hv : ∀ v ∈ (s.getCtx (s.qCtx q)).voyages, v.1 ≠ c.arg) {a b : Nat} {h d : List Byte}
    {u1 u2 u3 u4 : State} (ra : s.reloc q (c.word 0) 16 = .ok a u1) (rh : u1.readLoc q a 16 = .ok h u2)
    (magic : fieldAt h 0 4 = 0x5956584A) (one : 1 ≤ fieldAt h 4 1) (most : fieldAt h 4 1 ≤ 64) (zero : zeroAt h 5 3 = true)
    (four : fieldAt h 8 2 % 4 = 0) (block : fieldAt h 8 2 ≤ 1024) (zero' : zeroAt h 10 6 = true)
    (rb : u2.reloc q (c.word 0) (16 + 16 * fieldAt h 4 1) = .ok b u3)
    (rd : u3.readLoc q b (16 + 16 * fieldAt h 4 1) = .ok d u4)
    (legal : ∀ r ∈ recordsOf 16 (d.drop 16), fieldAt r 8 4 ≠ 0 ∧ zeroAt r 12 4 = true) :
    (∀ ms u5, readLegs q (s.qCtx q) (fieldAt h 8 2) (recordsOf 16 (d.drop 16)) [] u4 = .ok ms u5 →
        cmdRegister q c s
          = (((u5.placed (s.qCtx q) c.arg (fieldAt h 8 2) ms).commitGates (s.qCtx q)).retryPlans (s.qCtx q)).registered q (s.qCtx q))
      ∧ ∀ st u5, readLegs q (s.qCtx q) (fieldAt h 8 2) (recordsOf 16 (d.drop 16)) [] u4 = .fail st u5 →
        cmdRegister q c s = u5.failRegister q st := by
  have free : ((s.getCtx (s.qCtx q)).voyages.any fun v => v.1 = c.arg) = false :=
    List.any_eq_false.2 fun v hm => by simp [hv v hm]
  have shape : ¬(fieldAt h 0 4 ≠ 0x5956584A ∨ fieldAt h 4 1 = 0 ∨ 64 < fieldAt h 4 1 ∨ ¬zeroAt h 5 3 ∨ fieldAt h 8 2 % 4 ≠ 0
      ∨ 1024 < fieldAt h 8 2 ∨ ¬zeroAt h 10 6) := by
    simp only [magic, four, zero, zero', not_true_eq_false, ne_eq, false_or, or_false]
    omega
  have entries : ((recordsOf 16 (d.drop 16)).any fun e => fieldAt e 8 4 = 0 || !zeroAt e 12 4) = false :=
    List.any_eq_false.2 fun r hr => by
      obtain ⟨len, zeros⟩ := legal r hr
      simp [len, zeros]
  have legs : cmdRegister q c s = match readLegs q (s.qCtx q) (fieldAt h 8 2) (recordsOf 16 (d.drop 16)) [] u4 with
      | .fail st s => s.failRegister q st
      | .ok ms u => (((u.placed (s.qCtx q) c.arg (fieldAt h 8 2) ms).commitGates (s.qCtx q)).retryPlans (s.qCtx q)).registered q
          (s.qCtx q) := by
    unfold cmdRegister
    extract_lets x
    rw [if_neg (Bool.eq_false_iff.1 free), ra]
    dsimp only
    rw [rh]
    dsimp only
    rw [if_neg shape, rb]
    dsimp only
    rw [rd]
    dsimp only
    rw [if_neg (Bool.eq_false_iff.1 entries)]
    rfl
  exact ⟨fun ms u5 hr => by rw [legs, hr], fun st u5 hr => by rw [legs, hr]⟩

theorem cmdRelease_of (hv : ∃ v ∈ (s.getCtx (s.qCtx q)).voyages, v.1 = c.arg) :
    cmdRelease q c s = ((s.takenAway (s.qCtx q) c.arg).commitGates (s.qCtx q)).advance q := by
  obtain ⟨v, hm, he⟩ := hv
  have there : ((s.getCtx (s.qCtx q)).voyages.all fun v => v.1 ≠ c.arg) = false :=
    List.all_eq_false.2 ⟨v, hm, by simp [he]⟩
  unfold cmdRelease
  extract_lets x
  rw [if_neg (Bool.eq_false_iff.1 there)]
  rfl

theorem cmdLaunch_unregistered (hv : ∀ v ∈ (s.getCtx (s.qCtx q)).voyages, v.1 ≠ c.arg % 64) :
    cmdLaunch q c s = s.failHere q 8 := by
  have none : ((s.getCtx (s.qCtx q)).voyages.find? fun v => v.1 = c.arg % 64) = none :=
    List.find?_eq_none.2 fun v hm => by simp [hv v hm]
  unfold cmdLaunch
  extract_lets x id n
  rw [none]

/-- The block of `n` bytes that a LAUNCH names has been read. -/
def blockRead (s : State) (q : Nat) (ref : DWord) (n : Nat) (l : List Byte) (t : State) : Prop :=
  (n = 0 ∧ l = [] ∧ t = s) ∨ (n ≠ 0 ∧ ∃ a u, s.reloc q ref n = .ok a u ∧ u.readLoc q a n = .ok l t)

theorem blockRead.reads {ref : DWord} {n : Nat} {l : List Byte} {t : State} (h : s.blockRead q ref n l t) :
    CmdReads (s.qCtx q) s t := by
  rcases h with ⟨-, -, rfl⟩ | ⟨-, a, u, hr, hl⟩
  · exact .refl _ _
  · exact reads_of hr hl

theorem blockRead.relocated {ref : DWord} {n bits : Nat} {l l' : List Byte} {is : List Nat} {t u : State}
    (h : s.blockRead q ref n l t) (hr : relocBlock q bits is l t = .ok l' u) : CmdReads (s.qCtx q) s u := by
  have more := (relocBlock_fetches q bits is l t).read hr
  rw [h.reads.qCtx q] at more
  exact h.reads.trans more

theorem cmdLaunch_of {v : Nat × Voyage} {l l' : List Byte} {u1 u2 : State} {e : Exec}
    (hv : ((s.getCtx (s.qCtx q)).voyages.find? fun v => v.1 = c.arg % 64) = some v) (hn : (c.word 1).toNat ≤ v.2.paramBytes)
    (hl : s.blockRead q (c.word 0) (c.word 1).toNat l u1)
    (hr : relocBlock q ((c.word 2).toNat + (c.word 3).toNat * 2 ^ 64) (List.range 128) l u1 = .ok l' u2)
    (he : u2.execOf q = some e) :
    cmdLaunch q c s = (u2.launched q (u2.qCtx q) (u2.launchOf q c e l')).advance q := by
  have same := (hl.relocated hr).qCtx q
  unfold cmdLaunch
  extract_lets x id n got
  obtain ⟨block, hb⟩ : ∃ block, relocBlock q ((c.word 2).toNat + (c.word 3).toNat * 2 ^ 64) (List.range 128) = block := ⟨_, rfl⟩
  rw [hb] at hr ⊢
  have read : got = .ok l u1 := by
    rcases hl with ⟨zero, rfl, rfl⟩ | ⟨some_, a, u, ha, hl⟩
    · exact if_pos zero
    · refine (if_neg some_).trans ?_
      rw [ha]
      exact hl
  rw [hv]
  dsimp only
  rw [if_neg (Nat.not_lt.2 hn), read]
  dsimp only
  rw [hr]
  dsimp only
  rw [he]
  unfold launchOf
  rw [same]
  rfl

end
end State

/-- The item once its command has failed (R309). -/
def Exec.failing (e : Exec) (now st detail : Nat) : Exec :=
  { e with start := now, deposit := none, failed := some (st, detail, State.cmdIndex e) }

/-- A relayout of the cores of a context keeps what the statement of REGISTER and RELEASE calls translated. -/
def translatedFrame (q : Nat) (l : List Nat) (s t : State) : Prop :=
  (∀ j, j ≠ q → t.getQueue j = s.getQueue j) ∧ (∀ k, k ∉ l → t.getCore k = s.getCore k)
    ∧ (∀ k, (t.getCore k).wb = (s.getCore k).wb ∧ (t.getCore k).ab = (s.getCore k).ab ∧ (t.getCore k).pb = (s.getCore k).pb)
    ∧ t.region = s.region ∧ outsideSame s t

theorem queueFrame.translated {q : Nat} {s t : State} (h : queueFrame q s t) (l : List Nat) : translatedFrame q l s t :=
  ⟨h.1, fun k _ => State.getCore_congr h.2.1 k, fun k => by rw [State.getCore_congr h.2.1 k]; exact ⟨rfl, rfl, rfl⟩,
    h.2.2.1, h.2.2.2⟩

theorem Relaid.translated {l : List Nat} {s t : State} (h : Relaid l s t) (q : Nat) : translatedFrame q l s t :=
  ⟨fun j _ => congrArg (fun m => (Tab.get {} m j : Queue)) h.queue, h.others, h.berths, h.region, h.outside⟩

theorem translatedFrame.trans {q : Nat} {l : List Nat} {s t u : State} (h : translatedFrame q l s t)
    (h' : translatedFrame q l t u) : translatedFrame q l s u := by
  obtain ⟨hq, hc, hb, hr, ho⟩ := h
  obtain ⟨hq', hc', hb', hr', ho'⟩ := h'
  refine ⟨fun j hj => (hq' j hj).trans (hq j hj), fun k hk => (hc' k hk).trans (hc k hk), fun k => ?_, hr'.trans hr, ho.trans ho'⟩
  obtain ⟨w, a, p⟩ := hb k
  obtain ⟨w', a', p'⟩ := hb' k
  exact ⟨w'.trans w, a'.trans a, p'.trans p⟩

theorem translatedFrame.framed {q : Nat} {l : List Nat} {s t : State} (h : translatedFrame q l s t) :
    translatedFrame q l s (s.framed t) := by
  obtain ⟨hq, hc, hb, hr, hd, hm, -⟩ := h
  exact ⟨hq, hc, hb, hr, hd, hm, rfl, rfl, rfl⟩

theorem qCtx_atCommand (s : State) (q : Nat) (c : Cmd) : (s.atCommand q c).qCtx q = s.qCtx q := by
  obtain ⟨-, -, reg⟩ := State.beside_atCommand s q c
  unfold State.qCtx State.rd
  rw [reg]

theorem voyages_atCommand (s : State) (q : Nat) (c : Cmd) (d : Nat) : ((s.atCommand q c).getCtx d).voyages = (s.getCtx d).voyages :=
  (State.beside_atCommand s q c).2.1.voyages d

section
variable {s : State} {q : Nat} {e : Exec} {f : CFrame} {fs : List CFrame} {c : Cmd} (h : s.mayCommand q e f fs c)
include h

theorem execOf_atCommand_failing {u : State} (hu : u.execOf q = some { e with start := s.sched (s.qCtx q) }) (st detail : Nat) :
    (u.failCmd q st detail (State.cmdIndex e)).execOf q = some (e.failing (s.sched (s.qCtx q)) st detail) := by
  obtain ⟨-, -, -, -, -, -, hw, hf, -⟩ := h
  rw [State.execOf_failCmd hu hf]
  unfold Exec.failing
  rw [hw]

/-- A command that fails where it stands (R309). -/
theorem atCommand_failHere (st : Nat) :
    ((s.atCommand q c).failHere q st).execOf q = some (e.failing (s.sched (s.qCtx q)) st 0)
      ∧ queueFrame q s ((s.atCommand q c).failHere q st) ∧ sailsSame s ((s.atCommand q c).failHere q st) := by
  have run := State.execOf_atCommand h
  obtain ⟨frame, sails, -⟩ := State.beside_atCommand s q c
  have fails : (s.atCommand q c).failHere q st = (s.atCommand q c).failCmd q st 0 (State.cmdIndex e) := by
    unfold State.failHere
    rw [run]
    rfl
  obtain ⟨kept, sails', -⟩ := (s.atCommand q c).failCmd_keeps q st 0 (State.cmdIndex e)
  rw [fails]
  exact ⟨execOf_atCommand_failing h run st 0, frame.trans kept, sails.trans sails'⟩

theorem exec_register (ho : c.op = 0x10) (hm : s.mayRegister q = true) :
    exec (.cmdRegister q) s = .next (s.framed (State.cmdRegister q c (s.atCommand q c))) := act_command h ho hm _

theorem exec_release (ho : c.op = 0x11) (hm : s.mayRegister q = true) :
    exec (.cmdRelease q) s = .next (s.framed (State.cmdRelease q c (s.atCommand q c))) := act_command h ho hm _

theorem exec_launch (ho : c.op = 1) (hr : s.registering (s.qCtx q) = false) :
    exec (.cmdLaunch q) s = .next (s.framed (State.cmdLaunch q c (s.atCommand q c))) :=
  act_command h ho (Bool.not_eq_eq_eq_not.2 hr) _

/-- REGISTER of a number that is taken fails (R316). -/
theorem register_taken (ho : c.op = 0x10) (hm : s.mayRegister q = true)
    (hv : ∃ v ∈ (s.getCtx (s.qCtx q)).voyages, v.1 = c.arg) :
    ∃ t, exec (.cmdRegister q) s = .next t ∧ t.execOf q = some (e.failing (s.sched (s.qCtx q)) 8 0) ∧ queueFrame q s t := by
  obtain ⟨failed, frame, -⟩ := atCommand_failHere h 8
  refine ⟨_, exec_register h ho hm, ?_⟩
  rw [State.cmdRegister_taken (by rw [qCtx_atCommand, voyages_atCommand]; exact hv)]
  exact ⟨failed, frame.framed⟩

/-- LAUNCH of a voyage that is not registered fails (R315). -/
theorem launch_unregistered (ho : c.op = 1) (hr : s.registering (s.qCtx q) = false)
    (hv : ∀ v ∈ (s.getCtx (s.qCtx q)).voyages, v.1 ≠ c.arg % 64) :
    ∃ t, exec (.cmdLaunch q) s = .next t ∧ t.execOf q = some (e.failing (s.sched (s.qCtx q)) 8 0)
      ∧ (t.getCtx (s.qCtx q)).launches = (s.getCtx (s.qCtx q)).launches ∧ queueFrame q s t := by
  obtain ⟨failed, frame, sails⟩ := atCommand_failHere h 8
  refine ⟨_, exec_launch h ho hr, ?_⟩
  rw [State.cmdLaunch_unregistered (by rw [qCtx_atCommand, voyages_atCommand]; exact hv)]
  exact ⟨failed, sails.launches _, frame.framed⟩

end

namespace State

/-! What a voyage that is placed or taken away leaves. -/

theorem wentOn.sails {q : Nat} {s t : State} (h : wentOn q s t) : sailsSame s t := by
  obtain ⟨⟨l, rfl⟩, -⟩ := h
  exact .refl s

theorem wentOn.gatesReady {q : Nat} {s t : State} (h : wentOn q s t) (x : Nat) : t.gatesReady x = s.gatesReady x := by
  obtain ⟨⟨l, rfl⟩, -⟩ := h
  rfl

theorem translatedFrame_modCtx (s : State) (q x : Nat) (l : List Nat) (g : Ctx → Ctx) : translatedFrame q l s (s.modCtx x g) :=
  ⟨fun _ _ => rfl, fun _ _ => rfl, fun _ => ⟨rfl, rfl, rfl⟩, rfl, rfl, rfl, rfl, rfl, rfl⟩

section
variable (s : State) (x v : Nat)

theorem relaid_placed (params : Nat) (ms : List (List Byte)) :
    Relaid (s.coresOf x) (s.modCtx x fun y => { y with voyages := Tab.put y.voyages v ⟨params, ms⟩ }) (s.placed x v params ms) :=
  .foldl (fun t _ hk => relaid_translateVoyage hk t x v ms) _ (fun _ => id) _

theorem relaid_takenAway :
    Relaid (s.coresOf x) (s.modCtx x fun y => { y with voyages := Tab.del y.voyages v }) (s.takenAway x v) :=
  .foldl (fun t _ hk => relaid_untranslateVoyage hk t x v) _ (fun _ => id) _

theorem voyages_placed (params : Nat) (ms : List (List Byte)) :
    ((s.placed x v params ms).getCtx x).voyages = Tab.put (s.getCtx x).voyages v ⟨params, ms⟩ :=
  ((s.relaid_placed x v params ms).sails.voyages x).trans (congrArg Ctx.voyages (getCtx_modCtx_self s x _))

theorem voyages_takenAway : ((s.takenAway x v).getCtx x).voyages = Tab.del (s.getCtx x).voyages v :=
  ((s.relaid_takenAway x v).sails.voyages x).trans (congrArg Ctx.voyages (getCtx_modCtx_self s x _))

theorem sects_placed (params : Nat) (ms : List (List Byte)) (hn : (s.coresOf x).Nodup) : ∀ k ∈ s.coresOf x,
    ((s.placed x v params ms).getCore k).sects = (s.getCore k).sects ++ chartSects x v (s.getCore k).mindex ms :=
  sects_translated x v ms (s.coresOf x) (s.modCtx x fun y => { y with voyages := Tab.put y.voyages v ⟨params, ms⟩ }) hn

theorem sects_takenAway : ∀ k ∈ s.coresOf x,
    ((s.takenAway x v).getCore k).sects = (s.getCore k).sects.filter (fun y => !(y.ctx = x && y.voyage = v)) :=
  sects_untranslated x v (s.coresOf x) (s.modCtx x fun y => { y with voyages := Tab.del y.voyages v })

end

end State

theorem Relaid.execOf {l : List Nat} {s t : State} (h : Relaid l s t) (q : Nat) : t.execOf q = s.execOf q :=
  congrArg (fun m => (Tab.get {} m q : Queue).exec) h.queue

theorem State.execOf_framed (s t : State) (q : Nat) : (s.framed t).execOf q = t.execOf q := rfl

theorem Beside.getCore {s t : State} (h : Beside s t) (k : Nat) : t.getCore k = s.getCore k := State.getCore_congr h.core k

section
variable {s : State} {q : Nat} {e : Exec} {f : CFrame} {fs : List CFrame} {c : Cmd} (h : s.mayCommand q e f fs c)
  (hg : f.goesOn (f.pc + 1))
include h hg

/-- The item of a command that has run goes on to the next one, from a state that has the item as the command found it. -/
theorem goes_past {u : State} (hu : u.execOf q = some { e with start := s.sched (s.qCtx q) }) :
    (u.advance q).execOf q = some (e.past f fs (f.pc + 1) (s.sched (s.qCtx q))) ∧ State.wentOn q u (u.advance q) := by
  obtain ⟨-, -, -, -, hs, -, -, hf, -⟩ := h
  exact State.advance_goesOn hu hs hf hg

/-- RELEASE takes the voyage away with its sections (R317). -/
theorem release_done (ho : c.op = 0x11) (hm : s.mayRegister q = true)
    (hv : ∃ v ∈ (s.getCtx (s.qCtx q)).voyages, v.1 = c.arg) :
    ∃ t, exec (.cmdRelease q) s = .next t
      ∧ (t.getCtx (s.qCtx q)).voyages = Tab.del (s.getCtx (s.qCtx q)).voyages c.arg
      ∧ t.execOf q = some (e.past f fs (f.pc + 1) (s.sched (s.qCtx q)))
      ∧ (∀ k ∈ s.coresOf (s.qCtx q), (t.getCore k).sects =
          (s.getCore k).sects.filter (fun y => !(y.ctx = s.qCtx q && y.voyage = c.arg)))
      ∧ translatedFrame q (s.coresOf (s.qCtx q)) s t := by
  have run := State.execOf_atCommand h
  obtain ⟨frame, sails, -⟩ := State.beside_atCommand s q c
  have exec_ := exec_release h ho hm
  rw [State.cmdRelease_of (by rw [qCtx_atCommand, voyages_atCommand]; exact hv), qCtx_atCommand] at exec_
  have away := (s.atCommand q c).relaid_takenAway (s.qCtx q) c.arg
  have sects := (s.atCommand q c).sects_takenAway (s.qCtx q) c.arg
  rw [State.coresOf_congr frame.2.1 (s.qCtx q)] at away sects
  have commits := State.beside_commitGates ((s.atCommand q c).takenAway (s.qCtx q) c.arg) (s.qCtx q)
  obtain ⟨past, on⟩ := goes_past h hg ((commits.execOf q).trans ((away.execOf q).trans run))
  have voyages := (s.atCommand q c).voyages_takenAway (s.qCtx q) c.arg
  rw [sails.voyages] at voyages
  refine ⟨_, exec_, ?_, (State.execOf_framed ..).trans past, fun k hk => ?_, ?_⟩
  · rw [State.getCtx_framed]
    exact (on.sails.voyages _).trans ((commits.sails.voyages _).trans voyages)
  · rw [State.getCore_framed, State.getCore_congr on.queueFrame.2.1, commits.getCore, sects k hk,
      State.getCore_congr frame.2.1]
  · exact ((frame.translated _).trans ((State.translatedFrame_modCtx ..).trans ((away.translated q).trans
      (((commits.queueFrame q).translated _).trans (on.queueFrame.translated _))))).framed

/-- A REGISTER goes on when its segments are ready, and waits otherwise. -/
theorem registered_ends {u : State} (hu : u.execOf q = some { e with start := s.sched (s.qCtx q) }) (x : Nat) :
    (u.registered q x).execOf q = some (if (u.registered q x).gatesReady x then e.past f fs (f.pc + 1) (s.sched (s.qCtx q))
        else { e with start := s.sched (s.qCtx q), waiting := true })
      ∧ State.wentOn q u (u.registered q x) := by
  obtain ⟨past, on⟩ := goes_past h hg hu
  have waits := u.execOf_modExec q fun e => { e with waiting := true }
  have stays := State.wentOn_modExec u q fun e => { e with waiting := true }
  unfold State.registered
  cases ready : u.gatesReady x with
  | true => rw [if_pos rfl, on.gatesReady, ready, if_pos rfl]; exact ⟨past, on⟩
  | false =>
    rw [if_neg Bool.false_ne_true, stays.gatesReady, ready, if_neg Bool.false_ne_true, waits, hu]
    exact ⟨rfl, stays⟩

/-- REGISTER of a legal voyage whose manifests pass their checks (R118, R215, R316). -/
theorem register_done {u5 : State} {params : Nat} {ms : List (List Byte)} (ho : c.op = 0x10) (hm : s.mayRegister q = true)
    (hb : ∀ r ∈ (s.getCtx (s.qCtx q)).regions, (s.getRegion r).blocked = false)
    (read : CmdReads (s.qCtx q) (s.atCommand q c) u5)
    (does : State.cmdRegister q c (s.atCommand q c)
      = (((u5.placed (s.qCtx q) c.arg params ms).commitGates (s.qCtx q)).retryPlans (s.qCtx q)).registered q (s.qCtx q)) :
    ∃ t, exec (.cmdRegister q) s = .next t
      ∧ (t.getCtx (s.qCtx q)).voyages = Tab.put (s.getCtx (s.qCtx q)).voyages c.arg ⟨params, ms⟩
      ∧ t.execOf q = some (if t.gatesReady (s.qCtx q) then e.past f fs (f.pc + 1) (s.sched (s.qCtx q))
          else { e with start := s.sched (s.qCtx q), waiting := true })
      ∧ ((s.coresOf (s.qCtx q)).Nodup → ∀ k ∈ s.coresOf (s.qCtx q), (t.getCore k).sects =
          (s.getCore k).sects ++ chartSects (s.qCtx q) c.arg (s.getCore k).mindex ms)
      ∧ translatedFrame q (s.coresOf (s.qCtx q)) s t := by
  have run := State.execOf_atCommand h
  obtain ⟨frame, sails, -⟩ := State.beside_atCommand s q c
  have frame5 := frame.trans (read.beside.queueFrame q)
  have sails5 := sails.trans read.beside.sails
  have place := u5.relaid_placed (s.qCtx q) c.arg params ms
  have sects := u5.sects_placed (s.qCtx q) c.arg params ms
  have voyages := u5.voyages_placed (s.qCtx q) c.arg params ms
  rw [State.coresOf_congr frame5.2.1 (s.qCtx q)] at place sects
  have commits := State.beside_commitGates (u5.placed (s.qCtx q) c.arg params ms) (s.qCtx q)
  have placed_ : translatedFrame q (s.coresOf (s.qCtx q)) s
      ((u5.placed (s.qCtx q) c.arg params ms).commitGates (s.qCtx q)) :=
    (frame5.translated _).trans ((State.translatedFrame_modCtx ..).trans ((place.translated q).trans
      ((commits.queueFrame q).translated _)))
  have regions : (((u5.placed (s.qCtx q) c.arg params ms).commitGates (s.qCtx q)).getCtx (s.qCtx q)).regions
      = (s.getCtx (s.qCtx q)).regions :=
    (commits.sails.regions _).trans ((place.sails.regions _).trans
      ((congrArg Ctx.regions (State.getCtx_modCtx_self ..)).trans (sails5.regions _)))
  have retries : ((u5.placed (s.qCtx q) c.arg params ms).commitGates (s.qCtx q)).retryPlans (s.qCtx q)
      = (u5.placed (s.qCtx q) c.arg params ms).commitGates (s.qCtx q) :=
    State.retryPlans_unblocked fun r hr => by
      rw [regions] at hr
      exact (congrArg (fun l => (Tab.get {} l r : Region).blocked) placed_.2.2.2.1).trans (hb r hr)
  obtain ⟨item, on⟩ := registered_ends h hg ((commits.execOf q).trans ((place.execOf q).trans ((read.beside.execOf q).trans run)))
    (s.qCtx q)
  have exec_ := exec_register h ho hm
  rw [does, retries] at exec_
  refine ⟨_, exec_, ?_, (State.execOf_framed ..).trans item, fun hn k hk => ?_, ?_⟩
  · rw [State.getCtx_framed]
    exact (on.sails.voyages _).trans ((commits.sails.voyages _).trans (voyages.trans
      (congrArg (Tab.put · c.arg _) (sails5.voyages _))))
  · rw [State.getCore_framed, State.getCore_congr on.queueFrame.2.1, commits.getCore, sects hn k hk,
      State.getCore_congr frame5.2.1]
  · exact (placed_.trans (on.queueFrame.translated _)).framed

end

namespace State

theorem ctx_atCommand_launch (s : State) (q : Nat) {c : Cmd} (ho : c.op = 1) : (s.atCommand q c).ctx = s.ctx := by
  unfold atCommand
  rw [if_neg fun both => both.2 ho]
  rfl

theorem wentOn.rd {q : Nat} {s t : State} (h : wentOn q s t) (a : Nat) : t.rd a = s.rd a := by
  obtain ⟨⟨l, rfl⟩, -⟩ := h
  rfl

theorem wentOn.ctx {q : Nat} {s t : State} (h : wentOn q s t) : t.ctx = s.ctx := by
  obtain ⟨⟨l, rfl⟩, -⟩ := h
  rfl

theorem getCtx_congr {s t : State} (h : t.ctx = s.ctx) (d : Nat) : t.getCtx d = s.getCtx d :=
  congrArg (fun l => (Tab.get {} l d : Ctx)) h

/-! What the start of a launch leaves. -/

section
variable (s : State) (q x : Nat) (l : Launch)

theorem getCtx_launched_self : (s.launched q x l).getCtx x
    = { s.getCtx x with launches := (s.getCtx x).launches ++ [l], nextLaunch := l.id + 1, started := true } := by
  unfold launched modExec
  rw [getCtx_modQueue, getCtx_count, getCtx_modCtx_self]

theorem getCtx_launched_ne {d : Nat} (h : d ≠ x) : (s.launched q x l).getCtx d = s.getCtx d := by
  unfold launched modExec
  rw [getCtx_modQueue, getCtx_count, getCtx_modCtx_ne _ _ (Ne.symm h)]

theorem rd_launched : (s.launched q x l).rd (ctxP x + 0xC0) = satAdd (s.rd (ctxP x + 0xC0)) 1 := by
  unfold launched modExec
  rw [rd_modQueue, rd_count_self]
  rfl

theorem execOf_launched {e : Exec} (he : s.execOf q = some e) :
    (s.launched q x l).execOf q = some { e with launches := e.launches ++ [l.id] } := by
  unfold launched
  have same : ((s.modCtx x fun y => { y with launches := y.launches ++ [l], nextLaunch := l.id + 1, started := true }).count
      (ctxP x + 0xC0) 1).execOf q = s.execOf q := congrArg Queue.exec (getQueue_count ..)
  rw [execOf_modExec, same, he]
  rfl

theorem queueFrame_launched : queueFrame q s (s.launched q x l) := by
  have counted := ((LogOnly.refl (s.modCtx x fun y =>
    { y with launches := y.launches ++ [l], nextLaunch := l.id + 1, started := true })).count (ctxP x + 0xC0) 1).beside
  have moved : queueFrame q s (s.modCtx x fun y =>
      { y with launches := y.launches ++ [l], nextLaunch := l.id + 1, started := true }) :=
    ⟨fun _ _ => rfl, rfl, rfl, rfl, rfl, rfl, rfl, rfl⟩
  exact (moved.trans (counted.queueFrame q)).trans (queueFrame_modExec ..)

end
end State

section
variable {s : State} {q : Nat} {e : Exec} {f : CFrame} {fs : List CFrame} {c : Cmd} (h : s.mayCommand q e f fs c)
include h

/-- REGISTER of a voyage with a manifest that fails its checks (R316). -/
theorem register_refused {u4 u5 : State} {st params : Nat} {es : List (List Byte)} (ho : c.op = 0x10)
    (hm : s.mayRegister q = true) (read : CmdReads (s.qCtx q) (s.atCommand q c) u4)
    (refused : State.readLegs q (s.qCtx q) params es [] u4 = .fail st u5) (hst : 0x300 ≤ st)
    (does : State.cmdRegister q c (s.atCommand q c) = u5.failRegister q st) :
    ∃ t, exec (.cmdRegister q) s = .next t ∧ (t.getCtx (s.qCtx q)).voyages = (s.getCtx (s.qCtx q)).voyages
      ∧ t.faultCode (ctxP (s.qCtx q)) = 0x920 ∧ t.execOf q = some (e.failing (s.sched (s.qCtx q)) 3 (st - 0x300))
      ∧ queueFrame q s t := by
  have run := State.execOf_atCommand h
  obtain ⟨frame, sails, -⟩ := State.beside_atCommand s q c
  have same : u4.qCtx q = s.qCtx q := (read.qCtx q).trans (qCtx_atCommand s q c)
  have ends := State.readLegs_ends q params es [] u4
  rw [same, refused] at ends
  obtain ⟨w, i, more, rfl⟩ := ends hst
  have beside := (read.beside.trans more.beside).trans
    (State.raise_log w (ctxP (s.qCtx q)) 0x920 i (some (s.qCtx q)) 0).beside
  have code := State.faultCode_raise w (ctxP (s.qCtx q)) 0x920 i (some (s.qCtx q)) 0 (by unfold ctxP oFCODE; omega)
  generalize w.raise (ctxP (s.qCtx q)) 0x920 i (some (s.qCtx q)) 0 = u5 at *
  have item := (beside.execOf q).trans run
  have fails : u5.failRegister q st = u5.failCmd q 3 (st - 0x300) (State.cmdIndex e) := by
    unfold State.failRegister
    rw [item]
    exact if_pos hst
  obtain ⟨kept, sails', reg⟩ := u5.failCmd_keeps q 3 (st - 0x300) (State.cmdIndex e)
  have exec_ := exec_register h ho hm
  rw [does, fails] at exec_
  refine ⟨_, exec_, ?_, ?_, ?_, ?_⟩
  · rw [State.getCtx_framed]
    exact (sails'.voyages _).trans ((beside.sails.voyages _).trans (sails.voyages _))
  · rw [State.faultCode_framed]
    unfold State.faultCode State.rd at code ⊢
    rw [reg]
    exact code
  · exact (State.execOf_framed ..).trans (execOf_atCommand_failing h item 3 (st - 0x300))
  · exact (frame.trans ((beside.queueFrame q).trans kept)).framed

/-- LAUNCH of a registered voyage (R315). -/
theorem launch_done (hg : f.goesOn (f.pc + 1)) {v : Nat × Voyage} {l l' : List Byte} {u1 u2 : State} (ho : c.op = 1)
    (hr : s.registering (s.qCtx q) = false) (hv : ((s.getCtx (s.qCtx q)).voyages.find? fun v => v.1 = c.arg % 64) = some v)
    (hn : (c.word 1).toNat ≤ v.2.paramBytes) (hl : (s.atCommand q c).blockRead q (c.word 0) (c.word 1).toNat l u1)
    (hb : State.relocBlock q ((c.word 2).toNat + (c.word 3).toNat * 2 ^ 64) (List.range 128) l u1 = .ok l' u2) :
    ∃ t, exec (.cmdLaunch q) s = .next t
      ∧ (t.getCtx (s.qCtx q)).launches = (s.getCtx (s.qCtx q)).launches ++
          [⟨(s.getCtx (s.qCtx q)).nextLaunch, q, e.item.seq, c.arg % 64, l', bitOf (word c.arg) 8, s.qRt q, 0, none, 1, [],
            false, none, State.cmdIndex e⟩]
      ∧ (t.getCtx (s.qCtx q)).nextLaunch = (s.getCtx (s.qCtx q)).nextLaunch + 1
      ∧ t.execOf q = some { e.past f fs (f.pc + 1) (s.sched (s.qCtx q)) with
          launches := e.launches ++ [(s.getCtx (s.qCtx q)).nextLaunch] }
      ∧ t.rd (ctxP (s.qCtx q) + 0xC0) = satAdd (s.rd (ctxP (s.qCtx q) + 0xC0)) 1
      ∧ (∀ d, d ≠ s.qCtx q → t.getCtx d = s.getCtx d) ∧ queueFrame q s t := by
  have run := State.execOf_atCommand h
  obtain ⟨frame, sails, reg⟩ := State.beside_atCommand s q c
  have read := hl.relocated hb
  have ctx := State.getCtx_congr (State.ctx_atCommand_launch s q ho)
  have exec_ := exec_launch h ho hr
  have item := (read.beside.execOf q).trans run
  rw [State.cmdLaunch_of (by rw [qCtx_atCommand, voyages_atCommand]; exact hv) hn hl hb item, read.qCtx q] at exec_
  rw [qCtx_atCommand] at read exec_
  obtain ⟨-, -, -, -, stack, -, -, whole, -⟩ := h
  have num : (u2.getCtx (s.qCtx q)).nextLaunch = (s.getCtx (s.qCtx q)).nextLaunch :=
    (read.beside.sails.nextLaunch _).trans (sails.nextLaunch _)
  have old : (u2.getCtx (s.qCtx q)).launches = (s.getCtx (s.qCtx q)).launches :=
    (read.beside.sails.launches _).trans (sails.launches _)
  have regs (a : Nat) (ha : a % 0x1000 ≠ 0x80) : u2.rd a = s.rd a := by
    refine (read.regs a ha).trans ?_
    unfold State.rd
    rw [reg]
  have launch : u2.launchOf q c { e with start := s.sched (s.qCtx q) } l'
      = ⟨(s.getCtx (s.qCtx q)).nextLaunch, q, e.item.seq, c.arg % 64, l', bitOf (word c.arg) 8, s.qRt q, 0, none, 1, [],
          false, none, State.cmdIndex e⟩ := by
    unfold State.launchOf State.qRt State.qCtx
    rw [regs _ (by unfold queueP; omega)]
    exact congrArg (fun n => (⟨n, q, e.item.seq, c.arg % 64, l', bitOf (word c.arg) 8, s.qRt q, 0, none, 1, [], false, none,
      State.cmdIndex e⟩ : Launch)) num
  rw [launch] at exec_
  generalize hL : (⟨(s.getCtx (s.qCtx q)).nextLaunch, q, e.item.seq, c.arg % 64, l', bitOf (word c.arg) 8, s.qRt q, 0, none, 1,
    [], false, none, State.cmdIndex e⟩ : Launch) = L at exec_ ⊢
  have id_ : L.id = (s.getCtx (s.qCtx q)).nextLaunch := by rw [← hL]
  have begun := State.execOf_launched u2 q (s.qCtx q) L item
  obtain ⟨past, on⟩ := State.advance_goesOn begun stack whole hg
  have own := (State.getCtx_congr on.ctx (s.qCtx q)).trans (State.getCtx_launched_self u2 q (s.qCtx q) L)
  refine ⟨_, exec_, ?_, ?_, (State.execOf_framed ..).trans ?_, ?_, fun d hd => ?_, ?_⟩
  · rw [State.getCtx_framed, own, old]
  · rw [State.getCtx_framed, own, id_]
  · rw [past, ← id_]
    rfl
  · rw [State.rd_framed, on.rd, State.rd_launched, regs _ (by unfold ctxP; omega)]
  · rw [State.getCtx_framed, State.getCtx_congr on.ctx, State.getCtx_launched_ne _ _ _ _ hd, read.others d hd, ctx]
  · exact (frame.trans ((read.beside.queueFrame q).trans ((State.queueFrame_launched ..).trans on.queueFrame))).framed

end

/-- Settles O46: each command by what it finds, from what its reads, its commits and the move to the next command leave. -/
theorem voyagesAndLaunches : Obligations.VoyagesAndLaunches := by
  intro q s e f fs c h hg
  have same := qCtx_atCommand s q c
  refine ⟨fun idle => ⟨act_waits h.1 idle _ s, act_waits h.1 idle _ s⟩,
    fun busy => act_waits h.1 (by rw [busy]; rfl) _ s, fun ho hm hb hv a d b r u1 u2 u3 u4 ra rh magic one most zero four block
      zero' rb rd legal => ?_, fun ho hm hv => register_taken h ho hm hv, fun ho hm hv => release_done h hg ho hm hv,
    fun ho hr hv => launch_unregistered h ho hr hv,
    fun v l u1 l' u2 ho hr hv hn hl hb => launch_done h hg ho hr hv hn hl hb⟩
  have fresh : ∀ v ∈ ((s.atCommand q c).getCtx ((s.atCommand q c).qCtx q)).voyages, v.1 ≠ c.arg := by
    rw [same, voyages_atCommand]
    exact hv
  obtain ⟨passes, fails⟩ := State.cmdRegister_legs fresh ra rh magic one most zero four block zero' rb rd legal
  have header := State.reads_of ra rh
  have entries := State.reads_of rb rd
  rw [header.qCtx q] at entries
  have read := header.trans entries
  rw [same] at passes fails read
  refine ⟨fun ms u5 hr => ?_, fun st u5 hr hst => register_refused h ho hm read hr hst (fails st u5 hr)⟩
  have legs := State.readLegs_ends q (fieldAt d 8 2) (recordsOf 16 (r.drop 16)) [] u4
  rw [(read.qCtx q).trans same, hr] at legs
  exact register_done h hg ho hm hb (read.trans legs) (passes ms u5 hr)

end Sys2Proof.Machine
end

section
/-! PROOF. A lead while the block does not serve (R315, R338, R348) (O47). -/

namespace Sys2Proof.Machine

/-- The block in reset, with a lead pause that has begun. -/
def asleepPaused : State := { State.reset with pilot := { pause := some (0, 0) } }

/-- Refutes O47: while the block does not serve, a lead is nothing, so that it leaves a lead pause as it is; the statement asks
for no BOOT STATE in which the block serves. -/
theorem not_legsRunAtTheirBase : ¬ Obligations.LegsRunAtTheirBase := by
  intro ⟨leads, _⟩
  have asleep : asleepPaused.awake = false := by decide
  have asleep' : asleepPaused.resumeLeads.awake = false := by decide
  have idle : exec (.crewLead 0) asleepPaused = .next asleepPaused := act_asleep asleep
  have idle' : exec (.crewLead 0) asleepPaused.resumeLeads = .next asleepPaused.resumeLeads := act_asleep asleep'
  obtain ⟨same, ended, -⟩ := leads 0 asleepPaused (by decide) rfl
  rw [idle, idle'] at same
  rw [← Host.Outcome.next.inj same] at ended
  cases ended

end Sys2Proof.Machine
end

section
/-! PROOF. The barrier of a context: its release by way of the GATEWAYs, an arrival, an error of its unit (R152, R153, R242,
R359, R362) (O24). -/

namespace Sys2Proof.Machine

theorem ctxFrame.framed {c : Nat} {s t : State} (h : ctxFrame c s t) : ctxFrame c s (s.framed t) := by
  obtain ⟨hc, hr, hd, hm, -⟩ := h
  exact ⟨hc, hr, hd, hm, rfl, rfl, rfl⟩

theorem ctxFrame.trans {c : Nat} {s t u : State} (h : ctxFrame c s t) (h' : ctxFrame c t u) : ctxFrame c s u :=
  ⟨fun d hd => (h'.1 d hd).trans (h.1 d hd), h'.2.1.trans h.2.1, h.2.2.trans h'.2.2⟩

theorem ctxFrame_modCtx (s : State) (c : Nat) (f : Ctx → Ctx) : ctxFrame c s (s.modCtx c f) :=
  ⟨fun _ hd => State.getCtx_modCtx_ne s f (Ne.symm hd), rfl, rfl, rfl, rfl, rfl, rfl⟩

theorem State.LogOnly.ctxFrame {s t : State} (h : State.LogOnly s t) (c : Nat) : ctxFrame c s t := by
  obtain ⟨r, f, o, rfl⟩ := h
  exact ⟨fun _ _ => rfl, rfl, rfl, rfl, rfl, rfl, rfl⟩

namespace State

/-! A context that a fault ends (R326). -/

theorem ctx_endItems (s : State) (c st : Nat) : (s.endItems c st).ctx = s.ctx := by
  refine List.foldlRecOn (motive := fun t : State => t.ctx = s.ctx) _ _ rfl fun t ht q _ => ?_
  unfold endItem
  dsimp only
  split
  · exact ht
  · exact ht

section
variable (s : State) (c code : Nat)

theorem getCtx_loseCtx_ne (r68 : Bool) {d : Nat} (hd : d ≠ c) : (s.loseCtx c code r68).getCtx d = s.getCtx d := by
  unfold loseCtx
  dsimp only
  split
  · rw [getCtx_modCtx_ne _ _ (Ne.symm hd), getCtx_wrField, setCtxState, getCtx_event, getCtx_wrField]
    exact congrArg (Tab.get {} · d) (ctx_endItems s c 1)
  · rfl

/-- A lost context keeps the arrivals at its barrier. -/
theorem barrierIn_loseCtx (r68 : Bool) : ((s.loseCtx c code r68).getCtx c).barrierIn = (s.getCtx c).barrierIn := by
  unfold loseCtx
  dsimp only
  split
  · rw [getCtx_modCtx_self, getCtx_wrField, setCtxState, getCtx_event, getCtx_wrField]
    exact congrArg (fun l => (Tab.get {} l c : Ctx).barrierIn) (ctx_endItems s c 1)
  · rfl

theorem ctxFrame_loseCtx (r68 : Bool) : ctxFrame c s (s.loseCtx c code r68) := by
  have kept {β : Type} {π : State → β} (hq : ∀ (t : State) q x, π (t.setQueue q x) = π t)
      (hr : ∀ (t : State) a v, π (t.wr a v) = π t) (hc : ∀ (t : State) c f, π (t.modCtx c f) = π t) :
      π (s.loseCtx c code r68) = π s := loseCtx_keeps hq hr hc s c code r68
  exact ⟨fun d hd => getCtx_loseCtx_ne s c code r68 hd,
    kept (π := (·.region)) (fun _ _ _ => rfl) (fun _ _ _ => rfl) fun _ _ _ => rfl,
    kept (π := (·.devMem)) (fun _ _ _ => rfl) (fun _ _ _ => rfl) fun _ _ _ => rfl,
    kept (π := (·.hostMem)) (fun _ _ _ => rfl) (fun _ _ _ => rfl) fun _ _ _ => rfl,
    kept (π := (·.clk)) (fun _ _ _ => rfl) (fun _ _ _ => rfl) fun _ _ _ => rfl,
    kept (π := (·.build)) (fun _ _ _ => rfl) (fun _ _ _ => rfl) fun _ _ _ => rfl,
    kept (π := (·.pending)) (fun _ _ _ => rfl) (fun _ _ _ => rfl) fun _ _ _ => rfl⟩

variable (info : Word)

/-- A context fault leaves the cores and the Channel as they are. -/
theorem core_ctxFatal : (s.ctxFatal c code info).core = s.core :=
  (loseCtx_keeps (π := (·.core)) (fun _ _ _ => rfl) (fun _ _ _ => rfl) (fun _ _ _ => rfl) ..).trans
    (raise_core ..)

theorem netSame_ctxFatal : netSame s (s.ctxFatal c code info) :=
  (raise_log ..).netSame.trans ⟨loseCtx_keeps (π := (·.net)) (fun _ _ _ => rfl) (fun _ _ _ => rfl) (fun _ _ _ => rfl) ..,
    loseCtx_keeps (π := (·.nextPkt)) (fun _ _ _ => rfl) (fun _ _ _ => rfl) (fun _ _ _ => rfl) ..⟩

theorem ctxFrame_ctxFatal : ctxFrame c s (s.ctxFatal c code info) :=
  ((raise_log ..).ctxFrame c).trans (ctxFrame_loseCtx ..)

theorem barrierIn_ctxFatal : ((s.ctxFatal c code info).getCtx c).barrierIn = (s.getCtx c).barrierIn :=
  (barrierIn_loseCtx ..).trans (congrArg Ctx.barrierIn (getCtx_raise ..))

variable {c}

/-- The page of the context shows the code of the fault that ends it (R326, R357). -/
theorem faultCode_ctxFatal (hc : c < 16) : (s.ctxFatal c code info).faultCode (ctxP c) = code % 2 ^ 12 := by
  have report : (s.raise (ctxP c) code info (some c) 4).faultCode (ctxP c) = code % 2 ^ 12 :=
    faultCode_raise _ _ _ _ _ _ (by unfold ctxP oFCODE; omega)
  have keeps := (loseCtx_within (s.raise (ctxP c) code info (some c) 4) 0 c code false).regs (ctxP c + oFCODE)
    ((butAt_page (ctxP_aligned c) (by decide)).2 (by decide))
  exact (faultCode_congr keeps).trans report

/-- A report on a CONTEXT page keeps the STATE of the context. -/
theorem ctxState_raise (hc : c < 16) (i : Word) (x : Option Nat) (o : Nat) :
    (s.raise (ctxP c) code i x o).ctxState c = s.ctxState c := by
  have apart : ∀ o < 0x1000, o ≠ oSTATUS → ctxP c + o ≠ ctxP c + oSTATUS := fun o _ h => by omega
  unfold ctxState
  rw [rd_raise_ne _ _ _ _ _ _ (by unfold ctxP oSTATUS; omega) (apart _ (by decide) (by decide)) (apart _ (by decide) (by decide))
    (apart _ (by decide) (by decide))]

theorem ctxState_ctxFatal (hc : c < 16) (h : 1 ≤ s.ctxState c ∧ s.ctxState c ≤ 3) : (s.ctxFatal c code info).ctxState c = 4 :=
  ctxState_loseCtx _ c code false (by rwa [ctxState_raise s code hc])

end

/-- A packet enters the mesh, from a state with the mesh, the clocks and the build of another. -/
theorem sends_inject {s u : State} (h : netSame s u) (hc : u.clk = s.clk) (hb : u.build = s.build) (load : Load)
    (src dst : Port) (vc len : Nat) : Machine.sends load src dst vc len s (u.inject load src dst vc len) :=
  sends_of_inject h hc hb load src dst vc len

/-! What the release of a barrier sends (R152). -/

/-- The release of the barrier of context `c` leaves for the GATEWAY of region `r`. -/
def releaseTo (c bol : Nat) (s : State) (r : Nat) : State := s.inject (.release c bol) .control (.gateway r) 0

theorem foldl_releaseTo_eq (c bol : Nat) (l : List Nat) (s : State) :
    ∃ n p, l.foldl (releaseTo c bol) s = { s with net := n, nextPkt := p } :=
  List.foldlRecOn (motive := fun t : State => ∃ n p, t = { s with net := n, nextPkt := p }) l _ ⟨s.net, s.nextPkt, rfl⟩
    fun t ⟨n, p, h⟩ r _ => ⟨(releaseTo c bol t r).net, t.nextPkt + 1, by
      subst h
      exact injectAt_eq ..⟩

theorem foldl_releaseTo_net (c bol : Nat) (l : List Nat) {s t : State} (h : netSame s t) (hc : t.clk = s.clk)
    (hb : t.build = s.build) : (l.foldl (releaseTo c bol) t).net = (l.foldl (releaseTo c bol) s).net := by
  induction l generalizing s t with
  | nil => exact h.1
  | cons r l ih =>
    refine ih ⟨injectAt_net_congr h hc hb .., ?_⟩ ((injectAt_clk ..).trans (hc.trans (injectAt_clk ..).symm))
      ((injectAt_build ..).trans (hb.trans (injectAt_build ..).symm))
    rw [releaseTo, releaseTo, inject, inject, injectAt_eq t, injectAt_eq s]
    exact congrArg (· + 1) h.2

/-- A comparison of digests leaves the Channel and the arrivals at the barrier as they are (R362). -/
theorem comparePoint_keeps (s : State) (c : Nat) :
    netSame s (s.comparePoint c) ∧ ((s.comparePoint c).getCtx c).barrierIn = (s.getCtx c).barrierIn := by
  unfold comparePoint
  split
  · exact ⟨.refl s, rfl⟩
  · extract_lets named live u
    have digested : netSame s u ∧ u.ctx = s.ctx :=
      List.foldlRecOn (motive := fun t : State => netSame s t ∧ t.ctx = s.ctx) _ _ ⟨.refl s, rfl⟩ fun t ht k _ =>
        List.foldlRecOn (motive := fun t : State => netSame s t ∧ t.ctx = s.ctx) _ _ ht fun _ hv _ _ => hv
    obtain ⟨net, ctx⟩ := digested
    have arrivals : (u.getCtx c).barrierIn = (s.getCtx c).barrierIn := congrArg (fun l => (Tab.get {} l c : Ctx).barrierIn) ctx
    split
    · exact ⟨net, arrivals⟩
    · exact ⟨net.trans (netSame_ctxFatal ..), (barrierIn_ctxFatal ..).trans arrivals⟩

/-- A context without a twin has no digests to compare. -/
theorem comparePoint_unpaired {s : State} {c : Nat} (h : (s.getCtx c).paired = false) : s.comparePoint c = s :=
  if_pos (by simp [h])

/-- The arrivals of one generation have left the barrier of context `c` (R152). -/
def drained (s : State) (c : Nat) : State := s.modCtx c fun x => { x with barrierIn := x.barrierIn.drop x.barrierCount }

section
variable {s : State} {c : Nat}

theorem barrierRelease_waits (h : (s.getCtx c).barrierIn.length < (s.getCtx c).barrierCount) : s.barrierRelease c = s :=
  if_pos (.inr (.inl h))

variable (hn : 0 < (s.getCtx c).barrierCount) (hs : s.ctxState c = 2)
  (ha : (s.getCtx c).barrierCount ≤ (s.getCtx c).barrierIn.length) {g : LegRun} {k n : Nat} {p : Prog}
  (hg : ((s.getCtx c).legs.filter (·.begun)).getLast? = some g) (hk : g.cores.head? = some (k, n))
  (hp : s.prog? k n = some p) (hb : p.barrierBol < 64)
include hn hs ha hg hk hp hb

theorem barrierRelease_eq : s.barrierRelease c
    = (((s.getCtx c).regions.foldl (releaseTo c p.barrierBol) (s.drained c)).comparePoint c) := by
  have prog : (s.modCtx c fun x => { x with barrierIn := x.barrierIn.drop x.barrierCount }).prog? k n = some p := hp
  unfold barrierRelease
  dsimp only
  rw [if_neg (by omega), hg, Option.bind_some, hk, Option.bind_some, prog, Option.elim_some, if_pos hb]
  rfl

theorem barrierRelease_done : let t := s.barrierRelease c
    (t.getCtx c).barrierIn = (s.getCtx c).barrierIn.drop (s.getCtx c).barrierCount
      ∧ t.net = ((s.getCtx c).regions.foldl (releaseTo c p.barrierBol) s).net
      ∧ ((s.getCtx c).paired = false → t.core = s.core ∧ ctxFrame c s t) := by
  have done := barrierRelease_eq hn hs ha hg hk hp hb
  obtain ⟨m, q, sent⟩ := foldl_releaseTo_eq c p.barrierBol (s.getCtx c).regions (s.drained c)
  have net := foldl_releaseTo_net c p.barrierBol (s.getCtx c).regions (s := s) (t := s.drained c) ⟨rfl, rfl⟩ rfl rfl
  have left : ((s.drained c).getCtx c) = { s.getCtx c with barrierIn := (s.getCtx c).barrierIn.drop (s.getCtx c).barrierCount } :=
    getCtx_modCtx_self ..
  generalize (s.getCtx c).regions.foldl (releaseTo c p.barrierBol) (s.drained c) = u at done sent net
  obtain ⟨same, kept⟩ := comparePoint_keeps u c
  have here : u.getCtx c = (s.drained c).getCtx c := by rw [sent]; rfl
  rw [here, left] at kept
  rw [done]
  refine ⟨kept, same.1.trans net, fun alone => ?_⟩
  rw [comparePoint_unpaired (by rw [here, left]; exact alone), sent]
  obtain ⟨others, rest⟩ := ctxFrame_modCtx s c fun x => { x with barrierIn := x.barrierIn.drop x.barrierCount }
  exact ⟨rfl, others, rest⟩

end

/-! What comes to the barrier and from it. -/

/-- Core `k` has arrived at the barrier of context `c` (R152). -/
def arrived (s : State) (c k : Nat) : State := s.modCtx c fun x => { x with barrierIn := x.barrierIn ++ [k] }

theorem arriveBarrier_counts (s : State) (c k id : Nat) : let t := s.arriveBarrier c k id
    (t.getCtx c).barrierIn = (s.getCtx c).barrierIn ++ [k]
      ∧ (id ≠ 0 → Machine.sends (.acked k id) .control (.mem k) 1 1 s t) ∧ (id = 0 → netSame s t) := by
  have joined : ((s.arrived c k).getCtx c).barrierIn = (s.getCtx c).barrierIn ++ [k] :=
    congrArg Ctx.barrierIn (getCtx_modCtx_self ..)
  have acked : s.arriveBarrier c k id
      = if id = 0 then s.arrived c k else (s.arrived c k).inject (.acked k id) .control (.mem k) 1 := rfl
  rw [acked]
  split
  · next h => exact ⟨joined, fun h' => absurd h h', fun _ => ⟨rfl, rfl⟩⟩
  · next h =>
    refine ⟨?_, fun _ => sends_inject (s := s) (u := s.arrived c k) ⟨rfl, rfl⟩ rfl rfl .., fun h' => absurd h' h⟩
    rw [inject, getCtx_congr (injectAt_ctx ..), joined]

theorem releaseAt_joins {s : State} {k c : Nat} (h : (s.getCore k).ctx = some c) (b : Nat) :
    ((s.releaseAt k c b).getCore k).bolOps = (s.getCore k).bolOps ++ [⟨b, false, 1, 4, 0xFFF⟩] := by
  rw [releaseAt, if_pos h, getCore_count, bolQueue, getCore_modCore_self]

end State

theorem State.ctxState_framed (s t : State) (c : Nat) : (s.framed t).ctxState c = t.ctxState c := rfl

/-- The row of the barrier's release, for a context that exists. -/
theorem exec_barrierRelease {s : State} {c : Nat} (hc : c < 16) (ha : s.awake = true) (ue : Bool) :
    exec (.barrierRelease ⟨c, ue⟩) s = .next (s.framed (if ue then s.controlUe c 6 else s.barrierRelease c)) := by
  have run : exec (.barrierRelease ⟨c, ue⟩) s
      = actAt (c < 16) (fun s => if ue then s.controlUe c 6 else s.barrierRelease c) s := rfl
  rw [run, decide_eq_true hc, actAt_present, act_awake ha]

theorem exec_barrierRelease_ok {s : State} {c : Nat} (hc : c < 16) (ha : s.awake = true) :
    exec (.barrierRelease ⟨c, false⟩) s = .next (s.framed (s.barrierRelease c)) := by
  rw [exec_barrierRelease hc ha, if_neg Bool.false_ne_true]

theorem exec_barrierRelease_ue {s : State} {c : Nat} (hc : c < 16) (ha : s.awake = true) :
    exec (.barrierRelease ⟨c, true⟩) s = .next (s.framed (s.controlUe c 6)) := by
  rw [exec_barrierRelease hc ha, if_pos rfl]

/-- Settles O24: the release is one packet to each GATEWAY of the context, whatever the comparison of digests behind it finds. -/
theorem barrierReleasesAllCores : Obligations.BarrierReleasesAllCores := by
  intro c s hc ha
  refine ⟨fun hn hs => ⟨fun few => ?_, fun all g k n p hg hk hp hb => ?_⟩, ?_, fun r b => ?_, fun k b h => ?_,
    fun k b h => ?_, fun k id => ?_⟩
  · rw [exec_barrierRelease_ok hc ha, State.barrierRelease_waits few, State.framed_self]
  · obtain ⟨arrivals, net, alone⟩ := State.barrierRelease_done hn hs all hg hk hp hb
    rw [exec_barrierRelease_ok hc ha]
    refine ⟨_, rfl, ?_, ?_, ?_⟩
    · exact arrivals
    · exact net
    · intro h
      obtain ⟨core, frame⟩ := alone h
      exact ⟨core, frame.framed⟩
  · rw [exec_barrierRelease_ue hc ha, State.controlUe]
    generalize word (6 * 2 ^ 12 + 0xFFF) = info
    have core := State.core_ctxFatal s c 0x962 info
    have frame := (State.ctxFrame_ctxFatal s c 0x962 info).framed
    refine ⟨s.framed (s.ctxFatal c 0x962 info), rfl, ?_, fun h => ?_, ?_, frame⟩
    · rw [State.faultCode_framed, State.faultCode_ctxFatal s 0x962 info hc]
      decide
    · rw [State.ctxState_framed, State.ctxState_ctxFatal s 0x962 info hc (by omega)]
    · rw [State.framed_core, core]
  · have at_ : s.deliver (.gateway r) (.release c b)
        = s.injectAt (.port (.gateway r)) (.release c b) (.gateway r) (.gateway r) 0 1 0 true := rfl
    exact at_
  · have at_ : s.deliver (.core k) (.release c b) = s.releaseAt k c b := rfl
    rw [at_]
    exact State.releaseAt_joins h b
  · have at_ : s.deliver (.core k) (.release c b) = s.releaseAt k c b := rfl
    rw [at_]
    exact if_neg h
  · have at_ : s.deliver .control (.arrive c k id) = s.arriveBarrier c k id := rfl
    rw [at_]
    exact State.arriveBarrier_counts s c k id

end Sys2Proof.Machine
end

section
/-! PROOF. Tide hold, resume and TLB_INVAL (R154, R156, R157, R173, R174, R175, R300, R303) (O39). -/

namespace Sys2Proof.Machine
namespace State

/-! Pairs of words. -/

theorem rd64_wr64 (s : State) (a v : Nat) : (s.wr64 a v).rd64 a = v % 2 ^ 64 := by
  have lo : ((s.wr a (loWord v)).wr (a + 4) (hiWord v)).rd a = loWord v := by
    rw [rd_wr_ne _ _ (by omega), rd_wr_self]
  have hi : ((s.wr a (loWord v)).wr (a + 4) (hiWord v)).rd (a + 4) = hiWord v := rd_wr_self ..
  rw [rd64, wr64, lo, hi]
  simp only [loWord, hiWord, BitVec.toNat_ofNat]
  omega

theorem rd64_congr {s t : State} {a : Nat} (lo : t.rd a = s.rd a) (hi : t.rd (a + 4) = s.rd (a + 4)) : t.rd64 a = s.rd64 a := by
  rw [rd64, rd64, lo, hi]

theorem rd_wr64_ne (s : State) {a b : Nat} (v : Nat) (h : a ≠ b) (h' : a + 4 ≠ b) : (s.wr64 a v).rd b = s.rd b := by
  rw [wr64, rd_wr_ne _ _ h', rd_wr_ne _ _ h]

theorem wr64_log (s : State) (a v : Nat) : LogOnly s (s.wr64 a v) := ((LogOnly.refl s).wr _ _).wr _ _

/-- A 64-bit value that a _HI write forms has 64 bits (R454). -/
theorem formed_lt (s : State) (p : Party) (a : Nat) (hi : Word) : s.formed p a hi < 2 ^ 64 := by
  have lo := (Tab.get (0 : Word) s.staged (own p (a - 4))).isLt
  have hi := hi.isLt
  unfold formed
  omega

end State

/-! Writes of a CONTEXT page. -/

theorem pageOf_ctxP {c o : Nat} (ho : o < 0x1000) (hc : c < 16) : pageOf (ctxP c + o) = (0x10, c) :=
  pageOf_group (by decide : (0x10, 16, 0x10) ∈ pageGroups) hc (by unfold ctxP; omega)

section
variable {s : State} {p : Party} {c o : Nat} (hc : c < 16) (ho : o < 0x1000) (h : s.admits p (ctxP c + o))
  {f : State → Option State}
include hc ho h

/-- A command that writes a word of a CONTEXT page. -/
theorem ctxWrite_admitted (f : State → Option State) :
    actAt (c < 16) (fun s => s.write p (ctxP c + o) f) s = .next (s.framed (s.answered (ctxP c) (f s))) := by
  have page : (ctxP c + o) / 0x1000 * 0x1000 = ctxP c := by unfold ctxP; omega
  have awake := State.awake_of_answers h.2.1 (by simp [pageOf_ctxP ho hc])
  rw [decide_eq_true hc, actAt_present, act_awake awake, State.write_admitted h, page]

theorem ctxWrite_takes {u : State} (take : f s = some u) :
    actAt (c < 16) (fun s => s.write p (ctxP c + o) f) s = .next (s.framed (u.accept (ctxP c))) := by
  rw [ctxWrite_admitted hc ho h, take, State.answered_some]

theorem ctxWrite_refuses (refuse : f s = none) :
    actAt (c < 16) (fun s => s.write p (ctxP c + o) f) s = .next (s.framed (s.configFault (ctxP c))) := by
  rw [ctxWrite_admitted hc ho h, refuse, State.answered_none]

end

namespace State

/-- A refused write of a CONTEXT page is 0x600; the words of the page but those of a report are as they were (R460). -/
theorem configFault_ctxP (s : State) {c : Nat} (hc : c < 16) : let t := s.framed (s.configFault (ctxP c))
    t.faultCode (ctxP c) = 0x600 ∧ t.ctxState c = s.ctxState c ∧ partsSame s t
      ∧ ∀ o, 0x28 ≤ o → o < 0x1000 → t.rd (ctxP c + o) = s.rd (ctxP c + o) := by
  refine ⟨?_, ctxState_raise s _ hc _ _ _, ((raise_log ..).partsSame).framed, fun o ho hb => ?_⟩
  · rw [faultCode_framed, configFault, faultCode_raise _ _ _ _ _ _ (by unfold ctxP oFCODE; omega)]
    decide
  · exact rd_raise_ne _ _ _ _ _ _ (by unfold ctxP; omega) (by unfold oFCODE; omega) (by unfold oFINFO; omega)
      (by unfold oEVENT; omega)

/-- A write that a CONTEXT page takes counts on the page, and nothing else. -/
theorem accepted_ctx {s u : State} {c : Nat} (core : u.core = s.core) (frame : ctxFrame c s u) :
    let t := s.framed (u.accept (ctxP c))
    t.core = s.core ∧ ctxFrame c s t :=
  ⟨core, (frame.trans ((accept_log u _).ctxFrame c)).framed⟩

theorem rd_accepted_ctx (s u : State) {c o : Nat} (ho : o ≠ oSEQ) :
    (s.framed (u.accept (ctxP c))).rd (ctxP c + o) = u.rd (ctxP c + o) := rd_accept_ne u (by omega)

theorem getCtx_accepted (s u : State) (c d : Nat) : (s.framed (u.accept (ctxP c))).getCtx d = u.getCtx d := rfl

theorem ctxState_accepted (s u : State) (c : Nat) : (s.framed (u.accept (ctxP c))).ctxState c = u.ctxState c :=
  congrArg (fieldOf · 2 0) (rd_accepted_ctx s u (by decide))

theorem ctxState_congr {s t : State} {c : Nat} (h : t.rd (ctxP c + oSTATUS) = s.rd (ctxP c + oSTATUS)) :
    t.ctxState c = s.ctxState c := congrArg (fieldOf · 2 0) h

theorem ctxState_setCtxState (s : State) (c st : Nat) : (s.setCtxState c st).ctxState c = st % 8 := by
  rw [ctxState, setCtxState, rd_event_ne _ _ (by simp [oEVENT, oSTATUS]), rd_wrField_self, fieldOf_setField _ _ (by decide)]
  rfl

theorem rd_setCtxState_ne (s : State) (c st : Nat) {o : Nat} (h : oSTATUS ≠ o) (h' : oEVENT ≠ o) :
    (s.setCtxState c st).rd (ctxP c + o) = s.rd (ctxP c + o) := by
  rw [setCtxState, rd_event_ne _ _ (by omega), rd_wrField_ne _ _ _ _ (by omega)]

theorem setCtxState_log (s : State) (c st : Nat) : LogOnly s (s.setCtxState c st) := ((LogOnly.refl s).wr _ _).event _ _

/-! HOLD_REQ (R156, R173). -/

/-- A context that HOLD_REQ holds. -/
theorem wrHold_running {s : State} {c : Nat} (h : s.ctxState c = 2) :
    ∃ u, wrHold c 1 s = some u ∧ u.ctxState c = 3 ∧ u.rd64 (ctxP c + 0x80) = s.sched c % 2 ^ 64
      ∧ u.rd (ctxP c + 0x6C) = 1 ∧ LogOnly s u := by
  have running : (s.wr (ctxP c + 0x6C) 1).ctxState c = 2 :=
    (ctxState_congr (rd_wr_ne _ _ (by unfold oSTATUS; omega))).trans h
  have held : wrHold c 1 s
      = some (((s.wr (ctxP c + 0x6C) 1).wr64 (ctxP c + 0x80) (s.sched c)).setCtxState c 3) := by
    rw [wrHold, if_neg (by decide), if_neg (not_not.2 h), holdCtx, if_pos running]
  refine ⟨_, held, ctxState_setCtxState .., ?_, ?_, (((LogOnly.refl s).wr _ _).trans (wr64_log ..)).trans (setCtxState_log ..)⟩
  · rw [rd64_congr (rd_setCtxState_ne _ c 3 (by decide) (by decide)), rd64_wr64]
    rw [Nat.add_assoc]
    exact rd_setCtxState_ne _ c 3 (by decide) (by decide)
  · rw [rd_setCtxState_ne _ c 3 (by decide) (by decide), rd_wr64_ne _ _ (by omega) (by omega), rd_wr_self]

theorem wrHold_refused {s : State} {c : Nat} (h : s.ctxState c ≠ 2) : wrHold c 1 s = none := by
  rw [wrHold, if_neg (by decide), if_pos h]

/-! RESUME_TIDE (R174, R175, R191, R192). -/

/-- The resume of a context stands armed for the schedule time `v`. -/
def resumeArmed (s : State) (c v : Nat) : State :=
  (s.wr64 (ctxP c + 0x88) v).modCtx c fun x =>
    { x with resume := some (v + (s.getCtx c).offset, v + (s.getCtx c).offset) }

/-- RESUME_TIDE in time arms the resume of a context that is held, by itself when no group resumes at the same tide. -/
theorem wrResume_held {s : State} {c v : Nat} (h : s.ctxState c = 3) (past : s.rd64 (ctxP c + 0x80) < v)
    (lead : s.clk.tide + 4096 ≤ v + (s.getCtx c).offset) (alone : ∀ g ∈ s.groups, g.want ≠ v + (s.getCtx c).offset) :
    wrResume c v s = some (s.resumeArmed c v) := by
  have inTime : ¬ (v ≤ s.rd64 (ctxP c + 0x80) ∨ v + (s.getCtx c).offset < s.clk.tide + commitLead) := by
    rw [commitLead]
    omega
  have none_ : (s.wr64 (ctxP c + 0x88) v).groups.find? (fun g => g.want = v + (s.getCtx c).offset) = none :=
    List.find?_eq_none.2 fun g hg => by simpa using alone g hg
  unfold wrResume
  dsimp only
  rw [if_neg (not_not.2 h), if_neg inTime, if_neg inTime, none_]
  rfl

theorem wrResume_refused {s : State} {c : Nat} (h : s.ctxState c ≠ 3) (v : Nat) : wrResume c v s = none := if_pos h

/-! The resume (R154, R157, R300). -/

/-- Core `k` resumes (R157). -/
def wakes (s : State) (k : Nat) : State := s.modCore k wakeCore

theorem foldl_wakes_keeps {β : Type} {π : State → β} (h : ∀ (t : State) k, π (wakes t k) = π t) (l : List Nat) (s : State) :
    π (l.foldl wakes s) = π s :=
  List.foldlRecOn (motive := fun t : State => π t = π s) l _ rfl fun t ht k _ => (h t k).trans ht

theorem ctxFrame_foldl_wakes (c : Nat) (l : List Nat) (s : State) : ctxFrame c s (l.foldl wakes s) :=
  ⟨fun d _ => foldl_wakes_keeps (π := fun t => t.getCtx d) (fun _ _ => rfl) l s,
    foldl_wakes_keeps (π := fun t => t.region) (fun _ _ => rfl) l s,
    foldl_wakes_keeps (π := fun t => t.devMem) (fun _ _ => rfl) l s,
    foldl_wakes_keeps (π := fun t => t.hostMem) (fun _ _ => rfl) l s,
    foldl_wakes_keeps (π := fun t => t.clk) (fun _ _ => rfl) l s,
    foldl_wakes_keeps (π := fun t => t.build) (fun _ _ => rfl) l s,
    foldl_wakes_keeps (π := fun t => t.pending) (fun _ _ => rfl) l s⟩

theorem held_foldl_wakes {k : Nat} (l : List Nat) (s : State) (h : k ∈ l ∨ (s.getCore k).held = false) :
    ((l.foldl wakes s).getCore k).held = false := by
  induction l generalizing s with
  | nil => exact h.resolve_left List.not_mem_nil
  | cons j l ih =>
    refine ih _ ?_
    by_cases same : j = k
    · subst same
      exact .inr (congrArg Core.held (getCore_modCore_self s j wakeCore))
    · rw [wakes, getCore_modCore_ne s _ same]
      exact h.imp_left fun h => (List.mem_cons.1 h).resolve_left (Ne.symm same)

theorem getCore_foldl_wakes {k : Nat} (l : List Nat) (s : State) (h : k ∉ l) :
    (l.foldl wakes s).getCore k = s.getCore k := by
  refine List.foldlRecOn (motive := fun t : State => t.getCore k = s.getCore k) l _ rfl fun t ht j hj => ?_
  have other : j ≠ k := fun same => h (same ▸ hj)
  rw [wakes, getCore_modCore_ne t _ other, ht]

/-- The record of a context that resumes with the offset `d`. -/
def ctxBack (d : Nat) (x : Ctx) : Ctx := { x with resume := none, offset := d, prefetch := true }

/-- The context's record and OFFSET once it resumes. -/
def offsetSet (s : State) (c stamp : Nat) : State :=
  (s.modCtx c (ctxBack (stamp - s.rd64 (ctxP c + 0x80)))).wr64 (ctxP c + 0x70) (stamp - s.rd64 (ctxP c + 0x80))

/-- The context has resumed, with its cores. -/
def resumed (s : State) (c stamp : Nat) : State :=
  (((s.offsetSet c stamp).coresOf c).foldl wakes (s.offsetSet c stamp)).setCtxState c 2

section
variable (s : State) (c stamp : Nat)

theorem ctxFrame_resumed : ctxFrame c s (s.resumed c stamp) :=
  (((ctxFrame_modCtx s c _).trans ((wr64_log ..).ctxFrame c)).trans (ctxFrame_foldl_wakes ..)).trans
    ((setCtxState_log ..).ctxFrame c)

theorem getCtx_resumed : (s.resumed c stamp).getCtx c = ctxBack (stamp - s.rd64 (ctxP c + 0x80)) (s.getCtx c) := by
  rw [resumed, setCtxState, getCtx_event, getCtx_wrField,
    foldl_wakes_keeps (π := fun t => t.getCtx c) (fun _ _ => rfl) _ _, offsetSet, wr64, getCtx_wr, getCtx_wr, getCtx_modCtx_self]

theorem coresOf_offsetSet : (s.offsetSet c stamp).coresOf c = s.coresOf c := coresOf_congr (by simp [offsetSet, wr64]) c

theorem getCore_resumed (k : Nat) :
    (s.resumed c stamp).getCore k = ((s.coresOf c).foldl wakes (s.offsetSet c stamp)).getCore k := by
  rw [resumed, coresOf_offsetSet, (setCtxState_log ..).getCore k]

theorem held_resumed {k : Nat} (h : k ∈ s.coresOf c) : ((s.resumed c stamp).getCore k).held = false := by
  rw [getCore_resumed]
  exact held_foldl_wakes _ _ (.inl h)

theorem getCore_resumed_ne {k : Nat} (h : k ∉ s.coresOf c) : (s.resumed c stamp).getCore k = s.getCore k :=
  (getCore_resumed s c stamp k).trans (getCore_foldl_wakes _ _ h)

end

/-- At its stamp an armed resume of a held context comes, outside a rebuild. -/
theorem resumeAt_due {s : State} {c want stamp : Nat} (hr : (s.getCtx c).resume = some (want, stamp)) (hs : s.ctxState c = 3)
    (ht : stamp ≤ s.clk.tide) (hg : ∀ g ∈ s.groups, g.want ≠ want) (hb : (s.getCtx c).rebuildAt = none) :
    s.resumeAt c = s.resumed c stamp := by
  have due : ¬ (s.ctxState c ≠ 3 ∨ s.clk.tide < stamp ∨ s.groups.any (fun g => g.want = want)) := by
    simp only [List.any_eq_true, decide_eq_true_eq]
    rintro (h | h | ⟨g, hm, h⟩)
    · exact h hs
    · omega
    · exact hg g hm h
  have resumes : s.resumeAt c
      = if ((s.resumed c stamp).getCtx c).rebuildAt.isSome then (s.resumed c stamp).rebuildEnd c else s.resumed c stamp := by
    unfold resumeAt
    rw [hr]
    dsimp only
    rw [if_neg due]
    rfl
  have kept : ((s.resumed c stamp).getCtx c).rebuildAt = none := by
    rw [getCtx_resumed, ctxBack]
    exact hb
  rw [resumes, if_neg]
  rw [kept, Option.isSome_none]
  exact Bool.false_ne_true

/-! The hold of a core (R156). -/

end State

theorem Tab.mem_put {α : Type} {t : Tab α} {k : Nat} {v : α} {e : Nat × α} (h : e ∈ Tab.put t k v) : e ∈ t ∨ e = (k, v) := by
  induction t with
  | nil => exact .inr (List.mem_singleton.1 h)
  | cons d t ih =>
    obtain ⟨i, w⟩ := d
    unfold Tab.put at h
    split at h
    · exact (List.mem_cons.1 h).elim .inr fun h => .inl (List.mem_cons_of_mem _ h)
    · exact (List.mem_cons.1 h).elim (fun h => .inl (h ▸ List.mem_cons_self)) fun h =>
        (ih h).imp_left (List.mem_cons_of_mem _)

namespace State

theorem mem_coresOf_modCore {s : State} {k j c : Nat} {f : Core → Core} (h : j ∈ (s.modCore k f).coresOf c) :
    j ∈ s.coresOf c ∨ j = k := by
  obtain ⟨e, he, rfl⟩ := List.mem_map.1 h
  obtain ⟨mem, ctx⟩ := List.mem_filter.1 he
  exact (Tab.mem_put mem).imp (fun old => List.mem_map_of_mem (List.mem_filter.2 ⟨old, ctx⟩)) fun new => by rw [new]

section
variable {s : State} {k c : Nat} (hc : (s.getCore k).ctx = some c) (hs : s.ctxState c = 3)
include hc hs

theorem holdArrival_eq : let u := s.modCore k fun x => { x with held := true }
    s.holdArrival k = if (u.coresOf c).all fun j => (u.getCore j).held then u.wr (ctxP c + 0x6C) 0 else u := by
  unfold holdArrival
  rw [hc]
  exact if_neg (by omega)

theorem holdArrival_within : Within k (fun x => { x with held := false }) (fun _ => False) s (s.holdArrival k) := by
  have held : Within k (fun x => { x with held := false }) (fun _ => False) s (s.modCore k fun x => { x with held := true }) :=
    Within.refl.modCore fun _ => rfl
  rw [holdArrival_eq hc hs]
  exact (held.wr _ id).ite held

theorem holdArrival_held : ((s.holdArrival k).getCore k).held = true := by
  rw [holdArrival_eq hc hs]
  split
  · rw [getCore_wr, getCore_modCore_self]
  · rw [getCore_modCore_self]

/-- HOLD_REQ clears when the last core is held. -/
theorem holdArrival_last (h : ∀ j ∈ s.coresOf c, j ≠ k → (s.getCore j).held = true) :
    (s.holdArrival k).rd (ctxP c + 0x6C) = 0 := by
  rw [holdArrival_eq hc hs, if_pos, rd_wr_self]
  refine List.all_eq_true.2 fun j hj => ?_
  by_cases same : j = k
  · rw [same, getCore_modCore_self]
  · rw [getCore_modCore_ne _ _ (Ne.symm same)]
    exact h j ((mem_coresOf_modCore hj).resolve_right same) same

end

end State

/-! The commands. -/

section
variable {s : State} {p : Party} {c : Nat} (hc : c < 16)
include hc

/-- HOLD_REQ in RUNNING (R156, R173). -/
theorem holdReq_holds (h : s.admits p (ctxP c + 0x6C)) (hs : s.ctxState c = 2) :
    ∃ t, exec (.holdReq p c) s = .next t ∧ t.ctxState c = 3 ∧ t.rd64 (ctxP c + 0x80) = s.sched c % 2 ^ 64
      ∧ t.rd (ctxP c + 0x6C) = 1 ∧ t.core = s.core ∧ ctxFrame c s t := by
  obtain ⟨u, take, held, at_, req, log⟩ := State.wrHold_running hs
  obtain ⟨core, frame⟩ := State.accepted_ctx ((State.LogOnly.beside log).core) (log.ctxFrame c)
  refine ⟨_, ctxWrite_takes hc (by decide) h take, (State.ctxState_accepted s u c).trans held, ?_,
    (State.rd_accepted_ctx s u (by decide)).trans req, core, frame⟩
  rw [← at_]
  exact State.rd64_congr (State.rd_accepted_ctx s u (by decide)) (State.rd_accepted_ctx s u (o := 0x84) (by decide))

/-- HOLD_REQ in any other state (R173). -/
theorem holdReq_refused (h : s.admits p (ctxP c + 0x6C)) (hs : s.ctxState c ≠ 2) :
    ∃ t, exec (.holdReq p c) s = .next t ∧ t.faultCode (ctxP c) = 0x600
      ∧ t.rd (ctxP c + 0x6C) = s.rd (ctxP c + 0x6C) ∧ t.ctxState c = s.ctxState c ∧ partsSame s t := by
  obtain ⟨code, state, parts, regs⟩ := State.configFault_ctxP s hc
  exact ⟨_, ctxWrite_refuses hc (by decide) h (State.wrHold_refused hs), code, regs _ (by decide) (by decide), state, parts⟩

/-- RESUME_TIDE of a held context, in time (R174, R175). -/
theorem resumeTide_arms {hi : Word} (h : s.admits p (ctxP c + 0x8C)) (hs : s.ctxState c = 3)
    (past : s.rd64 (ctxP c + 0x80) < s.formed p (ctxP c + 0x8C) hi)
    (lead : s.clk.tide + 4096 ≤ s.formed p (ctxP c + 0x8C) hi + (s.getCtx c).offset)
    (alone : ∀ g ∈ s.groups, g.want ≠ s.formed p (ctxP c + 0x8C) hi + (s.getCtx c).offset) :
    ∃ t, exec (.resumeTide p c hi) s = .next t
      ∧ (t.getCtx c).resume = some (s.formed p (ctxP c + 0x8C) hi + (s.getCtx c).offset,
          s.formed p (ctxP c + 0x8C) hi + (s.getCtx c).offset)
      ∧ t.rd64 (ctxP c + 0x88) = s.formed p (ctxP c + 0x8C) hi ∧ t.ctxState c = 3 ∧ t.groups = s.groups ∧ t.core = s.core
      ∧ ctxFrame c s t := by
  have take := State.wrResume_held (v := s.formed p (ctxP c + 0x8C) hi) hs past lead alone
  have small := s.formed_lt p (ctxP c + 0x8C) hi
  have run := ctxWrite_takes hc (by decide) h (f := fun s => State.wrResume c (s.formed p (ctxP c + 0x8C) hi) s) take
  generalize s.formed p (ctxP c + 0x8C) hi = v at take small run ⊢
  obtain ⟨core, frame⟩ := State.accepted_ctx (s := s) (u := s.resumeArmed c v) rfl
    (((State.wr64_log ..).ctxFrame c).trans (ctxFrame_modCtx ..))
  refine ⟨_, run, ?_, ?_, ?_, rfl, core, frame⟩
  · rw [State.getCtx_accepted, State.resumeArmed, State.getCtx_modCtx_self]
  · rw [State.rd64_congr (State.rd_accepted_ctx s _ (by decide)) (State.rd_accepted_ctx s _ (o := 0x8C) (by decide))]
    have stored : (s.resumeArmed c v).rd64 (ctxP c + 0x88) = (s.wr64 (ctxP c + 0x88) v).rd64 (ctxP c + 0x88) :=
      State.rd64_congr (State.rd_modCtx ..) (State.rd_modCtx ..)
    rw [stored, State.rd64_wr64, Nat.mod_eq_of_lt small]
  · rw [State.ctxState_accepted, ← hs]
    refine State.ctxState_congr ?_
    rw [State.resumeArmed, State.rd_modCtx, State.rd_wr64_ne _ _ (by unfold oSTATUS; omega) (by unfold oSTATUS; omega)]

/-- RESUME_TIDE outside HELD (R460). -/
theorem resumeTide_refused (hi : Word) (h : s.admits p (ctxP c + 0x8C)) (hs : s.ctxState c ≠ 3) :
    ∃ t, exec (.resumeTide p c hi) s = .next t ∧ t.faultCode (ctxP c) = 0x600
      ∧ t.rd64 (ctxP c + 0x88) = s.rd64 (ctxP c + 0x88) ∧ partsSame s t := by
  obtain ⟨code, state, parts, regs⟩ := State.configFault_ctxP s hc
  exact ⟨_, ctxWrite_refuses hc (by decide) h (f := fun s => State.wrResume c (s.formed p (ctxP c + 0x8C) hi) s)
    (State.wrResume_refused hs _), code,
    State.rd64_congr (regs 0x88 (by decide) (by decide)) (regs 0x8C (by decide) (by decide)), parts⟩

/-- The resume at its stamp (R154, R157). -/
theorem resume_comes {want stamp : Nat} (ha : s.awake = true) (hr : (s.getCtx c).resume = some (want, stamp))
    (hs : s.ctxState c = 3) (ht : stamp ≤ s.clk.tide) (hg : ∀ g ∈ s.groups, g.want ≠ want)
    (hb : (s.getCtx c).rebuildAt = none) :
    ∃ t, exec (.resume c) s = .next t ∧ t.ctxState c = 2 ∧ (t.getCtx c).resume = none ∧ (t.getCtx c).prefetch = true
      ∧ (s.clk.tide = stamp → s.rd64 (ctxP c + 0x80) ≤ stamp → t.sched c = s.rd64 (ctxP c + 0x80))
      ∧ (∀ k ∈ s.coresOf c, (t.getCore k).held = false) ∧ (∀ k, k ∉ s.coresOf c → t.getCore k = s.getCore k)
      ∧ ctxFrame c s t := by
  have run : exec (.resume c) s = actAt (c < 16) (fun s => s.resumeAt c) s := rfl
  rw [run, decide_eq_true hc, actAt_present, act_awake ha, State.resumeAt_due hr hs ht hg hb]
  have back : (s.framed (s.resumed c stamp)).getCtx c = State.ctxBack (stamp - s.rd64 (ctxP c + 0x80)) (s.getCtx c) := by
    rw [State.getCtx_framed, State.getCtx_resumed]
  refine ⟨_, rfl, ?_, ?_, ?_, fun now upTo => ?_, fun k hk => State.held_resumed s c stamp hk,
    fun k hk => State.getCore_resumed_ne s c stamp hk, (State.ctxFrame_resumed s c stamp).framed⟩
  · rw [State.ctxState_framed, State.resumed, State.ctxState_setCtxState]
  · rw [back, State.ctxBack]
  · rw [back, State.ctxBack]
  · rw [State.sched, back, State.ctxBack, State.framed_clk, now]
    exact Nat.sub_sub_self upTo

/-- TLB_INVAL (R303). -/
theorem tlbInval_empties (h : s.admits p (ctxP c + 0x64)) :
    ∃ t, exec (.tlbInval p c) s = .next t ∧ (t.getCtx c).tlb = [] ∧ t.core = s.core ∧ ctxFrame c s t := by
  have take : State.wrTlbInval c 1 s = some (s.modCtx c fun x => { x with tlb := [] }) := rfl
  obtain ⟨core, frame⟩ := State.accepted_ctx (s := s) (u := s.modCtx c fun x => { x with tlb := [] }) rfl (ctxFrame_modCtx ..)
  refine ⟨_, ctxWrite_takes hc (by decide) h take, ?_, core, frame⟩
  rw [State.getCtx_accepted, State.getCtx_modCtx_self]

end

/-- The hold reaches a core (R156). -/
theorem holdArrival_reaches {s : State} {core c : Nat} (hrun : s.runs core) (hctx : (s.getCore core).ctx = some c)
    (hs : s.ctxState c = 3) :
    ∃ t, exec (.holdArrival core) s = .next t ∧ (t.getCore core).held = true
      ∧ ((∀ j ∈ s.coresOf c, j ≠ core → (s.getCore j).held = true) → t.rd (ctxP c + 0x6C) = 0)
      ∧ berthsSame core s t ∧ coreFrame core s t := by
  have kept := State.holdArrival_within hctx hs
  obtain ⟨present, awake, clocked⟩ := hrun
  have run : exec (.holdArrival core) s = actCore core (core < s.build.physCores) (fun s => s.holdArrival core) s := rfl
  rw [run, actCore_running (decide_eq_true present) awake clocked]
  exact ⟨_, rfl, State.holdArrival_held hctx hs, State.holdArrival_last hctx hs,
    berthsSame_iff.2 (congrArg Core.berths kept.core :), kept.frame.framed⟩

/-- Settles O39, command by command; the resume comes to the cores that hold the context's number. -/
theorem holdAndResume : Obligations.HoldAndResume := fun _ _ _ hc =>
  ⟨fun h => ⟨holdReq_holds hc h, holdReq_refused hc h⟩, fun hi h => ⟨resumeTide_arms hc h, resumeTide_refused hc hi h⟩,
    fun _ _ ha => resume_comes hc ha, tlbInval_empties hc, fun _ => holdArrival_reaches⟩

end Sys2Proof.Machine
end

section
/-! PROOF. What an issue, a retirement and a breakpoint leave outside the cores, and what the sync engine's operations do (R152,
R211, R223, R230, R234, R238, R361) (O22). -/

namespace Sys2Proof.Machine

/-- Cores, registers and the records of faults may differ; everything else is the same. -/
def CoresOnly (s t : State) : Prop := ∃ r f o x, t = { s with reg := r, flog := f, once := o, core := x }

namespace CoresOnly
variable {s t u : State}

theorem refl (s : State) : CoresOnly s s := ⟨_, _, _, _, rfl⟩

theorem trans (h : CoresOnly s t) (h' : CoresOnly t u) : CoresOnly s u := by
  obtain ⟨r, f, o, x, rfl⟩ := h
  obtain ⟨r, f, o, x, rfl⟩ := h'
  exact ⟨_, _, _, _, rfl⟩

theorem ite {c : Prop} [Decidable c] (h : CoresOnly s t) (h' : CoresOnly s u) : CoresOnly s (if c then t else u) := by
  split <;> assumption

theorem logged (h : State.LogOnly s t) : CoresOnly s t := by
  obtain ⟨r, f, o, rfl⟩ := h
  exact ⟨_, _, _, _, rfl⟩

theorem wr (h : CoresOnly s t) (a : Nat) (v : Word) : CoresOnly s (t.wr a v) :=
  h.trans (logged ((State.LogOnly.refl t).wr a v))

theorem event (h : CoresOnly s t) (p b : Nat) : CoresOnly s (t.event p b) := h.wr _ _

theorem count (h : CoresOnly s t) (a n : Nat) : CoresOnly s (t.count a n) :=
  h.trans (logged ((State.LogOnly.refl t).count a n))

theorem modCore (h : CoresOnly s t) (k : Nat) (f : Core → Core) : CoresOnly s (t.modCore k f) := by
  obtain ⟨r, g, o, x, rfl⟩ := h
  exact ⟨_, _, _, _, rfl⟩

theorem setEng (h : CoresOnly s t) (k e : Nat) (y : Eng) : CoresOnly s (t.setEng k e y) := h.modCore k _

section
variable (h : CoresOnly s t)
include h

theorem netSame : netSame s t := by
  obtain ⟨r, f, o, x, rfl⟩ := h
  exact ⟨rfl, rfl⟩

theorem ctx : t.ctx = s.ctx := by
  obtain ⟨r, f, o, x, rfl⟩ := h
  rfl

theorem nextId : t.nextId = s.nextId := by
  obtain ⟨r, f, o, x, rfl⟩ := h
  rfl

theorem clk : t.clk = s.clk := by
  obtain ⟨r, f, o, x, rfl⟩ := h
  rfl

theorem build : t.build = s.build := by
  obtain ⟨r, f, o, x, rfl⟩ := h
  rfl

end
end CoresOnly

namespace State

section
variable (s : State) (k e : Nat)

theorem brkTrigger_cores (tag line stamp rc : Nat) : CoresOnly s (s.brkTrigger k tag line stamp rc) := by
  unfold brkTrigger
  extract_lets p v s1 s2
  have h2 : CoresOnly s s2 := ((((CoresOnly.refl s).wr _ _).event _ _).wr _ _).trans (.logged (wr64_log ..))
  split
  · exact h2.ite (h2.modCore _ _)
  · exact h2

theorem brkIssue_cores (h : Head) : CoresOnly s (s.brkIssue k e h) := (brkTrigger_cores s k _ _ _ _).ite (.refl s)

theorem lateEvent_cores (c cause ref late : Nat) : CoresOnly s (s.lateEvent k c e cause ref late) := by
  unfold lateEvent
  extract_lets p s1 s2 code info
  have h1 : CoresOnly s s1 := ((CoresOnly.refl s).count _ _).count _ _
  have h2 : CoresOnly s s2 := (((h1.wr _ _).wr _ _).modCore _ _).ite h1
  exact h2.ite (((h2.event _ _).trans (.logged (recordFault_log ..))).trans (.logged (logEntry_log ..)))

theorem issued_cores (h : Head) : CoresOnly s (s.issued k e h) := by
  have late : CoresOnly s (s.lateIssue k e h) := (CoresOnly.refl s).ite (lateEvent_cores ..)
  have watch : CoresOnly s ((s.lateIssue k e h).unwatch k h) := late.ite (late.modCore _ _)
  exact watch.setEng k e _

theorem startStream_cores (n : Nat) : CoresOnly s (s.startStream k e n) := by
  unfold startStream
  split
  · exact .refl s
  · extract_lets now s1 s2 s3
    have h2 : CoresOnly s s2 := ((CoresOnly.refl s).setEng _ _ _).wr _ _
    have h3 : CoresOnly s s3 :=
      (h2.modCore _ _).ite (.ite ((h2.wr _ _).modCore _ _) (.ite ((h2.wr _ _).modCore _ _) h2))
    unfold fetchEng
    dsimp only
    split
    · exact h3
    split
    · exact h3
    split
    · split
      · exact h3.setEng _ _ _
      · exact h3
    · exact h3

theorem promoteEng_cores : CoresOnly s (s.promoteEng k e) :=
  .ite (.ite (startStream_cores ..) (.ite ((CoresOnly.refl s).setEng _ _ _) (.refl s))) (.refl s)

/-- The bookkeeping of a retirement before the engine looks for its next stream: the entry is no longer open. -/
def closed (s : State) (k e : Nat) : State := s.setEng k e { s.eng k e with open_ := (s.eng k e).open_ - 1 }

end

end State

/-- A core without what entries wait for and watch, and the breakpoint's hold. -/
def Core.sansMarks (x : Core) : Core := { x with watched := [], bound := [], lateRef := 0, brkHold := none }

/-- The words but those that an issue writes: a late event's, its report's, and the FAULT page. -/
def BesideIssue (a : Nat) : Prop := a / 0x1000 ≠ 5 ∧ a % 0x1000 ∉ [oEVENT, oFCODE, oFINFO, 0x6C, 0x70, 0x364, 0x368]

namespace State

section
variable (s : State) (k e : Nat)

theorem brkTrigger_marks (tag line stamp rc : Nat) :
    Within k Core.sansMarks (fun _ => False) s (s.brkTrigger k tag line stamp rc) := by
  unfold brkTrigger
  extract_lets p v s1 s2
  have h2 : Within k Core.sansMarks (fun _ => False) s s2 :=
    ((((Within.refl.wr _ id).event _ id).wr _ id).wr _ id).wr _ id
  split
  · exact h2.ite (h2.modCore fun _ => rfl)
  · exact h2

theorem brkIssue_marks (h : Head) : Within k Core.sansMarks (fun _ => False) s (s.brkIssue k e h) :=
  (brkTrigger_marks s k _ _ _ _).ite .refl

/-- A retirement up to the engine's look for its next stream marks what waits for it. -/
theorem retire_closes (num : Nat) (i : Inst) (tag line stamp rc : Nat) :
    ∃ u, s.retire k e num i tag line stamp rc = u.promoteEng k e ∧ CoresOnly s u
      ∧ Within k Core.sansMarks (fun _ => False) (s.closed k e) u := by
  unfold retire
  extract_lets x s1 a s2 bound same s3 v s4
  refine ⟨s4, rfl, ?_, ?_⟩
  · have h2 : CoresOnly s s2 := ((CoresOnly.refl s).setEng _ _ _).count _ _
    have h3 : CoresOnly s s3 := by
      unfold s3
      split
      · exact h2
      split
      · exact h2
      · exact .ite (h2.modCore _ _) h2
    exact .ite (h3.trans (brkTrigger_cores ..)) h3
  · have h2 : Within k Core.sansMarks (fun _ => False) s1 s2 := Within.refl.count _ id
    have h3 : Within k Core.sansMarks (fun _ => False) s1 s3 := by
      unfold s3
      split
      · exact h2
      split
      · exact h2
      · exact .ite (h2.modCore fun _ => rfl) h2
    exact .ite (h3.trans (brkTrigger_marks ..)) h3

theorem retire_cores (num : Nat) (i : Inst) (tag line stamp rc : Nat) :
    CoresOnly s (s.retire k e num i tag line stamp rc) := by
  obtain ⟨u, eq, cores, -⟩ := retire_closes s k e num i tag line stamp rc
  rw [eq]
  exact cores.trans (promoteEng_cores ..)

theorem lateEvent_marks (c cause ref late : Nat) :
    Within k Core.sansMarks BesideIssue s (s.lateEvent k c e cause ref late) := by
  have written : ∀ p o, p % 0x1000 = 0 → o < 0x1000 ∧ o ∈ [oEVENT, oFCODE, oFINFO, 0x6C, 0x70, 0x364, 0x368] →
      ¬ BesideIssue (p + o) := fun p o hp ho h => not_butAt_page hp ho h.2
  have core := fun o => written (coreP k) o (coreP_aligned k)
  unfold lateEvent
  extract_lets p s1 s2 code info
  have h1 : Within k Core.sansMarks BesideIssue s s1 :=
    (Within.refl.count _ (core 0x364 (by decide))).count _ (core 0x368 (by decide))
  have h2 : Within k Core.sansMarks BesideIssue s s2 :=
    .ite (.modCore (.wr (h1.wr _ (core 0x6C (by decide))) _ (core 0x70 (by decide))) fun _ => rfl) h1
  refine h2.ite ((h2.event 0 (written _ _ (ctxP_aligned c) (by decide))).trans
    ((Within.logged (recordFault_log _ p code info) fun a ha => ?_).trans
      (Within.logged (logEntry_log _ p code info _ _) fun a ha => rd_logEntry _ _ _ _ _ _ ha.1)))
  have apart : ∀ o, o < 0x1000 ∧ o ∈ [oEVENT, oFCODE, oFINFO, 0x6C, 0x70, 0x364, 0x368] → p + o ≠ a := fun o ho h =>
    core o ho (h ▸ ha)
  exact rd_recordFault_ne _ _ _ _ (apart _ (by decide)) (apart _ (by decide)) (apart _ (by decide))

/-- An issue marks the entries and takes the head off its engine's queue. -/
theorem issued_marks (h : Head) : ∃ u y, s.issued k e h = u.setEng k e y ∧ Within k Core.sansMarks BesideIssue s u
    ∧ y.queue = (u.eng k e).queue.drop 1 ∧ y.live = (u.eng k e).live := by
  have late : Within k Core.sansMarks BesideIssue s (s.lateIssue k e h) := Within.refl.ite (lateEvent_marks s ..)
  exact ⟨_, _, rfl, late.ite (late.modCore fun _ => rfl), rfl, rfl⟩

theorem rd_issued (h : Head) {a : Nat} (ha : BesideIssue a) : (s.issued k e h).rd a = s.rd a := by
  obtain ⟨u, y, eq, marks, -⟩ := issued_marks s k e h
  rw [eq]
  exact marks.regs a ha

theorem eng_setEng (y : Eng) : (s.setEng k e y).eng k e = y := by
  rw [eng, setEng, getCore_modCore_self, Tab.get_put_self]

theorem eng_of_marks {R : Nat → Prop} {s t : State} (h : Within k Core.sansMarks R s t) : t.eng k e = s.eng k e := by
  have eng := congrArg (fun x : Core => (Tab.get {} x.eng e : Eng)) h.core
  exact eng

/-- The engine's queue and stream behind an issue. -/
theorem eng_issued (h : Head) : ((s.issued k e h).eng k e).queue = (s.eng k e).queue.drop 1
    ∧ ((s.issued k e h).eng k e).live = (s.eng k e).live := by
  obtain ⟨u, y, eq, marks, queue, live⟩ := issued_marks s k e h
  rw [eq, eng_setEng, queue, live, eng_of_marks k e marks]
  exact ⟨rfl, rfl⟩

/-- An engine with a fetched entry stays with its stream. -/
theorem promoteEng_busy {s : State} {k e : Nat} (hl : (s.eng k e).live = true) (hq : (s.eng k e).queue ≠ []) :
    s.promoteEng k e = s := by
  refine if_neg ?_
  have more : (s.eng k e).queue.isEmpty = false := by simpa using hq
  simp [streamEnded, hl, more]

/-- A retirement leaves an engine with a fetched entry its queue. -/
theorem queue_retire {s : State} {k e : Nat} (hl : (s.eng k e).live = true) (hq : (s.eng k e).queue ≠ []) (num : Nat)
    (i : Inst) (tag line stamp rc : Nat) : ((s.retire k e num i tag line stamp rc).eng k e).queue = (s.eng k e).queue := by
  obtain ⟨u, eq, -, marks⟩ := retire_closes s k e num i tag line stamp rc
  have same : u.eng k e = { s.eng k e with open_ := (s.eng k e).open_ - 1 } := (eng_of_marks k e marks).trans (eng_setEng ..)
  rw [eq, promoteEng_busy (by rw [same]; exact hl) (by rw [same]; exact hq), same]

end

end State

/-- A core without the updates of its bollards, the writes that await their acknowledgement, the digest of its writes and its
posted messages. -/
def Core.sansSync (x : Core) : Core := { x with bolOps := [], acks := [], digest := 0, posted := [] }

theorem Within.inject {k : Nat} {e : Core → Core} {R : Nat → Prop} {s t : State} (h : Within k e R s t) (load : Load)
    (src dst : Port) (vc len : Nat) : Within k e R s (t.inject load src dst vc len) := by
  refine h.trans ?_
  rw [State.inject, State.injectAt_eq]
  exact ⟨.refl k t, rfl, fun _ _ => rfl⟩

namespace State

/-! What the sync engine performs (R211, R230, R234, R238, R242, R361). -/

section
variable (s : State) (k c source : Nat) (w : DWord)

/-- The next number of a request is taken. -/
def numbered (s : State) : State := { s with nextId := s.nextId + 1 }

theorem numbered_within {k : Nat} {e : Core → Core} {R : Nat → Prop} (s : State) : Within k e R s s.numbered :=
  ⟨.refl k s, rfl, fun _ _ => rfl⟩

/-- The write with the next number of a request awaits its acknowledgement. -/
def awaited (s : State) (k : Nat) : State := s.numbered.modCore k fun x => { x with acks := x.acks ++ [s.nextId] }

theorem awaited_within : Within k Core.sansSync (fun _ => False) s (s.awaited k) :=
  (numbered_within s).modCore fun _ => rfl

theorem getCore_awaited : (s.awaited k).getCore k = { s.getCore k with acks := (s.getCore k).acks ++ [s.nextId] } :=
  getCore_modCore_self ..

/-- A write of an operation on a block bollard, which its digest counts (R238, R362). -/
def bbolMarked (s : State) (k a n : Nat) : State := (s.awaited k).digestWrite k a (leBytes 4 n)

theorem bbolMarked_within (a n : Nat) : Within k Core.sansSync (fun _ => False) s (s.bbolMarked k a n) :=
  (awaited_within s k).modCore (f := fun x => { x with digest := _ }) fun _ => rfl

/-- Outside the cores the operation takes a number. -/
theorem bbolMarked_net (a n : Nat) : netSame s (s.bbolMarked k a n) ∧ (s.bbolMarked k a n).ctx = s.ctx := ⟨⟨rfl, rfl⟩, rfl⟩

theorem getCore_bbolMarked (a n : Nat) : ∃ d, (s.bbolMarked k a n).getCore k
    = { s.getCore k with acks := (s.getCore k).acks ++ [s.nextId], digest := d } :=
  ⟨_, (getCore_modCore_self ..).trans (by rw [getCore_awaited])⟩

theorem bbolSend_eq (i : Nat) (sub : Bool) (n : Nat) : s.bbolSend k c i sub n =
    if (s.getCtx c).paired ∧ s.pairState c = 1 then
      (s.bbolMarked k (s.bbolAbs c i) n).modCtx c fun y => { y with gate := y.gate ++
        [⟨(s.getCore k).mindex, s.sideOf k, 3, none, some (s.bbolAbs c i, sub, n), k, s.nextId⟩] }
    else (s.bbolMarked k (s.bbolAbs c i) n).bbolLeaves k ⟨s.bbolAbs c i, sub, n, false, 0, (s.getCore k).mindex, [(k, s.nextId)]⟩ := by
  have mindex : ((s.bbolMarked k (s.bbolAbs c i) n).getCore k).mindex = (s.getCore k).mindex := by
    obtain ⟨d, same⟩ := getCore_bbolMarked s k (s.bbolAbs c i) n
    rw [same]
  rw [← mindex]
  rfl

/-! By operation. -/

section
variable {w}

theorem syPerform_wait (h : opOf w = 1) : s.syPerform k c source w = s := by simp [syPerform, h]

theorem syPerform_bol (h : opOf w = 2 ∨ opOf w = 3) (hb : bitOf w 50 = false) : s.syPerform k c source w
    = (s.bolQueue k ⟨fieldOf w 49 38 % 64, opOf w = 3, fieldOf w 31 0, source, (s.getCore k).mindex⟩).count (cnt k 27) 1 := by
  rw [syPerform, if_pos h, if_neg (by simp [hb])]

theorem syPerform_bbol (h : opOf w = 2 ∨ opOf w = 3) (hb : bitOf w 50 = true) :
    s.syPerform k c source w = s.bbolSend k c (fieldOf w 49 38) (opOf w = 3) (fieldOf w 31 0) := by
  rw [syPerform, if_pos h, if_pos hb]

theorem syPerform_signal (h : opOf w = 4) : s.syPerform k c source w =
    (s.physOf c (s.sideOf k) (fieldOf w 43 32)).elim s fun t =>
      s.send k t false (.add (fieldOf w 49 44) (fieldOf w 31 0) false) := by
  rw [syPerform, if_neg (by omega), if_pos h]
  cases s.physOf c (s.sideOf k) (fieldOf w 43 32) <;> rfl

theorem syPerform_arrive (h : opOf w = 0x10) : s.syPerform k c source w = (s.awaited k).sendArrival c k s.nextId := by
  rw [syPerform, if_neg (by omega), if_neg (by omega), if_pos h]
  rfl

theorem syPerform_other (h : opOf w ∉ [2, 3, 4, 0x10]) : s.syPerform k c source w = s := by
  simp only [List.mem_cons, List.not_mem_nil, or_false, not_or] at h
  rw [syPerform, if_neg (by omega), if_neg (by omega), if_neg (by omega)]

end

/-- A later fence asks core `t` for what has been sent to it over the mesh before request `n` (R242). -/
def postedTo (t n : Nat) (x : Core) : Core :=
  { x with posted := (x.posted.filter fun e => ¬ (e.1 = t ∧ e.2.1 = false)) ++ [(t, false, n)] }

/-- A message leaves over the mesh (R234). -/
theorem send_mesh (t : Nat) (m : MsgKind) :
    s.send k t false m = (s.sendMsg t (s.msgTo k t false m)).modCore k (postedTo t (s.sendMsg t (s.msgTo k t false m)).nextId) :=
  rfl

theorem send_within (t : Nat) (m : MsgKind) : Within k Core.sansSync (fun _ => False) s (s.send k t false m) := by
  rw [send_mesh]
  exact (Within.refl.inject ..).modCore fun _ => rfl

theorem getCore_send (t : Nat) (m : MsgKind) : ∃ n, (s.send k t false m).getCore k = postedTo t n (s.getCore k) := by
  have left : (s.sendMsg t (s.msgTo k t false m)).getCore k = s.getCore k := getCore_congr (injectAt_core ..) k
  exact ⟨_, by rw [send_mesh, getCore_modCore_self, left]⟩

/-- Bytes that a message carries. -/
def msgSize : MsgKind → Nat
  | .words _ _ d => d.length
  | _ => 0

theorem sends_send (t : Nat) (m : MsgKind) :
    Machine.sends (.msg t (s.msgTo k t false m)) (.core k) (.core t) 2 (flitsOf (msgSize m)) s (s.send k t false m) := by
  rw [send_mesh]
  exact sends_inject (s := s) (u := s) (.refl s) rfl rfl ..

theorem bbolSend_within (i : Nat) (sub : Bool) (n : Nat) :
    Within k Core.sansSync (fun _ => False) s (s.bbolSend k c i sub n) := by
  have marked := bbolMarked_within s k (s.bbolAbs c i) n
  rw [bbolSend_eq]
  exact (marked.modCtx _ _).ite (marked.inject ..)

theorem syPerform_within : Within k Core.sansSync (fun _ => False) s (s.syPerform k c source w) := by
  by_cases add : opOf w = 2 ∨ opOf w = 3
  · cases hb : bitOf w 50 with
    | true =>
      rw [syPerform_bbol s k c source add hb]
      exact bbolSend_within ..
    | false =>
      rw [syPerform_bol s k c source add hb]
      have queued : Within k Core.sansSync (fun _ => False) s
          (s.bolQueue k ⟨fieldOf w 49 38 % 64, opOf w = 3, fieldOf w 31 0, source, (s.getCore k).mindex⟩) :=
        Within.refl.modCore fun _ => rfl
      exact queued.count _ id
  by_cases signal : opOf w = 4
  · rw [syPerform_signal s k c source signal]
    cases s.physOf c (s.sideOf k) (fieldOf w 43 32) with
    | none => exact .refl
    | some t => exact send_within ..
  by_cases arrive : opOf w = 0x10
  · rw [syPerform_arrive s k c source arrive]
    exact (awaited_within s k).inject ..
  · rw [syPerform_other s k c source (by simp; omega)]
    exact .refl

/-- An operation on a block bollard, at the pair gate or on its way (R238, R361). -/
theorem bbolSend_effect (i : Nat) (sub : Bool) (n : Nat) : let a := s.bbolAbs c i
    let t := s.bbolSend k c i sub n
    (t.getCore k).bolOps = (s.getCore k).bolOps ∧ (t.getCore k).acks = (s.getCore k).acks ++ [s.nextId]
      ∧ (((s.getCtx c).paired = true ∧ s.pairState c = 1) →
          (t.getCtx c).gate = (s.getCtx c).gate
              ++ [⟨(s.getCore k).mindex, s.sideOf k, 3, none, some (a, sub, n), k, s.nextId⟩]
            ∧ netSame s t)
      ∧ (((s.getCtx c).paired = false ∨ s.pairState c ≠ 1) →
          (t.getCtx c).gate = (s.getCtx c).gate
            ∧ Machine.sends (.bbol ⟨a, sub, n, false, 0, (s.getCore k).mindex, [(k, s.nextId)]⟩) (.mem k) .control 0 1 s t) := by
  obtain ⟨d, core⟩ := getCore_bbolMarked s k (s.bbolAbs c i) n
  obtain ⟨net, ctx⟩ := bbolMarked_net s k (s.bbolAbs c i) n
  have clk : (s.bbolMarked k (s.bbolAbs c i) n).clk = s.clk := rfl
  have build : (s.bbolMarked k (s.bbolAbs c i) n).build = s.build := rfl
  have here : (s.bbolMarked k (s.bbolAbs c i) n).getCtx c = s.getCtx c := getCtx_congr ctx c
  have eq := bbolSend_eq s k c i sub n
  generalize s.bbolMarked k (s.bbolAbs c i) n = u at core net ctx clk build here eq
  dsimp only
  rw [eq]
  split
  · next attached =>
    refine ⟨by rw [getCore_modCtx, core], by rw [getCore_modCtx, core], fun _ => ⟨?_, net⟩, fun h => ?_⟩
    · rw [getCtx_modCtx_self, here]
    · obtain ⟨paired, state⟩ := attached
      exact h.elim (fun single => by simp [single] at paired) fun detached => absurd state detached
  · next apart =>
    have left : (u.bbolLeaves k ⟨s.bbolAbs c i, sub, n, false, 0, (s.getCore k).mindex, [(k, s.nextId)]⟩).getCore k = u.getCore k :=
      getCore_congr (injectAt_core ..) k
    have gate : (u.bbolLeaves k ⟨s.bbolAbs c i, sub, n, false, 0, (s.getCore k).mindex, [(k, s.nextId)]⟩).getCtx c = u.getCtx c :=
      getCtx_congr (injectAt_ctx ..) c
    refine ⟨by rw [left, core], by rw [left, core], fun h => absurd h apart, fun _ => ⟨by rw [gate, here], ?_⟩⟩
    exact sends_inject net clk build ..

theorem syPerform_effect : syEffect k c source w s (s.syPerform k c source w) := by
  have adds : (opOf w = 2 || opOf w = 3) = true → opOf w = 2 ∨ opOf w = 3 := by simp
  refine ⟨fun h => ?_, fun h hb => ?_, fun h hb => ?_, fun h => ?_, fun h => ?_⟩
  · rw [syPerform_wait s k c source h]
    exact ⟨rfl, rfl, .refl s⟩
  · rw [syPerform_bol s k c source (adds h) hb]
    have joined : ((s.bolQueue k ⟨fieldOf w 49 38 % 64, opOf w = 3, fieldOf w 31 0, source, (s.getCore k).mindex⟩).count
        (cnt k 27) 1).getCore k = { s.getCore k with bolOps := (s.getCore k).bolOps
          ++ [⟨fieldOf w 49 38 % 64, opOf w = 3, fieldOf w 31 0, source, (s.getCore k).mindex⟩] } := by
      rw [getCore_count, bolQueue, getCore_modCore_self]
    exact ⟨by rw [joined], by rw [joined], ((LogOnly.refl _).count _ _).netSame⟩
  · rw [syPerform_bbol s k c source (adds h) hb]
    exact bbolSend_effect s k c (fieldOf w 49 38) (opOf w = 3) (fieldOf w 31 0)
  · rw [syPerform_signal s k c source h]
    cases target : s.physOf c (s.sideOf k) (fieldOf w 43 32) with
    | none => exact ⟨rfl, rfl, fun _ => .refl s, fun _ h => absurd h (by simp)⟩
    | some t =>
      obtain ⟨n, core⟩ := getCore_send s k t (.add (fieldOf w 49 44) (fieldOf w 31 0) false)
      rw [Option.elim_some]
      refine ⟨by rw [core]; rfl, by rw [core]; rfl, fun h => absurd h (by simp), fun tgt h => ?_⟩
      cases h
      exact sends_send ..
  · rw [syPerform_arrive s k c source h]
    have left : ((s.awaited k).sendArrival c k s.nextId).getCore k = (s.awaited k).getCore k := getCore_congr (injectAt_core ..) k
    refine ⟨by rw [left, getCore_awaited], by rw [left, getCore_awaited], ?_⟩
    exact sends_inject (s := s) (u := s.awaited k) ⟨rfl, rfl⟩ rfl rfl ..

end
end State

/-- A sync operation between what its issue and its retirement do. -/
theorem syEffect.between {k c source : Nat} {w : DWord} {s u v t : State} (h : syEffect k c source w u v)
    (before : CoresOnly s u) (after : CoresOnly v t)
    (core : (u.getCore k).bolOps = (s.getCore k).bolOps ∧ (u.getCore k).acks = (s.getCore k).acks
      ∧ (u.getCore k).mindex = (s.getCore k).mindex)
    (core' : (t.getCore k).bolOps = (v.getCore k).bolOps ∧ (t.getCore k).acks = (v.getCore k).acks)
    (first : ∀ i, u.bbolAbs c i = s.bbolAbs c i) (state : u.pairState c = s.pairState c) :
    syEffect k c source w s t := by
  obtain ⟨wait, bol, bbol, signal, arrive⟩ := h
  obtain ⟨bolOps, acks, mindex⟩ := core
  obtain ⟨bolOps', acks'⟩ := core'
  have sent {load : Load} {src dst : Port} {vc len : Nat} (h : sends load src dst vc len u v) : sends load src dst vc len s t := by
    obtain ⟨net, next⟩ := h
    obtain ⟨net', next'⟩ := after.netSame
    exact ⟨net'.trans (net.trans (State.injectAt_net_congr before.netSame before.clk before.build ..)),
      next'.trans (next.trans (congrArg (· + 1) before.netSame.2))⟩
  have nets (same : netSame u v) : netSame s t := (before.netSame.trans same).trans after.netSame
  have gate : (t.getCtx c).gate = (v.getCtx c).gate := congrArg Ctx.gate (State.getCtx_congr after.ctx c)
  have here : u.getCtx c = s.getCtx c := State.getCtx_congr before.ctx c
  have side : u.sideOf k = s.sideOf k := by
    obtain ⟨r, f, o, x, rfl⟩ := before
    rfl
  have phys (m : Nat) : u.physOf c (s.sideOf k) m = s.physOf c (s.sideOf k) m := by
    obtain ⟨r, f, o, x, rfl⟩ := before
    rfl
  have msg (tgt : Nat) (m : MsgKind) : u.msgTo k tgt false m = s.msgTo k tgt false m := by
    obtain ⟨r, f, o, x, rfl⟩ := before
    exact congrArg (fun i => Msg.mk k i false m (s.coreRc k + 3) (s.instant + s.linkDelay k tgt)) mindex
  refine ⟨fun op => ?_, fun op core => ?_, fun op block => ?_, fun op => ?_, fun op => ?_⟩
  · obtain ⟨b, a, net⟩ := wait op
    exact ⟨bolOps'.trans (b.trans bolOps), acks'.trans (a.trans acks), nets net⟩
  · obtain ⟨b, a, net⟩ := bol op core
    rw [bolOps, mindex] at b
    exact ⟨bolOps'.trans b, acks'.trans (a.trans acks), nets net⟩
  · obtain ⟨b, a, held, leaves⟩ := bbol op block
    rw [acks, before.nextId] at a
    rw [here, state, mindex, side, first, before.nextId] at held
    rw [here, state, mindex, first, before.nextId] at leaves
    refine ⟨bolOps'.trans (b.trans bolOps), acks'.trans a, fun h => ?_, fun h => ?_⟩
    · obtain ⟨joined, net⟩ := held h
      exact ⟨gate.trans joined, nets net⟩
    · obtain ⟨same, sends⟩ := leaves h
      exact ⟨gate.trans same, sent sends⟩
  · obtain ⟨b, a, none_, some_⟩ := signal op
    rw [side, phys] at none_ some_
    refine ⟨bolOps'.trans (b.trans bolOps), acks'.trans (a.trans acks), fun h => nets (none_ h), fun tgt h => ?_⟩
    rw [← msg]
    exact sent (some_ tgt h)
  · obtain ⟨b, a, sends⟩ := arrive op
    rw [acks, before.nextId] at a
    rw [before.nextId] at sends
    exact ⟨bolOps'.trans (b.trans bolOps), acks'.trans a, sent sends⟩

theorem syEffect.framed {k c source : Nat} {w : DWord} {s t : State} (h : syEffect k c source w s t) :
    syEffect k c source w s (s.framed t) := h

namespace State

/-! The rows of the sync engine. -/

/-- An issue keeps what the operations of the sync engine read of a context's words. -/
theorem bbolAbs_issued (s : State) (k e : Nat) (h : Head) (c i : Nat) : (s.issued k e h).bbolAbs c i = s.bbolAbs c i := by
  have beside : BesideIssue (ctxP c + 0x90) := ⟨by unfold ctxP; omega, (butAt_page (ctxP_aligned c) (by decide)).2 (by decide)⟩
  rw [bbolAbs, bbolAbs, rd_issued s k e h beside]

theorem pairState_issued (s : State) (k e : Nat) (h : Head) (c : Nat) : (s.issued k e h).pairState c = s.pairState c := by
  have beside : BesideIssue (ctxP c + 0xAC) := ⟨by unfold ctxP; omega, (butAt_page (ctxP_aligned c) (by decide)).2 (by decide)⟩
  rw [pairState, pairState, rd_issued s k e h beside]

/-- The engine of a head has a stream. -/
theorem live_of_head {s : State} {k e : Nat} {h : Head} (hh : s.head? k e = some h) : (s.eng k e).live = true := by
  unfold head? at hh
  dsimp only at hh
  split at hh
  · split at hh
    · assumption
    · cases hh
  · cases hh

theorem readyHead_iff {s : State} {k e op : Nat} {h : Head} :
    s.readyHead k e op = some h ↔ s.head? k e = some h ∧ opOf h.word = op ∧ s.ready k e h = true := by
  unfold readyHead
  cases s.head? k e with
  | none => simp
  | some g =>
    dsimp only
    split
    · next c =>
      refine ⟨fun same => ?_, fun ⟨same, _⟩ => same⟩
      cases same
      exact ⟨rfl, c⟩
    · next c =>
      refine ⟨fun same => by simp at same, fun ⟨same, rest⟩ => ?_⟩
      cases same
      exact absurd rest c

section
variable {s : State} {k op : Nat} {h : Head} (hr : s.readyHead k 5 op = some h) {up : Upset} (hc : chartClean up)
  (soon : Head → Bool)
include hr

theorem syIssue_waits (hg : s.gateWaits k h.word = true) : syIssue op soon k up s = s := by
  unfold syIssue
  rw [hr]
  exact if_pos hg

/-- The sync engine's entry retires: now, or at the end of the region cycle (R223). -/
def syRetire (soon : Head → Bool) (k : Nat) (h : Head) (s : State) : State :=
  if soon h then s.retireSoon k 5 h else s.retireHead k 5 h

theorem syIssue_free (hg : s.gateWaits k h.word = false) (hc : chartClean up) : syIssue op soon k up s
    = (((s.issued k 5 h).syPerform k h.prog.ctx 0 h.word).syRetire soon k h).brkIssue k 5 h := by
  unfold syIssue
  rw [hr]
  dsimp only
  rw [if_neg (by simp [hg]), chartRead_clean hc]
  rfl

end

/-- A core without the bookkeeping of entries and those that retire at the end of the region cycle. -/
def sansRetiring (x : Core) : Core := { x.sansIssue with retiring := [] }

/-- That bookkeeping keeps what the sync engine's operations change, and the berths. -/
theorem sync_of_sansRetiring {x y : Core} (h : sansRetiring x = sansRetiring y) :
    x.bolOps = y.bolOps ∧ x.acks = y.acks ∧ x.mindex = y.mindex ∧ x.berths = y.berths := by
  have bolOps := congrArg Core.bolOps h
  have acks := congrArg Core.acks h
  have mindex := congrArg Core.mindex h
  have berths := congrArg Core.berths h
  exact ⟨bolOps, acks, mindex, berths⟩

theorem berths_of_sansSync {x y : Core} (h : x.sansSync = y.sansSync) : x.berths = y.berths := by
  have berths := congrArg Core.berths h
  exact berths

section
variable (s : State) (k : Nat) (h : Head) (soon : Head → Bool)

theorem syRetire_cores : CoresOnly s (s.syRetire soon k h) := ((CoresOnly.refl s).modCore _ _).ite (retire_cores ..)

theorem syRetire_within : Within k sansRetiring (fun _ => False) s (s.syRetire soon k h) := by
  have retired := (retire_within s k 5 h.num h.inst h.bundle.tag h.bundle.line h.stamp (s.coreRc k)).coarsen
    (g := sansRetiring) (fun _ _ => congrArg fun x : Core => { x with retiring := [] }) fun _ => id
  have later : Within k sansRetiring (fun _ => False) s (s.retireSoon k 5 h) := Within.refl.modCore fun _ => rfl
  exact later.ite retired

/-- The entries behind the one that retires stay in the engine's queue. -/
theorem queue_syRetire (hl : (s.eng k 5).live = true) (hq : (s.eng k 5).queue ≠ []) :
    ((s.syRetire soon k h).eng k 5).queue = (s.eng k 5).queue := by
  have later : (s.retireSoon k 5 h).eng k 5 = s.eng k 5 := by
    rw [eng, retireSoon, getCore_modCore_self]
    rfl
  unfold syRetire
  split
  · rw [later]
  · exact queue_retire hl hq ..

theorem eng_syPerform (c source : Nat) (w : DWord) (e : Nat) : (s.syPerform k c source w).eng k e = s.eng k e := by
  have eng := congrArg (fun x : Core => (Tab.get {} x.eng e : Eng)) (syPerform_within s k c source w).core
  exact eng

end

/-- What a sync entry does, from its issue to its retirement, and what it leaves alone. -/
theorem syIssue_effect {s : State} {k op : Nat} {h : Head} (hr : s.readyHead k 5 op = some h) {up : Upset} (hc : chartClean up)
    (hg : s.gateWaits k h.word = false) (soon : Head → Bool) : let t := syIssue op soon k up s
    syEffect k h.prog.ctx 0 h.word s t
      ∧ (1 < (s.eng k 5).queue.length → (t.eng k 5).queue = (s.eng k 5).queue.drop 1)
      ∧ berthsSame k s t ∧ coreFrame k s t := by
  have issue := issued_within s k 5 h
  have perform := syPerform_within (s.issued k 5 h) k h.prog.ctx 0 h.word
  have effect := syPerform_effect (s.issued k 5 h) k h.prog.ctx 0 h.word
  have eng := eng_syPerform (s.issued k 5 h) k h.prog.ctx 0 h.word 5
  obtain ⟨queue, live⟩ := eng_issued s k 5 h
  rw [← eng] at queue live
  intro t
  have steps : t = _ := syIssue_free hr soon hg hc
  generalize (s.issued k 5 h).syPerform k h.prog.ctx 0 h.word = v at perform effect queue live steps
  have retire := syRetire_within v k h soon
  have trigger := (brkIssue_within (v.syRetire soon k h) k 5 h).coarsen (g := sansRetiring) (Q := fun _ => False)
    (fun _ _ => congrArg fun x : Core => { x with retiring := [] }) fun _ => False.elim
  have after := retire.trans trigger
  rw [← steps] at after
  obtain ⟨bolOps, acks, mindex, berths⟩ := sync_of_sansRetiring (congrArg (fun x : Core => { x with retiring := [] }) issue.core)
  obtain ⟨bolOps', acks', -, berths'⟩ := sync_of_sansRetiring after.core
  refine ⟨effect.between (issued_cores ..) ?_ ⟨bolOps, acks, mindex⟩ ⟨bolOps', acks'⟩ (bbolAbs_issued s k 5 h _)
    (pairState_issued ..), fun more => ?_,
    berthsSame_iff.2 (berths'.trans ((berths_of_sansSync perform.core).trans berths)),
    issue.frame.trans (perform.frame.trans after.frame)⟩
  · rw [steps]
    exact (syRetire_cores v k h soon).trans (brkIssue_cores ..)
  · have behind : (v.eng k 5).queue ≠ [] := by
      rw [queue]
      exact List.ne_nil_of_length_pos (by rw [List.length_drop]; omega)
    rw [steps, eng_of_marks k 5 (brkIssue_marks _ k 5 h),
      queue_syRetire v k h soon (live.trans (live_of_head (readyHead_iff.1 hr).1)) behind, queue]

/-- An operation waits for the pair gate when it is on a block bollard only. -/
theorem gateWaits_other {s : State} {k : Nat} {w : DWord} (h : opOf w ∉ [2, 3]) : s.gateWaits k w = false := by
  simp only [List.mem_cons, List.not_mem_nil, or_false, not_or] at h
  simp [gateWaits, h]

end State

/-- Settles O22, row by row; each is one issue of the sync engine. -/
theorem syncEntriesAct : Obligations.SyncEntriesAct := by
  intro core s h up ⟨hk, ha, hclk⟩ hc done
  have acts {i : Instr} {op : Nat} {soon : Head → Bool}
      (row : exec i s = .next (s.framed (State.syIssue op soon core up s)))
      (hr : s.readyHead core 5 op = some h) (hg : s.gateWaits core h.word = false) : done i := by
    obtain ⟨effect, queue, berths, frame⟩ := State.syIssue_effect hr hc hg soon
    exact ⟨_, row, effect.framed, queue, berths, frame.framed⟩
  have run (f : State → State) : actCore core (core < s.build.physCores) f s = .next (s.framed (f s)) :=
    actCore_running (decide_eq_true hk) ha hclk
  have other {op : Nat} (hr : s.readyHead core 5 op = some h) (ho : op ∉ [2, 3]) : s.gateWaits core h.word = false :=
    State.gateWaits_other ((State.readyHead_iff.1 hr).2.1 ▸ ho)
  refine ⟨fun hr => acts (run _) hr (other hr (by decide)), fun hr hg => acts (run _) hr hg, fun hr hg => acts (run _) hr hg,
    fun hr hg => ?_, fun hr hg => ?_, fun hr => acts (run _) hr (other hr (by decide)),
    fun hr => acts (run _) hr (other hr (by decide))⟩
  · have row : exec (.syAdd ⟨core, up⟩) s = _ := run (State.syIssue 2 (fun h => !bitOf h.word 50) core up)
    rw [row, State.syIssue_waits hr _ hg, State.framed_self]
  · have row : exec (.sySub ⟨core, up⟩) s = _ := run (State.syIssue 3 (fun h => !bitOf h.word 50) core up)
    rw [row, State.syIssue_waits hr _ hg, State.framed_self]

end Sys2Proof.Machine
end

section
/-! PROOF. The start of a stream in a free slot, and one without planes (R137, R143, R144, R149, R150) (O18). -/

namespace Sys2Proof.Machine

theorem Tab.find?_put_ne {α : Type} (t : Tab α) {k j : Nat} (v : α) (h : j ≠ k) :
    (Tab.put t k v).find? (fun e => e.1 = j) = t.find? (fun e => e.1 = j) := by
  induction t with
  | nil => simp [Tab.put, Ne.symm h]
  | cons e t ih =>
    obtain ⟨i, w⟩ := e
    by_cases hi : i = k
    · subst hi
      simp [Tab.put, Ne.symm h]
    · by_cases hj : i = j
      · subst hj
        simp [Tab.put, h]
      · simpa [Tab.put, hi, hj] using ih

namespace State

/-! The slots of the load and store engines. -/

section
variable (s : State) (k : Nat) (store : Bool) (slot : Nat) (x : Stream)

theorem streamAt_setStream_ne {j : Nat} (h : j ≠ slot) :
    (s.setStream k store slot x).streamAt k store j = s.streamAt k store j := by
  unfold streamAt setStream
  rw [getCore_modCore_self]
  cases store <;> simp [slotsOf, setSlots, Tab.find?_put_ne _ x h]

theorem streamAt_setStream_other (j : Nat) : (s.setStream k store slot x).streamAt k (!store) j = s.streamAt k (!store) j := by
  unfold streamAt setStream
  rw [getCore_modCore_self]
  cases store <;> rfl

theorem setStream_berths : ((s.setStream k store slot x).getCore k).berths = (s.getCore k).berths := by
  rw [setStream, getCore_modCore_self]
  exact (slotsOf_setSlots ..).1

theorem setStream_cores : CoresOnly s (s.setStream k store slot x) := (CoresOnly.refl s).modCore _ _

end

/-- The streams of a core are in its slots. -/
theorem streamAt_congr {s t : State} {k : Nat} (loads : (t.getCore k).loads = (s.getCore k).loads)
    (stores : (t.getCore k).stores = (s.getCore k).stores) (store : Bool) (j : Nat) :
    t.streamAt k store j = s.streamAt k store j := by
  unfold streamAt
  cases store
  · exact congrArg (fun l => (List.find? (fun e : Nat × Stream => e.1 = j) l).map (·.2)) loads
  · exact congrArg (fun l => (List.find? (fun e : Nat × Stream => e.1 = j) l).map (·.2)) stores

/-- The bookkeeping of entries keeps the streams, the fences and the berths. -/
theorem streams_of_sansIssue {x y : Core} (h : x.sansIssue = y.sansIssue) :
    x.loads = y.loads ∧ x.stores = y.stores ∧ x.fences = y.fences ∧ x.berths = y.berths := by
  have loads := congrArg Core.loads h
  have stores := congrArg Core.stores h
  have fences := congrArg Core.fences h
  have berths := congrArg Core.berths h
  exact ⟨loads, stores, fences, berths⟩

/-- A core whose free slot is cleared is as it was. -/
theorem setSlots_del_free {x : Core} {store : Bool} {slot : Nat} (h : (slotsOf x store).all (fun e => e.1 ≠ slot) = true) :
    setSlots x store (Tab.del (slotsOf x store) slot) = x := by
  have none : Tab.del (slotsOf x store) slot = slotsOf x store := by
    refine List.filter_eq_self.2 fun e he => ?_
    simpa using List.all_eq_true.1 h e he
  rw [none]
  cases store <;> rfl

theorem freeSlot_free {s : State} {k : Nat} {store : Bool} {slot : Nat} (h : s.freeSlot k store = some slot) :
    (slotsOf (s.getCore k) store).all (fun e => e.1 ≠ slot) = true := by
  have free := List.find?_some h
  exact free

/-! The issue (R137, R144). -/

section
variable {s : State} {k slot : Nat} {store : Bool} {h : Head} {isOp : Nat → Bool} {raw : List Byte} {up : Upset}

/-- An LD or ST entry that may issue takes the free slot. -/
theorem lsIssue_free (hh : s.head? k (if store then 4 else 3) = some h) (ho : isOp (opOf h.word) = true)
    (hr : s.ready k (if store then 4 else 3) h = true) (hf : s.freeSlot k store = some slot) (hc : chartClean up) :
    lsIssue store isOp k up s = ((s.issued k (if store then 4 else 3) h).lsStart k store h slot).brkIssue k
      (if store then 4 else 3) h := by
  unfold lsIssue
  dsimp only
  rw [hh]
  dsimp only
  rw [if_pos (by simp [ho, hr]), hf]
  exact chartRead_clean hc _

/-- The checks pass. -/
theorem lsStart_ok (hraw : lsdAt h.prog (fieldOf h.word 55 49) = some raw) (hok : s.lsCheck k store h raw = .ok) :
    s.lsStart k store h slot = if (s.lsStream k store h raw).n = 0 then s.streamRetire k store slot (s.lsStream k store h raw)
      else s.setStream k store slot (s.lsStream k store h raw) := by
  unfold lsStart
  dsimp only
  rw [hraw]
  dsimp only
  rw [hok]

end

/-! A stream without planes (R143, R148). -/

/-- Without a fence no probe leaves. -/
theorem fenceProbes_idle {s : State} {k : Nat} (h : (s.getCore k).fences = []) : s.fenceProbes k = s := by
  unfold fenceProbes
  rw [h]
  rfl

/-- A stream that takes no slot retires as its entry does. -/
theorem streamRetire_free {s : State} {k slot : Nat} {store : Bool} (x : Stream)
    (hf : (slotsOf (s.getCore k) store).all (fun e => e.1 ≠ slot) = true) (hn : (s.getCore k).fences = []) :
    Within k Core.sansIssue (fun _ => False) s (s.streamRetire k store slot x) := by
  have cleared : Within k Core.sansIssue (fun _ => False) s
      (s.modCore k fun c => setSlots c store (Tab.del (slotsOf c store) slot)) := by
    refine ⟨(coreFrame.refl k s).modCore _, ?_, fun _ _ => rfl⟩
    rw [getCore_modCore_self, setSlots_del_free hf]
  unfold streamRetire
  extract_lets d s1 s2
  have h2 : Within k Core.sansIssue (fun _ => False) s s2 := by
    unfold s2
    split
    · exact (cleared.inject ..).ite cleared
    · exact cleared
  have retired : Within k Core.sansIssue (fun _ => False) s2
      (s2.retire k (if store then 4 else 3) x.stream x.inst x.tag x.lineNo x.stamp) := by
    have kept := retire_within s2 k (if store then 4 else 3) x.stream x.inst x.tag x.lineNo x.stamp (s2.coreRc k)
    cases store
    · exact kept
    · exact kept
  have all := h2.trans retired
  rw [fenceProbes_idle ((streams_of_sansIssue all.core).2.2.1.trans hn)]
  exact all

end State

/-- The rows that start a stream run the issue of their engine. -/
theorem exec_lsRows {core : Nat} {up : Upset} {e : Instr × Bool × (Nat → Bool)} (he : e ∈ lsRows core up) {s : State}
    (hr : s.runs core) : exec e.1 s = .next (s.framed (State.lsIssue e.2.1 e.2.2 core up s)) := by
  obtain ⟨hk, ha, hc⟩ := hr
  have run (f : State → State) : actCore core (core < s.build.physCores) f s = .next (s.framed (f s)) :=
    actCore_running (decide_eq_true hk) ha hc
  simp only [lsRows, List.mem_cons, List.not_mem_nil, or_false] at he
  rcases he with rfl | rfl | rfl | rfl | rfl | rfl | rfl | rfl <;> exact run _

/-- Settles O18: the free slot takes the stream, or the entry retires from the state in which it found it. -/
theorem streamTakesFreeSlot : Obligations.StreamTakesFreeSlot := by
  intro core s h slot raw up ⟨i, store, isOp⟩ hrun hc he eng hh ho hr hf hraw u hok
  have issue : Within core Core.sansIssue WorkCounter s u := State.issued_within s core eng h
  have trigger := State.brkIssue_within (u.lsStart core store h slot) core eng h
  have row := exec_lsRows he hrun
  rw [State.lsIssue_free hh ho hr hf hc] at row
  obtain ⟨loads, stores, fences, berths⟩ := State.streams_of_sansIssue issue.core
  obtain ⟨loads', stores', -, berths'⟩ := State.streams_of_sansIssue trigger.core
  have start := State.lsStart_ok (s := u) (slot := slot) hraw hok
  have found := State.streamAt_congr loads' stores'
  have before := State.streamAt_congr loads stores
  refine ⟨fun hn => ?_, fun hn hfe => ?_⟩
  · rw [if_neg hn] at start
    refine ⟨_, row, (found ..).trans ?_, fun j hj => (found ..).trans ?_, fun j => (found ..).trans ?_, berthsSame_iff.2 ?_, ?_, ?_⟩
    · rw [start, State.streamAt_setStream]
    · rw [start, State.streamAt_setStream_ne _ _ _ _ _ hj, before]
    · rw [start, State.streamAt_setStream_other, before]
    · rw [State.getCore_framed, berths', start, State.setStream_berths, berths]
    · have placed := State.frame_setStream (coreFrame.refl core u) store slot (u.lsStream core store h raw)
      rw [← start] at placed
      exact (issue.frame.trans (placed.trans trigger.frame)).framed
    · have placed := State.setStream_cores u core store slot (u.lsStream core store h raw)
      rw [← start] at placed
      have same := (((State.issued_cores s core eng h).trans placed).trans (State.brkIssue_cores _ core eng h)).netSame
      exact same
  · rw [if_pos hn] at start
    have slots : State.slotsOf (u.getCore core) store = State.slotsOf (s.getCore core) store := by
      cases store
      · exact loads
      · exact stores
    have free := State.freeSlot_free hf
    rw [← slots] at free
    have retire := State.streamRetire_free (u.lsStream core store h raw) free (fences.trans hfe)
    rw [← start] at retire
    obtain ⟨loads'', stores'', -, berths''⟩ := State.streams_of_sansIssue retire.core
    refine ⟨_, row, fun st j => (found ..).trans ((State.streamAt_congr loads'' stores'' ..).trans (before ..)),
      berthsSame_iff.2 ?_, (issue.frame.trans (retire.frame.trans trigger.frame)).framed⟩
    rw [State.getCore_framed, berths', berths'', berths]

end Sys2Proof.Machine
end

section
/-! PROOF. How a stream moves on: chunk waits, line requests, posted lines, skipped planes and index words (R138, R139, R142,
R143, R147, R148, R150) (O19). -/

namespace Sys2Proof.Machine

section
variable {k : Nat} {s t : State} (h : coreFrame k s t)
include h

theorem coreFrame.clk : t.clk = s.clk := by
  obtain ⟨-, -, -, -, -, clk, -⟩ := h
  exact clk

theorem coreFrame.build : t.build = s.build := by
  obtain ⟨-, -, -, -, -, -, build, -⟩ := h
  exact build

theorem coreFrame.regionOf (j : Nat) : t.regionOf j = s.regionOf j := congrArg (fun b : Build => b.regionOf j) h.build

end

namespace State

/-! The wait of a chunk (R147). -/

/-- A stream waits at its chunk. -/
theorem chunkHeld_here {x : Stream} {d : LsDesc} (hn : x.plane < x.n) (hh : x.halted = false)
    (ho : chunkOpen x d (x.plane / d.chunk) = false) : chunkHeld x d = some (x.plane / d.chunk) :=
  if_pos ⟨hn, by simp [hh], by simp [ho]⟩

section
variable {s : State} {k slot b : Nat} {store : Bool} {x : Stream} (hx : s.streamAt k store slot = some x)
  (hb : (LsDesc.of x.body).waitBol = some b) (hn : x.plane < x.n) (hh : x.halted = false)
  (ho : chunkOpen x (LsDesc.of x.body) (x.plane / (LsDesc.of x.body).chunk) = false)
include hx hb hn hh ho

theorem chunkWait_unmet
    (low : (s.bol k b : Int) < chunkThreshold (LsDesc.of x.body) (x.plane / (LsDesc.of x.body).chunk)) :
    s.chunkWait k store slot = s := by
  have held := chunkHeld_here hn hh ho
  unfold chunkWait
  rw [hx]
  dsimp only
  rw [held, hb]
  exact if_pos (.inr (by omega))

/-- A wait that is met opens the chunk; what follows is a late event at most. -/
theorem chunkWait_met (hi : s.coreIssues k = true)
    (met : chunkThreshold (LsDesc.of x.body) (x.plane / (LsDesc.of x.body).chunk) ≤ (s.bol k b : Int)) :
    Within k Core.sansIssue WorkCounter (s.setStream k store slot { x with met := x.plane / (LsDesc.of x.body).chunk + 1 })
      (s.chunkWait k store slot) := by
  have held := chunkHeld_here hn hh ho
  unfold chunkWait
  rw [hx]
  dsimp only
  rw [held, hb]
  dsimp only
  rw [if_neg (by simp [hi, met])]
  split
  · exact .ite (lateEvent_within ..) .refl
  · exact .refl

end

/-! The state in which a slot's turn has come (R137, R138). -/

/-- The engine has made its request of this region cycle, for slot `slot`. -/
def turned (s : State) (k : Nat) (store : Bool) (slot : Nat) : State :=
  s.modCore k fun y => { y with lineRc := Tab.put y.lineRc (if store then 1 else 0) (s.coreRc k),
                                lastSlot := Tab.put y.lastSlot (if store then 1 else 0) slot }

/-- It is the slot's turn, and the engine may make a request in this region cycle. -/
def hasTurn (s : State) (k : Nat) (store : Bool) (slot : Nat) : Prop := s.turnOf k store = some slot
  ∧ ((s.getCore k).lineRc.any fun t => t.1 = (if store then 1 else 0) && t.2 = s.coreRc k) = false
  ∧ trackers (s.getCore k) store < 512

/-- A plane is a skipped one of an INDEXED stream that may go on (R142). -/
abbrev skipsNow (s : State) (k : Nat) (x : Stream) (d : LsDesc) : Prop :=
  (d.indexed && planeValue x d x.plane = some (2 ^ 32 - 1)) = true ∧ s.coreIssues k ∧ ¬ x.halted ∧ x.plane < x.n
    ∧ chunkOpen x d (x.plane / d.chunk)

theorem not_skipsNow {s : State} {k xp : Nat} {x : Stream} {d : LsDesc} (hp : planeValue x d x.plane = some xp)
    (skip : d.indexed = true → xp ≠ 2 ^ 32 - 1) : ¬ s.skipsNow k x d := by
  rintro ⟨skips, -⟩
  rw [Bool.and_eq_true, decide_eq_true_eq, hp] at skips
  exact skip skips.1 (Option.some.inj skips.2)

theorem hasTurn.may {s : State} {k slot : Nat} {store : Bool} (h : s.hasTurn k store slot) :
    ¬ (s.turnOf k store ≠ some slot ∨ ((s.getCore k).lineRc.any fun t => t.1 = (if store then 1 else 0) && t.2 = s.coreRc k)
      ∨ 512 ≤ trackers (s.getCore k) store) := by
  obtain ⟨slots, once, room⟩ := h
  rintro (h | h | h)
  · exact h slots
  · exact Bool.false_ne_true (once.symm.trans h)
  · omega

section
variable {s v : State} {k slot c xp pa : Nat} {store : Bool} {x : Stream} {up : Upset}

/-- A line of a stream that is no halo and no post: its address is translated, and it is asked for, or read and sent. -/
theorem lineRequest_memory (hx : s.streamAt k store slot = some x) (hc : (s.getCore k).ctx = some c)
    (turn : s.hasTurn k store slot) (hp : planeValue x (LsDesc.of x.body) x.plane = some xp)
    (skip : (LsDesc.of x.body).indexed = true → xp ≠ 2 ^ 32 - 1) (ho : store = true → x.op < 3) : let d := LsDesc.of x.body
    let ext := nextExt x d store xp
    let ln := LsDesc.lineAt (d.rowLen (x.req = 1)) ext x.line
    0 ≤ ln.1 → (s.turned k store slot).translate c ln.1.toNat store = (.ok pa, v) → pa < 2 ^ 40 →
    let r := v.lineFor k c store slot x d ext ln pa
    s.lineRequest k store slot up = if store then v.storeStep k slot x d ext ln r up
      else v.lineLeaves k false slot x r (stepLine x d (LsDesc.lineCount (d.rowLen (x.req = 1)) ext)) := by
  intro d ext ln hl ht hpa r
  have here : s.turned k store slot = s.modCore k fun y =>
    { y with lineRc := Tab.put y.lineRc (if store then 1 else 0) (s.coreRc k),
             lastSlot := Tab.put y.lastSlot (if store then 1 else 0) slot } := rfl
  have noPost : ¬ (store = true ∧ 3 ≤ x.op) := fun ⟨h, h'⟩ => by have := ho h; omega
  have near : ¬ (store = true ∧ 2 ^ 40 ≤ pa ∧ v.gateFull k = true) := by omega
  unfold lineRequest
  rw [hx, hc]
  dsimp only
  rw [if_neg (not_skipsNow hp skip), if_neg turn.may, hp]
  dsimp only
  rw [if_neg noPost, if_neg (not_lt.2 hl), ← here, ht]
  dsimp only
  rw [if_neg near]

/-- A line of a halo or a post. -/
theorem lineRequest_post (hx : s.streamAt k true slot = some x) (hc : (s.getCore k).ctx = some c)
    (turn : s.hasTurn k true slot) (hp : planeValue x (LsDesc.of x.body) x.plane = some xp)
    (skip : (LsDesc.of x.body).indexed = true → xp ≠ 2 ^ 32 - 1) (ho : 3 ≤ x.op) : let d := LsDesc.of x.body
    let ext := nextExt x d true xp
    let ln := LsDesc.lineAt (d.rowLen (x.req = 1)) ext x.line
    s.lineRequest k true slot up = (s.turned k true slot).postStep k slot x d ext ln up := by
  intro d ext ln
  unfold lineRequest
  rw [hx, hc]
  dsimp only
  rw [if_neg (not_skipsNow hp skip), if_neg turn.may, hp]
  dsimp only
  rw [if_pos ⟨rfl, ho⟩]
  rfl

/-- A skipped plane (R142). -/
theorem lineRequest_skips (hx : s.streamAt k store slot = some x) (hc : (s.getCore k).ctx = some c)
    (skips : s.skipsNow k x (LsDesc.of x.body)) :
    s.lineRequest k store slot up = s.skipPlane k store slot x (LsDesc.of x.body) := by
  unfold lineRequest
  rw [hx, hc]
  exact if_pos skips

end

/-! A request that leaves for the Basin of the core's region (R138, R148). -/

/-- A translation may add an entry to the cache of its context (R303). -/
theorem translate_eq (s : State) (c va : Nat) (write : Bool) : ∃ l, (s.translate c va write).2 = { s with ctx := l } := by
  unfold translate
  split
  · exact ⟨s.ctx, rfl⟩
  · split
    · split
      · exact ⟨s.ctx, rfl⟩
      · exact ⟨s.ctx, rfl⟩
    · split
      · exact ⟨_, rfl⟩
      · exact ⟨s.ctx, rfl⟩

theorem memRequest_local {s : State} {r : LineReq} (h : r.pa < 2 ^ 40) : s.memRequest r
    = s.inject (.line r) (.mem r.core) (.basin r.region) 2 (if r.store then flitsOf r.len else 1) :=
  if_neg (by omega)

end State

/-- A core without its streams and the writes that await their acknowledgement. -/
def Core.sansLines (x : Core) : Core := { x with loads := [], stores := [], acks := [] }

namespace State

section
variable {s : State} {k slot : Nat} {store : Bool} {x : Stream} {r : LineReq}

theorem setStream_within (s : State) (k : Nat) (store : Bool) (slot : Nat) (x : Stream) :
    Within k Core.sansLines (fun _ => True) s (s.setStream k store slot x) :=
  Within.refl.modCore fun y => by cases store <;> rfl

theorem acks_setStream (s : State) (k : Nat) (store : Bool) (slot : Nat) (x : Stream) :
    ((s.setStream k store slot x).getCore k).acks = (s.getCore k).acks := by
  rw [setStream, getCore_modCore_self]
  cases store <;> rfl

/-- What waits for the acknowledgement of a line that leaves: a store's. -/
def lineAwaited (s : State) (k : Nat) (store : Bool) (r : LineReq) : State :=
  if store then s.numbered.modCore k fun y => { y with acks := y.acks ++ [r.id] } else s.numbered

theorem lineAwaited_within (s : State) (k : Nat) (store : Bool) (r : LineReq) :
    Within k Core.sansLines (fun _ => True) s (s.lineAwaited k store r) :=
  .ite ((numbered_within s).modCore fun _ => rfl) (numbered_within s)

theorem lineAwaited_net (s : State) (k : Nat) (store : Bool) (r : LineReq) : netSame s (s.lineAwaited k store r) := by
  cases store <;> exact ⟨rfl, rfl⟩

theorem acks_lineAwaited (s : State) (k : Nat) (store : Bool) (r : LineReq) : ((s.lineAwaited k store r).getCore k).acks
    = if store then (s.getCore k).acks ++ [r.id] else (s.getCore k).acks := by
  cases store with
  | false => rfl
  | true => exact congrArg Core.acks (getCore_modCore_self s.numbered k fun y => { y with acks := y.acks ++ [r.id] })

/-- A line that leaves for the Basin: its packet, and the place after it with one line more outstanding. -/
theorem lineLeaves_local (x next : Stream) (hp : r.pa < 2 ^ 40) (hk : r.core = k) (hs : r.store = store) :
    let t := s.lineLeaves k store slot x r next
    Machine.sends (.line r) (.mem k) (.basin r.region) 2 (if store then flitsOf r.len else 1) s t
      ∧ t.streamAt k store slot = some { next with outs := Tab.put x.outs r.chunk (Tab.get 0 x.outs r.chunk + 1) }
      ∧ (t.getCore k).acks = (if store then (s.getCore k).acks ++ [r.id] else (s.getCore k).acks)
      ∧ Within k Core.sansLines (fun _ => True) s t := by
  subst hk hs
  have awaited := lineAwaited_within s r.core r.store r
  have sent := sends_inject (lineAwaited_net s r.core r.store r) awaited.frame.clk awaited.frame.build
    (.line r) (.mem r.core) (.basin r.region) 2 (if r.store then flitsOf r.len else 1)
  have eq : s.lineLeaves r.core r.store slot x r next = ((s.lineAwaited r.core r.store r).memRequest r).setStream r.core r.store slot
      { next with outs := Tab.put x.outs r.chunk (Tab.get 0 x.outs r.chunk + 1) } := rfl
  dsimp only
  rw [eq, memRequest_local hp, acks_setStream]
  refine ⟨sent, streamAt_setStream .., ?_, (awaited.inject ..).trans (setStream_within ..)⟩
  rw [inject, getCore_congr (injectAt_core ..) r.core, acks_lineAwaited]

end

/-! Words that a streaming port moves (R115, R122). -/

/-- What the step of a port by one word and the report of a corrected word keep, a port's transfer keeps. -/
theorem portMove_induct {P : State → State → Prop} {k : Nat} (refl : ∀ s, P s s) (trans : ∀ s t u, P s t → P t u → P s u)
    (word : ∀ s port berth a, P s (s.portWord k port berth a).2) (corrected : ∀ s, P s (s.berthCe k)) (port berth : Nat)
    (read : Bool) (up : Upset) (w a n : Nat) (s : State) : P s (portMove k port berth read up w a n s).2.2 := by
  induction w generalizing a n s with
  | zero => exact refl s
  | succ w ih =>
    unfold portMove
    dsimp only
    split
    · exact refl s
    · split
      · exact refl s
      · split
        · exact refl s
        · have step := word s port berth a
          generalize s.portWord k port berth a = moved at step
          obtain ⟨free, u⟩ := moved
          dsimp only at step ⊢
          split
          · exact step
          · refine trans _ _ _ step (trans _ _ _ ?_ (ih ..))
            split
            · exact corrected u
            · exact refl u

theorem berthCe_cores (s : State) (k : Nat) : CoresOnly s (s.berthCe k) := .logged ((raise_log ..).count _ _)

theorem portWord_cores (s : State) (k port berth a : Nat) : CoresOnly s (s.portWord k port berth a).2 := by
  unfold portWord
  extract_lets now
  split
  extract_lets used
  split
  · exact .refl s
  · split
    · exact ((CoresOnly.refl s).count _ _).modCore k fun x => { x with port := Tab.put x.port port _ }
    · exact (CoresOnly.refl s).modCore k fun x => { x with port := Tab.put x.port port _ }

/-- The count of lines that leave is no count of conflicts or corrected words. -/
theorem berthCe_lines (s : State) (k : Nat) : Within k Core.sansPort (· = cnt k 20) s (s.berthCe k) := by
  have raised : Within k Core.sansPort (· = cnt k 20) s (s.raise (coreP k) 0x101 0 none 1) :=
    (raise_within s k ..).unchanged.coarsen (fun _ _ => id) fun a ha => by
      subst ha
      unfold WorkCounter cnt coreP
      simp only [List.mem_cons, List.not_mem_nil, or_false]
      omega
  exact raised.count 1 (by unfold cnt; omega)

theorem portWord_lines (s : State) (k port berth a : Nat) :
    Within k Core.sansPort (· = cnt k 20) s (s.portWord k port berth a).2 := by
  have conflict : Within k Core.sansPort (· = cnt k 20) s (s.count (cnt k 18) 1) := Within.refl.count 1 (by unfold cnt; omega)
  unfold portWord
  extract_lets now
  split
  extract_lets used
  split
  · exact .refl
  · split
    · exact conflict.modCore (f := fun x => { x with port := Tab.put x.port port _ }) fun _ => rfl
    · exact Within.refl.modCore (f := fun x => { x with port := Tab.put x.port port _ }) fun _ => rfl

theorem portMove_cores (k port berth : Nat) (read : Bool) (up : Upset) (w a n : Nat) (s : State) :
    CoresOnly s (portMove k port berth read up w a n s).2.2 :=
  portMove_induct .refl (fun _ _ _ => .trans) (fun s => portWord_cores s k) (fun s => berthCe_cores s k) ..

theorem portMove_lines (k port berth : Nat) (read : Bool) (up : Upset) (w a n : Nat) (s : State) :
    Within k Core.sansPort (· = cnt k 20) s (portMove k port berth read up w a n s).2.2 :=
  portMove_induct (fun _ => .refl) (fun _ _ _ => .trans) (fun s => portWord_lines s k) (fun s => berthCe_lines s k) ..

section
variable {s z : State} {k slot n a : Nat} {x y : Stream} {d : LsDesc} {up : Upset} {stop : PortStop}

/-- A read of a line gives the stream the bytes that have come, and touches the port and the counters of words. -/
theorem readLine_reads (h : s.readLine k x d a n up = (y, stop, z)) : (∃ l, y = { x with part := l }) ∧ CoresOnly s z
    ∧ Within k Core.sansPort (· = cnt k 20) s z := by
  have cores := portMove_cores k (3 + d.berth) d.berth true up (wordsOf (a + x.part.length) (n - x.part.length))
    (a + x.part.length) (n - x.part.length) s
  have lines := portMove_lines k (3 + d.berth) d.berth true up (wordsOf (a + x.part.length) (n - x.part.length))
    (a + x.part.length) (n - x.part.length) s
  obtain ⟨rfl, -, rfl⟩ := h
  exact ⟨⟨_, rfl⟩, cores, lines⟩

/-! A stored line (R143). -/

/-- A store counts a line, and its digest the bytes (R362). -/
def lineCounted (s : State) (k a : Nat) (l : List Byte) : State := (s.count (cnt k 20) 1).digestWrite k a l

/-- A line that is whole leaves. -/
theorem storeStep_whole {ext : Int} {ln : Int × Nat} {r : LineReq} (h : s.readLine k x d r.baddr ln.2 up = (y, .none, z)) :
    s.storeStep k slot x d ext ln r up = (z.lineCounted k ln.1.toNat y.part).lineLeaves k true slot y
      { r with data := y.part, len := y.part.length } (stepLine y d (LsDesc.lineCount (d.rowLen (y.req = 1)) ext)) := by
  unfold storeStep
  rw [h]
  rfl

theorem netSame_lineCounted (s : State) (k a : Nat) (l : List Byte) : netSame s (s.lineCounted k a l) :=
  ((LogOnly.refl s).count _ _).netSame

theorem rd_lineCounted (s : State) (k a : Nat) (l : List Byte) : (s.lineCounted k a l).rd (cnt k 20) = satAdd (s.rd (cnt k 20)) 1 :=
  rd_count ..

/-! A posted line (R150). -/

/-- The whole line of a post leaves over the mesh. -/
theorem postLine_whole (t berth : Nat) (hl : y.link = false) (hs : y.sent = 0) (hy : y.part.length = n) (hn : n ≠ 0) :
    z.postLine k t berth a n false y
      = ({ y with sent := n }, (z.digestWrite k a y.part).send k t false (.words berth a y.part)) := by
  subst hy
  unfold postLine
  simp [hl, hs, hn]

theorem postStep_whole {ext : Int} {ln : Int × Nat} {tgt : Nat} (ht : x.target = some tgt) (ho : x.op = 4) (hlink : x.link = false)
    (h : s.readLine k x d (d.berthAt (x.req = 1) x.p0 x.plane x.row + (ln.1 - ext)).toNat ln.2 up = (y, .none, z))
    (hs : y.sent = 0) (hy : y.part.length = ln.2) (hn : ln.2 ≠ 0) :
    s.postStep k slot x d ext ln up
      = ((((z.digestWrite k ln.1.toNat y.part).send k tgt false (.words (d.xaddr / 2 ^ 32 % 4) ln.1.toNat y.part)).count
          (cnt k 20) 1).setStream k true slot
          (stepLine { y with sent := ln.2 } d (LsDesc.lineCount (d.rowLen (y.req = 1)) ext))) := by
  obtain ⟨⟨l, same⟩, -⟩ := readLine_reads h
  have link : y.link = false := by rw [same]; exact hlink
  have whole := postLine_whole (z := z) (k := k) (a := ln.1.toNat) tgt (d.xaddr / 2 ^ 32 % 4) link hs hy hn
  unfold postStep
  rw [ht]
  dsimp only
  rw [h, if_pos ho]
  dsimp only
  rw [whole]
  dsimp only
  rw [if_neg Bool.false_ne_true, if_neg (Nat.lt_irrefl _)]

end

end State

/-! What a step of a stream leaves alone. -/

/-- The Channel, the berths of core `k` and what its engines never touch are the same. -/
structure Quiet (k : Nat) (s t : State) : Prop where
  net : netSame s t
  berths : (t.getCore k).berths = (s.getCore k).berths
  frame : coreFrame k s t

namespace Quiet
variable {k : Nat} {s t u : State}

theorem refl (s : State) : Quiet k s s := ⟨.refl s, rfl, .refl k s⟩

theorem trans (h : Quiet k s t) (h' : Quiet k t u) : Quiet k s u :=
  ⟨h.net.trans h'.net, h'.berths.trans h.berths, h.frame.trans h'.frame⟩

theorem modCore (h : Quiet k s t) {f : Core → Core} (hf : (f (t.getCore k)).berths = (t.getCore k).berths) :
    Quiet k s (t.modCore k f) :=
  h.trans ⟨⟨rfl, rfl⟩, by rw [State.getCore_modCore_self, hf], (coreFrame.refl k t).modCore f⟩

theorem setStream (h : Quiet k s t) (store : Bool) (slot : Nat) (x : Stream) : Quiet k s (t.setStream k store slot x) :=
  h.modCore (State.slotsOf_setSlots ..).1

theorem berthWrite (h : Quiet k s t) (b a : Nat) (l : List Byte) : Quiet k s (t.berthWrite k b a l) :=
  h.trans ⟨⟨rfl, rfl⟩, by rw [State.getCore_berthWrite]; rfl, State.frame_berthWrite (.refl k t) b a l⟩

theorem ite {c : Prop} [Decidable c] (h : Quiet k s t) (h' : Quiet k s u) : Quiet k s (if c then t else u) := by
  split <;> assumption

end Quiet

namespace State

/-- A core fault leaves the Channel alone. -/
theorem netSame_coreFault (s : State) (k code : Nat) (info : Word) (r68 : Bool) : netSame s (s.coreFault k code info r68) := by
  unfold coreFault
  generalize s.coreFaultOutcome k code r68 = o
  obtain ⟨c, out⟩ := o
  dsimp -zeta only
  extract_lets s1 s2 upd s3
  have h2 : netSame s s2 := (raise_log ..).netSame.trans ⟨rfl, rfl⟩
  have h3 : netSame s s3 := by
    unfold s3
    split
    · exact h2
    · exact h2
  split
  · exact h3
  · next c =>
    split
    · exact h3.trans ⟨loseCtx_keeps (π := fun t => t.net) (fun _ _ _ => rfl) (fun _ _ _ => rfl) (fun _ _ _ => rfl) ..,
        loseCtx_keeps (π := fun t => t.nextPkt) (fun _ _ _ => rfl) (fun _ _ _ => rfl) (fun _ _ _ => rfl) ..⟩
    · split
      · exact h3
      · exact h3

theorem quiet_coreFault (s : State) (k code : Nat) (info : Word) (r68 : Bool) : Quiet k s (s.coreFault k code info r68) := by
  have within := coreFault_within s k code info r68
  exact ⟨netSame_coreFault .., (Core.works_of_sansFault within.core).2.2, within.frame⟩

theorem quiet_portMove (k port berth : Nat) (read : Bool) (up : Upset) (w a n : Nat) (s : State) :
    Quiet k s (portMove k port berth read up w a n s).2.2 := by
  have lines := portMove_lines k port berth read up w a n s
  have berths := congrArg Core.berths lines.core
  exact ⟨(portMove_cores ..).netSame, berths, lines.frame⟩

/-! A skipped plane (R142). -/

theorem quiet_wordFault (s : State) (k : Nat) (store : Bool) (slot berth : Nat) (x : Stream) (stop : PortStop) :
    Quiet k s (s.wordFault k store slot berth x stop) := by
  have halted := (Quiet.refl (k := k) s).setStream store slot { x with halted := true, cause := 2 }
  cases stop with
  | gated g => exact halted.trans (quiet_coreFault ..)
  | bad a => exact halted.trans (quiet_coreFault ..)
  | none => exact .refl s
  | waits => exact .refl s

/-- The zeros of a skipped plane land with the end of the cycle; nothing leaves. -/
theorem quiet_zeroStep (s : State) (k slot : Nat) (x : Stream) (d : LsDesc) : Quiet k s (s.zeroStep k slot x d) := by
  unfold zeroStep
  split
  · exact (Quiet.refl s).setStream ..
  · next a n l _ =>
    have moved := quiet_portMove k d.berth d.berth false .none (wordsOf a n) a n s
    generalize portMove k d.berth d.berth false .none (wordsOf a n) a n s = r at moved
    obtain ⟨m, stop, u⟩ := r
    have zeroed := Quiet.berthWrite moved d.berth a (List.replicate m 0)
    dsimp only at zeroed ⊢
    split
    · exact zeroed.setStream ..
    · exact zeroed.setStream ..
    · exact zeroed.trans (quiet_wordFault ..)

theorem quiet_skipPlane (s : State) (k : Nat) (store : Bool) (slot : Nat) (x : Stream) (d : LsDesc) :
    Quiet k s (s.skipPlane k store slot x d) :=
  .ite ((Quiet.refl s).setStream ..) (quiet_zeroStep ..)

/-! Index words (R142). -/

section
variable {s v : State} {k c j slot pa : Nat} {store : Bool} {x : Stream} {up : Upset}

/-- A word of AB without a double-bit error has none where it is read. -/
theorem wordUpset_clean (hup : ∀ b w, up ≠ .berthUe b w) (b a n : Nat) (read : Bool) : (wordUpset up b a n read).1 = none := by
  cases up with
  | berthUe b w => exact absurd rfl (hup b w)
  | _ => rfl

/-- An index value in its limit is taken into the stream. -/
theorem putIndex_taken {w : Nat} (hv : w = 2 ^ 32 - 1 ∨ w < (LsDesc.of x.body).idxLimit) : s.putIndex k store slot x j w
    = s.setStream k store slot { x with index := Tab.put x.index j w, indexAsked := x.indexAsked.filter (· ≠ j) } :=
  if_neg (by omega)

/-- A request for the index word of plane `j`, at its translated address. -/
def indexFor (v : State) (k c : Nat) (store : Bool) (slot : Nat) (x : Stream) (j pa : Nat) : LineReq :=
  { id := v.nextId, core := k, store := false, slot := slot + (if store then 4 else 0), stream := x.stream, chunk := j,
    what := 1, ctx := c, epoch := v.epoch c, pa := pa, len := 4, region := v.regionOf k }

variable (hx : s.streamAt k store slot = some x) (hc : (s.getCore k).ctx = some c) (hd : (LsDesc.of x.body).indexed = true)
  (hh : x.halted = false) (hi : s.coreIssues k = true)
  (hj : (((List.range (x.n - x.plane)).map (· + x.plane)).find? fun j =>
    (planeValue x (LsDesc.of x.body) j).isNone && !x.indexAsked.contains j) = some j)
include hx hc hd hh hi hj

/-- The next index word is read from AB. -/
theorem indexWord_ab (hm : (LsDesc.of x.body).idxMem = false)
    (hz : (LsDesc.of x.body).idxAddr + 4 * (x.p0 + j) + 4 ≤ s.build.berthBytes 1)
    (hg : s.gatedAt k 1 ((LsDesc.of x.body).idxAddr + 4 * (x.p0 + j)) 4 = none) (hup : ∀ b w, up ≠ .berthUe b w) :
    let a := (LsDesc.of x.body).idxAddr + 4 * (x.p0 + j)
    let u := if (wordUpset up 1 a 4 true).2 then s.berthCe k else s
    s.indexWord k store slot up = u.putIndex k store slot x j (leNat (u.berthRead k 1 a 4)) := by
  intro a u
  have noError := wordUpset_clean hup 1 a 4 true
  unfold indexWord
  rw [hx, hc]
  dsimp only
  rw [if_neg (by simp [hd, hh, hi]), hj]
  dsimp only
  rw [if_pos (by simp [hm]), if_neg (by omega), hg, noError]

/-- It is asked for in memory. -/
theorem indexWord_memory (hm : (LsDesc.of x.body).idxMem = true) (hr : trackers (s.getCore k) store < 512)
    (ht : s.translate c ((LsDesc.of x.body).idxAddr + 4 * (x.p0 + j)) false = (.ok pa, v)) :
    s.indexWord k store slot up
      = (v.numbered.setStream k store slot { x with indexAsked := x.indexAsked ++ [j] }).memRequest
          (v.indexFor k c store slot x j pa) := by
  unfold indexWord
  rw [hx, hc]
  dsimp only
  rw [if_neg (by simp [hd, hh, hi]), hj]
  dsimp only
  rw [if_neg (by simp [hm]), if_neg (by omega), ht]
  rfl

end

/-! What the steps send and leave. -/

/-- A message depends on the clocks, the build and the number of its core in its context. -/
theorem msgTo_congr {s t : State} {k : Nat} (frame : coreFrame k s t) (hm : (t.getCore k).mindex = (s.getCore k).mindex) (tgt : Nat)
    (link : Bool) (m : MsgKind) : t.msgTo k tgt link m = s.msgTo k tgt link m := by
  simp only [msgTo, coreRc, rcOf, State.regionOf, instant, linkDelay, hm, frame.clk, frame.build]
  rfl

end State

/-- A packet that enters the mesh of a state enters that of one before it with the same mesh. -/
theorem sends.after {k : Nat} {load : Load} {src dst : Port} {vc len : Nat} {s u t : State} (h : sends load src dst vc len u t)
    (net : netSame s u) (frame : coreFrame k s u) : sends load src dst vc len s t := by
  obtain ⟨hn, hp⟩ := h
  exact ⟨hn.trans (State.injectAt_net_congr net frame.clk frame.build ..), hp.trans (congrArg (· + 1) net.2)⟩

/-- What follows a packet leaves the mesh as it is. -/
theorem sends.before {load : Load} {src dst : Port} {vc len : Nat} {s t u : State} (h : sends load src dst vc len s t)
    (net : netSame t u) : sends load src dst vc len s u := ⟨net.1.trans h.1, net.2.trans h.2⟩

/-- A core without the marks of its engines' requests, what its ports have moved, the digest and the posted messages. -/
def Core.sansTurn (x : Core) : Core := { x with lineRc := [], lastSlot := [], port := [], digest := 0, posted := [] }

/-- The marks of requests are no streams, no writes that await their acknowledgement and no berths. -/
theorem Core.lines_of_sansTurn {x y : Core} (h : x.sansTurn = y.sansTurn) :
    x.acks = y.acks ∧ x.mindex = y.mindex ∧ x.berths = y.berths := by
  have acks := congrArg Core.acks h
  have mindex := congrArg Core.mindex h
  have berths := congrArg Core.berths h
  exact ⟨acks, mindex, berths⟩

theorem Core.berths_of_sansLines {x y : Core} (h : x.sansLines = y.sansLines) : x.berths = y.berths := by
  have berths := congrArg Core.berths h
  exact berths

namespace State

theorem streamAt_inject (s : State) (load : Load) (src dst : Port) (vc len k : Nat) (store : Bool) (slot : Nat) :
    (s.inject load src dst vc len).streamAt k store slot = s.streamAt k store slot := by
  rw [inject, injectAt_eq]
  rfl

theorem rd_send (s : State) (k t : Nat) (m : MsgKind) (a : Nat) : (s.send k t false m).rd a = s.rd a := by
  rw [send_mesh, rd_modCore, sendMsg, inject, injectAt_eq]
  rfl

/-- What has come before a line leaves: the Channel is as it was, and the core but for the marks of requests. -/
structure Prepared (k : Nat) (s t : State) : Prop where
  net : netSame s t
  within : Within k Core.sansTurn (· = cnt k 20) s t

namespace Prepared
variable {k : Nat} {s t u : State}

theorem trans (h : Prepared k s t) (h' : Prepared k t u) : Prepared k s u := ⟨h.net.trans h'.net, h.within.trans h'.within⟩

theorem turned (s : State) (k : Nat) (store : Bool) (slot : Nat) : Prepared k s (s.turned k store slot) :=
  ⟨⟨rfl, rfl⟩, Within.refl.modCore fun _ => rfl⟩

theorem translated {c va : Nat} {write : Bool} {r : Trans} (h : s.translate c va write = (r, t)) : Prepared k s t := by
  obtain ⟨l, eq⟩ := translate_eq s c va write
  rw [h] at eq
  dsimp only at eq
  subst eq
  exact ⟨⟨rfl, rfl⟩, .refl k s, rfl, fun _ _ => rfl⟩

theorem read {x y : Stream} {d : LsDesc} {a n : Nat} {up : Upset} {stop : PortStop}
    (h : s.readLine k x d a n up = (y, stop, t)) : Prepared k s t := by
  obtain ⟨-, cores, lines⟩ := readLine_reads h
  exact ⟨cores.netSame, lines.coarsen (fun _ _ => congrArg Core.sansTurn) fun _ => id⟩

end Prepared

section
variable {s : State} {k slot c xp : Nat} {store : Bool} {x : Stream} {up : Upset}

/-- A translated line of a load or a stored line that has been read leaves the state `u`. -/
theorem lineLeaves_after {u : State} {r : LineReq} {y next : Stream} (before : netSame s u ∧ coreFrame k s u)
    (berths : (u.getCore k).berths = (s.getCore k).berths) (hp : r.pa < 2 ^ 40) (hk : r.core = k) (hs : r.store = store) :
    let t := s.framed (u.lineLeaves k store slot y r next)
    Machine.sends (.line r) (.mem k) (.basin r.region) 2 (if store then flitsOf r.len else 1) s t
      ∧ t.streamAt k store slot = some { next with outs := Tab.put y.outs r.chunk (Tab.get 0 y.outs r.chunk + 1) }
      ∧ (t.getCore k).acks = (if store then (u.getCore k).acks ++ [r.id] else (u.getCore k).acks)
      ∧ (∀ a, t.rd a = u.rd a) ∧ berthsSame k s t ∧ coreFrame k s t := by
  obtain ⟨net, frame⟩ := before
  obtain ⟨sent, placed, acks, within⟩ := lineLeaves_local (s := u) (slot := slot) y next hp hk hs
  exact ⟨sent.after net frame, placed, acks, fun a => within.regs a trivial,
    berthsSame_iff.2 ((Core.berths_of_sansLines within.core).trans berths), (frame.trans within.frame).framed⟩

end

end State

/-! The rows. -/

section
variable {s v : State} {core slot c xp pa : Nat} {x : Stream} {up : Upset} (hr : s.runs core) (hs : slot < 4)
include hr hs

theorem exec_lineRequest (store : Bool) (up : Upset) :
    exec (.lineRequest core store slot up) s = .next (s.framed (s.lineRequest core store slot up)) := by
  obtain ⟨hk, ha, hc⟩ := hr
  exact actCore_running (f := fun s => s.lineRequest core store slot up) (by simp [hk, hs]) ha hc

theorem exec_chunkWaitMet (store : Bool) :
    exec (.chunkWaitMet core store slot) s = .next (s.framed (s.chunkWait core store slot)) := by
  obtain ⟨hk, ha, hc⟩ := hr
  exact actCore_running (f := fun s => s.chunkWait core store slot) (by simp [hk, hs]) ha hc

theorem exec_indexWordRead (store : Bool) (up : Upset) :
    exec (.indexWordRead ⟨core, up⟩ store slot) s = .next (s.framed (s.indexWord core store slot up)) := by
  obtain ⟨hk, ha, hc⟩ := hr
  exact actCore_running (f := fun s => s.indexWord core store slot up) (by simp [hk, hs]) ha hc

/-- A wait that is met (R147). -/
theorem chunkWait_opens {b : Nat} {store : Bool} (hx : s.streamAt core store slot = some x)
    (hb : (LsDesc.of x.body).waitBol = some b) (hn : x.plane < x.n) (hh : x.halted = false)
    (ho : State.chunkOpen x (LsDesc.of x.body) (x.plane / (LsDesc.of x.body).chunk) = false) (hi : s.coreIssues core = true)
    (met : State.chunkThreshold (LsDesc.of x.body) (x.plane / (LsDesc.of x.body).chunk) ≤ (s.bol core b : Int)) :
    ∃ t, exec (.chunkWaitMet core store slot) s = .next t
      ∧ t.streamAt core store slot = some { x with met := x.plane / (LsDesc.of x.body).chunk + 1 }
      ∧ berthsSame core s t ∧ coreFrame core s t := by
  have after := State.chunkWait_met hx hb hn hh ho hi met
  obtain ⟨loads, stores, -, berths⟩ := State.streams_of_sansIssue after.core
  refine ⟨_, exec_chunkWaitMet hr hs store, (State.streamAt_congr loads stores ..).trans (State.streamAt_setStream ..),
    berthsSame_iff.2 (berths.trans (State.setStream_berths ..)), ?_⟩
  exact ((State.frame_setStream (.refl core s) store slot _).trans after.frame).framed

/-- A load's line (R138, R139). -/
theorem lineRequest_loads (hx : s.streamAt core false slot = some x) (hc : (s.getCore core).ctx = some c)
    (turn : s.hasTurn core false slot) (hp : State.planeValue x (LsDesc.of x.body) x.plane = some xp)
    (skip : (LsDesc.of x.body).indexed = true → xp ≠ 2 ^ 32 - 1) : let d := LsDesc.of x.body
    let ext := State.nextExt x d false xp
    let ln := LsDesc.lineAt (d.rowLen (x.req = 1)) ext x.line
    0 ≤ ln.1 → (s.turned core false slot).translate c ln.1.toNat false = (.ok pa, v) → pa < 2 ^ 40 →
    let r := v.lineFor core c false slot x d ext ln pa
    ∃ t, exec (.lineRequest core false slot up) s = .next t
      ∧ sends (.line r) (.mem core) (.basin (s.regionOf core)) 2 1 s t
      ∧ t.streamAt core false slot = some { State.stepLine x d (LsDesc.lineCount (d.rowLen (x.req = 1)) ext) with
          outs := Tab.put x.outs (x.plane / d.chunk) (Tab.get 0 x.outs (x.plane / d.chunk) + 1) }
      ∧ berthsSame core s t ∧ coreFrame core s t := by
  intro d ext ln hl ht hpa r
  have before := (State.Prepared.turned s core false slot).trans (.translated ht)
  have region : r.region = s.regionOf core := before.within.frame.regionOf core
  have row := exec_lineRequest hr hs false up
  rw [State.lineRequest_memory hx hc turn hp skip (fun h => nomatch h) hl ht hpa, if_neg Bool.false_ne_true] at row
  obtain ⟨sent, placed, -, -, berths, frame⟩ := State.lineLeaves_after (slot := slot) (r := r) (y := x)
    (next := State.stepLine x d (LsDesc.lineCount (d.rowLen (x.req = 1)) ext)) ⟨before.net, before.within.frame⟩
    (Core.lines_of_sansTurn before.within.core).2.2 hpa rfl rfl
  rw [region] at sent
  exact ⟨_, row, sent, placed, berths, frame⟩

/-- A stored line whose bytes the port has delivered (R139, R143). -/
theorem lineRequest_stores {y : Stream} {z : State} (hx : s.streamAt core true slot = some x) (hc : (s.getCore core).ctx = some c)
    (ho : x.op < 3) (turn : s.hasTurn core true slot) (hp : State.planeValue x (LsDesc.of x.body) x.plane = some xp)
    (skip : (LsDesc.of x.body).indexed = true → xp ≠ 2 ^ 32 - 1) : let d := LsDesc.of x.body
    let ext := State.nextExt x d true xp
    let ln := LsDesc.lineAt (d.rowLen (x.req = 1)) ext x.line
    0 ≤ ln.1 → (s.turned core true slot).translate c ln.1.toNat true = (.ok pa, v) → pa < 2 ^ 40 →
    let r := v.lineFor core c true slot x d ext ln pa
    v.readLine core x d r.baddr ln.2 up = (y, .none, z) →
    ∃ t, exec (.lineRequest core true slot up) s = .next t
      ∧ sends (.line { r with data := y.part, len := y.part.length }) (.mem core) (.basin (s.regionOf core)) 2
          (State.flitsOf y.part.length) s t
      ∧ t.streamAt core true slot = some { State.stepLine y d (LsDesc.lineCount (d.rowLen (x.req = 1)) ext) with
          outs := Tab.put x.outs (x.plane / d.chunk) (Tab.get 0 x.outs (x.plane / d.chunk) + 1) }
      ∧ (t.getCore core).acks = (s.getCore core).acks ++ [r.id] ∧ t.rd (cnt core 20) = satAdd (s.rd (cnt core 20)) 1
      ∧ berthsSame core s t ∧ coreFrame core s t := by
  intro d ext ln hl ht hpa r hread
  have before := ((State.Prepared.turned s core true slot).trans (.translated ht)).trans (.read hread)
  obtain ⟨⟨l, same⟩, -⟩ := State.readLine_reads hread
  have region : r.region = s.regionOf core :=
    ((State.Prepared.turned s core true slot).trans (.translated ht)).within.frame.regionOf core
  have row := exec_lineRequest hr hs true up
  rw [State.lineRequest_memory hx hc turn hp skip (fun _ => ho) hl ht hpa, if_pos rfl, State.storeStep_whole hread] at row
  have counted : Within core Core.sansTurn (fun _ => False) z (z.lineCounted core ln.1.toNat y.part) :=
    (Within.refl.count _ id).modCore (f := fun x => { x with digest := _ }) fun _ => rfl
  obtain ⟨acks, -, berths⟩ := Core.lines_of_sansTurn (counted.core.trans before.within.core)
  obtain ⟨sent, placed, acked, regs, berths, frame⟩ := State.lineLeaves_after (slot := slot) (store := true) (y := y)
    (r := { r with data := y.part, len := y.part.length }) (next := State.stepLine y d (LsDesc.lineCount (d.rowLen (y.req = 1)) ext))
    ⟨before.net.trans (State.netSame_lineCounted ..), before.within.frame.trans counted.frame⟩ berths hpa rfl rfl
  have count := (regs (cnt core 20)).trans ((State.rd_lineCounted ..).trans (congrArg (satAdd · 1) (before.within.regs _ rfl)))
  have outs : y.outs = x.outs := by rw [same]
  have req : y.req = x.req := by rw [same]
  refine ⟨_, row, region ▸ sent, placed.trans ?_, acked.trans (congrArg (· ++ [r.id]) acks), count, berths, frame⟩
  rw [req, outs]
  rfl

/-- A posted line whose bytes have been read (R149, R150). -/
theorem lineRequest_posts {tgt : Nat} {y : Stream} {z : State} (hx : s.streamAt core true slot = some x)
    (hc : (s.getCore core).ctx = some c) (ho : x.op = 4) (hlink : x.link = false) (htgt : x.target = some tgt)
    (turn : s.hasTurn core true slot) (hp : State.planeValue x (LsDesc.of x.body) x.plane = some xp)
    (skip : (LsDesc.of x.body).indexed = true → xp ≠ 2 ^ 32 - 1) : let d := LsDesc.of x.body
    let ext := State.nextExt x d true xp
    let ln := LsDesc.lineAt (d.rowLen (x.req = 1)) ext x.line
    let a := (d.berthAt (x.req = 1) x.p0 x.plane x.row + (ln.1 - ext)).toNat
    (s.turned core true slot).readLine core x d a ln.2 up = (y, .none, z) → y.part.length = ln.2 → ln.2 ≠ 0 → y.sent = 0 →
    ∃ t, exec (.lineRequest core true slot up) s = .next t
      ∧ sends (.msg tgt (s.msgTo core tgt false (.words (d.xaddr / 2 ^ 32 % 4) ln.1.toNat y.part))) (.core core) (.core tgt) 2
          (State.flitsOf y.part.length) s t
      ∧ t.streamAt core true slot = some (State.stepLine { y with sent := ln.2 } d (LsDesc.lineCount (d.rowLen (x.req = 1)) ext))
      ∧ t.rd (cnt core 20) = satAdd (s.rd (cnt core 20)) 1 ∧ berthsSame core s t ∧ coreFrame core s t := by
  intro d ext ln a hread hlen hn hsent
  have before := (State.Prepared.turned s core true slot).trans (.read hread)
  obtain ⟨⟨l, same⟩, -⟩ := State.readLine_reads hread
  have req : y.req = x.req := by rw [same]
  have row := exec_lineRequest hr hs true up
  rw [State.lineRequest_post hx hc turn hp skip (by omega), State.postStep_whole htgt ho hlink hread hsent hlen hn] at row
  rw [← req]
  have written : Within core Core.sansTurn (· = cnt core 20) z (z.digestWrite core ln.1.toNat y.part) :=
    Within.refl.modCore (f := fun x => { x with digest := _ }) fun _ => rfl
  have ready : State.Prepared core s (z.digestWrite core ln.1.toNat y.part) := before.trans ⟨⟨rfl, rfl⟩, written⟩
  obtain ⟨-, mindex, berths⟩ := Core.lines_of_sansTurn ready.within.core
  generalize z.digestWrite core ln.1.toNat y.part = w at ready mindex berths row
  have sent := State.sends_send w core tgt (.words (d.xaddr / 2 ^ 32 % 4) ln.1.toNat y.part)
  have left := State.send_within w core tgt (.words (d.xaddr / 2 ^ 32 % 4) ln.1.toNat y.part)
  have kept (a : Nat) := State.rd_send w core tgt (.words (d.xaddr / 2 ^ 32 % 4) ln.1.toNat y.part) a
  rw [State.msgTo_congr ready.within.frame mindex] at sent
  generalize w.send core tgt false (.words (d.xaddr / 2 ^ 32 % 4) ln.1.toNat y.part) = v at sent left kept row
  have counted : Quiet core v (v.count (cnt core 20) 1) :=
    ⟨((State.LogOnly.refl v).count _ _).netSame, congrArg Core.berths (State.getCore_count ..), State.frame_count (.refl core v) _ _⟩
  have placed := counted.setStream true slot
    (State.stepLine { y with sent := ln.2 } d (LsDesc.lineCount (d.rowLen (y.req = 1)) ext))
  refine ⟨_, row, (sent.after ready.net ready.within.frame).before placed.net, State.streamAt_setStream .., ?_,
    berthsSame_iff.2 (placed.berths.trans ((State.berths_of_sansSync left.core).trans berths)),
    (ready.within.frame.trans (left.frame.trans placed.frame)).framed⟩
  have count : (v.count (cnt core 20) 1).rd (cnt core 20) = satAdd (v.rd (cnt core 20)) 1 := State.rd_count ..
  rw [kept, ready.within.regs _ rfl] at count
  exact count

/-- A plane that is skipped (R142). -/
theorem lineRequest_skipped {store : Bool} (hx : s.streamAt core store slot = some x) (hc : (s.getCore core).ctx = some c)
    (skips : s.skipsNow core x (LsDesc.of x.body)) :
    ∃ t, exec (.lineRequest core store slot up) s = .next t ∧ netSame s t ∧ berthsSame core s t
      ∧ (store = true → t.streamAt core store slot = some (State.stepPlane x (LsDesc.of x.body))) ∧ coreFrame core s t := by
  have row := exec_lineRequest hr hs store up
  rw [State.lineRequest_skips hx hc skips] at row
  have quiet := State.quiet_skipPlane s core store slot x (LsDesc.of x.body)
  refine ⟨_, row, quiet.net, berthsSame_iff.2 quiet.berths, fun h => ?_, quiet.frame.framed⟩
  subst h
  exact State.streamAt_setStream ..

section
variable {j : Nat} {store : Bool} (hx : s.streamAt core store slot = some x) (hc : (s.getCore core).ctx = some c)
  (hd : (LsDesc.of x.body).indexed = true) (hh : x.halted = false) (hi : s.coreIssues core = true)
  (hj : (((List.range (x.n - x.plane)).map (· + x.plane)).find? fun j =>
    (State.planeValue x (LsDesc.of x.body) j).isNone && !x.indexAsked.contains j) = some j)
include hx hc hd hh hi hj

/-- An index word in AB (R142). -/
theorem indexWord_reads (hm : (LsDesc.of x.body).idxMem = false)
    (hz : (LsDesc.of x.body).idxAddr + 4 * (x.p0 + j) + 4 ≤ s.build.berthBytes 1)
    (hg : s.gatedAt core 1 ((LsDesc.of x.body).idxAddr + 4 * (x.p0 + j)) 4 = none) (hup : ∀ b w, up ≠ .berthUe b w)
    (hv : leNat (s.berthRead core 1 ((LsDesc.of x.body).idxAddr + 4 * (x.p0 + j)) 4) = 2 ^ 32 - 1
      ∨ leNat (s.berthRead core 1 ((LsDesc.of x.body).idxAddr + 4 * (x.p0 + j)) 4) < (LsDesc.of x.body).idxLimit) :
    ∃ t y, exec (.indexWordRead ⟨core, up⟩ store slot) s = .next t ∧ t.streamAt core store slot = some y
      ∧ Tab.get 0 y.index j = leNat (s.berthRead core 1 ((LsDesc.of x.body).idxAddr + 4 * (x.p0 + j)) 4) ∧ y.plane = x.plane
      ∧ berthsSame core s t ∧ coreFrame core s t := by
  have row := exec_indexWordRead hr hs store up
  rw [State.indexWord_ab hx hc hd hh hi hj hm hz hg hup] at row
  have corrected : Quiet core s (s.berthCe core) := by
    have within := State.berthCe_within s core
    exact ⟨(State.berthCe_cores s core).netSame, congrArg Core.berths within.core, within.frame⟩
  have word : ∀ a, (s.berthCe core).berthRead core 1 a 4 = s.berthRead core 1 a 4 := fun a => by
    rw [State.berthRead, State.berthRead, show (s.berthCe core).getCore core = s.getCore core from (State.berthCe_within s core).core]
  have quiet : Quiet core s (if (State.wordUpset up 1 ((LsDesc.of x.body).idxAddr + 4 * (x.p0 + j)) 4 true).2
      then s.berthCe core else s) := corrected.ite (.refl s)
  have same : (if (State.wordUpset up 1 ((LsDesc.of x.body).idxAddr + 4 * (x.p0 + j)) 4 true).2 then s.berthCe core
      else s).berthRead core 1 ((LsDesc.of x.body).idxAddr + 4 * (x.p0 + j)) 4
      = s.berthRead core 1 ((LsDesc.of x.body).idxAddr + 4 * (x.p0 + j)) 4 := by
    split
    · exact word _
    · rfl
  rw [same, State.putIndex_taken hv] at row
  have placed := quiet.setStream store slot { x with
    index := Tab.put x.index j (leNat (s.berthRead core 1 ((LsDesc.of x.body).idxAddr + 4 * (x.p0 + j)) 4)),
    indexAsked := x.indexAsked.filter (· ≠ j) }
  exact ⟨_, _, row, State.streamAt_setStream .., Tab.get_put_self .., rfl, berthsSame_iff.2 placed.berths, placed.frame.framed⟩

/-- An index word in memory (R142). -/
theorem indexWord_asks (hm : (LsDesc.of x.body).idxMem = true) (ht : State.trackers (s.getCore core) store < 512)
    (hv : s.translate c ((LsDesc.of x.body).idxAddr + 4 * (x.p0 + j)) false = (.ok pa, v)) (hpa : pa < 2 ^ 40) :
    ∃ t r, exec (.indexWordRead ⟨core, up⟩ store slot) s = .next t
      ∧ sends (.line r) (.mem core) (.basin (s.regionOf core)) 2 1 s t ∧ r.pa = pa ∧ r.len = 4 ∧ r.core = core
      ∧ r.store = false ∧ r.ctx = c ∧ r.hint = 0 ∧ r.what = 1 ∧ r.chunk = j
      ∧ t.streamAt core store slot = some { x with indexAsked := x.indexAsked ++ [j] }
      ∧ berthsSame core s t ∧ coreFrame core s t := by
  have row := exec_indexWordRead hr hs store up
  have before : State.Prepared core s v := .translated hv
  have region : (v.indexFor core c store slot x j pa).region = s.regionOf core :=
    before.within.frame.regionOf core
  rw [State.indexWord_memory hx hc hd hh hi hj hm ht hv, State.memRequest_local hpa, region] at row
  have numbered : Quiet core v v.numbered := ⟨⟨rfl, rfl⟩, rfl, (State.numbered_within (e := id) (R := fun _ => True) v).frame⟩
  have placed := numbered.setStream store slot { x with indexAsked := x.indexAsked ++ [j] }
  have stream := State.streamAt_setStream v.numbered core store slot { x with indexAsked := x.indexAsked ++ [j] }
  generalize v.numbered.setStream core store slot { x with indexAsked := x.indexAsked ++ [j] } = w at placed stream row
  have frame := before.within.frame.trans placed.frame
  have left := State.sends_inject (before.net.trans placed.net) frame.clk frame.build
    (.line (v.indexFor core c store slot x j pa)) (.mem core) (.basin (s.regionOf core)) 2 1
  have sent : Within core id (fun _ => False) w (w.inject (.line (v.indexFor core c store slot x j pa)) (.mem core)
    (.basin (s.regionOf core)) 2 1) := Within.refl.inject ..
  refine ⟨_, _, row, left, rfl, rfl, rfl, rfl, rfl, rfl, rfl, rfl, (State.streamAt_inject ..).trans stream,
    berthsSame_iff.2 ?_, (frame.trans sent.frame).framed⟩
  exact (congrArg Core.berths sent.core).trans (placed.berths.trans (Core.lines_of_sansTurn before.within.core).2.2)

end

end

/-- Settles O19, step by step: what a step makes ready leaves the Channel alone, and the packet leaves behind it. -/
theorem streamMovesOn : Obligations.StreamMovesOn := by
  intro core slot s x up hr hs
  refine ⟨fun store b hx hb hn hh ho hi => ⟨chunkWait_opens hr hs hx hb hn hh ho hi, fun low => ?_⟩,
    fun store c xp pa v hx hc hop turn hp skip hl ht hpa => ⟨fun h => ?_, fun y z h hread => ?_⟩,
    fun c xp tgt y z hx hc ho hlink htgt _ turn hp skip hread hlen hn hsent =>
      lineRequest_posts hr hs hx hc ho hlink htgt turn hp skip hread hlen hn hsent,
    fun store c hx hc hd hp hi hh hn hopen => lineRequest_skipped hr hs hx hc ⟨by simp [hd, hp], hi, by simp [hh], hn, hopen⟩,
    fun store c j hx hc hd hh hi hj => ⟨fun hm hz hg hup hv => indexWord_reads hr hs hx hc hd hh hi hj hm hz hg hup hv,
      fun pa v hm ht hv hpa => indexWord_asks hr hs hx hc hd hh hi hj hm ht hv hpa⟩⟩
  · rw [exec_chunkWaitMet hr hs, State.chunkWait_unmet hx hb hn hh ho low, State.framed_self]
  · subst h
    obtain ⟨t, row, sent, rest⟩ := lineRequest_loads (up := up) hr hs hx hc turn hp skip hl ht hpa
    exact ⟨t, row, sent, rfl, rfl, rfl, rfl, rfl, rfl, rfl, rest⟩
  · subst h
    obtain ⟨t, row, sent, rest⟩ := lineRequest_stores hr hs hx hc (hop rfl) turn hp skip hl ht hpa hread
    exact ⟨t, row, sent, rfl, rfl, rfl, rfl, rfl, rfl, rest⟩

end Sys2Proof.Machine
end
